-- ==== Sys2Proof/Word.lean ====
section
/-! DEFINITION. The word types of the EX8160 and the sparse tables its state is made of. Bit vectors hold what the
specification treats as bits (registers, lines, codewords, addresses while they are computed); numbers of frames, pages,
lines, rings and requests are natural numbers. -/

namespace Sys2Proof

/-- A register word (R13). -/
abbrev Word := BitVec 32
/-- A byte (R10). -/
abbrev Byte := BitVec 8
/-- The 64 data bytes of a line, byte `i` in bits [8i+7:8i] (R10, R15). -/
abbrev Line := BitVec 512
/-- The 80 symbols of a codeword, symbol `k` in bits [8k+7:8k] (R313). -/
abbrev Codeword := BitVec 640
/-- A symbol error pattern: positions 0-79 and the value XORed into each (environment of a DRAM read). -/
abbrev SymErr := List (Nat × Byte)

/-- A sparse table: entries by rising key; a key that is not listed holds the table's default. -/
abbrev Tbl (α : Type) := List (Nat × α)

namespace Tbl
variable {α : Type}

/-- The entry of a key, when it is listed. -/
def find? : Tbl α → Nat → Option α
  | [], _ => none
  | (i, a) :: t, k => if i = k then some a else find? t k

/-- The value of a key, `d` where it is not listed. -/
def get (t : Tbl α) (d : α) (k : Nat) : α := (t.find? k).getD d

/-- Remove a key. -/
def erase (t : Tbl α) (k : Nat) : Tbl α := t.filter (fun p => p.1 != k)

/-- List a key with a value, in rising order. -/
def insert : Tbl α → Nat → α → Tbl α
  | [], k, v => [(k, v)]
  | (i, a) :: t, k, v =>
    if i = k then (k, v) :: t else if k < i then (k, v) :: (i, a) :: t else (i, a) :: insert t k v

/-- Set a key; a value equal to the default leaves the key unlisted. -/
def set [DecidableEq α] (t : Tbl α) (d : α) (k : Nat) (v : α) : Tbl α :=
  if v = d then t.erase k else t.insert k v

end Tbl

/-- Bits [hi:lo] of a word as a number. -/
def fld {w : Nat} (x : BitVec w) (hi lo : Nat) : Nat := (x.toNat >>> lo) % 2 ^ (hi + 1 - lo)

/-- A number placed at bit `lo` of a word. -/
def put (v lo : Nat) : Word := BitVec.ofNat 32 (v <<< lo)

/-- A Boolean as bit `lo` of a word. -/
def putB (b : Bool) (lo : Nat) : Word := if b then put 1 lo else 0#32

/-- Byte `i` of a bit vector (R10: byte 0 holds bits [7:0]). -/
def byteAt {w : Nat} (x : BitVec w) (i : Nat) : Byte := x.extractLsb' (8 * i) 8

/-- The first `n` bytes of a bit vector. -/
def bytesOf {w : Nat} (x : BitVec w) (n : Nat) : List Byte := (List.range n).map (byteAt x)

/-- A little-endian number from bytes (R10). -/
def natOfBytes : List Byte → Nat
  | [] => 0
  | b :: t => b.toNat + 256 * natOfBytes t

/-- `n` little-endian bytes of a number (R10). -/
def bytesOfNat (v n : Nat) : List Byte := (List.range n).map (fun i => BitVec.ofNat 8 (v >>> (8 * i)))

/-- A bit vector from little-endian bytes. -/
def ofBytes (w : Nat) (l : List Byte) : BitVec w := BitVec.ofNat w (natOfBytes l)

end Sys2Proof
end

