-- ==== Sys2Proof/Syntax.lean ====
section
/-! DEFINITION. The commands the block takes: one constructor per row of spec/opcode_table.json, with the operands the row's
rule needs. What the outside decides (symbols in error on a DRAM read, a temperature, which candidate DRAM timing allows) is
an operand; what the part decides is not. -/

namespace Sys2Proof

/-- MetaValue of a CXL.mem request: I, A or S (R114). -/
inductive Meta where
  | i | a | s
  deriving DecidableEq, Repr

/-- What a MemRd asks of the metadata: a MetaValue, or Meta No-Op (R114). -/
inductive MetaRd where
  | val (m : Meta)
  | noOp
  deriving DecidableEq, Repr

/-- What the SRAM of the line's slice does at this access (R110, R118): the environment of a request. -/
inductive SramErr where
  | none | lcCorr | lcUncorr | sfUncorr
  deriving DecidableEq, Repr

/-- A snoop response BIRspI, BIRspS or BIRspE (R114). -/
inductive SnpRsp where
  | i | s | e
  deriving DecidableEq, Repr

/-- The AtomicOps of R128 and R129. -/
inductive AtomicKind where
  | fetchAdd | swap | cas
  deriving DecidableEq, Repr

/-- An AtomicOp: operand size in bytes and its operands (`op2` is the swap value of CAS). -/
structure Atomic where
  kind : AtomicKind
  bytes : Nat
  op1 : BitVec 128
  op2 : BitVec 128
  deriving DecidableEq, Repr

/-- What a drop finds only in the link's own buffers (R66): writes and tally records partly received, and lines written in
skid mode whose covering MAC had not been verified. -/
structure DropEnv where
  partialWrites : Nat
  partialRecords : Nat
  skid : List Nat
  deriving DecidableEq, Repr

/-- The path of a register access (R74, R523). -/
inductive Path where
  | mgmt
  | head (h : Fin 8)
  deriving DecidableEq, Repr

/-- What an access addresses (R46, R58): the Control BAR, the Head BAR, the component and device registers of BAR2/3, or the function's
configuration space. -/
inductive Bar where
  | control | head | component | config
  deriving DecidableEq, Repr

/-- A PCIe write request to a register BAR (R522): first DW offset, DWs with byte enables, and the EP bit. -/
structure WriteReq where
  path : Path
  bar : Bar
  off : BitVec 26
  dws : List (Word × BitVec 4)
  ep : Bool
  deriving DecidableEq, Repr

/-- A PCIe read request to a register BAR (R522). -/
structure ReadReq where
  path : Path
  bar : Bar
  off : BitVec 26
  dws : Nat
  deriving DecidableEq, Repr

/-- Work for the churn array (R213): a descriptor job, an in-line wedge decode, a page move. -/
inductive Work where
  | job (id : Nat)
  | decode (page : Nat) (wedge : Fin 8)
  | move (page : Nat)
  deriving DecidableEq, Repr

/-- PRG Response codes (R234). -/
inductive PrgCode where
  | success | invalid | failure
  deriving DecidableEq, Repr

/-- Why no command could be issued in a slot, as DRAM timing has it (R511 rows 4-6). -/
inductive SlotWhy where
  | turnRw | turnRank | upkeep | timing | sameLine
  deriving DecidableEq, Repr

/-- A command in a rank's replay window that fails CA parity again (R285): a request of the queues by its entry number, a
refresh, or an RFM. -/
inductive CaCmd where
  | read (entry : Nat) | write (entry : Nat) | refAb | refSb | rfmSb
  deriving DecidableEq, Repr

/-- What training of a channel meets (R266, R267): whether its record reads intact, the saved-path step whose check fails, the full-path
step that fails. -/
structure TrainRes where
  intact : Bool
  savedFails : Option (Fin 7)
  fullFails : Option (Fin 7)
  deriving DecidableEq, Repr

/-- An upset of a triplicated critical word (R343, R344): its KIND and INDEX, the copy that differs, and whether the other
two copies agree. -/
structure Upset where
  kind : Fin 7
  index : Nat
  copy : Fin 3
  agree : Bool
  deriving DecidableEq, Repr

/-- A target on the management complex's internal bus (R432). -/
inductive BusTarget where
  | entry (n : Fin 32) | keeperSram | stewardSram | secureWatchdog | normalWatchdog
  deriving DecidableEq, Repr

/-- An issuer on the internal bus (R431): a core, in secure state or not, the management DMA, or a peripheral acting as a bus master. -/
inductive BusIssuer where
  | core (n : Fin 4) (secure : Bool) | dma | peripheral
  deriving DecidableEq, Repr

/-- An SPDM request over DOE (R451): opening or ending a secured session, or any other request. -/
inductive SpdmReq where
  | openSession (n : Fin 4) (mutualOwner : Bool)
  | endSession (n : Fin 4)
  | other (bytes : List Byte)
  deriving DecidableEq, Repr

/-- An occurrence of a fault source (R455-R457). -/
structure Occ where
  src : Nat
  unit : Nat
  detail : Nat
  addr : Nat
  addrk : Nat
  syn : Word
  deriving DecidableEq, Repr

/-- A link that enters or leaves a link power state. -/
inductive LinkId where
  | head (h : Fin 8)
  | mgmt
  deriving DecidableEq, Repr

/-- A block that gates its own clock (R476, R479). -/
inductive Block where
  | port (h : Fin 8) | regulator | slice (n : Fin 16) | ledger | churn (n : Fin 96) | cipher | sub (n : Fin 24)
  | tally | strainer | dqu | scrubber | core (n : Fin 4)
  deriving DecidableEq, Repr

/-- A reference clock (R478). -/
inductive RefClk where
  | a | b | mp
  deriving DecidableEq, Repr

/-- A counter of the performance monitor (R509, R511): a programmable counter, or a slot counter of a subchannel in the
order DATA, TURN, UPK, IDLE, TIME. -/
inductive CtrId where
  | prog (n : Fin 256)
  | slot (sub : Fin 24) (k : Fin 5)
  deriving DecidableEq, Repr

/-- An HDM decoder as host software commits it (R83). -/
structure Decoder where
  idx : Fin 16
  base : Nat
  size : Nat
  ways : Nat
  gran : Nat
  skip : Nat
  lock : Bool
  deriving DecidableEq, Repr

/-- Module types that an SPD may name (R257). -/
inductive Module where
  | rdimm | mrdimm | udimm | sodimm | camm | nonVolatile
  deriving DecidableEq, Repr

/-- A DIMM as its SPD describes it (R257-R259, R283, R284), and the slot that it is in: `hub` its SPD hub, `width` its device width, `gbit`
the density of a die in Gb, `dies` the dies of a package, and the worst refresh timings of its dies in ns (`tRfcDlr` for 3DS). Speeds are
the codes of MCn_CFG. -/
structure Dimm where
  kind : Module
  slot : Fin 2
  hub : Bool
  width : Nat
  gbit : Nat
  dies : Nat
  ranks : Nat
  tRfc1 : Nat
  tRfc2 : Nat
  tRfcSb : Nat
  tRfmSb : Nat
  tRfcDlr : Nat
  speeds : List (Fin 6)
  sameBank : Bool
  rfmReq : Bool
  raaimt : Nat
  raammt : Nat
  serial : Nat
  deriving DecidableEq, Repr

/-- A PLL as the self-test finds it (R496): its lock time in µs (`none` for the MGMT PLL, which is not relocked) and its RMS period jitter
in 1/10,000 of the period. -/
structure PllMeas where
  lockUs : Option Nat
  jitter : Nat
  deriving DecidableEq, Repr

/-- A lane: its bit errors, and its eyes as (1/256 UI, mV), one for each rate, or the three of PAM4. -/
structure LaneMeas where
  lane : Fin 16
  errs : Nat
  eyes : List (Nat × Nat)
  deriving DecidableEq, Repr

/-- A bit of a DDR PHY: its errors at the trained Vref, its passing window and its centre's distance from the trained value in
1/1,000 of VDDQ_MC. -/
structure PhyMeas where
  errs : Nat
  window : Nat
  off : Int
  deriving DecidableEq, Repr

/-- What the shutdown self-test measured (R496, R498): PLLs; the lanes of Port A, Port B, the yoke and the management port; the thermal
sensors and the reference diode in 0.1 °C; each voltage monitor's reference with the two independent ones; the three reads of each fuse
word; the channels' PHY bits. `none` stands for a test that had not completed when it was stopped. -/
structure SstRes where
  plls : Option (List PllMeas)
  lanes : List (Option (List LaneMeas))
  thermal : Option (List Int × Int)
  volts : Option (List (Nat × Nat × Nat))
  fuses : Option (List (Word × Word × Word))
  chans : List (Option (List PhyMeas))
  deriving DecidableEq, Repr

/-- What a cold start finds (R495, R538): the straps, whether VDD_AON had been removed, whether the DIMMs kept their power,
the DIMMs of each channel, the firmware images with the subsystem identity of their configuration image (R529), and what a start-up test
would measure (R505). -/
structure ColdEnv where
  paBif : Fin 4
  pbBif : Fin 4
  bootSrc : Fin 4
  yokeRole : Bool
  dramHeld : Bool
  dimms : List (List Dimm)
  imagesOk : Bool
  version : BitVec 24
  subsys : Option Word
  fmtDpa : Option (Nat × Bool × Nat)
  startup : SstRes
  deriving DecidableEq, Repr

/-- The commands: the rows of spec/opcode_table.json, those with operands first (compiled Lean numbers such constructors below 245). -/
inductive Instr where
  /-- MEM_RD (R21): A CXL.mem read request from a head is decoded, admitted and served from the line cache, a hot frame, a cellar wedge or zeros. -/
  | memRd (h : Fin 8) (ld : Fin 16) (tag : Nat) (hpa : BitVec 52) (m : MetaRd) (sram : SramErr)
  /-- MEM_WR (R27): A CXL.mem full-line write from a head is installed dirty with W = 1 in its slice and completed. -/
  | memWr (h : Fin 8) (ld : Fin 16) (tag : Nat) (hpa : BitVec 52) (m : Meta) (data : Line) (poison : Bool) (sram : SramErr)
  /-- MEM_CLN_EVCT (R114): A MemClnEvct from a head clears that head's presence in the snoop filter. -/
  | memClnEvct (h : Fin 8) (ld : Fin 16) (tag : Nat) (hpa : BitVec 52) (sram : SramErr := .none)
  /-- ATOMIC_OP (R128): A PCIe AtomicOp into HDM is performed under the line lock at the line's slice. -/
  | atomicOp (h : Fin 8) (ld : Fin 16) (tag : Nat) (hpa : BitVec 52) (op : Atomic) (sram : SramErr := .none)
  /-- LEDGER_FETCH_DONE (R148): A ledger line fetched from DRAM is installed in the ledger cache and the waiting work proceeds. -/
  | ledgerFetchDone (lline : Nat) (e0 : SymErr) (e1 : SymErr)
  /-- WEDGE_DECODE_DONE (R23): A churn finishes an in-line wedge decode and the decoded lines are installed clean. -/
  | wedgeDecodeDone (page : Nat) (wedge : Fin 8)
  /-- DRAM_READ_DONE (R318): A line read from DRAM is judged for correction, misdirection, poison and W. -/
  | dramReadDone (ch : Fin 12) (sub : Fin 2) (errs : SymErr) (misroute : Option Nat)
  /-- WRITE_BACK (R30): A dirty victim line leaves the home through ledger, cipher and RS encoding into a write queue. -/
  | writeBack (line : Nat)
  /-- FABRIC_WAIT_RELEASE (R270): A request waiting in the fabric ahead of a full controller queue enters the queue when room frees. -/
  | fabricWaitRelease (ch : Fin 12) (sub : Fin 2)
  /-- SET_STALL_RELEASE (R109): An install waiting for a way of its set installs when a way becomes free. -/
  | setStallRelease (req : Nat)
  /-- FRAME_ALLOCATE (R151): A page waiting for a frame receives one from the cleared pool and becomes Hot. -/
  | frameAllocate (page : Nat)
  /-- BIRSP (R122): A snoop response from a head completes its snoop and may serve the waiting request. -/
  | birsp (h : Fin 8) (line : Nat) (rsp : SnpRsp)
  /-- BICONFLICT (R122): A BIConflict from a head is answered with BIConflictAck. -/
  | biconflict (h : Fin 8) (line : Nat)
  /-- SNOOP_TIMEOUT (R124): An expired snoop timer poisons held-modified data and marks the head unresponsive. -/
  | snoopTimeout (h : Fin 8) (line : Nat)
  /-- PERST_ASSERT (R55): PERST_N of a head is asserted and the head goes DOWN, with a drop. -/
  | perstAssert (h : Fin 8) (d : DropEnv)
  /-- PERST_DEASSERT (R55): PERST_N of a head is deasserted and the head starts training. -/
  | perstDeassert (h : Fin 8)
  /-- HEAD_DISABLE (R55): ENABLE written 0 in a head's control register holds the head in DISABLED. -/
  | headDisable (h : Fin 8) (d : DropEnv)
  /-- HEAD_ENABLE (R55): ENABLE written 1 lets a DISABLED head train again. -/
  | headEnable (h : Fin 8)
  /-- LINK_L0_REACHED (R55): A training head reaches L0 and becomes ACTIVE or IO_ONLY. -/
  | linkL0Reached (h : Fin 8) (width : Nat) (speed : Fin 6) (mld : Bool) (bi : Option Nat) (ide : Bool)
  /-- LTSSM_RECOVERY_ENTER (R55): A head's LTSSM enters Recovery and its flits are held. -/
  | ltssmRecoveryEnter (h : Fin 8) (replays : Nat) (fec : Nat := 0) (own : Bool := false)
  /-- LTSSM_RECOVERY_EXIT (R55): A head in Recovery returns to L0 and its replayed flits are processed once. -/
  | ltssmRecoveryExit (h : Fin 8) (width : Nat) (ideFail : Bool)
  /-- LINK_DOWN (R55): A head's LTSSM reaches Detect or DL_Down and the head goes DOWN with a drop. -/
  | linkDown (h : Fin 8) (d : DropEnv)
  /-- DROP_FILTER_WALK_DONE (R67): The snoop-filter walk after a drop completes its poisoning and clearing. -/
  | dropFilterWalkDone (h : Fin 8)
  /-- DROP_ENTRIES_FREED (R68): All entries of a dropped head are free, and the drop counts and event are recorded. -/
  | dropEntriesFreed (h : Fin 8)
  /-- IDE_INTEGRITY_FAIL (R55): An IDE integrity failure moves the head to INSECURE. -/
  | ideIntegrityFail (h : Fin 8)
  /-- IDE_STREAM_REENABLE (R55): New IDE keys installed and the stream re-enabled return an INSECURE head to service. -/
  | ideStreamReenable (h : Fin 8)
  /-- VIRAL_RX (R65): A viral indication from a link partner makes the head's writes fail until it passes through DOWN. -/
  | viralRx (h : Fin 8)
  /-- L0P_IDLE_REQUEST (R61): After 100 µs of empty ingress queues the part requests an L0p width change. -/
  | l0pIdleRequest (h : Fin 8)
  /-- L0P_CHANGE_DONE (R62): An L0p width change completes without losing requests. -/
  | l0pChangeDone (h : Fin 8) (width : Nat)
  /-- TALLY_RECORD_POST (R409): A head's write into the tally window is taken as tally records for its logical device's table. -/
  | tallyRecordPost (h : Fin 8) (off : BitVec 23) (bytes : Nat) (recs : List (BitVec 64 × Bool))
  /-- COALESCER_AGE_MERGE (R413): A coalescer entry older than MERGE_US is merged into its line. -/
  | coalescerAgeMerge (line : Nat)
  /-- TALLY_MERGE (R414): Pending tally sums are added into their line at the slice under the lock. -/
  | tallyMerge (line : Nat)
  /-- IDENTIFY_MEMORY_DEVICE (R44): The mailbox command returns the device's identity for the head's partitions. -/
  | identifyMemoryDevice (h : Fin 8)
  /-- GET_PARTITION_INFO (R44): The mailbox command returns partition information. -/
  | getPartitionInfo (h : Fin 8)
  /-- GET_HEALTH_INFO (R44): The mailbox command returns health information, including the temperature reading. -/
  | getHealthInfo (h : Fin 8)
  /-- GET_SUPPORTED_LOGS (R44): The mailbox command lists the supported logs. -/
  | getSupportedLogs (h : Fin 8)
  /-- GET_LOG (R44): The mailbox command returns a log. -/
  | getLog (h : Fin 8) (log : Nat) (off : Nat) (len : Nat)
  /-- GET_EVENT_RECORDS (R44): The mailbox command returns event records that name the head's partitions. -/
  | getEventRecords (h : Fin 8) (log : Fin 5)
  /-- CLEAR_EVENT_RECORDS (R44): The mailbox command clears event records. -/
  | clearEventRecords (h : Fin 8) (log : Fin 5) (all : Bool) (handles : List Nat)
  /-- GET_EVENT_INTERRUPT_POLICY (R44): The mailbox command returns the event interrupt policy. -/
  | getEventInterruptPolicy (h : Fin 8)
  /-- SET_EVENT_INTERRUPT_POLICY (R44): The mailbox command sets the event interrupt policy. -/
  | setEventInterruptPolicy (h : Fin 8) (policy : BitVec 40)
  /-- GET_ALERT_CONFIGURATION (R44): The mailbox command returns the alert thresholds. -/
  | getAlertConfiguration (h : Fin 8)
  /-- SET_ALERT_CONFIGURATION (R44): The mailbox command sets the temperature and corrected-error alert thresholds. -/
  | setAlertConfiguration (h : Fin 8) (cfg : BitVec 96)
  /-- GET_POISON_LIST (R44): The mailbox command returns the poison list within the head's partitions. -/
  | getPoisonList (h : Fin 8) (dpa : BitVec 45) (lines : Nat)
  /-- INJECT_POISON (R45): The mailbox command sets P = 1 in the rind of the named line. -/
  | injectPoison (h : Fin 8) (dpa : BitVec 45)
  /-- CLEAR_POISON (R45): The mailbox command writes the supplied line with P = 0. -/
  | clearPoison (h : Fin 8) (dpa : BitVec 45) (data : Line)
  /-- GET_SCAN_MEDIA_CAPABILITIES (R44): The mailbox command returns the scan capabilities. -/
  | getScanMediaCapabilities (h : Fin 8) (dpa : BitVec 45) (lines : Nat)
  /-- SCAN_MEDIA (R342): The mailbox command starts a background scrub of a DPA range. -/
  | scanMedia (h : Fin 8) (dpa : BitVec 45) (lines : Nat)
  /-- SCAN_MEDIA_DONE (R44): A background Scan Media completes. -/
  | scanMediaDone (h : Fin 8) (errs : List (Nat × SymErr) := [])
  /-- GET_SCAN_MEDIA_RESULTS (R44): The mailbox command returns the scan results. -/
  | getScanMediaResults (h : Fin 8)
  /-- GET_FW_INFO (R530): The mailbox command reports the active firmware version. -/
  | getFwInfo (h : Fin 8)
  /-- TRANSFER_FW (R44): The mailbox command starts a background firmware transfer. -/
  | transferFw (h : Fin 8) (version : BitVec 24) (last : Bool) (genuine : Bool := true)
  /-- TRANSFER_FW_DONE (R44): A background firmware transfer completes. -/
  | transferFwDone (h : Fin 8)
  /-- ACTIVATE_FW (R442): The mailbox command starts online firmware activation, which fails while the Keeper is down. -/
  | activateFw (h : Fin 8)
  /-- ACTIVATE_FW_DONE (R530): A firmware activation completes and GLB_FWVER changes. -/
  | activateFwDone (h : Fin 8)
  /-- GET_TIMESTAMP (R44): The mailbox command returns the timestamp. -/
  | getTimestamp (h : Fin 8)
  /-- SET_TIMESTAMP (R44): The mailbox command sets the timestamp. -/
  | setTimestamp (h : Fin 8) (ns : BitVec 64)
  /-- GET_DYNAMIC_CAPACITY_CONFIGURATION (R44): The mailbox command returns the Dynamic Capacity configuration. -/
  | getDynamicCapacityConfiguration (h : Fin 8) (ld : Fin 16)
  /-- GET_DYNAMIC_CAPACITY_EXTENT_LIST (R44): The mailbox command returns the Dynamic Capacity extent list. -/
  | getDynamicCapacityExtentList (h : Fin 8) (ld : Fin 16)
  /-- ADD_DYNAMIC_CAPACITY_RESPONSE (R551): The response accepts the named entries of the oldest unanswered offered set and releases the rest. -/
  | addDynamicCapacityResponse (h : Fin 8) (ld : Fin 16) (entries : List Nat)
  /-- RELEASE_DYNAMIC_CAPACITY (R87): The mailbox command moves an accepted DC entry to RELEASED. -/
  | releaseDynamicCapacity (h : Fin 8) (ld : Fin 16) (entries : List Nat)
  /-- MAILBOX_UNSUPPORTED (R44): Any other mailbox command, such as Sanitize, returns Unsupported. -/
  | mailboxUnsupported (h : Fin 8) (opcode : BitVec 16)
  /-- REG_WRITE (R12): A write to a register with no row of its own acts by its access type. -/
  | regWrite (a : WriteReq)
  /-- QCFG_WRITE (R71): A write to a head's panic thresholds is ignored as a whole when it is inconsistent. -/
  | qcfgWrite (h : Fin 8) (v : Word)
  /-- HOM_TRK_CFG_WRITE (R135): A write to the tracker shares is ignored if out of range, and otherwise acts on later allocations. -/
  | homTrkCfgWrite (v : Word)
  /-- HOM_SNP_TO_WRITE (R123): A write of the snoop timeout applies to snoops sent after it, and is ignored if out of range. -/
  | homSnpToWrite (v : Word)
  /-- MC_QCFG_WRITE (R295): A write of the write-queue watermarks is checked and takes effect from the next MC cycle. -/
  | mcQcfgWrite (ch : Fin 12) (v : Word)
  /-- MC_LAT_WRITE (R296): A write of the latency targets applies to later reads, and is ignored if a field is below 20. -/
  | mcLatWrite (ch : Fin 12) (i : Fin 2) (v : Word)
  /-- CHN_EN_WRITE (R220): A write of the churn enables is ignored if it would leave fewer than eight churns enabled. -/
  | chnEnWrite (i : Fin 3) (v : Word)
  /-- SCB_CTL_WRITE (R340): A write of the scrubber control is range-checked and sets the pace of the current pass. -/
  | scbCtlWrite (v : Word)
  /-- STAGED_WRITE (R94): A write to a staged register or table changes the stage, or is lost while BUSY = 1. -/
  | stagedWrite (off : BitVec 26) (v : Word)
  /-- EXT_DATA_HI_WRITE (R75): A write of GLB_EXT_DATA_HI stores the holding register and the value into the stage at INDEX. -/
  | extDataHiWrite (v : Word)
  /-- EXT_FILL (R75): A write of GLB_EXT_FILL stores the attribute entry at COUNT extents from INDEX. -/
  | extFill (v : Word)
  /-- MAP_DATA_WRITE (R80): A write of GLB_MAP_DATA stages a map entry and may advance INDEX. -/
  | mapDataWrite (v : Word)
  /-- APPLY (R97): CMD = APPLY with the key starts an unpaired commit. -/
  | apply (key : BitVec 24)
  /-- PAIRED_APPLY (R375): APPLY with PAIRED = 1 arms the part for a paired commit. -/
  | pairedApply (key : BitVec 24)
  /-- FORMAT (R141): LDG_FMT_CTL FORMAT with the key formats the ledger when no partition is valid. -/
  | format (key : BitVec 24)
  /-- PROMOTION_DONE (R156): A promotion flips the page to Hot once its lines are accepted into the write queues. -/
  | promotionDone (page : Nat) (errs : List (Nat × SymErr) := [])
  /-- DEMOTION_DONE (R160): A demotion flips the page to Cellar, or ends NO_SHRINK or poisoned. -/
  | demotionDone (page : Nat) (errs : List (Nat × SymErr) := [])
  /-- DOORBELL_TAIL (R398): A TAIL write to a ring's doorbell sets SQ_TAIL when accepted. -/
  | doorbellTail (via : Option (Fin 8)) (ring : Fin 256) (v : Word)
  /-- DOORBELL_CQ_HEAD (R398): A CQ_HEAD write to a ring's doorbell moves CQ_HEAD when accepted. -/
  | doorbellCqHead (via : Option (Fin 8)) (ring : Fin 256) (v : Word)
  /-- RING_RESET (R403): A ring RESET command stops fetching and aborts the ring's work. -/
  | ringReset (ring : Fin 256)
  /-- RING_RESET_DONE (R403): A ring reset ends with indices 0 and the ring ACTIVE. -/
  | ringResetDone (ring : Fin 256)
  /-- DESCRIPTOR_FETCH (R399): The descriptor queue unit fetches descriptors at SQ_HEAD while fetching is allowed. -/
  | descriptorFetch (ring : Fin 256)
  /-- RETIRING_DONE (R383): The last record of a ring's old epoch is written or dropped, and RETIRING clears. -/
  | retiringDone (ring : Fin 256)
  /-- COPY (R387): The COPY descriptor copies bytes from source to destination. -/
  | copy (job : Nat)
  /-- FILL (R386): The FILL descriptor writes an 8-byte pattern over a destination. -/
  | fill (job : Nat)
  /-- COMPRESS (R206): The COMPRESS descriptor codes a piece of a stream into a frame. -/
  | compress (job : Nat)
  /-- DECOMPRESS (R205): The DECOMPRESS descriptor decodes a piece of a stream. -/
  | decompress (job : Nat)
  /-- CHECKSUM (R388): The CHECKSUM descriptor computes a CRC or Adler-32 over data. -/
  | checksum (job : Nat)
  /-- CULTURE_TRAIN (R238): The CULTURE_TRAIN descriptor trains or loads a culture image. -/
  | cultureTrain (job : Nat)
  /-- PROMOTE (R171): The PROMOTE descriptor promotes the Cellar pages of a range. -/
  | promote (job : Nat)
  /-- DEMOTE (R171): The DEMOTE descriptor demotes the Hot pages of a range. -/
  | demote (job : Nat)
  /-- PIN (R171): The PIN descriptor pins the pages of a range. -/
  | pin (job : Nat)
  /-- UNPIN (R171): The UNPIN descriptor returns the Pinned pages of a range to Hot. -/
  | unpin (job : Nat)
  /-- FORGET (R173): The FORGET descriptor makes the pages of a range Unwritten, discarding dirty lines. -/
  | forget (job : Nat)
  /-- TALLY_BATCH (R418): The TALLY_BATCH descriptor applies tally records through the coalescer. -/
  | tallyBatch (job : Nat)
  /-- TALLY_READ (R419): The TALLY_READ descriptor reads counters in chunks and may clear them. -/
  | tallyRead (job : Nat)
  /-- STRAIN (R425): The STRAIN descriptor looks keys up in a strainer table. -/
  | strain (job : Nat)
  /-- STRAIN_INSERT (R426): The STRAIN_INSERT descriptor inserts or updates entries in a strainer table. -/
  | strainInsert (job : Nat)
  /-- STRAIN_DELETE (R427): The STRAIN_DELETE descriptor deletes keys from a strainer table. -/
  | strainDelete (job : Nat)
  /-- SCRUB_RANGE (R342): The SCRUB_RANGE descriptor scrubs the lines that back a DPA range. -/
  | scrubRange (job : Nat) (errs : List (Nat × SymErr) := [])
  /-- FENCE (R400): The FENCE descriptor completes after every earlier descriptor of its ring. -/
  | fence (job : Nat)
  /-- NOP (R386): The NOP descriptor completes at once with no operation. -/
  | nop (job : Nat)
  /-- COMPLETION_RECORD_WRITE (R397): A completed descriptor's record is written to its completion queue. -/
  | completionRecordWrite (job : Nat)
  /-- RING_ITIME_EXPIRE (R401): ITIME elapses with records unsignalled and the ring's vector is sent. -/
  | ringItimeExpire (ring : Fin 256)
  /-- RING_ERROR (R405): UR or CA on a ring fetch or record write puts the ring in ERROR. -/
  | ringError (ring : Fin 256) (job : Option Nat)
  /-- WORK_ENQUEUE (R216): Churn work enters its home cluster's class queue, or waits for room. -/
  | workEnqueue (w : Work)
  /-- CHURN_FREE (R219): A churn that becomes free takes the next work by class and steal order. -/
  | churnFree (churn : Fin 96)
  /-- CHURN_LEND (R222): A busy churn at a yield point lends itself for one in-line wedge decode. -/
  | churnLend (ready : List (Fin 96 × Nat))
  /-- JOB_CHECKPOINT (R224): A job reaches a checkpoint and records its resumable state. -/
  | jobCheckpoint (job : Nat)
  /-- LOCAL_MEMORY_UE (R212): An uncorrectable local-memory error restarts the job from its checkpoint on another churn. -/
  | localMemoryUe (churn : Fin 96) (syn : Word)
  /-- TRANSLATION_FAULT (R234): An ATS completion without the needed access rolls the job back and parks it. -/
  | translationFault (job : Nat) (addr : BitVec 64) (ats : Bool) (pri : Bool)
  /-- PRI_PAGE_REQUEST (R234): A PRI Page Request for the faulting page is sent within the function's allocation. -/
  | priPageRequest (job : Nat) (room : Bool := true)
  /-- PRG_RESPONSE (R234): A PRG Response resumes the parked job or completes it FAULT_UNRESOLVED. -/
  | prgResponse (job : Nat) (code : PrgCode)
  /-- PRI_TIMEOUT (R234): No PRG Response within PRI_TO completes the job FAULT_UNRESOLVED. -/
  | priTimeout (job : Nat)
  /-- CULTURE_COPY_DONE (R240): A culture image applied to a slot is copied into the store and the lengths, and waiting work proceeds. -/
  | cultureCopyDone (slot : Fin 64)
  /-- KEY_LOAD (R252): A key request with OP = LOAD asks the Keeper to unwrap and load a slot. -/
  | keyLoad (slot : Fin 1024) (owner : Fin 64)
  /-- KEY_CLEAR (R252): A key request with OP = CLEAR empties a slot. -/
  | keyClear (slot : Fin 1024)
  /-- DRAM_CMD_ISSUE (R273): In each MC cycle a subchannel scheduler issues its first issuable candidate command. -/
  | dramCmdIssue (ch : Fin 12) (sub : Fin 2) (blocked : List Nat) (held : List (Nat × Nat)) (why : SlotWhy) (astray : Option Nat := none)
  /-- URGENCY_RAISE (R275): A queued read's wait crossing a fraction of its target raises its urgency. -/
  | urgencyRaise (ch : Fin 12) (sub : Fin 2) (entry : Nat) (waited : Nat)
  /-- REFRESH_DUE (R279): A rank's refresh interval falls due, raising its debt or forcing payment. -/
  | refreshDue (ch : Fin 12) (sub : Fin 2) (lrank : Fin 16)
  /-- MR4_POLL (R282): On the 16 ms grid the controller reads MR4 and halves or restores the refresh interval. -/
  | mr4Poll (ch : Fin 12) (hot : Bool)
  /-- ZQ_CALIBRATION (R268): Every 128 ms ZQ calibration runs on every rank. -/
  | zqCalibration (ch : Fin 12)
  /-- DQS_OSC_READ (R268): Every 32 ms the DQS oscillator is read and write DQS recentred on drift. -/
  | dqsOscRead (ch : Fin 12) (drifted : Bool)
  /-- SPD_TEMP_POLL (R262): Every 16 ms firmware reads each SPD hub's temperature and may raise DIMM_HOT. -/
  | spdTempPoll (ch : Fin 12) (hot : Bool)
  /-- CA_PARITY_ALERT (R285): An RCD CA parity alert triggers recovery and replay of the rank's recent commands. -/
  | caParityAlert (ch : Fin 12) (sub : Fin 2) (rank : Fin 4) (die : Fin 4) (again : List CaCmd)
  /-- SELF_REFRESH_EXIT (R290): A subchannel leaves self-refresh after its minimum residency and reopens its queues. -/
  | selfRefreshExit (ch : Fin 12) (sub : Fin 2)
  /-- CANARY_CHECK (R292): After exit the canaries are read back and suspect banks are marked. -/
  | canaryCheck (ch : Fin 12) (sub : Fin 2) (errs : List (Nat × SymErr))
  /-- CHANNEL_TRAINING_DONE (R266): A channel finishes saved or full training, or fails. -/
  | channelTrainingDone (ch : Fin 12) (r : TrainRes)
  /-- SCRUB_LINE (R340): The scrubber reads the next lines of its walk at its pace and handles each by R341. -/
  | scrubLine (errs : SymErr) (errs1 : SymErr)
  /-- SUSPECT_SCRUB (R342): The scrubber visits the lines of a suspect bank before resuming its walk. -/
  | suspectScrub (ch : Fin 12) (sub : Fin 2) (rank : Fin 4) (die : Fin 4) (bank : Fin 32) (errs : List (Nat × SymErr))
  /-- SCB_STICKY_POP (R326): A POP write discards the head entry of the sticky queue. -/
  | scbStickyPop (v : Word)
  /-- REMAP_DONE (R332): The row copy ends and the remap entry becomes active. -/
  | remapDone (errs : List (Nat × SymErr))
  /-- SPPR (R333): The SPPR repair command applies soft post-package repair to a remapped row. -/
  | sppr (resource : Bool)
  /-- SPPR_DONE (R333): The soft PPR and the copy back end, and the remap entry is freed. -/
  | spprDone (ok : Bool) (errs : List (Nat × SymErr))
  /-- HPPR (R333): The HPPR repair command applies hard post-package repair on a retired channel. -/
  | hppr (resource : Bool)
  /-- HPPR_DONE (R333): A hard PPR ends. -/
  | hpprDone (ok : Bool)
  /-- RELOCATION_DONE (R337): A page relocated off a retiring channel flips to its new media. -/
  | relocationDone (page : Nat) (errs : List (Nat × SymErr) := [])
  /-- VOTE_AUDIT (R344): Every 1 ms all triplicated critical words are voted and repaired or escalated. -/
  | voteAudit (upsets : List Upset) (audit : Bool := true)
  /-- YOKE_TRAINING_DONE (R347): The yoke link trains to UP and enters PAIRING. -/
  | yokeTrainingDone (peerRole : Bool) (width : Nat) (half : Bool)
  /-- YK_EN_WRITE (R368): EN written 0 holds the yoke link down and the mirror DEGRADED. -/
  | ykEnWrite (v : Word)
  /-- YK_WIDTH_REQ (R348): WIDTH_REQ in YK_CTL requests a yoke width change. -/
  | ykWidthReq (req : Fin 4)
  /-- YOKE_RETRAIN_DONE (R348): A yoke retrain or width change ends and held flits resume. -/
  | yokeRetrainDone (width : Nat) (half : Bool)
  /-- YOKE_FLIT_RX (R357): A yoke flit is received, checked, reordered and delivered to its VC. -/
  | yokeFlitRx (flit : BitVec 2048)
  /-- YOKE_LANE_LOSS (R359): The PHY loses lock or signal on an active lane, a fatal yoke fault. -/
  | yokeLaneLoss (lane : Fin 16)
  /-- WRITE_RECORD (R363): A received WRITE record is installed as a non-caching write, or rejected. -/
  | writeRecord (hdr : BitVec 64) (data : Line)
  /-- POISON_RECORD (R354): A received POISON record sets P := 1 on its line. -/
  | poisonRecord (hdr : BitVec 64)
  /-- FORGET_PAGE_RECORD (R354): A received FORGET_PAGE record makes its page Unwritten. -/
  | forgetPageRecord (hdr : BitVec 64)
  /-- RESYNC_LINE_RECORD (R363): A received RESYNC_LINE record is installed on the target. -/
  | resyncLineRecord (hdr : BitVec 64) (data : Line)
  /-- ACK0 (R364): ACK0 confirms VC0 records and releases synchronous completions. -/
  | ack0 (count : BitVec 32)
  /-- ACK3 (R371): ACK3 confirms VC3 records and may end a unit's COPYING. -/
  | ack3 (count : BitVec 32)
  /-- REJECT0 (R363): REJECT0 makes the origin mark the rejected VC0 record's unit in its sync map. -/
  | reject0 (num : BitVec 32)
  /-- REJECT3 (R363): REJECT3 makes the origin mark the rejected VC3 record's unit. -/
  | reject3 (num : BitVec 32)
  /-- HEARTBEAT (R359): A HEARTBEAT message from the partner restarts the heartbeat timeout and reports its mirror state. -/
  | heartbeat (state : Byte) (frame : Word)
  /-- STATUS (R369): The partner's STATUS message decides the mirror state out of PAIRING. -/
  | status (selfId : BitVec 64) (peerId : BitVec 64) (trust : Bool) (nonempty : Bool) (digest : Word) (pairseq : Word)
  /-- VEC (R374): A VEC message delivers a chunk of the partner's mirror vector. -/
  | vec (chunk : Fin 512) (bits : BitVec 256)
  /-- VEC_REQ (R374): A VEC_REQ message asks for the live or staged mirror vector. -/
  | vecReq (staged : Bool)
  /-- MAP (R368): A MAP message delivers sync-map bits that are ORed into this part's map. -/
  | map (chunk : Fin 65536) (bits : BitVec 256)
  /-- ARM (R375): An ARM message reports the partner armed for a paired APPLY. -/
  | arm (crc : Word)
  /-- GO (R375): A GO message names the frame F of a paired APPLY. -/
  | go (frame : Word)
  /-- GO_ACK (R375): A GO_ACK message confirms the frame F to the PRIMARY part. -/
  | goAck (frame : Word)
  /-- RESYNC_DONE (R368): A RESYNC_DONE message ends RESYNC_TGT as MIRRORED or SPLIT. -/
  | resyncDone (sent : Word)
  /-- UNIT_COPY_DONE (R371): A resync unit leaves COPYING when all its VC3 records are acknowledged. -/
  | unitCopyDone (unit : Nat)
  /-- INTERNAL_BUS_ACCESS (R432): A transaction on the management bus is accepted or denied by its S attribute and the ownership table. -/
  | internalBusAccess (target : BusTarget) (s : Bool) (addr : BitVec 24) (by' : BusIssuer := .core 0 true) (wr : Option Word := none)
  /-- BLOCK_RELEASE (R436): The owning world releases an assignable block to the other world. -/
  | blockRelease (n : Fin 32)
  /-- KEEPER_CLAIM (R436): The Keeper claims a Steward-owned block and the quiesce timer starts. -/
  | keeperClaim (n : Fin 32)
  /-- STEWARD_ASK (R436): The Steward asks the Keeper for a block, and the Keeper may release or refuse. -/
  | stewardAsk (n : Fin 32) (grant : Bool)
  /-- QUIESCE_REPORT (R436): The old owner reports the block quiesced and the hand-over reset starts. -/
  | quiesceReport (n : Fin 32)
  /-- QUIESCE_TIMER_EXPIRE (R436): The 1 ms quiesce timer of a Keeper claim expires and the hand-over reset starts. -/
  | quiesceTimerExpire (n : Fin 32)
  /-- HANDOVER_RESET_DONE (R436): After 64 cycles of reset the block is owned by the new world. -/
  | handoverResetDone (n : Fin 32)
  /-- GATE_REQUEST (R439): A request to gate or ungate a block is accepted only from its owner. -/
  | gateRequest (n : Fin 32) (s : Bool) (gate : Bool) (addr : BitVec 24)
  /-- RESTART_KEEPER (R443): WLD_WORLD_CTL RESTART_KEEPER starts a Keeper restart. -/
  | restartKeeper (key : BitVec 24)
  /-- KEEPER_RESTART_DONE (R443): A Keeper restart ends UP, or FAILED on a bad image. -/
  | keeperRestartDone (ok : Bool)
  /-- RESTART_STEWARD (R445): WLD_WORLD_CTL RESTART_STEWARD reloads the Steward. -/
  | restartSteward (key : BitVec 24)
  /-- STEWARD_RESTART_DONE (R445): The Steward reports UP after its restart. -/
  | stewardRestartDone (version : BitVec 24)
  /-- SPDM_REQUEST (R451): An SPDM request over DOE is answered by the Keeper as responder. -/
  | spdmRequest (h : Fin 8) (req : SpdmReq)
  /-- KEK_INSTALL (R453): A KEK installation over a mutually authenticated session replaces and seals the KEK. -/
  | kekInstall (h : Fin 8) (session : Fin 4) (kek : BitVec 256)
  /-- PROVISIONING_REQUEST (R447): A provisioning request over a secured session moves TEST to PROVISIONED at the next cold reset. -/
  | provisioningRequest (h : Fin 8) (session : Fin 4) (root : BitVec 384)
  /-- QUERY (R451): The IDE_KM QUERY request is answered. -/
  | query (h : Fin 8)
  /-- KEY_PROG (R451): The IDE_KM KEY_PROG request programs an IDE key set. -/
  | keyProg (h : Fin 8) (set : Fin 2) (key : BitVec 256)
  /-- K_SET_GO (R451): The IDE_KM K_SET_GO request activates an IDE key set. -/
  | kSetGo (h : Fin 8) (set : Fin 2)
  /-- K_SET_STOP (R451): The IDE_KM K_SET_STOP request stops an IDE key set. -/
  | kSetStop (h : Fin 8) (set : Fin 2)
  /-- FAULT_OCCURRENCE (R458): A detection of a class B, C or D source is recorded or coalesced in the fault log. -/
  | faultOccurrence (o : Occ)
  /-- CLASS_A_DETECT (R464): A class A detection sets the latch and forces the safe state. -/
  | classADetect (o : Occ)
  /-- FLT_CLR (R463): A write of FLT_CLR clears a class B record when its COUNT matches. -/
  | fltClr (v : Word)
  /-- FLT_FORCE_WRITE (R469): A write of 1 to a force bit schedules one injected occurrence. -/
  | fltForceWrite (n : Fin 8) (v : Word)
  /-- FORCE_PRESENT (R469): The injected occurrence is presented at the source's detector. -/
  | forcePresent (src : Fin 256) (real : Option Occ)
  /-- FLT_SPILL_CFG_WRITE (R460): A write of the spill configuration is ignored while EN = 1. -/
  | fltSpillCfgWrite (i : Fin 3) (v : Word)
  /-- L1_IDLE_REQUEST (R481): With L1_REQ = 1, a link idle for 10 µs while armed is asked into L1. -/
  | l1IdleRequest (l : LinkId)
  /-- WAKE (R486): An enabled wake source in DROWSE or DEEP starts the exit. -/
  | wake (srcs : Byte) (cycle : Nat)
  /-- DEEP_EXIT_DONE (R487): The DEEP exit sequence restores state and the part is ACTIVE, or it cold-resets on a seal failure. -/
  | deepExitDone (sealOk : Bool)
  /-- BLOCK_CLOCK_GATE (R479): A block whose queues have been empty for 256 cycles gates its own clock. -/
  | blockClockGate (block : Block)
  /-- POWER_ON_RESET (R495): VDD_AON in range starts a cold start with strap sampling, boot and training. -/
  | powerOnReset (env : ColdEnv)
  /-- WARM (R491): GLB_RST_CTL OP = WARM starts a warm reset. -/
  | warm (key : BitVec 24) (d : DropEnv)
  /-- COLD (R492): GLB_RST_CTL OP = COLD runs the warm sequence and then a cold start keeping retained SRAM. -/
  | cold (key : BitVec 24) (env : ColdEnv)
  /-- PARTITION (R493): GLB_RST_CTL OP = PARTITION resets one partition's rings and tally entries. -/
  | partition (key : BitVec 24)
  /-- FLR (R489): An FLR of a head's function 0 resets every partition bound to that head. -/
  | flr (h : Fin 8)
  /-- REFCLK_LOSS (R478): Loss of a port or management reference clock takes its links out of L0. -/
  | refclkLoss (which : RefClk) (back : List (Fin 8)) (d : DropEnv)
  /-- CLOCK_LOSS (R478): Loss of XTAL_IN or a data-path PLL lock is class A source 187. -/
  | clockLoss (domain : Fin 5)
  /-- RAIL_OUT (R542): A rail outside ±6 % for 2 µs is class A source 186. -/
  | railOut (rail : Fin 9)
  /-- THERMAL_SAMPLE (R549): Every 100 µs the die sensors are read and TEMP_WARN or THERMTRIP may arise. -/
  | thermalSample (temps : List Int)
  /-- RUN (R497): TST_SST_CTL OP = RUN starts the shutdown self-test or refuses it. -/
  | run (key : BitVec 24)
  /-- SST_ABORT (R501): TST_SST_CTL OP = ABORT stops every test in progress. -/
  | sstAbort (key : BitVec 24)
  /-- SST_CONDITION_FAIL (R500): A reference or rail measured out of limits stops all tests and records the condition. -/
  | sstConditionFail (item : Fin 13) (dev : BitVec 16)
  /-- SST_DONE (R498): The self-test record is written and STATE becomes DONE or ABORTED. -/
  | sstDone (r : SstRes)
  /-- DBG (R506): The TAP DBG instruction opens the debug port as granted. -/
  | dbg (world : Bool) (halt : Bool)
  /-- FREEZE (R512): FREEZE = 1 stops, and FREEZE = 0 restarts, every counter and sampling countdown together. -/
  | freeze (on : Bool)
  /-- COUNTER_LO_READ (R514): A read of a counter's LO word latches its upper bits into HI. -/
  | counterLoRead (a : ReadReq)
  /-- COUNTER_WRITE (R514): A write to a counter takes effect only when frozen or disabled. -/
  | counterWrite (off : BitVec 26) (v : Word)
  /-- COUNTER_WRAP (R509): A counter wraps, sets its overflow bit and may freeze the monitor. -/
  | counterWrap (c : CtrId)
  /-- SAMPLING_ENABLE (R517): EN going from 0 to 1 in PMU_SMP_CFG resets the ring pointers. -/
  | samplingEnable (v : Word)
  /-- HDM_DECODER_COMMIT (R83): Host software commits, and may lock, an HDM decoder of a logical device, which then decodes every HPA within its range. -/
  | hdmDecoderCommit (h : Fin 8) (ld : Fin 16) (d : Decoder)
  /-- CXL_IO_MEMORY_REQUEST (R119): A CXL.io memory read or write into an HDM address range is served at the home as a non-caching agent. -/
  | cxlIoMemoryRequest (h : Fin 8) (ld : Fin 16) (tag : Nat) (hpa : BitVec 52) (write : Bool) (be : BitVec 64) (data : Line) (sram : SramErr := .none)
  /-- MGMT_LINK_UP (R402): The management port link reaches L0, so DOWN MGMT rings can be reset and a self-test of its lanes is aborted. -/
  | mgmtLinkUp (width : Nat) (speed : Fin 5)
  /-- LINK_L1_ENTRY (R481): A head or management link enters ASPM L1, as the DROWSE entry conditions need. -/
  | linkL1Entry (l : LinkId)
  /-- LINK_L1_EXIT (R480): A link leaves L1 while the part is ACTIVE, armed or ENTERING, and an entry in progress is undone. -/
  | linkL1Exit (l : LinkId)
  /-- PME_TURN_OFF (R481): The host sends PME_Turn_Off and moves a link to L2/L3 Ready, as the DEEP entry conditions need. -/
  | pmeTurnOff (l : LinkId)
  /-- PARTNER_RETRAIN_REQUEST (R349): The yoke partner requests a retrain or width change, which this part follows, or withdraws its own request if it is SECONDARY. -/
  | partnerRetrainRequest (width : Option (Nat × Bool))
  /-- PLDM_REQUEST (R545): An MCTP request on SMBus with PLDM for Platform Monitoring is answered with the die temperature, rail monitor and DIMM temperature readings. -/
  | pldmRequest (sensor : Nat)
  /-- RECOVERY_IMAGE_DELIVERY (R494): With BOOT_SRC[0] = 1, the Keeper and Steward images arrive from the control CPU and the waiting boot ROM verifies them and continues. -/
  | recoveryImageDelivery (ok : Bool) (version : BitVec 24)
  /-- REGULATOR_ADMIT (R300): In each CORE cycle the regulator admits waiting requests to the home by cap, guarantee and weighted round robin. -/
  | regulatorAdmit (errs : List (Nat × SramErr) := [])
  /-- WINDOW_BOUNDARY (R299): At each window boundary every master's charged count returns to zero. -/
  | windowBoundary
  /-- MEDIA_SETTLED (R151): Freed media is released to its list once every request that read the old entry has completed. -/
  | mediaSettled
  /-- MEMORY_READY (R58): Memory becomes ready and IO_ONLY heads become ACTIVE with MEM_ACTIVE = 1. -/
  | memoryReady
  /-- MP_PERST_N_ASSERT (R73): MP_PERST_N resets the management port alone. -/
  | mpPerstNAssert
  /-- MGMT_LINK_DOWN (R73): The management link goes down and MGMT rings enter DOWN. -/
  | mgmtLinkDown
  /-- EXT_DATA_HI_READ (R75): A read of GLB_EXT_DATA_HI with AUTOINC advances INDEX. -/
  | extDataHiRead
  /-- MAP_DATA_READ (R80): A read of GLB_MAP_DATA with AUTOINC advances INDEX. -/
  | mapDataRead
  /-- CHECK (R95): CMD = CHECK starts the evaluation of the stage. -/
  | check
  /-- PAIRED_CHECK (R374): CHECK with PAIRED = 1 also compares the partner's staged mirror vector. -/
  | pairedCheck
  /-- CHECK_DONE (R95): CHECK ends with PASS or the first failing code and detail. -/
  | checkDone
  /-- APPLY_INSTANT (R97): After the coalescer merge, live := stage in one CORE cycle and the epoch advances. -/
  | applyInstant
  /-- DISCARD (R92): CMD = DISCARD sets the stage equal to the live image. -/
  | discard
  /-- FORMAT_DONE (R140): A format ends with the format records written and FORMATTED set. -/
  | formatDone
  /-- RECOUNT_WALK_DONE (R142): The walk that recounts culture references ends and RECOUNT clears. -/
  | recountWalkDone
  /-- MOVE_START (R168): A waiting promotion, demotion or relocation starts when a move slot is free. -/
  | moveStart
  /-- SWEEP_VISIT (R165): The sweep visits the next ledger entry at its pace, decays HEAT and may start moves. -/
  | sweepVisit
  /-- FRAME_CLEAR (R153): A frame from the uncleared list is cleared into the cleared pool at no more than RATE. -/
  | frameClear
  /-- RETIRE (R174): LDG_CMD RETIRE retires a page and quarantines its media. -/
  | retire
  /-- RELEASE_FRAME (R174): LDG_CMD RELEASE_FRAME moves a quarantined frame to the uncleared list. -/
  | releaseFrame
  /-- RELEASE_CELLAR (R174): LDG_CMD RELEASE_CELLAR returns the quarantined units of a cellar frame. -/
  | releaseCellar
  /-- CONTEXT_SLOT_FREE (R226): A freed context slot lets a churn waiting in PARK_WAIT save its job. -/
  | contextSlotFree
  /-- KEY_REQUEST_DONE (R253): The Keeper ends a key request with its RESULT. -/
  | keyRequestDone
  /-- REMAP (R332): The REMAP repair command starts copying a row to a spare. -/
  | remap
  /-- MARK (R334): The MARK repair command makes a device an erasure for its rank. -/
  | mark
  /-- UNMARK (R334): The UNMARK repair command removes a device mark. -/
  | unmark
  /-- RETIRE_CH (R336): The RETIRE_CH repair command starts retiring a channel. -/
  | retireCh
  /-- RETIRE_CH_DONE (R336): The relocation walk ends and the channel becomes RETIRED. -/
  | retireChDone
  /-- UNRETIRE_CH (R338): The UNRETIRE_CH repair command starts restoring a retired channel. -/
  | unretireCh
  /-- UNRETIRE_CH_DONE (R338): The ledger copies on the channel are rewritten and the channel is LIVE. -/
  | unretireChDone
  /-- YOKE_ROLE_RETRY (R346): After a role conflict the yoke link is retried once per second. -/
  | yokeRoleRetry
  /-- YK_RETRAIN (R348): RETRAIN in YK_CTL requests a retrain of the yoke. -/
  | ykRetrain
  /-- LANE_ERROR_CHECK (R360): Each millisecond lane error counts are checked and an automatic narrowing may be requested. -/
  | laneErrorCheck
  /-- YOKE_HB_TIMEOUT (R359): No good HEARTBEAT within TIMEOUT_US is a fatal yoke fault. -/
  | yokeHbTimeout
  /-- HEARTBEAT_SEND (R359): Every 2 µs each part sends a HEARTBEAT. -/
  | heartbeatSend
  /-- ABORT (R375): An ABORT message ends a paired APPLY as PAIR_ABORTED. -/
  | abort
  /-- PAIRED_ARM_TIMEOUT (R375): An ARM not matched within 10 ms aborts the paired APPLY. -/
  | pairedArmTimeout
  /-- PAIRED_FRAME_F (R375): At the start of frame F each armed part applies the paired commit. -/
  | pairedFrameF
  /-- CLASS_A (R377): A CLASS_A message or FATAL_A from the partner moves the mirror to DEGRADED. -/
  | classA
  /-- TAKE_SOURCE (R368): A TAKE_SOURCE message moves a SPLIT part to RESYNC_TGT. -/
  | takeSource
  /-- YK_CMD_TAKE_SOURCE (R368): YK_CMD TAKE_SOURCE makes a SPLIT BOTH_WROTE part the resync source. -/
  | ykCmdTakeSource
  /-- FULL_RESYNC (R368): YK_CMD FULL_RESYNC marks every mirrored unit and starts a resync. -/
  | fullResync
  /-- LAG_WAIT_RELEASE (R364): An ASYNC mirrored write waiting for lag room is installed when the condition clears. -/
  | lagWaitRelease
  /-- SECURE_WATCHDOG_EXPIRE (R441): The secure watchdog expires and the Keeper goes DOWN. -/
  | secureWatchdogExpire
  /-- NORMAL_WATCHDOG_EXPIRE (R445): The normal watchdog expires and the Steward goes DOWN. -/
  | normalWatchdogExpire
  /-- TOKEN_SUBMIT (R450): WLD_TOKEN_CTL SUBMIT starts Keeper verification of a token. -/
  | tokenSubmit
  /-- TOKEN_DONE (R450): Token verification ends with its RESULT. -/
  | tokenDone
  /-- TOKEN_CLEAR (R448): WLD_TOKEN_CTL CLEAR revokes granted debug enables by hardware. -/
  | tokenClear
  /-- FAULT_SPILL (R460): The Steward copies a new fault record to the spill ring. -/
  | faultSpill
  /-- PWR_TARGET_DROWSE (R480): TARGET := 1 arms the part for DROWSE. -/
  | pwrTargetDrowse
  /-- PWR_TARGET_DEEP (R480): TARGET := 2 arms the part for DEEP. -/
  | pwrTargetDeep
  /-- PWR_DISARM (R480): TARGET := 0 cancels an armed power state. -/
  | pwrDisarm
  /-- POWER_CONDITION_CHECK (R481): Each microsecond while armed the entry conditions are checked, and entry begins when all hold. -/
  | powerConditionCheck
  /-- ARM_TO_EXPIRE (R480): ARM_TO expires while armed, and the part disarms with the first failing code. -/
  | armToExpire
  /-- POWER_INSTANT_E (R480): The entry sequence completes at instant E and the part is in DROWSE or DEEP. -/
  | powerInstantE
  /-- DROWSE_EXIT_DONE (R485): The DROWSE exit sequence ends and the part is ACTIVE. -/
  | drowseExitDone
  /-- WARM_RESET_DONE (R491): The warm reset releases its blocks and memory becomes ready. -/
  | warmResetDone
  /-- PARTITION_RESET_DONE (R493): A partition reset ends and PBUSY clears. -/
  | partitionResetDone
  /-- BYPASS (R506): The TAP BYPASS instruction. -/
  | bypass
  /-- IDCODE (R506): The TAP IDCODE instruction returns the device identifier. -/
  | idcode
  /-- SAMPLE_PRELOAD (R506): The TAP SAMPLE/PRELOAD instruction. -/
  | samplePreload
  /-- EXTEST (R506): The TAP EXTEST instruction. -/
  | extest
  /-- CLAMP (R506): The TAP CLAMP instruction. -/
  | clamp
  /-- HIGHZ (R506): The TAP HIGHZ instruction. -/
  | highz
  /-- TCTL (R506): The TAP TCTL instruction reaches the test controller. -/
  | tctl
  /-- SCAN_ENABLE (R507): Enabling scan through TCTL first empties key slots and clears secrets. -/
  | scanEnable
  /-- SNAP (R513): SNAP = 1 copies every programmable and slot counter into its shadow. -/
  | snap
  /-- SMP_DATA0_READ (R517): A read of PMU_SMP_DATA0 copies the record at RD into the read buffer. -/
  | smpData0Read
  /-- SMP_DATA7_READ (R517): A read of PMU_SMP_DATA7 advances RD. -/
  | smpData7Read
  /-- EYE_MARGIN_LOW (R348): The receiver's eye margin on the yoke falls below its limit and the part raises a retrain by itself. -/
  | eyeMarginLow
  /-- YOKE_PARTNER_TRAINING (R347): The yoke partner begins training, which starts link training here and aborts a running yoke self-test. -/
  | yokePartnerTraining
  /-- MGMT_PLL_LOSS (R478): The MGMT PLL falls out of lock and the Drausk complex stops until its watchdogs fire. -/
  | mgmtPllLoss
  deriving DecidableEq, Repr

end Sys2Proof
end

