-- ==== Sys2Proof/Decode.lean ====
section
/-! DEFINITION. The decoder of table words. Commands reach the block as messages and events, not as words: the table of
operations gives no row any bits, so no word spells a command. -/

namespace Sys2Proof

/-- The command a word of the table's bits spells: none, since no row of the table has bits (log entry 7). -/
def decodeTableWord (_nbits _w : Nat) : Option Instr := none

end Sys2Proof
end

