-- ==== Sys2Proof/Config.lean ====
section
/-! DEFINITION. What the specification leaves to the implementation or leaves open: constants without a body. No proof can
see their values; a statement about one holds whatever it is. -/

namespace Sys2Proof.Config

/-- A free value of width `w`, drawn with the state's counter (log entry 1): where the specification states no value. -/
opaque free (w : Nat) : Nat → BitVec w
/-- A free number, drawn with the state's counter (log entry 1). -/
opaque freeNat : Nat → Nat
/-- A free choice, drawn with the state's counter (log entry 1). -/
opaque freeBool : Nat → Bool
/-- The wedge bytes the encoder chooses for 512 bytes against a culture (R175 fixes the format, not the choice). -/
opaque wedgeCode : List Byte → List Byte → List Byte
/-- The bits the encoder chooses for a block of a stream: format, block type (1 its own tables, 2 the culture's), culture image (empty
for none), history newest first, the data, and whether it is the last block (R175). -/
opaque blockCode : Nat → Nat → List Byte → List Byte → List Byte → Bool → List Bool
/-- The coder area of a context block for a coder's state as numbers (R231: opaque). -/
opaque coderEnc : List Nat → List Byte
/-- The numbers that a coder area holds. -/
opaque coderDec : List Byte → List Nat
/-- The dictionary bytes that the trainer chooses for its samples, the strings that recur most in them (R238: the choice is not fixed). -/
opaque trainDict : List Byte → List Byte
/-- How the trainer codes a wedge against a dictionary: for each symbol a match's length and offset, or 0 and a literal (R175, R238). -/
opaque wedgeParse : List Byte → List Byte → List (Nat × Nat)
/-- What a device register of the management complex answers to a read: its block, its address, the word last written there (R432; the
blocks' registers are not described). -/
opaque devRead : Nat → Nat → Option (BitVec 32) → BitVec 32
/-- ECDSA P-384 verification of a token's 112 bytes under the key fixed by the Hitrum hash (R449). -/
opaque sigHitrum : List Byte → Bool
/-- ECDSA P-384 verification of a token's 112 bytes under the owner key of a root hash (R449). -/
opaque sigOwner : BitVec 384 → List Byte → Bool
/-- The Keeper's answer to an SPDM request over a head, with the measurements it may report (R451, R452 name the standard; its bytes
are the standard's). -/
opaque spdmAnswer : Nat → List (BitVec 384) → List Byte → List Byte
/-- The payload bytes of a mailbox answer whose encoding is the CXL standard's: command, head, the fields reported. -/
opaque mboxBytes : Nat → Nat → List Nat → List Byte
/-- The save key of the culture save slots, Key1 and Key2, derived from the fuse root (R242). -/
opaque saveKey1 : BitVec 256
/-- See `saveKey1`. -/
opaque saveKey2 : BitVec 256
/-- The digests of the images that measurements report (R452): index and image version. -/
opaque digest : Nat → Nat → BitVec 384
/-- Hitrum's PCI-SIG Vendor ID (R529 names it, and gives no number). -/
opaque vendorId : BitVec 16
/-- What a function's configuration space holds, by double word, where R529 gives no value: the PCIe and CXL standards' structures. -/
opaque pciWord : Nat → Nat → BitVec 32
/-- The bits of a configuration double word that software writes, likewise. -/
opaque pciMask : Nat → Nat → BitVec 32
/-- What the component and device registers of BAR2/3 hold at reset, by function and double word (R46 names the structures; the CXL
standard lays them out). -/
opaque compWord : Nat → Nat → BitVec 32
/-- The bits of a component or device register that software writes, likewise. -/
opaque compMask : Nat → Nat → BitVec 32
/-- A line of the sealed key area, under the key derived from the fuse root and a nonce: nonce, the slots as numbers, line (R249). -/
opaque sealLine : Nat → List Nat → Nat → BitVec 512
/-- The mapping of a reading to the PLDM answer's bytes (DSP0248, R545). -/
opaque pldmBytes : Nat → Int → List Byte

end Sys2Proof.Config
end

