-- ==== Sys2Proof/Machine/Parts.lean ====
section
/-! DEFINITION. The pieces of the block's state, one group for each unit of the part: plain data. What a Control BAR register
holds by itself is in the register file of `State`; what has a shape of its own is here. -/

namespace Sys2Proof.Machine

/-- The staged or the live image (R75, R80, R92): ST registers by their staged offset, extent attributes, map entries. -/
structure Image where
  regs : Tbl Word := []
  ext : Tbl (BitVec 64) := []
  map : Tbl Nat := []
  deriving DecidableEq, Repr

/-- What the stage machinery is doing (R93-R97, R375). `copy` is an APPLY past its instant whose culture images are still being copied
(R142, R240): the code that it then reports. -/
inductive StageOp where
  | idle | check (paired : Bool) | apply | arming | armed | copy (code : Byte)
  deriving DecidableEq, Repr

/-- The stage machinery (R93-R96): `lost` is an ignored staged write, `holdLo`, `holdHi` the holding registers of R75. -/
structure Commit where
  op : StageOp := .idle
  checked : Bool := false
  pairedPass : Bool := false
  code : Byte := 0#8
  index : Nat := 0
  kind : Nat := 0
  lost : Bool := false
  holdLo : Word := 0#32
  holdHi : Word := 0#32
  deriving DecidableEq, Repr

/-- Straps as sampled at the last cold reset (R34, R346). -/
structure Straps where
  paBif : Fin 4 := 0
  pbBif : Fin 4 := 0
  bootSrc : Fin 4 := 0
  yokeRole : Bool := false
  deriving DecidableEq, Repr

/-- Link states of a head (R54). -/
inductive HeadSt where
  | absent | down | training | ioOnly | active | recovery | insecure | disabled
  deriving DecidableEq, Repr

/-- Link power states below L0 (R57, R481). -/
inductive LinkPwr where
  | l0 | l1 | l2
  deriving DecidableEq, Repr

/-- Regulation classes (R18). -/
inductive Cls where
  | rt | table | bulk | engine
  deriving DecidableEq, Repr

/-- The request tag (R18): what every message carries that a request causes. `trk` is its tracker, none where it has none yet. -/
structure Tag where
  head : Nat := 0
  part : Nat := 0
  cls : Cls := .engine
  urg : Nat := 0
  panic : Bool := false
  trk : Option Nat := none
  poison : Bool := false
  deriving DecidableEq, Repr

/-- What a request does at its line (R114, R119, R120, R128). -/
inductive ReqKind where
  | read (m : MetaRd)
  | write (m : Meta) (data : Line) (poison : Bool)
  | clean
  | atomic (op : Atomic) (byte : Nat)
  | ioRead
  | ioWrite (data : Line) (be : BitVec 64)
  | setPoison
  /-- A read by an agent of the part's own (R119). -/
  | agRead
  /-- A write by such an agent, of the bytes enabled; `poison` sets P, `mirrors` says that the change is this part's own (R120, R361). -/
  | agWrite (data : Line) (be : BitVec 64) (poison : Bool) (mv : BitVec 2) (mirrors : Bool)
  /-- TALLY_READ's locked step: the line is read and the bytes enabled are written as zero (R419). -/
  | agClear (be : BitVec 64)
  /-- A line taken by FORGET or RETIRE (R173). -/
  | take
  /-- A merge of pending tally sums (R414). -/
  | merge
  /-- A line of a decoded wedge on its way to the line cache (R23, R105); `asRead` as in `CLine`. -/
  | install (data : Line) (poison asRead : Bool)
  /-- Media lines that work of the part's own is to read or write past the home: the regulator's leave for so many of them (R298, R302). -/
  | grant (lines : Nat)
  deriving DecidableEq, Repr

/-- Where a tracked request stands (R122, R132): waiting for its turn or for snoops, for a ledger entry, for DRAM, for a
wedge decode, for a way, for the partner's acknowledgement; its line taken for a page command (R173); answered, its clean line waiting
for a way (R109). -/
inductive Phase where
  | start | snooping | ledger (lline : Nat) | dram | decode (page wedge : Nat) | stall | lag | ackWait (vc : Nat) (rec : Nat) | taken | fill
  deriving DecidableEq, Repr

/-- A request: in a receive buffer, an ingress queue, an internal source's queue, the fabric ahead of its slice or a tracker. `mst` is the
master that pays for it; `tag` the host's tag, or the number of the part's agent, `seq` then the access's number in the agent's work; `trk` its tracker, 0-16,383 (R18); `cluster` the home
cluster of a decode it causes, for a ring's descriptor (R217); `t0` the CORE cycle of its arrival at the slice (R105, R516); `quiet` says
that its answer is not sent (R66); `merging` that the pending tally sums of its line go first (R413);
`stalled` that its wait for a way has been counted (R109); `old` that an APPLY has changed its extent's class since it entered its
ingress queue (R50). -/
structure Req where
  id : Nat := 0
  src : Nat := 0
  head : Nat := 0
  part : Nat := 0
  tag : Nat := 0
  seq : Nat := 0
  mst : Nat := 0
  cls : Cls := .table
  urg : Nat := 0
  panic : Bool := false
  poison : Bool := false
  line : Nat := 0
  kind : ReqKind := .clean
  sram : SramErr := .none
  phase : Phase := .start
  snooped : Bool := false
  sampled : Bool := false
  lmiss : Bool := false
  tier : Nat := 0
  chan : Nat := 0
  t0 : Nat := 0
  late : Bool := false
  quiet : Bool := false
  merging : Bool := false
  stalled : Bool := false
  trk : Nat := 0
  cluster : Option Nat := none
  old : Bool := false
  deriving DecidableEq, Repr

/-- A write into a head's tally window, fully received (R409): its offset, its length and its 8-byte quantities, each with whether it came
whole. -/
structure Post where
  off : Nat
  bytes : Nat
  recs : List (BitVec 64 × Bool)
  deriving DecidableEq, Repr

/-- A head (R42, R49, R54, R55, R83): its link, its receive buffers and class queues, its decoders by logical device. `biCr` are the BI
credits that the host grants, `skid` says that its IDE stream runs in skid mode (R41), `held` what it received in Recovery, in order (R54, R62). `post` holds the tally writes that wait for room (R410).
`rtOwn` says that a retrain
asked for by the part is under way or wanted, `rtLost` that it was withdrawn for the partner's, until the CORE cycle `rtNext` (R61). -/
structure Head where
  st : HeadSt := .down
  prev : HeadSt := .down
  perst : Bool := true
  width : Nat := 0
  full : Nat := 0
  speed : Nat := 0
  memActive : Bool := false
  ideOn : Bool := false
  skid : Bool := false
  bi : Bool := false
  biCr : Nat := 0
  biLogged : Bool := false
  viral : Bool := false
  viralRx : Bool := false
  mld : Bool := true
  refusedLogged : Bool := false
  panic : Bool := false
  lpwr : LinkPwr := .l0
  l0pOwn : Bool := false
  l0pAsk : Nat := 0
  l0pLost : Nat := 0
  l0pNext : Nat := 0
  rxReq : List Req := []
  rxRwd : List Req := []
  held : List Instr := []
  rtOwn : Bool := false
  rtLost : Bool := false
  rtNext : Nat := 0
  qRt : List Req := []
  qTable : List Req := []
  qBulk : List Req := []
  decoders : List (Nat × Decoder) := []
  keys : List (Nat × BitVec 256) := []
  keyGo : Option (Fin 2) := none
  keysNew : Bool := false
  drop : Option (Nat × Nat × Nat × Nat) := none
  post : List Post := []
  walk : Bool := false
  deriving DecidableEq, Repr

/-- The CXL mailbox of a head (R44): event logs by number 0-4, policies, the running background command and its result. -/
structure Mbox where
  logs : List (Nat × Nat × List Byte) := []
  nextHandle : Nat := 1
  policy : BitVec 40 := 0#40
  alert : BitVec 96 := 0#96
  scan : Option (Nat × Nat) := none
  scanRes : List Nat := []
  fwXfer : Bool := false
  fwReady : Option (BitVec 24 × Bool) := none
  fwAct : Bool := false
  offered : List (Nat × List Nat) := []
  deriving DecidableEq, Repr

/-- A message the part sends, in order (the outside's view of it). -/
inductive Out where
  | memData (h tag : Nat) (data : Line) (poison : Bool) (m : Option Meta)
  | memCmp (h tag : Nat) (err : Bool)
  | snoop (h line : Nat) (k : Nat)
  | biConflictAck (h line : Nat)
  | credit (h : Nat) (rwd : Bool)
  | ioCpl (h tag : Nat) (data : BitVec 512) (ep err : Bool)
  | regData (p : Path) (dws : List Word)
  | cplAbort (p : Path)
  | msix (fn vector : Nat)
  | mbox (h : Nat) (code : Nat) (payload : List Byte)
  | spdm (h : Nat) (bytes : List Byte)
  | ideKm (h : Nat) (code : Nat)
  | yokeMsg (vc : Nat) (ty : Nat) (args : List Nat)
  | yokeRec (vc : Nat) (hdr : BitVec 64) (data : Option Line)
  | yokeFlit (flit : BitVec 2048)
  | yokeOp (width : Nat) (half : Bool)
  | pageReq (fn : Nat) (addr : Nat)
  | busRsp (code : Nat) (data : Word)
  | worldIrq (keeper : Bool) (n : Nat)
  | monitorRet (core : Nat) (code : Nat)
  | linkReq (h : Nat) (what : Nat)
  | tap (ir : Nat) (v : Nat)
  | pldm (bytes : List Byte)
  | viral (h : Nat)
  | errMsg (h : Nat) (tag : Nat)
  | cfgRetry (p : Path)
  deriving DecidableEq, Repr

/-- A line-cache way (R107). The page a way belongs to is its key; `use` is its recency; `asRead` says that the poison came with the line's
codeword, whose bytes a poisoned answer keeps (R318 row 3, R324). -/
structure CLine where
  data : Line := 0#512
  p : Bool := false
  mv : BitVec 2 := 0#2
  c : Bool := false
  dirty : Bool := false
  lock : Bool := false
  asRead : Bool := false
  use : Nat := 0
  deriving DecidableEq, Repr

/-- A snoop-filter entry (R114): presence bits, and state A (otherwise S). -/
structure SfEnt where
  pres : BitVec 8 := 0#8
  stA : Bool := false
  use : Nat := 0
  deriving DecidableEq, Repr

/-- An outstanding snoop (R116, R123): kind 0 BISnpCur, 1 BISnpData, 2 BISnpInv; its timeout in µs as set when it was sent; `held` while
its head is in Recovery, after which the timer restarts (R62). -/
structure Snoop where
  head : Nat
  line : Nat
  kind : Nat
  timeout : Nat
  held : Bool := false
  deriving DecidableEq, Repr

/-- What a finished access of an agent of the part's own answered, kept until the work that it belongs to has ended: the agent, the
access's number in that work, what it was; the line as it was before it; `ack` is the mirror record of a write, `denied` says that the access was judged at its slice and not made (R393). -/
structure Done where
  who : Nat
  seq : Nat
  line : Nat
  kind : ReqKind
  data : Line
  p : Bool
  mv : BitVec 2 := 0#2
  ack : Option (Nat × Nat) := none
  denied : Bool := false
  deriving DecidableEq, Repr

/-- A clean line that waits for a way of its set (R109), with the tag and the master of what brought it. -/
structure Fill where
  line : Nat
  data : Line
  p : Bool
  mv : BitVec 2
  asRead : Bool := false
  tag : Tag := {}
  mst : Nat := 33
  deriving DecidableEq, Repr

/-- The home (R101-R134). `evicting` holds the lines whose filter entry is being evicted (R117), `sfRsv` the lines for which a way of the
filter is reserved, each with the request that it is reserved for; `intq` the requests of the internal sources that wait for the regulator (R134, R302), `fab` those admitted that wait
ahead of their slices (R103); `trk` the trackers' requests in the order of their slices; `done` what the agents' accesses answered;
`poisons` the lines that are poisoned and have no way and no media line to hold P (R124). -/
structure Home where
  lc : Tbl CLine := []
  sf : Tbl SfEnt := []
  snoops : List Snoop := []
  evicting : List Nat := []
  sfRsv : List (Nat × Nat) := []
  intq : List Req := []
  fab : List Req := []
  trk : List Req := []
  done : List Done := []
  fills : List Fill := []
  poisons : List Nat := []
  peak : Nat := 0
  nextId : Nat := 0
  clock : Nat := 0
  deriving DecidableEq, Repr

/-- A ledger entry (R143). -/
structure LEnt where
  st : Nat := 0
  dic : Bool := false
  pp : Bool := false
  cs : Bool := false
  ma : Nat := 0
  k : Nat := 0
  cult : Nat := 0
  heat : Nat := 0
  woff : List Nat := [0, 0, 0, 0, 0, 0, 0]
  gen : Nat := 0
  deriving DecidableEq, Repr

/-- A line of the ledger cache: its four entries, and whether HEAT, PP or CS has changed since the fetch (R148, R149). -/
structure LLine where
  ents : List LEnt := []
  changed : Bool := false
  use : Nat := 0
  deriving DecidableEq, Repr

/-- Kinds of page moves (R156, R160, R337). -/
inductive MoveKind where
  | promote | demote | relocate
  deriving DecidableEq, Repr

/-- A page move: waiting for a slot, or started with its destination (R168). `cls` is its work class 1 RT, 2 normal, 3 bulk;
`done` counts the wedges already written (R158); `pin` says a PIN waits; `got` is what its churn has read of the page and not yet
written, piece by piece: bytes, or none for a piece that cannot be had. -/
structure Move where
  page : Nat
  kind : MoveKind
  cls : Nat
  started : Bool := false
  dst : Option Nat := none
  gen : Nat := 0
  cult : Option Nat := none
  done : Nat := 0
  pin : Bool := false
  stop : Bool := false
  resumed : Bool := false
  got : List (Option (List Byte)) := []
  deriving DecidableEq, Repr

/-- Media freed and not yet settled (R151): the requests that read the old entry, and a frame or a cellar extent. -/
structure Freed where
  waits : List Nat
  frame : Option Nat := none
  cellar : Option (Nat × Nat) := none
  deriving DecidableEq, Repr

/-- An interval of numbers [start, start + len). -/
abbrev Iv := Nat × Nat

/-- The ledger unit (R136-R174). `ended` holds how a move that a page command waits for ended, by page: 0 done, 1 NO_SHRINK,
2 poisoned, 3 stopped by a write. `leakFrames` and `leakUnits` is media that lost entries held (R150); `cntOpen` says that VALID = 0 of
the culture count record has been written since the start (R142), `cmdArg` the argument that the running page command was given. `away` and `awayUnits` is the free media of
channels that are not LIVE, which stays off the lists (R336). -/
structure Ledger where
  formatted : Bool := false
  fmtBusy : Bool := false
  fmtAuto : Bool := false
  fmtResult : Nat := 0
  recount : Bool := false
  extents : Nat := 0
  dup : Bool := false
  cellarUnits : Nat := 0
  fseq : Nat := 0
  lines : Tbl LLine := []
  fetching : List Nat := []
  pool : List Iv := []
  uncleared : List Iv := []
  fresh : List Iv := []
  klists : Tbl (List Nat) := []
  quarFrames : List Nat := []
  quarCellar : List (Nat × Nat) := []
  freed : List Freed := []
  wantFrame : List Nat := []
  held : List (Nat × CLine) := []
  heatQ : List Nat := []
  heatCnt : Nat := 0
  moves : List Move := []
  locked : List Nat := []
  counts : Tbl Nat := []
  nonUnw : Tbl Nat := []
  pinned : Nat := 0
  sweep : Nat := 0
  draining : Bool := false
  emptySeen : Bool := false
  lowSeen : Bool := false
  cmdBusy : Bool := false
  cmdArg : Nat := 0
  cmdResult : Nat := 0
  ended : Tbl Nat := []
  retiredSeen : List Nat := []
  retention : List Nat := []
  leakFrames : List Iv := []
  leakUnits : List Iv := []
  away : List Iv := []
  awayUnits : List Iv := []
  cntOpen : Bool := false
  fwFmt : Option (Nat × Bool × Nat) := none
  deriving DecidableEq, Repr

/-- Channel population (R257-R264). -/
structure Chan where
  used : Bool := false
  dimms : List Dimm := []
  rejected : List Dimm := []
  unusedDimm : Bool := false
  deriving DecidableEq, Repr

/-- The population: the used set in the order of R260, log2 of ranks and dies, density, speed code, DIMMs per channel. -/
structure Pop where
  chans : List Chan := []
  used : List Nat := []
  rb : Nat := 0
  ld : Nat := 0
  dens : Nat := 0
  speed : Nat := 0
  dpc2 : Bool := false
  mrdimm : Bool := false
  deriving DecidableEq, Repr

/-- The placement of a run of media frames (R263): what the hash depends on. -/
structure Place where
  used : List Nat := []
  rb : Nat := 0
  ld : Nat := 0
  deriving DecidableEq, Repr

/-- A run of frames whose unlisted bytes read as a codeword of zeros: cleared lines (W = 0, with C in the cellar area) or
zeroed ledger lines (W = 1) (R140, R153). -/
structure Paint where
  place : Place
  start : Nat
  len : Nat
  w : Bool
  c : Bool
  deriving DecidableEq, Repr

/-- DRAM cells: bytes by physical address (the value a of R316, times 80, plus the symbol), and the painted runs. -/
structure Media where
  cells : List Host.Cell := []
  paints : List Paint := []
  deriving DecidableEq, Repr

/-- A place in DRAM. `col` is the burst index in the row. -/
structure MAddr where
  ch : Nat
  sub : Nat
  bg : Nat
  bank : Nat
  col : Nat
  rank : Nat
  die : Nat
  row : Nat
  deriving DecidableEq, Repr

/-- What R318 decides for a line: the row that applies. -/
inductive Verdict where
  | uncorrectable | misdirected | poisoned | flatUnwritten | zeros | data
  deriving DecidableEq, Repr

/-- A judged line: the verdict, the 64 bytes and the rind as decoded (as read when uncorrectable), the symbols corrected
outside a marked device, and the syndrome word of R457. -/
structure Judged where
  v : Verdict
  line : Line
  rind : BitVec 16
  fixed : List Nat
  cw : Codeword
  syn : Word
  deriving DecidableEq, Repr

/-- Who a media read or write is for. -/
inductive Purpose where
  | host (req : Nat) | scrub | inline (page wedge : Nat) (idx : Nat) | ledger (lline : Nat) | wback (line : Nat) | canary | keeper | other
  deriving DecidableEq, Repr

/-- A read-queue or write-queue entry of a subchannel (R270-R275); `frame`, `ln` name the media line. A write carries its
codeword, a read in flight the symbols taken at its RD; `back` says that DRAM's answer is in, for a read that its unit takes later, with
the answer judged in `ans`, and `bad` that the answer is an error (R285). `tag` is that of what caused it (R18); `spot` is the place of a line
outside the run of frames (R264), a canary's or the Keeper's by its purpose (R508, R511); `newer` says that a write of the line has entered the write queue since the read did (R321). -/
structure QEnt where
  id : Nat
  frame : Nat
  ln : Nat
  tag : Tag := {}
  spot : Option MAddr := none
  target : Nat := 0
  purpose : Purpose := .other
  cw : Codeword := 0#640
  wr : Bool := false
  act : Bool := false
  back : Bool := false
  bad : Bool := false
  newer : Bool := false
  ans : Option Judged := none
  deriving DecidableEq, Repr

/-- The class, head and urgency of an entry. -/
abbrev QEnt.cls (q : QEnt) : Cls := q.tag.cls
abbrev QEnt.head (q : QEnt) : Nat := q.tag.head
abbrev QEnt.urg (q : QEnt) : Nat := q.tag.urg

/-- What entered from the fabric: writes that now stand in the queue, reads answered from it. -/
structure Entered where
  writes : List QEnt := []
  fwd : List (QEnt × Codeword) := []
  deriving DecidableEq, Repr

/-- A command of the replay window (R285): its request's number, what it is (0 ACT, 1 read, 2 write, 3 REFab, 4 REFsb, 5 RFMsb), its
logical rank and bank index, whether it was forced and what it cut from the activation counts; for a write its entry and what the
cells held before it. -/
structure RCmd where
  id : Nat := 0
  kind : Nat
  lr : Nat
  bi : Nat := 0
  forced : Bool := false
  cut : List (Nat × Nat) := []
  ent : Option QEnt := none
  old : Codeword := 0#640
  deriving DecidableEq, Repr

/-- Self-refresh of a subchannel (R287-R290). -/
inductive SrSt where
  | out | entering | inSr
  deriving DecidableEq, Repr

/-- A subchannel scheduler (R270-R284). `debt` by logical rank; `forced` the refresh (kind 0 all banks, 1 + b same bank b) and
RFM (kind 5 + b) commands that must be issued, by logical rank and kind, oldest first, and `due` those that are due and may wait; `sbPaid` how many intervals REFsb has paid in part at each bank index (octal digits, R278); `raa` the
activations by bank; `block` what R280 holds back; `replay` the commands of the replay window; `canAt` the entry count of the canaries it wrote last (R291);
`news` what entered from the fabric during the command being executed. -/
structure Sub where
  rq : List QEnt := []
  wq : List QEnt := []
  fabric : List QEnt := []
  flight : List QEnt := []
  draining : Bool := false
  debt : Tbl Nat := []
  forced : List (Nat × Nat) := []
  due : List (Nat × Nat) := []
  sbPaid : Tbl Nat := []
  raa : Tbl Nat := []
  block : List (Nat × Nat × List Nat) := []
  replay : List RCmd := []
  sr : SrSt := .out
  canaries : Bool := false
  canAt : Nat := 0
  news : Entered := {}
  deriving DecidableEq, Repr

/-- The memory controllers (R257-R294): twenty-four subchannels at 2 × channel + subchannel. `trainRec` are the training records, speed and
DIMMs by slot and serial number, by channel (R266, R267), `saved` the population that they were made with (placement and density), `allFull`
that the last cold reset found it changed (R261); `trained` holds TRAIN + 256 × STEP by channel; `recentred` counts the write DQS recentrings
of a channel (R268). -/
structure Mcs where
  subs : Tbl Sub := []
  nextId : Nat := 0
  hot : Tbl Bool := []
  trained : Tbl Nat := []
  canaryCnt : Tbl Nat := []
  saved : Option (Place × Nat) := none
  allFull : Bool := false
  trainRec : Tbl (Nat × List (Nat × Nat)) := []
  recentred : Tbl Nat := []
  deriving DecidableEq, Repr

/-- A remap entry (R331, R332): bank key, row, spare index, progress 0-128 (`back` while SPPR copies back). -/
structure Remap where
  ch : Nat
  bank : Nat
  row : Nat
  spare : Nat
  progress : Nat
  back : Bool := false
  deriving DecidableEq, Repr

/-- The repair command in progress (R328). -/
inductive Repair where
  | none | remap | sppr | hppr | retire | unretire
  deriving DecidableEq, Repr

/-- The scrubber, correction history and repairs (R325-R344). `chg` names the channels that are CHANGING, true for restoring;
`suspects` the banks still to be visited (channel, bank key); `spprs` the recorded soft repairs (channel, bank key, row); `struck` the copies
of triplicated critical words that differ from their word (R343). -/
structure Scb where
  pos : Nat := 0
  passes : Nat := 0
  paused : Bool := false
  suspects : List (Nat × Nat) := []
  chist : List (Nat × Nat × Nat) := []
  sticky : List (Nat × Nat) := []
  devCnt : Tbl Nat := []
  remaps : List Remap := []
  oldSpares : List (Nat × Nat) := []
  marks : Tbl Nat := []
  chSt : Tbl Nat := []
  chg : List (Nat × Bool) := []
  rep : Repair := .none
  repArgs : Nat × Nat := (0, 0)
  repResult : Nat := 0
  repSpare : Nat := 0
  spprs : List (Nat × Nat × Nat) := []
  lastCe : Tbl Nat := []
  passStart : Nat := 0
  struck : List Upset := []
  chgKept : List (Nat × Bool) := []
  deriving DecidableEq, Repr

/-- The bandwidth regulator (R297-R311). `live` is the live floor in 0.1 GB/s, less what a resync takes (R308); `floorOld` is the floor that
the window still uses when it has changed in it. -/
structure Bwg where
  charged : Tbl Nat := []
  use : Tbl Nat := []
  held : Tbl Nat := []
  cycles : Nat := 0
  short : Bool := false
  wrr : Tbl Int := []
  rr0 : Nat := 37
  live : Nat := 0
  floorOld : Option Nat := none
  cut : Option (Nat × Nat) := none
  deriving DecidableEq, Repr

/-- Yoke link states (YK_STAT LINK). -/
inductive YkLink where
  | down | training | up | retrain | held
  deriving DecidableEq, Repr

/-- Mirror states (R368). -/
inductive Mirror where
  | degraded | pairing | split | resyncSrc | resyncTgt | mirrored
  deriving DecidableEq, Repr

/-- The yoke unit (R345-R376). `op` is the retrain (1) or width change (2) under way, `opOwn` that this part raised it, `opLost`
its withdrawn requests, each with the CORE cycle before which it is not issued again, once the change made for it is complete (R349). `recs0`,
`recs3` hold the records not acknowledged: number, unit, CORE cycle; `txWait` the flits that wait for a credit or for replay room,
by VC, `replayBuf` the flits sent and not acknowledged with SEQ and VC (R357). `rxq0`, `rxq3` hold the records received and not yet
installed, each with the number of flits that leave their receive buffer with it, `open0`, `open3` count the flits that wait for the rest of a
record (R356); `turn3` says that VC3 goes before VC0, `fatalA` that the part is in the safe state (R351); `inst0`, `inst3` the number of the first of them; `rxTop` is
the SEQ after the highest one known; `upAt` the CORE cycle at which training ended. -/
structure Yoke where
  link : YkLink := .down
  width : Nat := 0
  half : Bool := false
  roleConflict : Bool := false
  peerA : Bool := false
  op : Nat := 0
  opOwn : Bool := false
  opAsk : Nat × Nat × Bool := (0, 0, false)
  opLost : List ((Nat × Nat × Bool) × Option Nat) := []
  seqTx : Nat := 0
  acked : Nat := 4095
  expect : Nat := 0
  rxTop : Nat := 0
  window : Tbl (BitVec 2048) := []
  replayBuf : List (Nat × Nat × BitVec 2048) := []
  naks : Tbl Nat := []
  credits : Tbl Nat := []
  rxHeld : Tbl Nat := []
  txRec0 : Nat := 0
  txRec3 : Nat := 0
  inst0 : Nat := 0
  inst3 : Nat := 0
  rxq0 : List (BitVec 64 × Option Line × Nat) := []
  rxq3 : List (BitVec 64 × Option Line × Nat) := []
  open0 : Nat := 0
  open3 : Nat := 0
  turn3 : Bool := false
  fatalA : Bool := false
  recs0 : List (Nat × Nat × Nat) := []
  recs3 : List (Nat × Nat × Nat) := []
  txWait : List (Nat × Out) := []
  part0 : List Byte := []
  part3 : List Byte := []
  st : Mirror := .degraded
  cause : Nat := 0
  trust : Bool := false
  tgtIncomplete : Bool := false
  peerState : Nat := 0
  peerSelf : BitVec 64 := 0#64
  peerDigest : Word := 0#32
  map : List Nat := []
  copying : List Nat := []
  copyAt : Option (Nat × Nat) := none
  pairSeq : Nat := 0
  phase : Nat := 0
  doubt : Bool := false
  frame : Nat := 0
  peerArm : Option Word := none
  goAcked : Bool := false
  vec : Tbl (BitVec 256) := []
  vecWant : Bool := false
  cmdResult : Nat := 0
  laneSeen : Tbl Nat := []
  upAt : Nat := 0
  deriving DecidableEq, Repr

/-- Ring states (R402). -/
inductive RingSt where
  | disabled | active | resetting | down | error
  deriving DecidableEq, Repr

/-- A descriptor ring (R379-R405); `cfg` is the configuration its current epoch runs under (live registers 0-6). -/
structure Ring where
  st : RingSt := .disabled
  retiring : Bool := false
  phase : Bool := true
  epoch : Nat := 0
  sqHead : Nat := 0
  cqTail : Nat := 0
  sqTail : Nat := 0
  cqHead : Nat := 0
  since : Nat := 0
  old : List (Nat × List Nat × Nat × Nat × Bool) := []
  deriving DecidableEq, Repr

/-- Where a job stands (R216-R230, R392): fetched and waiting, queued in its cluster, running on a churn, waiting for room to
park (PARK_WAIT) by a fault or a pre-emption, parked by a fault, or ended with a status and RESULT, its record to be written. -/
inductive JobSt where
  | waiting | queued | running (churn : Nat) | parkWait (churn : Nat) (fault : Bool) | parked
  | ended (status : Nat) (result : Nat)
  deriving DecidableEq, Repr

/-- A context block's header, history (newest first) and coder numbers (R231). -/
structure Ctx where
  fmt : Nat
  dir : Bool
  cult : Option Nat
  loads : Nat
  inTot : Nat
  outTot : Nat
  chk : Word
  hist : List Byte
  pend : Nat
  nums : List Nat
  deriving DecidableEq, Repr

/-- The stream of a running COMPRESS or DECOMPRESS at its last checkpoint (R224); `lost` is how many bytes of history are to be read again,
once the job has left its churn (R227). -/
structure Coder where
  ctx : Ctx
  lost : Option Nat := none
  deriving DecidableEq, Repr

/-- A counter value that a TALLY_READ has cleared: its line, lane and partition, and the byte of DST that it is for once the read is taken up (R419). -/
structure Took where
  line : Nat
  lane : Nat
  value : Nat
  part : Nat
  dest : Option Nat
  deriving DecidableEq, Repr

/-- A descriptor job (R385). `prog` is its progress at the last checkpoint (bytes, pages, items or counters), `wrote` the bytes it
has written; `acc` and `first` are what page commands and batches accumulate. `slot` says where its saved state lies: 1 a context
slot, 2 its PARK area. `held` is what a batch or a training holds between its phases, `res` a batch's results (R237, R238);
`again` says that a lookup is to be repeated, `spans` that a displacement ended during it, `disp` numbers the dispatches (R428); `coder` is a stream;
`took` the counter values cleared and not yet written (R419); `retired` that it has touched a Retired page (R152);
`acks` the mirror records (VC, number) its record waits for (R397); `seq` the order in which jobs start and end; `faults` the Page Requests
by page; `asked` numbers the accesses of the piece that is being done, and is 0 between steps. -/
structure Job where
  id : Nat
  ring : Nat
  epoch : Nat
  idx : Nat
  desc : BitVec 512
  st : JobSt := .waiting
  slot : Nat := 0
  wclass : Nat := 1
  prog : Nat := 0
  wrote : Nat := 0
  acc : Nat := 0
  first : Option (Nat × Nat) := none
  held : List Byte := []
  res : List Byte := []
  again : Bool := false
  coder : Option Coder := none
  took : List Took := []
  disp : Nat := 0
  spans : Bool := false
  faults : List (Nat × Nat) := []
  faultAddr : Nat := 0
  prqSent : Bool := false
  lmErrs : Nat := 0
  seq : Nat := 0
  stale : Bool := false
  ctxFail : Bool := false
  noRec : Bool := false
  retired : Bool := false
  loadCnt : Option (Nat × Nat) := none
  acks : List (Nat × Nat) := []
  asked : Nat := 0
  deriving DecidableEq, Repr

/-- What a churn runs. -/
inductive Running where
  | job (id : Nat) | decode (page wedge : Nat) | move (page : Nat) | clear (frame : Nat) | sweep (page : Nat) | format | recount
  deriving DecidableEq, Repr

/-- An in-line decode asked for (R21, R24, R215, R217): the wedge, GEN of the entry that it reads by, its home cluster, and the tag of
the read that caused it. -/
structure Decode where
  page : Nat
  wedge : Nat
  gen : Nat
  home : Nat
  tag : Tag
  deriving DecidableEq, Repr

/-- The class of a decode. -/
abbrev Decode.cls (d : Decode) : Cls := d.tag.cls

/-- The churn array (R211-R240). `lent` holds the decodes of lent churns; queues are keyed 4 × cluster + class; `wait` is work bound
to a full queue; `avoid` is work that must go to another churn (R212); `coders` is what the coder areas written so far mean. -/
structure Chn where
  run : Tbl Running := []
  lent : Tbl (Nat × Nat) := []
  queues : Tbl (List Running) := []
  wait : List (Nat × Running) := []
  avoid : List (Nat × Running) := []
  decodes : List Decode := []
  slots : Nat := 0
  images : Tbl (List Byte) := []
  loadCnt : Tbl Nat := []
  copying : List Nat := []
  priBlocked : List Nat := []
  preempt : List (Nat × Nat) := []
  started : Nat := 0
  coders : List (List Byte × List Nat) := []
  deriving DecidableEq, Repr

/-- The descriptor queue unit (R379-R405). `lostPrq` names jobs that ended STALE with a Page Request outstanding, whose response is dropped (R383). -/
structure Dqu where
  rings : Tbl Ring := []
  jobs : List Job := []
  nextJob : Nat := 0
  lostPrq : List Nat := []
  last : Nat × Nat := (0, 0)
  deriving DecidableEq, Repr

/-- A coalescer entry (R412): eight lanes, and how many records it holds. -/
structure Coal where
  lanes : List Nat := [0, 0, 0, 0, 0, 0, 0, 0]
  recs : Nat := 0
  sat : Bool := false
  part : Nat := 0
  incs : List (Nat × Nat) := []
  use : Nat := 0
  deriving DecidableEq, Repr

/-- A tally record in an input queue (R408-R411): the port it came by (2 a descriptor, 3 a value that R419 adds back, which is no record),
its line and lane, whether it adds to a pair, its increment, and its table's partition and SAT. -/
structure TRec where
  port : Nat
  line : Nat
  lane : Nat
  pair : Bool
  inc : Nat
  part : Nat
  sat : Bool
  deriving DecidableEq, Repr

/-- The tally unit (R406-R419): the input queues of the two ports, the coalescer; `direct` holds the extents that a running APPLY merges,
whose records go straight to media (R98). -/
structure Tally where
  inq : List TRec := []
  coal : Tbl Coal := []
  direct : List Nat := []
  clock : Nat := 0
  deriving DecidableEq, Repr

/-- The strainer (R420-R428): allocation pointers and entries in use, by table; `kept` the entries freed while lookups were in flight (table,
entry, and those lookups by job and item), which are not allocated until these have finished. -/
structure Strainer where
  ptr : Tbl Nat := []
  used : Tbl Nat := []
  kept : List (Nat × Nat × List (Nat × Nat)) := []
  deriving DecidableEq, Repr

/-- A key slot (R247). -/
structure KeySlot where
  key1 : BitVec 256
  key2 : BitVec 256
  owner : Nat
  kid : Word
  deriving DecidableEq, Repr

/-- The line cipher's slots and key request (R247-R253); `kek` is the KEK held by the Keeper. -/
structure Cry where
  slots : Tbl KeySlot := []
  busy : Option (Nat × Nat × Nat) := none
  result : Nat := 0
  data : Tbl Word := []
  kek : Option (BitVec 256) := none
  sealedKek : Option (BitVec 256) := none
  sealedSlots : Option (Tbl KeySlot) := none
  deriving DecidableEq, Repr

/-- World states (R441-R445). -/
inductive WorldSt where
  | booting | up | down | restarting | failed
  deriving DecidableEq, Repr

/-- Ownership states of a block (R436): OWNED, QUIESCING and RESET towards an owner. -/
structure Own where
  keeper : Bool
  st : Nat := 0
  target : Bool := false
  gated : Bool := false
  claim : Bool := false
  cyc : Nat := 0
  deriving DecidableEq, Repr

/-- A core of the management complex (R431, R446): whether it is in secure state, the MGMT cycles it has spent in normal state before the present
stay there, and the MGMT cycle in which that stay began. -/
structure CoreSt where
  secure : Bool := false
  cyc : Nat := 0
  since : Nat := 0
  deriving DecidableEq, Repr

/-- The management complex (R431-R453). `sram` holds both worlds' memory, the Keeper's share at even and the Steward's at odd keys (R33, R432),
`dev` the words written into assignable blocks and watchdogs, by 2^24 × block + address. `rootNext` is the owner root hash of an accepted provisioning request, fused at the next cold
reset (R447). -/
structure Worlds where
  keeper : WorldSt := .booting
  steward : WorldSt := .booting
  kRestarts : Nat := 0
  sRestarts : Nat := 0
  own : Tbl Own := []
  cores : Tbl CoreSt := []
  sram : List Host.Cell := []
  dev : Tbl Word := []
  denyLog : Word := 0#32
  dbg : BitVec 4 := 0#4
  nonce : Word := 0#32
  tokenBusy : Bool := false
  tokenResult : Nat := 0
  token : Tbl Word := []
  sessions : List (Nat × Nat × Bool) := []
  meas : Tbl (BitVec 384) := []
  root : Option (BitVec 384) := none
  rootNext : Option (BitVec 384) := none
  rootRevoked : Bool := false
  version : BitVec 24 := 0#24
  waitImage : Bool := false
  mgmtStopped : Bool := false
  deriving DecidableEq, Repr

/-- A log entry (R456, R458). -/
structure FRec where
  src : Nat
  cls : Nat
  inj : Bool
  real : Bool
  count : Nat
  seq : Nat
  time : Nat
  unit : Nat
  detail : Nat
  addr : Nat
  addrk : Nat
  syn : Word
  cleared : Bool := false
  spilled : Bool := false
  deriving DecidableEq, Repr

/-- The fault collector (R454-R472). The class A latch stands in `State` by itself. -/
structure Flt where
  log : Tbl FRec := []
  seq : Nat := 0
  pend : List (Nat × Word × Nat) := []
  toSpill : List (Nat × FRec) := []
  prod : Nat := 0
  qspiA : Option FRec := none
  prevA : Option FRec := none
  deriving DecidableEq, Repr

/-- Power states (R480). -/
inductive PwrSt where
  | active | entering | drowse | deep | waking
  deriving DecidableEq, Repr

/-- The power controller and the resets in progress (R480-R495). `warm` is the kind of a reset in progress: 2 WARM by command, 3 by
PERST_N; `nonce` is that of the retention image, held while one stands; `undo` that a controller has reported an aborted entry (R289). -/
structure Pwr where
  st : PwrSt := .active
  target : Nat := 0
  toDeep : Bool := false
  result : Nat := 0
  cause : Byte := 0#8
  nonce : Option Nat := none
  pbusy : Bool := false
  pparts : List Nat := []
  warm : Option Nat := none
  gated : List Block := []
  tempWarn : List Nat := []
  temps : List Int := []
  thermtrip : Bool := false
  dimmHot : List Nat := []
  wakeN : Bool := false
  memReady : Bool := false
  undo : Bool := false
  xtalLost : Bool := false
  deriving DecidableEq, Repr

/-- The shutdown self-test and the TAP (R496-R507). `rec` is a stored record: RES, CH, COND, eyes, RESULT, timestamp,
START_CNT. -/
structure SstRec where
  res : Word
  ch : Word
  cond : Word
  eyes : List Word
  result : Nat
  time : Nat
  start : Nat
  deriving DecidableEq, Repr

/-- See `SstRec`. STATE and RESULT are the codes of TST_SST_STAT; `stopped` lists items and channels (100 + c) stopped. -/
structure Tst where
  st : Nat := 0
  result : Nat := 0
  aonOk : Bool := false
  qspiOk : Bool := false
  src : Nat := 0
  res : Word := 0#32
  ch : Word := 0#32
  cond : Word := 0#32
  eyes : List Word := [0#32, 0#32, 0#32, 0#32]
  time : Nat := 0
  groups : List Nat := []
  stopped : List Nat := []
  aon : Option SstRec := none
  qspi : Option SstRec := none
  startCnt : Nat := 0
  ir : Nat := 1
  scanEn : Bool := false
  cleared : Bool := false
  deriving DecidableEq, Repr

/-- The performance monitor (R508-R519): counters and shadows by number (0-255 programmable, 256 + 5 s + k slots), HI
latches, the sample ring and its read buffer, partition counters by 512 p + k. -/
structure Pmu where
  cnt : Tbl Nat := []
  shadow : Tbl Nat := []
  latch : Tbl Nat := []
  platch : Tbl Nat := []
  ring : Tbl (List Byte) := []
  wr : Nat := 0
  rd : Nat := 0
  full : Bool := false
  lost : Nat := 0
  buf : List Byte := []
  left : Nat := 0
  jit : Nat := 0
  part : Tbl Nat := []
  deriving DecidableEq, Repr

/-- The management port (R72, R73). -/
structure Mgmt where
  up : Bool := false
  width : Nat := 0
  speed : Nat := 0
  lpwr : LinkPwr := .l0
  held : List Instr := []
  deriving DecidableEq, Repr

/-- The functions as configuration requests and BAR2/3 reach them (R46, R58, R59, R529): 0-7 heads, 8 management port. `ready` names those that
answer configuration requests; `cfg` and `comp` hold the double words that software has written, keyed 1,024 and 16,384 × function + double
word; `subsys` is the Subsystem Vendor ID and Subsystem ID of the firmware configuration image. -/
structure Pci where
  ready : List Nat := []
  cfg : Tbl Word := []
  comp : Tbl Word := []
  subsys : Word := 0#32
  deriving DecidableEq, Repr

/-- MSI-X tables (R47, R72): masked vectors and pending bits by function (0-7 heads, 8 management port). A function's table
is masked until its host unmasks it; the host's writes are register writes of the BAR ranges. -/
structure Msix where
  table : Tbl Word := []
  pend : List (Nat × Nat) := []
  deriving DecidableEq, Repr

end Sys2Proof.Machine
end

