-- ==== Sys2Proof/Machine/State.lean ====
section
/-! DEFINITION. The block's state: plain data, all of it. `Mach` is the machinery of the part (ports, home, ledger, engines,
channels, registers, management complex); `State` adds what the specification guards most: the queue of waiting commands, the
live image and the stage (R92), the commit epoch (R99), the class A latch (R466) and the life cycle (R447). -/

namespace Sys2Proof.Machine

/-- Why a step stops with a fault. No meaning raises one: every row of the table has an effect. -/
inductive Fault where
  /-- Raised by nothing: kept so that the type has a name for a stop. Safe. -/
  | stopped
  deriving DecidableEq, Repr

/-- Why a step answers no meaning. -/
inductive Refusal where
  /-- An arm of `exec` whose meaning is not written: raised by that arm alone. Safe: nothing follows from it. -/
  | notModelled (mnemonic : String)
  deriving DecidableEq, Repr

/-- The machinery of the part. `regs` holds the register words that differ from their reset values (R12, R525), by Control BAR
offset; registers that report typed state are computed from it. `raised` collects the fault detections of the step being
executed (R455); it is empty between steps. `errs` holds the symbol errors that DRAM's answers have while a
command reads several lines, by media line (64 × frame + line); it is empty between steps. `fresh` and `outbox` are the model's own (log
entries 1 and 4). -/
structure Mach where
  fresh : Nat := 0
  errs : List (Nat × SymErr) := []
  core : Nat := 0
  regs : Tbl Word := []
  hev : Tbl Word := []
  outbox : List Out := []
  raised : List Occ := []
  hostMem : Tbl (List Host.Cell) := []
  straps : Straps := {}
  heads : Tbl Head := []
  mbox : Tbl Mbox := []
  tsBase : Nat := 0
  tsCore : Nat := 0
  dc : Tbl Nat := []
  home : Home := {}
  led : Ledger := {}
  pop : Pop := {}
  media : Media := {}
  mcs : Mcs := {}
  scb : Scb := {}
  bwg : Bwg := {}
  yoke : Yoke := {}
  chn : Chn := {}
  dqu : Dqu := {}
  tally : Tally := {}
  strn : Strainer := {}
  cry : Cry := {}
  wld : Worlds := {}
  flt : Flt := {}
  pwr : Pwr := {}
  tst : Tst := {}
  pmu : Pmu := {}
  mgmt : Mgmt := {}
  msix : Msix := {}
  pci : Pci := {}
  deriving DecidableEq, Repr

/-- The whole state. `lcCur` and `lcPend` are the life-cycle codes CURRENT and PENDING of WLD_LC (R447). -/
structure State where
  pending : List Instr := []
  live : Image := {}
  stage : Image := {}
  commit : Commit := {}
  epoch : Word := 0#32
  latch : Bool := false
  lcCur : Nat := 0
  lcPend : Nat := 0
  m : Mach := {}
  deriving DecidableEq, Repr

/-- The block right after reset: every field at the reset value that INVENTORY.md lists (log entry 6 names those the
specification does not give). -/
def State.reset : State := {}

end Sys2Proof.Machine
end

