-- ==== Sys2Proof/Machine/Operands.lean ====
section
/-! DEFINITION. The registers as operands: their offsets in the Control BAR (R520), reset values (R525), the bits a write sets,
clears or stages (R12, R524), and where the live value of a staged register lies (R528). -/

namespace Sys2Proof.Machine

/-! ### Offsets -/

/-- GLB block. -/
abbrev oScratch := 0x00C
abbrev oAccErr := 0x010
abbrev oAccAddr := 0x014
abbrev oStageCtl := 0x040
abbrev oRstCtl := 0x060
abbrev oRstArg := 0x064
abbrev oRstStat := 0x068
abbrev oExtIndex := 0x100
abbrev oExtLo := 0x104
abbrev oExtHi := 0x108
abbrev oExtFill := 0x10C
abbrev oMapIndex := 0x110
abbrev oMapData := 0x114
abbrev oHeadCfg := 0x180
abbrev oFlatArea := 0x188
/-- Partition n's CFG, MAP, LEN. -/
def oPartCfg (n : Nat) : Nat := 0x1000 + 0x10 * n
def oPartMap (n : Nat) : Nat := 0x1004 + 0x10 * n
def oPartLen (n : Nat) : Nat := 0x1008 + 0x10 * n
/-- PWR block. -/
abbrev oPwrCtl := 0x10000
abbrev oPwrCfg := 0x10004
abbrev oPwrStat := 0x10008
abbrev oWakeEn := 0x1000C
abbrev oWakeCause := 0x10010
abbrev oPwrTimer := 0x10014
abbrev oCntEntry := 0x10100
abbrev oCntAbort := 0x10104
/-- FLT block. -/
abbrev oAFirst := 0x20004
abbrev oFltEvt := 0x2000C
abbrev oFltIrq := 0x20010
abbrev oLogIndex := 0x20020
abbrev oFltClr := 0x20028
def oBmask (n : Nat) : Nat := 0x20100 + 4 * n
def oLmask (n : Nat) : Nat := 0x20120 + 4 * n
def oForce (n : Nat) : Nat := 0x20140 + 4 * n
abbrev oInjSyn := 0x20160
abbrev oInjUnit := 0x20164
abbrev oSpillCfg := 0x20200
abbrev oSpillLo := 0x20204
abbrev oSpillHi := 0x20208
abbrev oSpillCons := 0x20210
abbrev oCntLost := 0x20300
abbrev oCntSpillLost := 0x20304
def oFltCnt (s : Nat) : Nat := 0x20400 + 4 * s
/-- PMU block. -/
abbrev oPmuCtl := 0x30000
abbrev oPmuIrq := 0x30008
abbrev oPmuGrp := 0x3000C
def oOvf (n : Nat) : Nat := 0x30010 + 4 * n
abbrev oOvfSlot := 0x30030
def oSel (k : Nat) : Nat := 0x31000 + 0x10 * k
abbrev oSmpCfg := 0x33000
abbrev oSmpFilt := 0x33004
abbrev oUser0 := 0x34000
abbrev oUser1 := 0x34004
/-- BWG block. -/
abbrev oBwgCtl := 0x40000
def oGuar (m : Nat) : Nat := 0x40100 + 4 * m
def oRtCap (h : Nat) : Nat := 0x40200 + 4 * h
abbrev oShort0 := 0x4030C
abbrev oShort1 := 0x40310
abbrev oBwgEvt := 0x40314
def oCntShort (m : Nat) : Nat := 0x40400 + 4 * m
/-- Head n's registers (PTA heads 0-3, PTB heads 4-7). -/
def oHead (n : Nat) : Nat := if n < 4 then 0x101000 + 0x1000 * n else 0x111000 + 0x1000 * (n - 4)
def oHeadCtl (n : Nat) : Nat := oHead n
def oHeadEvt (n : Nat) : Nat := oHead n + 0x8
def oHeadQcfg (n : Nat) : Nat := oHead n + 0xC
def oHeadErr (n : Nat) : Nat := oHead n + 0x14
def oDrop0 (n : Nat) : Nat := oHead n + 0x18
def oDrop1 (n : Nat) : Nat := oHead n + 0x1C
abbrev oMptEvt := 0x120004
/-- HOM block. -/
abbrev oHomCtl := 0x200000
abbrev oTrkCfg := 0x200004
abbrev oSnpTo := 0x200008
abbrev oUnresp := 0x200010
abbrev oHomEvt := 0x200014
abbrev oToLo := 0x200018
abbrev oToHi := 0x20001C
abbrev oSfEvict := 0x200020
abbrev oCntTo := 0x200024
abbrev oCntLate := 0x200028
abbrev oSetStall := 0x20002C
/-- LDG block. -/
abbrev oFmtCtl := 0x300000
abbrev oFmtDpa := 0x300004
abbrev oFmtCellar := 0x300008
abbrev oSkimCtl := 0x300040
abbrev oSkimInt := 0x300044
abbrev oWmLow := 0x300048
abbrev oWmHigh := 0x30004C
abbrev oWmPromo := 0x300050
abbrev oPinMax := 0x300054
def oCset (n : Nat) : Nat := 0x300100 + 4 * n
abbrev oClrCtl := 0x300300
abbrev oLdgCmd := 0x300400
abbrev oLdgArgLo := 0x300404
abbrev oLdgArgHi := 0x300408
abbrev oLdgEvt := 0x300500
abbrev oLostLo := 0x300504
abbrev oLostHi := 0x300508
abbrev oCntPromo := 0x300600
abbrev oCntDemo := 0x300604
abbrev oCntNoshrink := 0x300608
abbrev oCntLdgAbort := 0x30060C
abbrev oCntCfull := 0x300610
abbrev oCntLeak := 0x300614
/-- CHN block. -/
def oChnEn (i : Nat) : Nat := 0x400000 + 4 * i
abbrev oChnCtl := 0x40000C
abbrev oPriTo := 0x400010
abbrev oChnEvt := 0x400018
abbrev oCntSteal := 0x400200
abbrev oCntLend := 0x400204
abbrev oCntPreempt := 0x400208
abbrev oCntPark := 0x40020C
abbrev oCntSpill := 0x400210
abbrev oCntPri := 0x400214
def oCultLo (n : Nat) : Nat := 0x401000 + 8 * n
def oCultHi (n : Nat) : Nat := 0x401004 + 8 * n
/-- CRY block. -/
abbrev oKreqCtl := 0x500000
abbrev oSlotIndex := 0x500008
abbrev oCryEvt := 0x500014
/-- Memory controller c. -/
def oMc (c : Nat) : Nat := 0x600000 + 0x10000 * c
def oMcQcfg (c : Nat) : Nat := oMc c + 0x8
def oMcLat (c i : Nat) : Nat := oMc c + 0xC + 4 * i
def oRefCfg (c : Nat) : Nat := oMc c + 0x20
def oMcEvt (c : Nat) : Nat := oMc c + 0x30
def oCaLog (c : Nat) : Nat := oMc c + 0x34
def oSuspect (c s r d : Nat) : Nat := oMc c + 0x100 + (16 * s + 4 * r + d) * 4
/-- Channel counter k: RD, WR, FWD, FORCED, RFM, CA_RETRY, SR_ABORT. -/
def oMcCnt (c k : Nat) : Nat := oMc c + 0x200 + 4 * k
/-- SCB block. -/
abbrev oScbCtl := 0x700000
abbrev oStickyCfg := 0x700004
abbrev oScbEvt := 0x700010
abbrev oStickyPop := 0x700028
abbrev oRepCmd := 0x700040
abbrev oRepArg0 := 0x700044
abbrev oRepArg1 := 0x700048
abbrev oDevIndex := 0x700240
abbrev oVoteLast := 0x700250
abbrev oCntCe := 0x700300
abbrev oCntUe := 0x700304
abbrev oCntMisdir := 0x700308
abbrev oCntCwb := 0x70030C
abbrev oCntCwbDrop := 0x700310
abbrev oCntVote := 0x700314
/-- YK block. -/
abbrev oYkCtl := 0x800000
abbrev oHbTo := 0x800008
abbrev oLaneTh := 0x80000C
abbrev oMirCfg := 0x800010
abbrev oYkCmd := 0x80001C
abbrev oYkFatal := 0x80002C
abbrev oYkEvt := 0x800030
abbrev oSelfIdLo := 0x800040
abbrev oSelfIdHi := 0x800044
abbrev oPeerIdLo := 0x800048
abbrev oPeerIdHi := 0x80004C
def oLaneCnt (l : Nat) : Nat := 0x800100 + 4 * l
/-- Yoke counter k: FLIT_TX, NAK, REPLAY, REC_TX, REJECT, LAG_WAIT, MSG_DROP. -/
def oYkCnt (k : Nat) : Nat := 0x800200 + 4 * k
/-- DQU block. -/
abbrev oDquEvt := 0x900000
abbrev oDquLast := 0x900004
/-- Ring counter k: DONE, STALE, ABORT, DROP, IRQ, DB_BAD. -/
def oDquCnt (k : Nat) : Nat := 0x900100 + 4 * k
/-- Register i of ring n's configuration: CFG, SQ_LO, SQ_HI, CQ_LO, CQ_HI, IRQ, PASID. -/
def oRing (n i : Nat) : Nat := 0x901000 + 0x20 * n + 4 * i
/-- TLY block. -/
abbrev oTlyCtl := 0xA00000
abbrev oTlyEvt := 0xA00008
/-- Tally counter k: REC, MERGE, SAT, LOST, BAD. -/
def oTlyCnt (k : Nat) : Nat := 0xA00100 + 4 * k
def oTlyCfg (p : Nat) : Nat := 0xA01000 + 8 * p
def oTlyLoc (p : Nat) : Nat := 0xA01004 + 8 * p
/-- STN block. -/
abbrev oStnCtl := 0xB00000
abbrev oStnEvt := 0xB00004
/-- Strainer counter k: LOOKUP, HIT, INSERT, DELETE, FULL, RETRY. -/
def oStnCnt (k : Nat) : Nat := 0xB00100 + 4 * k
def oStnCfg (t : Nat) : Nat := 0xB01000 + 0x40 * t
def oStnLoc (t : Nat) : Nat := 0xB01004 + 0x40 * t
def oStnHk (t k : Nat) : Nat := 0xB01010 + 0x40 * t + 4 * k
/-- WLD block. -/
abbrev oWorldCtl := 0xC0000C
abbrev oWldEvt := 0xC00010
abbrev oTokenCtl := 0xC00020
def oNcyc (c : Nat) : Nat := 0xC00300 + 4 * c
/-- TST block. -/
abbrev oSstCtl := 0xD00000

/-! ### Runs of offsets -/

/-- The index of an offset in a run of `count` words from `base`, `stride` bytes apart. -/
def runIdx (off base stride count : Nat) : Option Nat :=
  if base ≤ off ∧ (off - base) % stride = 0 ∧ (off - base) / stride < count then some ((off - base) / stride) else none

/-- The offset lies in such a run. -/
def inRun (off base stride count : Nat) : Bool := (runIdx off base stride count).isSome

/-- The head and the register offset within its block of a head register. -/
def headReg (off : Nat) : Option (Nat × Nat) :=
  if 0x101000 ≤ off ∧ off < 0x105000 then some ((off - 0x101000) / 0x1000, off % 0x1000)
  else if 0x111000 ≤ off ∧ off < 0x115000 then some (4 + (off - 0x111000) / 0x1000, off % 0x1000)
  else none

/-- The channel and the register offset within its block of a memory controller register. -/
def mcReg (off : Nat) : Option (Nat × Nat) :=
  if 0x600000 ≤ off ∧ off < 0x6C0000 then some ((off - 0x600000) / 0x10000, off % 0x10000) else none

/-! ### Reset values (R525) -/

/-- The reset value of a stored register word. -/
def resetWord (off : Nat) : Word :=
  if off = oHeadCfg then 0x44444444#32
  else if off = oPwrCfg then 0x40A#32
  else if off = oWakeEn then 0x8F#32
  else if off = oFltIrq then 0x300#32
  else if off = oSpillCfg then 0xC#32
  else if off = oSmpCfg then 0x3FF0#32
  else if off = oSmpFilt then 0xFFFFFF#32
  else if off = oBwgCtl then 0x84#32
  else if inRun off 0x40100 4 38 then 0x100000#32
  else if inRun off 0x40200 4 8 then 0x190#32
  else if off = oHomCtl then 0x3#32
  else if off = oTrkCfg then 0x01000040#32
  else if off = oSnpTo then 0x7D0#32
  else if off = oFmtDpa then 0x80020000#32
  else if off = oSkimCtl then 0x3D02044D#32
  else if off = oSkimInt then 60#32
  else if off = oWmLow then 262144#32
  else if off = oWmHigh then 524288#32
  else if off = oWmPromo then 393216#32
  else if off = oClrCtl then 128#32
  else if inRun off 0x400000 4 3 then 0xFFFFFFFF#32
  else if off = oChnCtl then 0x2001#32
  else if off = oPriTo then 100#32
  else if off = oScbCtl then 0x2031#32
  else if off = oStickyCfg then 0x15180#32
  else if off = oYkCtl then 1#32
  else if off = oHbTo then 20#32
  else if off = oLaneTh then 64#32
  else if off = oMirCfg then 0x00644000#32
  else if inRun off 0x901000 0x20 256 then 0x10000008#32
  else if off = oTlyCtl then 1000#32
  else if off = oStnCtl then 32#32
  else match headReg off with
    | some (_, 0) => 1#32
    | some (_, 0xC) => 0x01000180#32
    | _ => match mcReg off with
      | some (_, 0x8) => 0x1030#32
      | some (_, 0xC) => 0x00C8003C#32
      | some (_, 0x10) => 0x07D003E8#32
      | some (_, 0x20) => 0x92#32
      | _ => 0#32

/-- The default of a staged extent entry: CLASS 1 (R76), every other field 0. -/
def extDefault : BitVec 64 := 0x400#64

/-! ### Bits that a write sets, clears or stages -/

/-- The bits a write sets in an RW register without a unit's own state behind it (R12). -/
def rwMask (off : Nat) : Word :=
  if off = oScratch then 0xFFFFFFFF#32
  else if off = oRstArg then 0x3F#32
  else if off = oExtIndex ∨ off = oMapIndex then 0xC001FFFF#32
  else if off = oPwrCfg then 0xFFF#32
  else if off = oWakeEn then 0x7C#32
  else if off = oPwrTimer then 0xFFFFFFFF#32
  else if off = oFltIrq then 0xFFF#32
  else if off = oLogIndex then 0x1FF#32
  else if inRun off 0x20100 4 16 then 0xFFFFFFFF#32
  else if off = oInjSyn then 0xFFFFFFFF#32
  else if off = oInjUnit then 0xFFFF#32
  else if off = oSpillCfg then 0x3F#32
  else if off = oSpillLo then 0xFFFFF000#32
  else if off = oSpillHi then 0xFFFFFFFF#32
  else if off = oSpillCons then 0xFFFF#32
  else if off = oPmuCtl then 0x1B#32
  else if off = oPmuIrq then 0x3FF#32
  else if off = oPmuGrp then 0xFFFF#32
  else if inRun off 0x31000 0x10 256 then 0x3FFFFF#32
  else if off = oSmpCfg then 0xFFFF7#32
  else if off = oSmpFilt then 0xFFFFFF#32
  else if off = oUser0 ∨ off = oUser1 then 0xFFFFFFFF#32
  else if off = oHomCtl then 0x7#32
  else if off = oTrkCfg then 0x07FF03FF#32
  else if off = oSnpTo then 0xFFFFF#32
  else if off = oFmtDpa then 0x8003FFFF#32
  else if off = oFmtCellar then 0x7FFF#32
  else if off = oClrCtl then 0xFFFF#32
  else if off = oLdgArgLo then 0xFFFFFFFF#32
  else if off = oLdgArgHi then 1#32
  else if inRun off 0x400000 4 3 then 0xFFFFFFFF#32
  else if off = oChnCtl then 0xFF01#32
  else if off = oPriTo then 0x3FFF#32
  else if off = oSlotIndex then 0x3FF#32
  else if off = oScbCtl then 0x3FFF#32
  else if off = oStickyCfg then 0xFFFFFF#32
  else if off = oRepArg0 ∨ off = oRepArg1 then 0x3FFFF#32
  else if off = oDevIndex then 0x7FF#32
  else if off = oYkCtl then 0x3#32
  else if off = oHbTo then 0x3FFF#32
  else if off = oLaneTh then 0xFFFF#32
  else if off = oTlyCtl then 0x1FFFF#32
  else if off = oStnCtl then 0x3F#32
  else match headReg off with
    | some (_, 0) => 0x7#32
    | some (_, 0xC) => 0x03FF03FF#32
    | _ => match mcReg off with
      | some (_, 0x8) => 0x7F7F#32
      | some (_, 0xC) => 0xFFFFFFFF#32
      | some (_, 0x10) => 0xFFFFFFFF#32
      | _ => 0#32

/-- The bits a write of ones clears (W1C). -/
def w1cMask (off : Nat) : Word :=
  if off = oAccErr then 0x7#32
  else if off = oFltEvt then 0xFF#32
  else if inRun off 0x30010 4 8 then 0xFFFFFFFF#32
  else if off = oOvfSlot then 0xFFFFFF#32
  else if off = oShort0 then 0xFFFFFFFF#32
  else if off = oShort1 then 0x3F#32
  else if off = oBwgEvt then 0x3#32
  else if off = oMptEvt then 0x3#32
  else if off = oHomEvt then 0x3F#32
  else if off = oLdgEvt then 0x3FF#32
  else if off = oChnEvt then 0xF#32
  else if off = oCryEvt then 0x3#32
  else if off = oScbEvt then 0x7FF#32
  else if off = oYkEvt then 0x1FF#32
  else if off = oDquEvt then 0x3F#32
  else if off = oTlyEvt then 0xF#32
  else if off = oStnEvt then 0x3#32
  else if off = oWldEvt then 0xFF#32
  else match headReg off with
    | some (_, 0x8) => 0x7F#32
    | _ => match mcReg off with
      | some (_, 0x30) => 0xFF#32
      | some (_, r) => if inRun r 0x100 4 32 then 0xFFFFFFFF#32 else 0#32
      | none => 0#32

/-- The bits a write stages in an ST register other than the extent and map windows; 0 where the offset names none. -/
def stMask (off : Nat) : Word :=
  if off = oHeadCfg then 0x77777777#32
  else if off = oFlatArea then 0xFFFF#32
  else if inRun off 0x1000 0x10 64 then 0xF1F#32
  else if inRun off 0x1004 0x10 64 then 0x1FFFF#32
  else if inRun off 0x1008 0x10 64 then 0x3FFFF#32
  else if off = oSkimCtl then 0xFFFFFFFF#32
  else if off = oSkimInt then 0xFFF#32
  else if off = oWmLow ∨ off = oWmHigh ∨ off = oWmPromo ∨ off = oPinMax then 0xFFFFFFFF#32
  else if inRun off 0x300100 4 16 then 0x7F#32
  else if off = oBwgCtl then 0xFF#32
  else if inRun off 0x40100 4 38 then 0xFFFFFF#32
  else if inRun off 0x40200 4 8 then 0xFFFF#32
  else if inRun off 0x401000 8 64 then 0xFFFFF003#32
  else if inRun off 0x401004 8 64 then 0x1FFF#32
  else if off = oMirCfg then 0x3FFFFFD#32
  else if inRun off 0x901000 0x20 256 then 0x7F3F03FF#32
  else if inRun off 0x901004 0x20 256 ∨ inRun off 0x90100C 0x20 256 then 0xFFFFF000#32
  else if inRun off 0x901008 0x20 256 ∨ inRun off 0x901010 0x20 256 ∨ inRun off 0x901014 0x20 256 then 0xFFFFFFFF#32
  else if inRun off 0x901018 0x20 256 then 0x1FFFFF#32
  else if inRun off 0xA01000 8 64 then 0x7#32
  else if inRun off 0xA01004 8 64 then 0xFFFFFFFF#32
  else if inRun off 0xB01000 0x40 256 then 0x0FFFFF7F#32
  else if inRun off 0xB01004 0x40 256 then 0xFFFFFFFF#32
  else if inRun (off - off % 0x10) 0xB01010 0x40 256 ∧ off % 4 = 0 then 0xFFFFFFFF#32
  else match mcReg off with
    | some (_, 0x20) => 0xFF#32
    | _ => 0#32

/-- The staged register whose live value an offset shows (R528). -/
def liveOf (off : Nat) : Option Nat :=
  let cand :=
    if off = 0x184 ∨ off = 0x18C ∨ off = 0x800014 ∨ (mcReg off).any (fun p => p.2 = 0x24) then some (off - 4)
    else if 0x1800 ≤ off ∧ off < 0x1C00 then some (off - 0x800)
    else if 0x300080 ≤ off ∧ off < 0x300098 then some (off - 0x40)
    else if 0x300140 ≤ off ∧ off < 0x300180 then some (off - 0x40)
    else if 0x41000 ≤ off ∧ off < 0x41300 then some (off - 0x1000)
    else if 0x401800 ≤ off ∧ off < 0x401A00 then some (off - 0x800)
    else if 0x903000 ≤ off ∧ off < 0x905000 then some (off - 0x2000)
    else if 0xA01800 ≤ off ∧ off < 0xA01A00 then some (off - 0x800)
    else if 0xB05000 ≤ off ∧ off < 0xB09000 then some (off - 0x4000)
    else none
  match cand with
  | some o => if stMask o = 0#32 then none else some o
  | none => none

/-! ### Stored words -/

/-- The stored word of a register. -/
def Mach.reg (m : Mach) (off : Nat) : Word := m.regs.get (resetWord off) off

/-- Store a register's word. -/
def Mach.setReg (m : Mach) (off : Nat) (v : Word) : Mach := { m with regs := m.regs.set (resetWord off) off v }

/-- A staged or live register of an image. -/
def Image.reg (i : Image) (off : Nat) : Word := i.regs.get (resetWord off) off

/-- Store a register of an image. -/
def Image.setReg (i : Image) (off : Nat) (v : Word) : Image := { i with regs := i.regs.set (resetWord off) off v }

/-- An extent entry of an image (R75, R76). -/
def Image.extent (i : Image) (e : Nat) : BitVec 64 := i.ext.get extDefault e

/-- A map entry of an image (R80). -/
def Image.mapEnt (i : Image) (k : Nat) : Nat := i.map.get 0 k

end Sys2Proof.Machine
end

