-- ==== Sys2Proof/Machine/Flags.lean ====
section
/-! DEFINITION. Events, counters, interrupts and fault records: W1C event bits, saturating counters, MSI-X messages (R47, R72),
and what the fault collector does with an occurrence (R454-R463). -/

namespace Sys2Proof.Machine

/-! ### Event bits and counters -/

/-- Set event bits: a hardware set of a W1C register. -/
def Mach.evt (m : Mach) (off : Nat) (bits : Word) : Mach := m.setReg off (m.reg off ||| bits)

/-- Set one event bit. -/
def Mach.evb (m : Mach) (off bit : Nat) : Mach := m.evt off (put 1 bit)

/-- Add to a 32-bit counter that saturates at 0xFFFF_FFFF. -/
def Mach.bumpBy (m : Mach) (off n : Nat) : Mach :=
  m.setReg off (BitVec.ofNat 32 (min 0xFFFFFFFF ((m.reg off).toNat + n)))

/-- Add 1 to a saturating counter. -/
def Mach.bump (m : Mach) (off : Nat) : Mach := m.bumpBy off 1

/-- A field of a register. -/
def Mach.rfld (m : Mach) (off hi lo : Nat) : Nat := fld (m.reg off) hi lo

/-- A bit of a register. -/
def Mach.rbit (m : Mach) (off b : Nat) : Bool := (m.reg off).getLsbD b

/-! ### Messages and free values -/

/-- Send a message to the outside. -/
def Mach.send (m : Mach) (o : Out) : Mach := { m with outbox := m.outbox ++ [o] }

/-- Advance the counter that free values are drawn with (log entry 1). -/
def Mach.tick (m : Mach) : Mach := { m with fresh := m.fresh + 1 }

/-- The key of an MSI-X vector's control word in the tables (R47, R72): 4 DWs a vector. -/
def msixKey (fn vector : Nat) : Nat := fn * 0x1000 + 4 * vector + 3

/-- The vector is masked in its function's table; a table is masked at reset (PRESUMED, log entry 6). -/
def Mach.msixMasked (m : Mach) (fn vector : Nat) : Bool := (m.msix.table.get 1#32 (msixKey fn vector)).getLsbD 0

/-- Send an MSI-X vector of a function, or leave it pending while it is masked. -/
def Mach.irq (m : Mach) (fn vector : Nat) : Mach :=
  if m.msixMasked fn vector then
    if m.msix.pend.contains (fn, vector) then m
    else { m with msix := { m.msix with pend := m.msix.pend ++ [(fn, vector)] } }
  else m.send (.msix fn vector)

/-- The management port's function number in the interrupt tables. -/
abbrev mgmtFn := 8

/-! ### The time base -/

/-- AON cycles since cold reset: 40 ns each, 64 CORE cycles (R456, R476). -/
def Mach.aon (m : Mach) : Nat := m.core / 64

/-! ### Heads -/

/-- The strapped width of a head's link, 0 where the straps create none (R35). -/
def Straps.lanes (s : Straps) (h : Nat) : Nat :=
  let b := if h < 4 then s.paBif else s.pbBif
  let k := h % 4
  if b = 0 then (if k = 0 then 16 else 0)
  else if b = 1 then (if k % 2 = 0 then 8 else 0)
  else if b = 2 then 4
  else 0

/-- A head's record; a head that the straps do not create is absent (R37). -/
def Mach.head (m : Mach) (h : Nat) : Head := if m.straps.lanes h = 0 then { st := .absent } else m.heads.get {} h

/-- Set a head's record. -/
def Mach.setHead (m : Mach) (h : Nat) (x : Head) : Mach := { m with heads := m.heads.insert h x }

/-- The head is in IO_ONLY or a later linked state (R55): IO_ONLY, ACTIVE, RECOVERY or INSECURE. -/
def HeadSt.linked : HeadSt → Bool
  | .ioOnly | .active | .recovery | .insecure => true
  | _ => false

/-- The mailbox of a head. -/
def Mach.mb (m : Mach) (h : Nat) : Mbox := m.mbox.get {} h

/-- Set the mailbox of a head. -/
def Mach.setMb (m : Mach) (h : Nat) (x : Mbox) : Mach := { m with mbox := m.mbox.insert h x }

/-- Raise bits in HEV_EVENT of a head. -/
def Mach.hevEvt (m : Mach) (h bit : Nat) : Mach := { m with hev := m.hev.set 0#32 h (m.hev.get 0#32 h ||| put 1 bit) }

/-! ### The live image's fields -/

/-- Fields of an extent entry (R76-R91). -/
def eOwner (x : BitVec 64) : Nat := fld x 5 0
def eOwned (x : BitVec 64) : Bool := x.getLsbD 6
def eShared (x : BitVec 64) : Bool := x.getLsbD 7
def eTier (x : BitVec 64) : Nat := fld x 9 8
def eCls (x : BitVec 64) : Nat := fld x 11 10
def eCset (x : BitVec 64) : Nat := fld x 15 12
def eMirror (x : BitVec 64) : Bool := x.getLsbD 16
def eFlat (x : BitVec 64) : Bool := x.getLsbD 17
def eRole (x : BitVec 64) : Nat := fld x 19 18
def eKeyed (x : BitVec 64) : Bool := x.getLsbD 20
def eSlot (x : BitVec 64) : Nat := fld x 30 21
def eFlatSlot (x : BitVec 64) : Nat := fld x 47 32
def eDc (x : BitVec 64) : Bool := x.getLsbD 48

/-- Fields of a partition (R80, R81). -/
def Image.pValid (i : Image) (p : Nat) : Bool := (i.reg (oPartCfg p)).getLsbD 0
def Image.pBound (i : Image) (p : Nat) : Bool := i.pValid p && (i.reg (oPartCfg p)).getLsbD 1
def Image.pHead (i : Image) (p : Nat) : Nat := fld (i.reg (oPartCfg p)) 4 2
def Image.pLd (i : Image) (p : Nat) : Nat := fld (i.reg (oPartCfg p)) 11 8
def Image.pBase (i : Image) (p : Nat) : Nat := fld (i.reg (oPartMap p)) 16 0
def Image.pLen (i : Image) (p : Nat) : Nat := fld (i.reg (oPartLen p)) 17 0

/-- The partitions bound to a head, in ascending number (R81). -/
def Image.boundTo (i : Image) (h : Nat) : List Nat :=
  (List.range 64).filter (fun p => i.pBound p && i.pHead p == h)

/-- The partition with the lowest LD of a list (R43). -/
def Image.lowestLd (i : Image) (ps : List Nat) : Option Nat :=
  ps.foldl (fun acc p => match acc with
    | none => some p
    | some q => if i.pLd p < i.pLd q then some p else some q) none

/-- The partitions a head presents: all bound to it, or the one with the lowest LD on a head without MLD (R42, R43). -/
def presented (i : Image) (m : Mach) (h : Nat) : List Nat :=
  if (m.head h).mld then i.boundTo h else (i.lowestLd (i.boundTo h)).toList

/-- The partition a head reaches as a logical device (R42, R81). -/
def ldPart (i : Image) (m : Mach) (h ld : Nat) : Option Nat :=
  if (m.head h).mld then (i.boundTo h).find? (fun p => i.pLd p == ld) else i.lowestLd (i.boundTo h)

/-- The map entry index of a position of a partition's run (R80). -/
def Image.mapIdx (i : Image) (p pos : Nat) : Option Nat := if pos < i.pLen p then some (i.pBase p + pos) else none

/-- A partition's map lists an extent. -/
def Image.lists (i : Image) (p e : Nat) : Bool :=
  (List.range (i.pLen p)).any (fun k => i.mapEnt (i.pBase p + k) == e)

/-! ### Fault sources (R455) -/

/-- The class code of a source, or none for a reserved number. -/
def srcClass (s : Nat) : Option Nat :=
  if [105, 185, 186, 187, 188, 189].contains s then some 0
  else if [0, 1, 2, 3, 4, 5, 9, 16, 20, 36, 37, 38, 39, 40, 41, 42, 49, 52, 65, 66, 69, 71, 97, 98, 100, 101, 136, 137, 138,
      140, 141, 152, 160, 171, 173, 174, 190].contains s then some 1
  else if [17, 18, 19, 35, 48, 70, 96, 99, 104, 106].contains s then some 2
  else if [6, 7, 8, 21, 32, 33, 34, 50, 51, 64, 67, 68, 102, 103, 128, 129, 130, 139, 142, 153, 168, 169, 170, 172,
      184].contains s then some 3
  else none

/-- The sources whose UNIT is a head. -/
def srcHead (s : Nat) : Bool := [1, 2, 3, 4, 5, 6, 7, 9, 16, 21, 39].contains s

/-- A detection: recorded when the step settles (R458). -/
def Mach.raiseOcc (m : Mach) (o : Occ) : Mach := { m with raised := m.raised ++ [o] }

/-- A detection of a source outside the lists of R457, with no address: its syndrome is the bit UNIT mod 32. -/
def Mach.raise (m : Mach) (src unit : Nat) : Mach :=
  m.raiseOcc { src, unit, detail := 0, addr := 0, addrk := 0, syn := put 1 (unit % 32) }

/-- As `raise`, with a detail (R455 for sources 5, 137-139). -/
def Mach.raiseD (m : Mach) (src unit detail : Nat) : Mach :=
  m.raiseOcc { src, unit, detail, addr := 0, addrk := 0, syn := put 1 (unit % 32) }

/-- As `raise`, with an address of a kind (R456). -/
def Mach.raiseA (m : Mach) (src unit addrk addr : Nat) : Mach :=
  m.raiseOcc { src, unit, detail := 0, addr, addrk, syn := put 1 (unit % 32) }

/-- An error of an on-chip array at a line (sources 17-20): its syndrome, the SECDED check syndrome and the word index, is known only to
the array's detector and is a free value (R457, log entry 1). -/
def Mach.raiseSram (m : Mach) (src unit line : Nat) : Mach :=
  (m.raiseOcc { src, unit, detail := 0, addr := line * 64, addrk := 1, syn := Config.free 32 m.fresh }).tick

/-- Bit `s` of a bank of eight mask words. -/
def Mach.srcBit (m : Mach) (bank : Nat → Nat) (s : Nat) : Bool := (m.reg (bank (s / 32))).getLsbD (s % 32)

/-! ### The record and the log (R456, R458) -/

/-- The record's 256 bits. -/
def FRec.word (r : FRec) : BitVec 256 :=
  BitVec.ofNat 256 (r.src % 256 + r.cls % 4 * 2 ^ 8 + r.inj.toNat * 2 ^ 10 + r.real.toNat * 2 ^ 11 + r.count % 2 ^ 16 * 2 ^ 16
    + r.seq % 2 ^ 32 * 2 ^ 32 + r.time % 2 ^ 64 * 2 ^ 64 + r.unit % 2 ^ 16 * 2 ^ 128 + r.detail % 2 ^ 16 * 2 ^ 144
    + r.addr % 2 ^ 56 * 2 ^ 160 + r.addrk % 16 * 2 ^ 216 + r.syn.toNat * 2 ^ 224)

/-- The record's 32 bytes. -/
def FRec.bytes (r : FRec) : List Byte := bytesOf r.word 32

/-- An uncleared class A or class B record. -/
def FRec.uncleared (r : FRec) : Bool := decide (r.cls ≤ 1) && !r.cleared

/-- The entry of a source's uncleared record. -/
def Flt.openEntry (f : Flt) (src : Nat) : Option Nat :=
  (List.find? (fun (p : Nat × FRec) => p.2.src == src && p.2.uncleared) f.log).map (·.1)

/-- The lowest free entry of the log (which free entry a record takes is a DESIGN CHOICE, log entry 8). -/
def Flt.freeEntry (f : Flt) : Option Nat := (List.range 512).find? (fun k => (f.log.find? k).isNone)

/-- The older of two entries. -/
def olderEntry (a : Option (Nat × FRec)) (b : Nat × FRec) : Option (Nat × FRec) :=
  match a with
  | none => some b
  | some x => if b.2.seq < x.2.seq then some b else some x

/-- The entry a new record takes when none is free: the oldest class C or D or cleared class B record, a spilled one first. -/
def Flt.victim (f : Flt) : Option (Nat × FRec) :=
  let c := f.log.filter (fun p => !p.2.uncleared)
  match (c.filter (fun p => p.2.spilled)).foldl olderEntry none with
  | some x => some x
  | none => c.foldl olderEntry none

/-- The entry of a new record, and the machine after a displaced record is counted. -/
def Mach.takeEntry (m : Mach) : Option (Nat × Mach) :=
  match m.flt.freeEntry with
  | some k => some (k, m)
  | none =>
    match m.flt.victim with
    | some (k, r) => some (k, if r.spilled then m else (m.bump oCntLost).evb oFltEvt 4)
    | none => none

/-- The heads an occurrence is presented to (R461), which FAULT of HEV_STATUS takes as the heads that its record names (R48). A class A record,
whose unit is no head, names every linked head (DESIGN CHOICE, log entry 87: R48 does not say which heads such a record names). -/
def presentHeads (L : Image) (m : Mach) (cls : Nat) (r : FRec) : List Nat :=
  if cls = 0 then (List.range 8).filter (fun h => (m.head h).st.linked)
  else
    let byUnit := fun h => srcHead r.src && r.unit == h
    let e := r.addr / 2 ^ 28
    let x := L.extent e
    let byDpa := fun h => r.addrk == 1 && (L.boundTo h).any (fun p => L.lists p e && (eShared x || eOwner x == p))
    (List.range 8).filter (fun h => byUnit h || byDpa h)

/-- The CXL event log of a fault class: 0 Informational, 1 Warning, 2 Failure, 3 Fatal (R454). -/
def cxlLog (cls : Nat) : Nat := 3 - cls

/-- Put an event record into a log of a head's mailbox; its interrupt policy may send a vector (R44; the policy's encoding is
the CXL standard's: per log one byte, bits [1:0] = 1 an MSI-X message, bits [7:4] its vector; PRESUMED, log entry 9). -/
def Mach.cxlEvent (m : Mach) (h log : Nat) (bytes : List Byte) : Mach :=
  let b := m.mb h
  let m := m.setMb h { b with logs := b.logs ++ [(log, b.nextHandle, bytes)], nextHandle := b.nextHandle + 1 }
  let p := byteAt b.policy log
  if fld p 1 0 = 1 then m.irq h (fld p 7 4) else m

/-- The new record of an occurrence in an entry of the log, and what follows it: NEW, the interrupt, the spill queue, the CXL
event records (R458-R461). -/
def newRecord (L : Image) (m : Mach) (k cls : Nat) (o : Occ) (inj real : Bool) : Mach :=
  let r : FRec := { src := o.src, cls, inj, real, count := 1, seq := m.flt.seq, time := m.aon, unit := o.unit, detail := o.detail,
                    addr := o.addr, addrk := o.addrk, syn := o.syn }
  let m := { m with flt := { m.flt with log := m.flt.log.insert k r, seq := m.flt.seq + 1,
                                        toSpill := if m.rbit oSpillCfg 0 then m.flt.toSpill ++ [(k, r)] else m.flt.toSpill } }
  let m := m.evb oFltEvt cls
  let m := if m.rbit oFltIrq (8 + cls) then m.irq mgmtFn (m.rfld oFltIrq 7 0) else m
  (presentHeads L m cls r).foldl (fun m h => m.cxlEvent h (cxlLog cls) r.bytes) m

/-- The log's action on an occurrence (R458). `inj` and `real` are what it adds to the record (R472). -/
def record (L : Image) (m : Mach) (o : Occ) (inj real : Bool) : Mach :=
  match srcClass o.src with
  | none => m
  | some cls =>
    let m := m.bump (oFltCnt o.src)
    match m.flt.openEntry o.src with
    | some k =>
      match m.flt.log.find? k with
      | some r =>
        let r := { r with count := min 0xFFFF (r.count + 1), inj := r.inj || inj, real := r.real || real }
        { m with flt := { m.flt with log := m.flt.log.insert k r } }
      | none => m
    | none =>
      if 2 ≤ cls ∧ m.srcBit oLmask o.src then m
      else match m.takeEntry with
        | some (k, m) => newRecord L m k cls o inj real
        | none => m

/-- FAULT_N is driven low (R462). -/
def faultN (latch : Bool) (m : Mach) : Bool :=
  latch || m.flt.log.any (fun p => p.2.cls == 1 && !p.2.cleared && !m.srcBit oBmask p.2.src)

/-- The number of uncleared class B records (FLT_STAT UNCLR). -/
def Flt.unclr (f : Flt) : Nat := (f.log.filter (fun p => p.2.cls == 1 && !p.2.cleared)).length

/-- The double word of a function's configuration space that holds Link Control: its PCI Express capability stands at 40H (PRESUMED, log entry 108). -/
abbrev linkCtlWord := 20

/-- The host has enabled ASPM L1 on a function's link: bit 1 of Link Control (R481). -/
def Mach.aspmL1 (m : Mach) (fn : Nat) : Bool := (m.pci.cfg.get 0#32 (1024 * fn + linkCtlWord)).getLsbD 1

/-- The MGMT cycle: the MGMT clock runs at half the rate of the CORE clock. -/
def Mach.mgmtCycle (m : Mach) : Nat := m.core / 2

/-- A core of the management complex. -/
def Mach.coreSt (m : Mach) (c : Nat) : CoreSt := m.wld.cores.get {} c

/-- The MGMT cycles that a core has spent in normal state (R446); a stopped complex counts none. -/
def Mach.ncyc (m : Mach) (c : Nat) : Nat :=
  let x := m.coreSt c
  if x.secure || m.wld.mgmtStopped then x.cyc else x.cyc + (m.mgmtCycle - x.since)

/-- A core enters or leaves secure state: its count of normal-state cycles freezes, or goes on (R446). -/
def Mach.setCore (m : Mach) (c : Nat) (secure : Bool) : Mach :=
  if (m.coreSt c).secure == secure then m
  else { m with wld := { m.wld with cores := m.wld.cores.insert c { secure, cyc := m.ncyc c, since := m.mgmtCycle } } }

/-- The cores as they stop with their clock. -/
def Mach.coresStopped (m : Mach) : Tbl CoreSt :=
  (List.range 4).foldl (fun t c => t.insert c { m.coreSt c with cyc := m.ncyc c, since := m.mgmtCycle }) m.wld.cores

/-- The Steward runs (R445). -/
def Mach.stewardOn (m : Mach) : Bool := m.wld.steward == .up && !m.wld.mgmtStopped

end Sys2Proof.Machine
end

