-- ==== Sys2Proof/Machine/Monitor.lean ====
section
/-! DEFINITION. The performance monitor's counting (R508-R519): programmable counters, slot counters, partition counters and the
sample ring. -/

namespace Sys2Proof.Machine

/-- The monitor is frozen (R512). -/
def Mach.frozen (m : Mach) : Bool := m.rbit oPmuCtl 1

/-- A programmable counter counts an event of an instance (R509). Events without an instance name every instance 0. -/
def Mach.selects (m : Mach) (code inst k : Nat) : Bool :=
  let sel := m.reg (oSel k)
  m.rbit oPmuGrp (k / 16) && sel.getLsbD 21 && fld sel 11 0 == code && (sel.getLsbD 20 || fld sel 19 12 == inst)

/-- Add to counter `k` (0-255 programmable, 256 + 5 s + i slot counters); at a wrap set its overflow bit, freeze when FRZ_OVF = 1
and send the monitor's vector when it is enabled (R509, R511). -/
def Mach.cntAdd (m : Mach) (k n : Nat) : Mach :=
  let v := m.pmu.cnt.get 0 k + n
  let m := { m with pmu := { m.pmu with cnt := m.pmu.cnt.set 0 k (v % 2 ^ 48) } }
  if v < 2 ^ 48 then m
  else
    let m := if k < 256 then m.evb (oOvf (k / 32)) (k % 32) else m.evb oOvfSlot ((k - 256) / 5)
    let m := if m.rbit oPmuCtl 4 then m.setReg oPmuCtl (m.reg oPmuCtl ||| 2#32) else m
    if m.rbit oPmuIrq 8 then m.irq mgmtFn (m.rfld oPmuIrq 7 0) else m

/-- `n` occurrences of an event of an instance (R509, R510). -/
def Mach.pmuEvent (m : Mach) (code inst n : Nat) : Mach :=
  if !m.rbit oPmuCtl 0 || m.frozen || n == 0 then m
  else (List.range 256).foldl (fun m k => if m.selects code inst k then m.cntAdd k n else m) m

/-- One MC cycle of a subchannel counted in a slot counter: 0 DATA, 1 TURN, 2 UPKEEP, 3 IDLE, 4 TIMING (R511). The slot and
partition counters need no set-up: only FREEZE stops them (DEDUCED, log entry 12). -/
def Mach.slotCycle (m : Mach) (sub i : Nat) : Mach := if m.frozen then m else m.cntAdd (256 + 5 * sub + i) 1

/-- Add to partition counter `k` of partition `p` (R518). -/
def Mach.partCnt (m : Mach) (p k n : Nat) : Mach :=
  if m.frozen then m
  else { m with pmu := { m.pmu with part := m.pmu.part.set 0 (512 * p + k) ((m.pmu.part.get 0 (512 * p + k) + n) % 2 ^ 48) } }

/-- The master number of a head and class, or of an internal source's master, is the index of BWG_Mm (R297); 0-31 heads × classes. -/
def clsNat : Cls → Nat
  | .rt => 0 | .table => 1 | .bulk => 2 | .engine => 3

/-- The class with a code (R18). -/
def clsOf (n : Nat) : Cls := if n = 0 then .rt else if n = 1 then .table else if n = 2 then .bulk else .engine

/-- KIND of a sample record and of the filter: 0 read, 1 write, 2 atomic, 3 other (R516). -/
def ReqKind.code : ReqKind → Nat
  | .read _ | .ioRead | .agRead => 0
  | .write .. | .ioWrite .. | .agWrite .. | .agClear _ => 1
  | .atomic .. => 2
  | .clean | .setPoison | .take | .merge | .install .. | .grant _ => 3

/-- Records in the sample ring (R517). -/
def Pmu.fill (p : Pmu) : Nat := if p.full then 32768 else (p.wr + 32768 - p.rd) % 32768

/-- The home counts an eligible request at its entry into the slice; true when it is the Nth (R515). RAND adds a free value of
0-15 at each reload, and takes off what the reload before added, so that the mean interval stays N (DEDUCED, log entry 29). -/
def Mach.sampleTick (m : Mach) (r : Req) : Bool × Mach :=
  let f := m.reg oSmpFilt
  let elig := m.rbit oPmuCtl 0 && !m.frozen && m.rbit oSmpCfg 0 && f.getLsbD r.src && f.getLsbD (16 + clsNat r.cls)
    && f.getLsbD (20 + r.kind.code)
  if !elig then (false, m)
  else
    let n := m.rfld oSmpCfg 19 4 + 1
    let extra := if m.rbit oSmpCfg 2 then Config.freeNat m.fresh % 16 else 0
    let cnt := if m.pmu.left = 0 then max 1 (n + extra - m.pmu.jit) else m.pmu.left
    let m := if m.pmu.left = 0 then { m.tick with pmu := { m.pmu with jit := extra } } else m
    (cnt == 1, { m with pmu := { m.pmu with left := cnt - 1 } })

/-- A sample record's 32 bytes (R516). Waits that only timing gives are free values (log entry 3). -/
def sampleRecord (m : Mach) (r : Req) (poison : Bool) : List Byte :=
  let lat := min (m.core - r.t0) 0xFFFFFFFF
  let v := r.src % 16 + clsNat r.cls * 2 ^ 4 + r.urg % 4 * 2 ^ 6 + r.panic.toNat * 2 ^ 8 + poison.toNat * 2 ^ 9
    + r.lmiss.toNat * 2 ^ 10 + r.kind.code * 2 ^ 12 + r.tier % 16 * 2 ^ 14 + r.chan / 2 % 16 * 2 ^ 18 + r.chan % 2 * 2 ^ 22
    + lat * 2 ^ 32 + r.line % 2 ^ 39 * 64 * 2 ^ 64 + m.core % 2 ^ 48 * 2 ^ 128 + r.part % 64 * 2 ^ 176
    + Config.freeNat m.fresh % 2 ^ 16 * 2 ^ 192 + Config.freeNat (m.fresh + 1) % 2 ^ 16 * 2 ^ 208
    + Config.freeNat (m.fresh + 2) % 2 ^ 16 * 2 ^ 224
  bytesOf (BitVec.ofNat 256 v) 32

/-- Write a record to the ring (R517). -/
def Mach.sampleWrite (m : Mach) (bytes : List Byte) : Mach :=
  let p := m.pmu
  let put := fun (q : Pmu) => { q with ring := q.ring.insert q.wr bytes, wr := (q.wr + 1) % 32768 }
  let irq := fun (m : Mach) => if m.pmu.fill = 24576 ∧ m.rbit oPmuIrq 9 then m.irq mgmtFn (m.rfld oPmuIrq 7 0) else m
  if p.full then
    if m.rbit oSmpCfg 1 then
      let q := put p
      { m with pmu := { q with rd := q.wr } }
    else { m with pmu := { p with lost := min 0xFFFFFFFF (p.lost + 1) } }
  else
    let q := put p
    irq { m with pmu := { q with full := q.wr == q.rd } }

/-- The record of a sampled request as its response is handed over (R515, R516). -/
def Mach.sampleDone (m : Mach) (r : Req) (poison : Bool) : Mach :=
  if r.sampled then ((m.sampleWrite (sampleRecord m r poison)).tick.tick).tick else m

end Sys2Proof.Machine
end

