-- ==== Sys2Proof/Machine/Charge.lean ====
section
/-! DEFINITION. The masters of the regulator and their charges (R20, R214, R297, R298); rings by number (R379). -/

namespace Sys2Proof.Machine

/-- The masters that are not heads. -/
abbrev mInline := 32
abbrev mDesc := 33
abbrev mScrub := 34
abbrev mResync := 35
abbrev mTally := 36
abbrev mStrain := 37

/-- The master of a head and class (R297). -/
def headMaster (h : Nat) (c : Cls) : Nat := 4 * h + clsNat c

/-- Charge lines to a master. -/
def Mach.charge (m : Mach) (mst n : Nat) : Mach :=
  { m with bwg := { m.bwg with charged := m.bwg.charged.set 0 mst (m.bwg.charged.get 0 mst + 64 * n) } }

/-- Charge lines that will not be refunded, counted by the monitor (event 0x501). -/
def Mach.chargeNow (m : Mach) (mst n : Nat) : Mach := (m.charge mst n).pmuEvent 0x501 mst n

/-- Refund a line (R298). -/
def Mach.refund (m : Mach) (mst n : Nat) : Mach :=
  { m with bwg := { m.bwg with charged := m.bwg.charged.set 0 mst (m.bwg.charged.get 0 mst - 64 * n) } }

/-- The master of the work of a ring's owner: head × ENGINE when it is bound, churn-descriptor when it is not (R214). -/
def engineMaster (L : Image) (p : Nat) : Nat := if L.pBound p then headMaster (L.pHead p) .engine else mDesc

/-- The master that pays for a request: its head's class, or what its agent's traffic is charged to. -/
abbrev Req.payer (r : Req) : Nat := r.mst

/-! ### Rings -/

/-- Live fields of a ring. -/
def Image.rEn (L : Image) (n : Nat) : Bool := (L.reg (oRing n 0)).getLsbD 0
def Image.rPlace (L : Image) (n : Nat) : Nat := fld (L.reg (oRing n 0)) 2 1
def Image.rCls (L : Image) (n : Nat) : Nat := fld (L.reg (oRing n 0)) 4 3
def Image.rLog (L : Image) (n : Nat) : Nat := fld (L.reg (oRing n 0)) 9 5
def Image.rOwner (L : Image) (n : Nat) : Nat := fld (L.reg (oRing n 0)) 21 16
def Image.rInflight (L : Image) (n : Nat) : Nat := fld (L.reg (oRing n 0)) 30 24

/-- Ring `n`. -/
def Mach.ring (m : Mach) (n : Nat) : Ring := m.dqu.rings.get {} n
def Mach.setRing (m : Mach) (n : Nat) (r : Ring) : Mach := { m with dqu := { m.dqu with rings := m.dqu.rings.insert n r } }

end Sys2Proof.Machine
end

