-- ==== Sys2Proof/Machine/Codec.lean ====
section
/-! DEFINITION. The part's codes: Reed-Solomon RS(80,66) (R314, R319), AES-256 and XTS (R242-R246), the RFC 3394 unwrap (R251),
CRC-32C and CRC-32 (R177, R352, R388), Adler-32 (R388), SipHash-2-4 (R422). Each follows the equations its rule or standard
gives; no table is taken from anywhere. -/

namespace Sys2Proof.Machine.Codec

/-! ### The field GF(2^8) -/

/-- Multiply by x modulo a polynomial of degree 8 given by its low byte. -/
def xtime (p a : Byte) : Byte := (a <<< 1) ^^^ (if a.msb then p else 0#8)

/-- `n` steps of shift-and-add multiplication. -/
def gmulN (p : Byte) : Nat → Byte → Byte → Byte
  | 0, _, _ => 0#8
  | n + 1, a, b => (if b.getLsbD 0 then a else 0#8) ^^^ gmulN p n (xtime p a) (b >>> 1)

/-- The product of two field elements modulo a polynomial. -/
def gmulP (p a b : Byte) : Byte := gmulN p 8 a b

/-- A power of a field element. -/
def gpowP (p a : Byte) : Nat → Byte
  | 0 => 1#8
  | n + 1 => gmulP p a (gpowP p a n)

/-! ### RS(80,66) (R314) -/

/-- The product in the field of R314: x^8 + x^4 + x^3 + x^2 + 1. -/
def gmul : Byte → Byte → Byte := gmulP 0x1D#8
/-- Powers of α = 0x02. -/
def alpha (n : Nat) : Byte := gpowP 0x1D#8 2#8 (n % 255)
/-- The inverse of a nonzero element, its 254th power by squarings. -/
def ginv (a : Byte) : Byte :=
  let a2 := gmul a a
  let a4 := gmul a2 a2
  let a8 := gmul a4 a4
  let a16 := gmul a8 a8
  let a32 := gmul a16 a16
  let a64 := gmul a32 a32
  let a128 := gmul a64 a64
  gmul a2 (gmul a4 (gmul a8 (gmul a16 (gmul a32 (gmul a64 a128)))))

/-- Sum of polynomials, lowest coefficient first. -/
def padd : List Byte → List Byte → List Byte
  | [], q => q
  | p, [] => p
  | a :: p, b :: q => (a ^^^ b) :: padd p q

/-- A polynomial times a constant. -/
def pscale (c : Byte) (p : List Byte) : List Byte := p.map (gmul c)

/-- Product of polynomials, lowest coefficient first. -/
def pmul : List Byte → List Byte → List Byte
  | [], _ => []
  | a :: p, q => padd (pscale a q) (0#8 :: pmul p q)

/-- A polynomial at a point (Horner). -/
def peval (p : List Byte) (x : Byte) : Byte := p.foldr (fun c acc => c ^^^ gmul x acc) 0#8

/-- Drop zero leading coefficients. -/
def ptrim (p : List Byte) : List Byte := (p.reverse.dropWhile (fun b => b == 0#8)).reverse

/-- The formal derivative in characteristic 2: the odd coefficients. -/
def pderiv : List Byte → List Byte
  | [] => []
  | [_] => []
  | _ :: b :: t => b :: 0#8 :: pderiv t

/-- The generator polynomial (x + α^0)…(x + α^13) (R314), lowest coefficient first. -/
def genPoly : List Byte := (List.range 14).foldl (fun g i => pmul g [alpha i, 1#8]) [1#8]

/-- One step of the division by the generator polynomial; `r` holds x^13 down to x^0. -/
def divStep (g r : List Byte) (s : Byte) : List Byte :=
  match r with
  | [] => []
  | h :: t =>
    let fb := s ^^^ h
    padd (t ++ [0#8]) (pscale fb g)

/-- The 14 check symbols of 66 symbols (R314). -/
def checkSyms (d : List Byte) : List Byte :=
  let g := (genPoly.take 14).reverse
  d.foldl (divStep g) (List.replicate 14 0#8)

/-- The codeword of a line and its rind (R313). -/
def rsEncode (data : Line) (rind : BitVec 16) : Codeword :=
  let d := bytesOf data 64 ++ bytesOf rind 2
  ofBytes 640 (d ++ checkSyms d)

/-- The fourteen syndromes of 80 symbols. -/
def syndromes (c : List Byte) : List Byte :=
  (List.range 14).map (fun i => let a := alpha i; c.foldl (fun acc s => gmul a acc ^^^ s) 0#8)

/-- The state of the Berlekamp-Massey iteration. -/
structure BM where
  c : List Byte
  b : List Byte
  l : Nat
  m : Nat
  d : Byte
  deriving DecidableEq, Repr

/-- One iteration, `n` the index of the syndrome. -/
def bmStep (t : List Byte) (s : BM) (n : Nat) : BM :=
  let disc := (List.range (s.l + 1)).foldl
    (fun acc i => acc ^^^ gmul (s.c.getD i 0#8) (if i ≤ n then t.getD (n - i) 0#8 else 0#8)) 0#8
  if disc = 0#8 then { s with m := s.m + 1 }
  else
    let upd := padd s.c (pscale (gmul disc (ginv s.d)) (List.replicate s.m 0#8 ++ s.b))
    if 2 * s.l ≤ n then { c := upd, b := s.c, l := n + 1 - s.l, m := 1, d := disc }
    else { s with c := upd, m := s.m + 1 }

/-- Correct 80 symbols with the erasures named: the corrected symbols and the positions that changed, or none when the
pattern is beyond R319. -/
def rsDecode (erasures : List Nat) (c : List Byte) : Option (List Byte × List Nat) :=
  let s := syndromes c
  if s.all (fun x => x == 0#8) then some (c, [])
  else
    let f := erasures.length
    let gam := erasures.foldl (fun g k => pmul g [1#8, alpha (79 - k)]) [1#8]
    let xi := (pmul gam s).take 14
    let t := xi.drop f
    let bm := (List.range (14 - f)).foldl (bmStep t) { c := [1#8], b := [1#8], l := 0, m := 1, d := 1#8 }
    let lam := ptrim bm.c
    if bm.l > (14 - f) / 2 || lam.length ≠ bm.l + 1 then none
    else
      let psi := pmul gam lam
      let om := (pmul s psi).take 14
      let dpsi := pderiv psi
      let roots := (List.range 80).filter (fun k => peval psi (alpha (255 - (79 - k))) = 0#8)
      if roots.length ≠ f + bm.l then none
      else
        let fix := fun k =>
          let xinv := alpha (255 - (79 - k))
          gmul (alpha (79 - k)) (gmul (peval om xinv) (ginv (peval dpsi xinv)))
        let c' := c.zipIdx.map (fun p => if roots.contains p.2 then p.1 ^^^ fix p.2 else p.1)
        if (syndromes c').all (fun x => x == 0#8)
        then some (c', (List.range 80).filter (fun k => c'.getD k 0#8 ≠ c.getD k 0#8))
        else none

/-! ### AES-256 and XTS -/

/-- The product in the AES field. -/
def amul : Byte → Byte → Byte := gmulP 0x1B#8

/-- The inverse in the AES field, 0 for 0. -/
def ainv (a : Byte) : Byte :=
  let a2 := amul a a
  let a4 := amul a2 a2
  let a8 := amul a4 a4
  let a16 := amul a8 a8
  let a32 := amul a16 a16
  let a64 := amul a32 a32
  let a128 := amul a64 a64
  amul a2 (amul a4 (amul a8 (amul a16 (amul a32 (amul a64 a128)))))

/-- SubBytes of one byte: the inverse, then the affine map. -/
def sbox (a : Byte) : Byte :=
  let b := ainv a
  b ^^^ b.rotateLeft 1 ^^^ b.rotateLeft 2 ^^^ b.rotateLeft 3 ^^^ b.rotateLeft 4 ^^^ 0x63#8

/-- InvSubBytes of one byte. -/
def invSbox (a : Byte) : Byte :=
  ainv (a.rotateLeft 1 ^^^ a.rotateLeft 3 ^^^ a.rotateLeft 6 ^^^ 0x05#8)

/-- Byte-wise exclusive or. -/
def xorL (a b : List Byte) : List Byte := List.zipWith (· ^^^ ·) a b

/-- The next word of the AES-256 key schedule: `w` is the words so far, latest first. -/
def keyWord (w : List (List Byte)) (i : Nat) : List (List Byte) :=
  let prev := w.getD 0 []
  let back := w.getD 7 []
  let t :=
    if i % 8 = 0 then
      xorL ((prev.drop 1 ++ prev.take 1).map sbox) [gpowP 0x1B#8 2#8 (i / 8 - 1), 0#8, 0#8, 0#8]
    else if i % 8 = 4 then prev.map sbox
    else prev
  xorL back t :: w

/-- The fifteen round keys of a 256-bit key, 16 bytes each. -/
def roundKeys (key : List Byte) : List (List Byte) :=
  let w0 := (List.range 8).map (fun i => (key.drop (4 * i)).take 4)
  let w := ((List.range 52).foldl (fun w i => keyWord w (i + 8)) w0.reverse).reverse
  (List.range 15).map (fun r => (w.drop (4 * r)).take 4 |>.flatten)

/-- ShiftRows by `k` columns per row (1 forward, 3 inverse), state in column order. -/
def shiftRows (k : Nat) (s : List Byte) : List Byte :=
  (List.range 16).map (fun i => s.getD ((i + 4 * k * (i % 4)) % 16) 0#8)

/-- MixColumns with the row of coefficients given. -/
def mixCols (m : List Byte) (s : List Byte) : List Byte :=
  (List.range 16).map (fun i =>
    (List.range 4).foldl (fun acc j => acc ^^^ amul (m.getD ((j + 4 - i % 4) % 4) 0#8) (s.getD (4 * (i / 4) + j) 0#8)) 0#8)

/-- AES-256 encryption of a block. -/
def aesEnc (key blk : List Byte) : List Byte :=
  let ks := roundKeys key
  let s0 := xorL blk (ks.getD 0 [])
  let s1 := (List.range 13).foldl
    (fun s r => xorL (mixCols [2#8, 3#8, 1#8, 1#8] (shiftRows 1 (s.map sbox))) (ks.getD (r + 1) [])) s0
  xorL (shiftRows 1 (s1.map sbox)) (ks.getD 14 [])

/-- AES-256 decryption of a block. -/
def aesDec (key blk : List Byte) : List Byte :=
  let ks := roundKeys key
  let s0 := (shiftRows 3 (xorL blk (ks.getD 14 []))).map invSbox
  let s1 := (List.range 13).foldl
    (fun s r => (shiftRows 3 (mixCols [14#8, 11#8, 13#8, 9#8] (xorL s (ks.getD (13 - r) [])))).map invSbox) s0
  xorL s1 (ks.getD 0 [])

/-- Multiply an XTS tweak by α (IEEE Std 1619). -/
def xtsNext (t : BitVec 128) : BitVec 128 := (t <<< 1) ^^^ (if t.msb then 0x87#128 else 0#128)

/-- One XTS pass over the four blocks of a line. -/
def xtsLine (blk : List Byte → List Byte → List Byte) (key1 key2 : BitVec 256) (tweak : BitVec 128) (d : Line) : Line :=
  let k1 := bytesOf key1 32
  let t0 : BitVec 128 := ofBytes 128 (aesEnc (bytesOf key2 32) (bytesOf tweak 16))
  let go := (List.range 4).foldl
    (fun (acc : List Byte × BitVec 128) i =>
      let tb := bytesOf acc.2 16
      let b := (List.range 16).map (fun j => byteAt d (16 * i + j))
      (acc.1 ++ xorL (blk k1 (xorL b tb)) tb, xtsNext acc.2)) ([], t0)
  ofBytes 512 go.1

/-- AES-256-XTS encryption of a line (R242, R244). -/
def xtsEnc (key1 key2 : BitVec 256) (tweak : BitVec 128) (d : Line) : Line := xtsLine aesEnc key1 key2 tweak d
/-- AES-256-XTS decryption of a line (R242, R244). -/
def xtsDec (key1 key2 : BitVec 256) (tweak : BitVec 128) (d : Line) : Line := xtsLine aesDec key1 key2 tweak d

/-- One step of the RFC 3394 unwrap: A, the ten 8-byte blocks, and the step number t counting down from 60. -/
def unwrapStep (kek : List Byte) (s : List Byte × List (List Byte)) (t : Nat) : List Byte × List (List Byte) :=
  let i := (t - 1) % 10
  let tb := (bytesOfNat t 8).reverse
  let b := aesDec kek (xorL s.1 tb ++ s.2.getD i [])
  (b.take 8, s.2.set i (b.drop 8))

/-- RFC 3394 unwrap of the 88-byte blob of R251 with the default initial value; none on an integrity failure. -/
def unwrap (kek : BitVec 256) (blob : List Byte) : Option (List Byte) :=
  let a := blob.take 8
  let r := (List.range 10).map (fun i => (blob.drop (8 * (i + 1))).take 8)
  let out := (List.range 60).foldl (fun s k => unwrapStep (bytesOf kek 32) s (60 - k)) (a, r)
  if out.1 = List.replicate 8 0xA6#8 then some out.2.flatten else none

/-! ### Checks and hashes -/

/-- One bit of a reflected CRC. -/
def crcBit (poly c : Word) : Word := (c >>> 1) ^^^ (if c.getLsbD 0 then poly else 0#32)

/-- A byte into a reflected CRC register. -/
def crcByte (poly c : Word) (b : Byte) : Word :=
  (List.range 8).foldl (fun c _ => crcBit poly c) (c ^^^ b.setWidth 32)

/-- A reflected CRC with inverted start and end, continued from `seed` (R177, R352, R388). -/
def crc (poly seed : Word) (l : List Byte) : Word := ~~~ (l.foldl (crcByte poly) (~~~ seed))

/-- CRC-32C (R177). -/
def crc32c (seed : Word) (l : List Byte) : Word := crc 0x82F63B78#32 seed l
/-- CRC-32 (R352). -/
def crc32 (seed : Word) (l : List Byte) : Word := crc 0xEDB88320#32 seed l

/-- Adler-32 continued from `seed` (R388: 1 begins). -/
def adler32 (seed : Word) (l : List Byte) : Word :=
  let r := l.foldl (fun (s : Nat × Nat) b => let a := (s.1 + b.toNat) % 65521; (a, (s.2 + a) % 65521))
    (fld seed 15 0, fld seed 31 16)
  BitVec.ofNat 32 (r.2 * 65536 + r.1)

/-- The four words of SipHash. -/
structure Sip where
  v0 : BitVec 64
  v1 : BitVec 64
  v2 : BitVec 64
  v3 : BitVec 64
  deriving DecidableEq, Repr

/-- A SipRound. -/
def sipRound (s : Sip) : Sip :=
  let v0 := s.v0 + s.v1
  let v1 := s.v1.rotateLeft 13 ^^^ v0
  let v0 := v0.rotateLeft 32
  let v2 := s.v2 + s.v3
  let v3 := s.v3.rotateLeft 16 ^^^ v2
  let v0 := v0 + v3
  let v3 := v3.rotateLeft 21 ^^^ v0
  let v2 := v2 + v1
  let v1 := v1.rotateLeft 17 ^^^ v2
  let v2 := v2.rotateLeft 32
  ⟨v0, v1, v2, v3⟩

/-- Absorb a 64-bit message word (two rounds). -/
def sipAbsorb (s : Sip) (m : BitVec 64) : Sip :=
  let t := sipRound (sipRound { s with v3 := s.v3 ^^^ m })
  { t with v0 := t.v0 ^^^ m }

/-- SipHash-2-4 of bytes under a 128-bit key (R422). -/
def sipHash (key : BitVec 128) (l : List Byte) : BitVec 64 :=
  let k0 := key.extractLsb' 0 64
  let k1 := key.extractLsb' 64 64
  let s0 : Sip := ⟨k0 ^^^ 0x736f6d6570736575#64, k1 ^^^ 0x646f72616e646f6d#64, k0 ^^^ 0x6c7967656e657261#64,
    k1 ^^^ 0x7465646279746573#64⟩
  let n := l.length / 8
  let s1 := (List.range n).foldl (fun s i => sipAbsorb s (ofBytes 64 ((l.drop (8 * i)).take 8))) s0
  let last : BitVec 64 := ofBytes 64 (l.drop (8 * n)) ||| (BitVec.ofNat 64 (l.length % 256) <<< 56)
  let s2 := sipAbsorb s1 last
  let s3 := sipRound (sipRound (sipRound (sipRound { s2 with v2 := s2.v2 ^^^ 0xff#64 })))
  s3.v0 ^^^ s3.v1 ^^^ s3.v2 ^^^ s3.v3

end Sys2Proof.Machine.Codec
end

