-- ==== Sys2Proof/Machine/Media.lean ====
section
/-! DEFINITION. Media: where the hash places a line (R263), its ATAG (R316), its cells, the rind (R315), the line cipher's use of
a slot (R242-R246), and how a line read from DRAM is judged (R317-R327). A line's 80 cells hold the codeword last written to it;
a line with no listed cell holds a cleared codeword where it was painted (format and frame clearing, R140, R153) and no valid
codeword otherwise (R25): every unlisted byte reads 0xFF (DESIGN CHOICE, log entry 2). -/

namespace Sys2Proof.Machine

/-! ### Placement (R263, R316) -/

/-- The placement of frame `f`, line `l` (R263). -/
def place (p : Place) (f l : Nat) : MAddr :=
  let c := p.used.length
  let g := f / c
  let s := (g ^^^ (g >>> 7) ^^^ (g >>> 15) ^^^ (g >>> 23)) % c
  let q := l / 2 % 32
  { ch := p.used.getD ((f % c + s) % c) 0
    sub := l % 2
    bg := q % 8
    bank := q / 8
    col := g % 128
    rank := (g >>> 7) % 2 ^ p.rb
    die := (g >>> (7 + p.rb)) % 2 ^ p.ld
    row := g >>> (7 + p.rb + p.ld) }

/-- The 39-bit value a of R316. -/
def MAddr.val (a : MAddr) : Nat :=
  a.die % 4 * 2 ^ 37 + a.row % 2 ^ 18 * 2 ^ 19 + a.rank % 4 * 2 ^ 17 + a.bg % 8 * 2 ^ 14 + a.bank % 4 * 2 ^ 12
    + a.col % 128 * 2 ^ 5 + a.sub % 2 * 2 ^ 4 + a.ch % 16

/-- The place a value a names. -/
def MAddr.ofVal (v : Nat) : MAddr :=
  { ch := v % 16, sub := v / 2 ^ 4 % 2, col := v / 2 ^ 5 % 128, bank := v / 2 ^ 12 % 4, bg := v / 2 ^ 14 % 8,
    rank := v / 2 ^ 17 % 4, row := v / 2 ^ 19 % 2 ^ 18, die := v / 2 ^ 37 % 4 }

/-- ATAG of a value a (R316). -/
def atag (v : Nat) : Byte :=
  let x : BitVec 40 := BitVec.ofNat 40 v
  byteAt x 0 ^^^ byteAt x 1 ^^^ byteAt x 2 ^^^ byteAt x 3 ^^^ byteAt x 4 ^^^ 0x5C#8

/-- The frame and line that a placement puts at a place. -/
def unplace (p : Place) (a : MAddr) : Option (Nat × Nat) :=
  let c := p.used.length
  match p.used.idxOf? a.ch with
  | none => none
  | some i =>
    let g := a.col + 128 * (a.rank + 2 ^ p.rb * (a.die + 2 ^ p.ld * a.row))
    let s := (g ^^^ (g >>> 7) ^^^ (g >>> 15) ^^^ (g >>> 23)) % c
    some (g * c + (i + c - s) % c, a.sub + 2 * (a.bg + 8 * a.bank))

/-- The population's placement. -/
def Pop.place (p : Pop) : Place := { used := p.used, rb := p.rb, ld := p.ld }

/-- Rows of a device bank by density: 16 Gb, 24 Gb, 32 Gb ×4 devices of 32 banks and 2,048 columns (R257, log entry 10). -/
def devRows (dens : Nat) : Nat := if dens = 0 then 65536 else if dens = 1 then 98304 else 131072

/-- Frames per channel, G of R264. -/
def Pop.g (p : Pop) : Nat := (devRows p.dens - 64) * 2 ^ (p.rb + p.ld) * 128

/-- Frames of the run, C × G (R264). -/
def Pop.frames (p : Pop) : Nat := p.used.length * p.g

/-- The bank key of a place: subchannel, rank, die, bank group, bank. -/
def MAddr.bankKey (a : MAddr) : Nat := (((a.sub * 4 + a.rank) * 4 + a.die) * 8 + a.bg) * 4 + a.bank

/-- A remap entry redirects a line of its row: those below the pointer, or above it while a soft PPR copies back (R331-R333). -/
def Remap.redirects (r : Remap) (a : MAddr) : Bool :=
  r.ch == a.ch && r.bank == a.bankKey && r.row == a.row && (if r.back then decide (r.progress ≤ a.col) else decide (a.col < r.progress))

/-- Where a place lies after row remap: the spare row of the newest entry that redirects it (R331, R332). -/
def Mach.phys (m : Mach) (a : MAddr) : Nat :=
  match m.scb.remaps.find? (fun r => r.redirects a) with
  | some r => MAddr.val { a with row := devRows m.pop.dens - 63 + r.spare }
  | none => a.val

/-! ### Cells -/

/-- Memory: bytes by address, strictly rising, no entry at the value of an unlisted address. -/
abbrev Memory := List Host.Cell

/-- Keys rise strictly from a bound. -/
def Memory.rising : Nat → Memory → Bool
  | _, [] => true
  | lo, (k, _) :: t => decide (lo ≤ k) && Memory.rising (k + 1) t

/-- The canonical form for a background byte. -/
def Memory.wf (bg : Byte) (c : Memory) : Bool := Memory.rising 0 c && c.all (fun p => p.2 != bg)

/-- The byte at an address. -/
def Memory.byte (bg : Byte) (c : Memory) (k : Nat) : Byte := Tbl.get c bg k

/-- Write a byte. -/
def Memory.put (bg : Byte) (c : Memory) (k : Nat) (b : Byte) : Memory := Tbl.set c bg k b

/-- Write bytes from an address upwards. -/
def Memory.putAll (bg : Byte) : Memory → Nat → List Byte → Memory
  | c, _, [] => c
  | c, k, b :: t => Memory.putAll bg (Memory.put bg c k b) (k + 1) t

/-- Bytes from an address upwards. -/
def Memory.bytes (bg : Byte) (c : Memory) (k n : Nat) : List Byte := (List.range n).map (fun i => Memory.byte bg c (k + i))

/-- What an unlisted byte of media reads as (log entry 2). -/
def mediaBg : Byte := 0xFF#8

/-- What an unlisted byte of host memory reads as (log entry 5). -/
def hostBg : Byte := 0#8

/-! ### The rind (R315) -/

/-- A rind. -/
def mkRind (w p : Bool) (mv : BitVec 2) (x c : Bool) (tag : Byte) : BitVec 16 :=
  BitVec.ofNat 16 (w.toNat + 2 * p.toNat + 4 * mv.toNat + 16 * x.toNat + 32 * c.toNat + 256 * tag.toNat)

def rW (r : BitVec 16) : Bool := r.getLsbD 0
def rP (r : BitVec 16) : Bool := r.getLsbD 1
def rMv (r : BitVec 16) : BitVec 2 := r.extractLsb' 2 2
def rX (r : BitVec 16) : Bool := r.getLsbD 4
def rC (r : BitVec 16) : Bool := r.getLsbD 5
def rAtag (r : BitVec 16) : Byte := r.extractLsb' 8 8

/-! ### Lines of media -/

/-- The codeword of a painted place, when a paint covers it. Later paints come first. -/
def paintOf : List Paint → Nat → Option Codeword
  | [], _ => none
  | q :: t, v =>
    match unplace q.place (MAddr.ofVal v) with
    | some (f, _) =>
      if q.start ≤ f ∧ f < q.start + q.len
      then some (Codec.rsEncode 0#512 (mkRind q.w false 0#2 false q.c (atag v)))
      else paintOf t v
    | none => paintOf t v

/-- The 80 symbols that the cells at a physical value hold. -/
def Media.sym (x : Media) (v : Nat) : List Byte :=
  let listed := Memory.bytes mediaBg x.cells (80 * v) 80
  if listed.any (fun b => b != mediaBg) then listed
  else match paintOf x.paints v with
    | some cw => bytesOf cw 80
    | none => listed

/-- Write a codeword into the cells at a physical value. -/
def Media.writeAt (x : Media) (v : Nat) (cw : Codeword) : Media :=
  { x with cells := Memory.putAll mediaBg x.cells (80 * v) (bytesOf cw 80) }

/-- The physical value of a line of a frame. -/
def Mach.lineVal (m : Mach) (f l : Nat) : Nat := m.phys (place m.pop.place f l)

/-- Write a codeword to a line of a frame (the controller's write to DRAM). -/
def Mach.writeCw (m : Mach) (f l : Nat) (cw : Codeword) : Mach := { m with media := m.media.writeAt (m.lineVal f l) cw }

/-- The symbol errors that DRAM's answer to a read of a line has in the command being executed. -/
def Mach.errsAt (m : Mach) (f l : Nat) : SymErr := ((m.errs.find? (fun e => e.1 == 64 * f + l)).map (·.2)).getD []

/-- The codeword that a write of a line forms: ATAG from the address it intends to write (R316, R553). -/
def Mach.formCw (m : Mach) (f l : Nat) (data : Line) (w p : Bool) (mv : BitVec 2) (x c : Bool) : Codeword :=
  Codec.rsEncode data (mkRind w p mv x c (atag (place m.pop.place f l).val))

/-- Store a line in media (W, P, MV, X, C given). -/
def Mach.storeLine (m : Mach) (f l : Nat) (data : Line) (w p : Bool) (mv : BitVec 2) (x c : Bool) : Mach :=
  m.writeCw f l (m.formCw f l data w p mv x c)

/-- The remap entries' lines whose frame lies in a run: their spare rows are written one by one. -/
def Mach.remapIn (m : Mach) (start len : Nat) : List (Nat × Nat) :=
  m.scb.remaps.flatMap fun r =>
    (List.range 128).filterMap fun col =>
      let a : MAddr := { ch := r.ch, sub := r.bank / 512 % 2, rank := r.bank / 128 % 4, die := r.bank / 32 % 4,
                         bg := r.bank / 4 % 8, bank := r.bank % 4, col, row := r.row }
      match unplace m.pop.place a with
      | some (f, l) => if start ≤ f ∧ f < start + len ∧ m.phys a ≠ a.val then some (f, l) else none
      | none => none

/-- Clear a run of frames: every line becomes the codeword of zeros with W and C given (R140, R153). -/
def Mach.paint (m : Mach) (start len : Nat) (w c : Bool) : Mach :=
  let p := m.pop.place
  let inside := fun (cell : Host.Cell) => match unplace p (MAddr.ofVal (cell.1 / 80)) with
    | some (f, _) => decide (start ≤ f ∧ f < start + len)
    | none => false
  let m1 := { m with media := { cells := m.media.cells.filter (fun cell => !inside cell),
                                paints := { place := p, start, len, w, c } :: m.media.paints } }
  (m.remapIn start len).foldl (fun m fl => m.storeLine fl.1 fl.2 0#512 w false 0#2 false c) m1

/-! ### The cipher's use of a slot (R242-R246) -/

/-- Tweak of the line domain: the line number (R244). -/
def tweakLine (line : Nat) : BitVec 128 := BitVec.ofNat 128 (line % 2 ^ 39)
/-- Tweak of the cellar domain: line index of the extent and page (R244). -/
def tweakCellar (page idx : Nat) : BitVec 128 := BitVec.ofNat 128 (2 ^ 127 + page % 2 ^ 33 * 2 ^ 6 + idx % 64)
/-- Tweak of the save domain: media frame and line (R242). -/
def tweakSave (f l : Nat) : BitVec 128 := BitVec.ofNat 128 (2 ^ 126 + f * 64 + l)

/-- The keys of a slot; an EMPTY slot holds zeros (R252). -/
def Mach.slotKeys (m : Mach) (slot : Nat) : BitVec 256 × BitVec 256 :=
  match m.cry.slots.find? slot with
  | some k => (k.key1, k.key2)
  | none => (0#256, 0#256)

/-- Encrypt for an extent: the bytes and the X bit (R242, R243, R246). -/
def encFor (L : Image) (m : Mach) (e : Nat) (tweak : BitVec 128) (d : Line) : Line × Bool :=
  let x := L.extent e
  if eKeyed x then let k := m.slotKeys (eSlot x); (Codec.xtsEnc k.1 k.2 tweak d, true) else (d, false)

/-- Deliver a stored line for an extent by its X bit (R246). -/
def decFor (L : Image) (m : Mach) (e : Nat) (tweak : BitVec 128) (xbit : Bool) (d : Line) : Line :=
  let x := L.extent e
  if xbit && eKeyed x then let k := m.slotKeys (eSlot x); Codec.xtsDec k.1 k.2 tweak d else d

/-! ### Judging a line (R318) -/

/-- The marked device of a rank on a subchannel (R334). Marks are keyed 8 × channel + 4 × subchannel + rank. -/
def Mach.mark (m : Mach) (a : MAddr) : Option Nat := m.scb.marks.find? (8 * a.ch + 4 * a.sub + a.rank)

/-- Devices of a list of symbols, one bit each. -/
def devMask (ps : List Nat) : Nat := (List.range 10).foldl (fun acc d => if ps.any (fun k => k / 8 == d) then acc + 2 ^ d else acc) 0


/-- Judge 80 symbols read for a place: erasures of a marked device, C expected, flat extent (R317-R319). -/
def judge (m : Mach) (a : MAddr) (c flat : Bool) (raw : List Byte) : Judged :=
  let want := atag a.val
  let mk := m.mark a
  let er := match mk with | some d => (List.range 8).map (8 * d + ·) | none => []
  let mkJ := fun (v : Verdict) (s : List Byte) (fx ch : List Nat) (n : Nat) =>
    let rd : BitVec 16 := ofBytes 16 ((s.drop 64).take 2)
    ({ v, line := ofBytes 512 (s.take 64), rind := rd, fixed := fx, cw := ofBytes 640 s,
       syn := BitVec.ofNat 32 (devMask ch + n * 2 ^ 10 + (rAtag rd).toNat * 2 ^ 16 + want.toNat * 2 ^ 24) } : Judged)
  match Codec.rsDecode er raw with
  | none => mkJ .uncorrectable raw [] [] 0x3F
  | some (s, ch) =>
    let fx := ch.filter (fun k => !er.contains k)
    let rd : BitVec 16 := ofBytes 16 ((s.drop 64).take 2)
    let v : Verdict :=
      if rAtag rd ≠ want ∨ rC rd ≠ c then .misdirected
      else if rP rd then .poisoned
      else if !rW rd then (if flat then .flatUnwritten else .zeros)
      else .data
    mkJ v s fx ch ch.length

/-- Symbols with an error pattern. -/
def applyErrs (errs : SymErr) (s : List Byte) : List Byte :=
  errs.foldl (fun s e => s.set e.1 (s.getD e.1 0#8 ^^^ e.2)) s

/-- The DETAIL field of the RS sources (R455). -/
def rsDetail (a : MAddr) : Nat := a.sub + 2 * a.rank + 8 * a.bg + 64 * a.bank + 256 * a.die

/-- Raise an RS source for a place: media address, or a DPA when the reader has one. -/
def Mach.raiseRs (m : Mach) (src : Nat) (a : MAddr) (dpa : Option Nat) (syn : Word) : Mach :=
  m.raiseOcc { src, unit := a.ch, detail := rsDetail a, syn,
               addr := dpa.getD a.val, addrk := if dpa.isSome then 1 else 3 }

/-- The device counter key (R327): channel, subchannel, rank, device as SCB_DEV_INDEX names them. -/
def devKey (a : MAddr) (d : Nat) : Nat := a.ch + 16 * a.sub + 32 * a.rank + 128 * d

/-- The correction history, with times in CORE cycles, and the sticky queue at a correcting read (R325, R326). -/
def Mach.history (m : Mach) (a : MAddr) (j : Judged) : Mach :=
  let win := m.rfld oStickyCfg 23 0 * 1600000000
  let now := m.core
  let h := m.scb.chist
  let old := h.find? (fun e => e.1 == a.val)
  let rest := h.filter (fun e => e.1 != a.val)
  let ent : Nat × Nat × Nat := match old with
    | some e => if win < now - e.2.2 then (a.val, 1, now) else (a.val, e.2.1 + 1, e.2.2)
    | none => (a.val, 1, now)
  if 3 ≤ ent.2.1 then
    let m : Mach := { m with scb := { m.scb with chist := rest } }
    let m : Mach := (m.raiseRs 99 a none j.syn).evb oScbEvt 3
    if m.scb.sticky.length < 64
    then { m with scb := { m.scb with sticky := m.scb.sticky ++ [(a.val, devMask j.fixed)] } }
    else m.evb oScbEvt 4
  else if rest.length < 4096 then { m with scb := { m.scb with chist := rest ++ [ent] } }
  else
    let oldest := rest.foldl (fun (acc : Nat × Nat) (e : Nat × Nat × Nat) => if e.2.2 < acc.2 then (e.1, e.2.2) else acc)
      ((rest.headD (0, 0, 0)).1, (rest.headD (0, 0, 0)).2.2)
    ({ m with scb := { m.scb with chist := (rest.filter (fun (e : Nat × Nat × Nat) => e.1 != oldest.1)) ++ [ent] } }).evb oScbEvt 5

/-- The corrected-error alert of each head whose threshold the count reaches (R44; the event record is the CXL standard's, log entry 18). -/
def Mach.alertCe (m : Mach) : Mach :=
  (List.range 8).foldl (fun m h =>
    let a := (m.mb h).alert
    if a.getLsbD 11 && fld a 79 64 == (m.reg oCntCe).toNat then m.cxlEvent h 1 (Config.mboxBytes 0x4201 h [3]) else m) m

/-- Count a correcting read: CE, the device counts, the history, at most one record a second per channel (R325, R327). -/
def Mach.countCe (m : Mach) (a : MAddr) (j : Judged) : Mach :=
  let m := (m.bump oCntCe).alertCe.evb oScbEvt 0
  let devs := (List.range 10).filter (fun d => j.fixed.any (fun k => k / 8 == d))
  let m := { m with scb := { m.scb with devCnt := devs.foldl (fun t d =>
    t.insert (devKey a d) (min 0xFFFFFFFF (t.get 0 (devKey a d) + 1))) m.scb.devCnt } }
  let m := match m.scb.lastCe.find? a.ch with
    | some t => if m.core - t < 1600000000 then m.bump (oFltCnt 96)
                else ({ m with scb := { m.scb with lastCe := m.scb.lastCe.insert a.ch m.core } }).raiseRs 96 a none j.syn
    | none => ({ m with scb := { m.scb with lastCe := m.scb.lastCe.insert a.ch m.core } }).raiseRs 96 a none j.syn
  m.history a j

/-- The syndrome of a line that was not good: which devices hold the symbols in error of an uncorrectable one the decoder does not find,
so those bits are a free value (R457, log entry 1). -/
def Mach.ueSyn (m : Mach) (j : Judged) : Word := if j.v = .uncorrectable then j.syn ||| (Config.free 10 m.fresh).setWidth 32 else j.syn

/-- The reader records an uncorrectable line itself, when it knows more (R147). -/
abbrev noSrc : Nat := 256

/-- What every reader of a judged line does: counts, the class B event of the reader's source, and the corrections' counts. The
corrected write-back is the caller's. `src` is the source of an uncorrectable line (97 unless the reader has one of its own, log
entry 11). -/
def Mach.account (m : Mach) (a : MAddr) (src : Nat) (dpa : Option Nat) (j : Judged) : Mach :=
  let m := match j.v with
    | .uncorrectable =>
      let m := (m.bump oCntUe).evb oScbEvt 1
      if src = noSrc then m else (m.raiseRs src a dpa (m.ueSyn j)).tick
    | .misdirected => ((m.bump oCntMisdir).evb oScbEvt 2).raiseRs 98 a none j.syn
    | _ => m
  if j.fixed = [] then m else m.countCe a j

/-- The data a judged line delivers and its poison (R318, R324), before the cipher. -/
def Judged.stored (j : Judged) : Line × Bool :=
  match j.v with
  | .uncorrectable | .misdirected | .flatUnwritten => (BitVec.allOnes 512, true)
  | .poisoned => (j.line, true)
  | .zeros => (0#512, false)
  | .data => (j.line, false)

/-- Read and judge a line of a frame from DRAM, with the errors and a misrouting of this access. -/
def Mach.readJudge (m : Mach) (f l : Nat) (c flat : Bool) (errs : SymErr) (misroute : Option Nat) : Judged :=
  let a := place m.pop.place f l
  judge m a c flat (applyErrs errs (m.media.sym (misroute.getD (m.phys a))))

end Sys2Proof.Machine
end

