-- ==== Sys2Proof/Machine/Dram.lean ====
section
/-! DEFINITION. The memory controllers (R270-R296): the queues of a subchannel, the scheduler's pick, refresh and refresh
management, self-refresh and its canaries. -/

namespace Sys2Proof.Machine

/-! ### Subchannels -/

/-- Subchannel `k` = 2 × channel + subchannel. -/
def Mach.sub (m : Mach) (k : Nat) : Sub := m.mcs.subs.get {} k

/-- Set subchannel `k`. -/
def Mach.setSub (m : Mach) (k : Nat) (s : Sub) : Mach := { m with mcs := { m.mcs with subs := m.mcs.subs.insert k s } }

/-- The place of a queue entry's line. -/
def Mach.qAddr (m : Mach) (q : QEnt) : MAddr := q.spot.getD (place m.pop.place q.frame q.ln)

/-- The subchannel number of a queue entry's line. -/
def Mach.qSub (m : Mach) (q : QEnt) : Nat := let a := m.qAddr q; 2 * a.ch + a.sub

/-- The subchannel number of a line. -/
def Mach.subOf (m : Mach) (f l : Nat) : Nat := let a := place m.pop.place f l; 2 * a.ch + a.sub

/-- The logical rank of a place: rank by rank and, within a rank, die by die (R279). -/
def Mach.lrank (m : Mach) (a : MAddr) : Nat := a.rank * 2 ^ m.pop.ld + a.die

/-- Logical ranks of a subchannel. -/
def Mach.lranks (m : Mach) : Nat := 2 ^ (m.pop.rb + m.pop.ld)

/-- Two entries name the same line. -/
def QEnt.same (a b : QEnt) : Bool := a.frame == b.frame && a.ln == b.ln && a.spot == b.spot

/-- A subchannel's write for a line, queued (R271). -/
def Sub.queued (s : Sub) (q : QEnt) : Option QEnt := s.wq.find? (fun w => w.same q)

/-- A write for the line waits in the fabric (R270). -/
def Sub.waiting (s : Sub) (q : QEnt) : Bool := s.fabric.any (fun w => w.wr && w.same q)

/-- The latency target of a class in ns (R275). -/
def Mach.latTarget (m : Mach) (ch : Nat) (c : Cls) : Nat :=
  match c with
  | .rt => m.rfld (oMcLat ch 0) 15 0
  | .table => m.rfld (oMcLat ch 0) 31 16
  | .bulk => m.rfld (oMcLat ch 1) 15 0
  | .engine => m.rfld (oMcLat ch 1) 31 16

/-- Start draining at WQ_HIGH, stop at WQ_LOW (R274). -/
def Sub.drainRule (high low : Nat) (s : Sub) : Sub :=
  if high ≤ s.wq.length then { s with draining := true }
  else if s.wq.length ≤ low then { s with draining := false }
  else s

/-- Apply the drain rule of subchannel `k`. -/
def Mach.drain (m : Mach) (k : Nat) : Mach :=
  m.setSub k ((m.sub k).drainRule (m.rfld (oMcQcfg (k / 2)) 6 0) (m.rfld (oMcQcfg (k / 2)) 14 8))

/-- Commands of the DRAM's upkeep take so many slots of a subchannel (R511). -/
def Mach.upkeep (m : Mach) (k n : Nat) : Mach := (List.range n).foldl (fun m _ => m.slotCycle k 2) m

/-- A subchannel is out of self-refresh (R290): debt 0, intervals begun anew, an SRX to every rank. -/
def Mach.subOut (m : Mach) (k : Nat) : Mach :=
  (m.setSub k { m.sub k with sr := .out, debt := [], due := [] }).upkeep k (2 ^ m.pop.rb)

/-- The channel's ranks leave self-refresh on both subchannels. -/
def Mach.chanOut (m : Mach) (ch : Nat) : Mach := (m.subOut (2 * ch)).subOut (2 * ch + 1)

/-- A request reaches a controller: it aborts a self-refresh entry made for DROWSE or DEEP on the subchannel (R289), which the power controller learns; after a shutdown
self-test it brings the channel out of self-refresh, stopping a PHY test that runs (R498, R501). A latched part, one asleep or one
in a warm reset, and a RETIRED channel keep their self-refresh. -/
def Mach.reach (m : Mach) (k : Nat) : Mach :=
  if (m.sub k).sr = .entering ∧ m.pwr.st = .entering then
    let m := ((m.setSub k { m.sub k with sr := .out }).evb (oMcEvt (k / 2)) 5).bump (oMcCnt (k / 2) 6)
    { m with pwr := { m.pwr with undo := true } }
  else if (m.sub k).sr = .inSr ∧ m.pwr.st = .active ∧ m.pwr.warm = none ∧ m.scb.chSt.get 0 (k / 2) ≠ 3 ∧ !m.rbit oAFirst 8 then
    let m := m.chanOut (k / 2)
    if m.tst.st = 2 ∧ !m.tst.stopped.contains (100 + k / 2) then
      { m with tst := { m.tst with stopped := m.tst.stopped ++ [100 + k / 2] } }
    else m
  else m

/-- Whether a write enters the write queue: room, or a queued write of its line, whose data it replaces (R270, R271). -/
def Sub.writeRoom (s : Sub) (q : QEnt) : Bool := (s.queued q).isSome || decide (s.wq.length < 64)

/-- Whether a read enters the read queue or is answered at once. -/
def Sub.readRoom (s : Sub) (q : QEnt) : Bool := (s.queued q).isSome || decide (s.rq.length < 64)

/-- Put a write into the queue; a write of a queued line replaces its data in place (R271). The reads of the line that DRAM has still to
answer know of it (R321). -/
def Sub.putWrite (s : Sub) (q : QEnt) : Sub :=
  let mark := fun (l : List QEnt) => l.map (fun x => if x.same q then { x with newer := true } else x)
  let s := { s with rq := mark s.rq, flight := mark s.flight }
  if (s.queued q).isSome then { s with wq := s.wq.map (fun w => if w.same q then { w with cw := q.cw } else w) }
  else { s with wq := s.wq ++ [q] }

/-- A write arrives at its controller: into the queue, or into the fabric ahead of it, behind whatever waits there (R270). True when it
entered the queue. -/
def Mach.sendWrite (m : Mach) (q : QEnt) : Bool × Mach :=
  let k := m.qSub q
  let m := if q.spot.isSome then m else m.reach k
  let q := { q with id := m.mcs.nextId, wr := true }
  let m := { m with mcs := { m.mcs with nextId := m.mcs.nextId + 1 } }
  let s := m.sub k
  if s.fabric.isEmpty && s.writeRoom q then (true, (m.setSub k (s.putWrite q)).drain k)
  else (false, m.setSub k { s with fabric := s.fabric ++ [q] })

/-- What becomes of a read that arrives at its controller. -/
inductive ReadFate where
  | forwarded (cw : Codeword) | queued | waits
  deriving DecidableEq, Repr

/-- Take a read into a subchannel's queue, or answer it from a queued write (R270, R271); it waits behind whatever waits in the fabric. -/
def Sub.putRead (s : Sub) (q : QEnt) (target : Nat) : ReadFate × Sub :=
  if !s.fabric.isEmpty || !s.readRoom q then
    (.waits, { s with fabric := s.fabric ++ [q] })
  else match s.queued q with
    | some w => (.forwarded w.cw, s)
    | none => (.queued, { s with rq := s.rq ++ [{ q with target }] })

/-- A read arrives at its controller. -/
def Mach.sendRead (m : Mach) (q : QEnt) : ReadFate × Mach :=
  let k := m.qSub q
  let m := if q.spot.isSome then m else m.reach k
  let q := { q with id := m.mcs.nextId, wr := false }
  let m := { m with mcs := { m.mcs with nextId := m.mcs.nextId + 1 } }
  let r := (m.sub k).putRead q (m.latTarget (k / 2) q.cls)
  let m := m.setSub k r.2
  match r.1 with
  | .forwarded cw => (.forwarded cw, m.bump (oMcCnt (k / 2) 2))
  | f => (f, m)

/-- Let the fabric's requests enter a subchannel's queues, in order, while the first has room (R270); `n` bounds the number taken. -/
def Mach.fabricPull : Nat → Nat → Entered → Mach → Entered × Mach
  | 0, _, e, m => (e, m)
  | n + 1, k, e, m =>
    let s := m.sub k
    match s.fabric with
    | [] => (e, m)
    | q :: rest =>
      let s' := { s with fabric := rest }
      if q.wr then
        if s.writeRoom q then Mach.fabricPull n k { e with writes := e.writes ++ [q] } ((m.setSub k (s'.putWrite q)).drain k) else (e, m)
      else match s.queued q with
        | some w => Mach.fabricPull n k { e with fwd := e.fwd ++ [(q, w.cw)] } ((m.setSub k s').bump (oMcCnt (k / 2) 2))
        | none =>
          if s.readRoom q then
            Mach.fabricPull n k e (m.setSub k { s' with rq := s'.rq ++ [{ q with target := m.latTarget (k / 2) q.cls }] })
          else (e, m)

/-! ### Refresh (R278-R284) -/

/-- Live refresh mode, POSTPONE and RFM of a channel. -/
def refMode (L : Image) (ch : Nat) : Nat := fld (L.reg (oRefCfg ch)) 1 0
def refPostpone (L : Image) (ch : Nat) : Nat := fld (L.reg (oRefCfg ch)) 5 2
def refRfm (L : Image) (ch : Nat) : Nat := fld (L.reg (oRefCfg ch)) 7 6

/-- A subchannel is RT-busy while its read queue holds an RT read (R278). -/
def Sub.rtBusy (s : Sub) : Bool := s.rq.any (fun q => q.cls == .rt)

/-- Debt of a logical rank. -/
def Sub.debtOf (s : Sub) (r : Nat) : Nat := s.debt.get 0 r

/-- The rank's DIMM: two DIMMs split the ranks evenly. -/
def Mach.rankDimm (m : Mach) (ch rank : Nat) : Option Dimm :=
  let ds := (m.pop.chans.getD ch {}).dimms
  if m.pop.dpc2 then ds[rank / 2 ^ (m.pop.rb - 1)]? else ds[0]?

/-- RFM acts on a rank: ON, or AUTO for a rank that declares it required (R284). -/
def rfmActs (L : Image) (m : Mach) (ch rank : Nat) : Bool :=
  refRfm L ch == 1 || (refRfm L ch == 2 && (m.rankDimm ch rank).any (·.rfmReq))

/-- RAAIMT and RAAMMT of a rank. -/
def Mach.raaimt (m : Mach) (ch rank : Nat) : Nat := ((m.rankDimm ch rank).map (·.raaimt)).getD 0
def Mach.raammt (m : Mach) (ch rank : Nat) : Nat := ((m.rankDimm ch rank).map (·.raammt)).getD 0

/-- The RAA key of a bank: logical rank, bank group, bank. -/
def raaKey (lr bg bank : Nat) : Nat := (lr * 8 + bg) * 4 + bank

/-- A command candidate of the scheduler. -/
inductive Cand where
  | req (id : Nat) | refAb (lr : Nat) | refSb (lr bi : Nat) | rfmSb (lr bi : Nat)
  deriving DecidableEq, Repr

/-- RT reads queued for a bank index of a logical rank. -/
def Mach.rtOn (m : Mach) (s : Sub) (lr bi : Nat) : List Nat :=
  (s.rq.filter (fun q => q.cls == .rt && m.lrank (m.qAddr q) == lr && (m.qAddr q).bank == bi)).map (·.id)

/-- An interval of a logical rank falls due (R279): the debt rises, or, at POSTPONE already, payments are forced until it is back at
POSTPONE, each counted. -/
def refreshDue (L : Image) (m : Mach) (ch sub lr : Nat) : Mach :=
  let k := 2 * ch + sub
  let s := m.sub k
  if s.sr = .inSr then m
  else if s.debtOf lr < refPostpone L ch then m.setSub k { s with debt := s.debt.set 0 lr (s.debtOf lr + 1), due := s.due ++ [(lr, 0)] }
  else
    let cmds := if refMode L ch = 2 then (List.range 4).map (fun b => (lr, 1 + b)) else [(lr, 0)]
    let n := s.debtOf lr + 1 - refPostpone L ch
    ((m.setSub k { s with forced := s.forced ++ (List.replicate n cmds).flatten, debt := s.debt.set 0 lr (refPostpone L ch) }).bumpBy
      (oMcCnt ch 3) n).evb (oMcEvt ch) 7

/-- R280: no other order-1 command to a bank index until the RT reads noted have been issued. -/
def Sub.blocked280 (s : Sub) (lr bi : Nat) : Bool :=
  s.block.any (fun b => b.1 == lr && b.2.1 == bi && b.2.2.any (fun id => s.rq.any (fun q => q.id == id && !q.act)))

/-- Banks of a logical rank and bank index whose count reaches a limit (R284). -/
def Sub.raaAt (s : Sub) (lr bi lim : Nat) : Bool :=
  (List.range 8).any (fun bg => decide (lim ≤ s.raa.get 0 (raaKey lr bg bi)))

/-- The RFM candidates at a limit (R284). -/
def rfmCands (L : Image) (m : Mach) (k : Nat) (lim : Nat → Nat → Nat) : List Cand :=
  (List.range m.lranks).flatMap fun lr =>
    let rank := lr / 2 ^ m.pop.ld
    if rfmActs L m (k / 2) rank && decide (0 < m.raaimt (k / 2) rank) then
      ((List.range 4).filter (fun bi => (m.sub k).raaAt lr bi (lim (k / 2) rank))).map (Cand.rfmSb lr)
    else []

/-- Another request's ACT holds the bank of a request (R272). -/
def Mach.bankHeld (m : Mach) (s : Sub) (q : QEnt) : Bool :=
  let a := m.qAddr q
  (s.rq ++ s.wq).any (fun x => x.act && x.id != q.id &&
    (let b := m.qAddr x; b.rank == a.rank && b.die == a.die && b.bg == a.bg && b.bank == a.bank))

/-- A read of class RT from a head whose panic is asserted (R276). -/
def Mach.panicRead (m : Mach) (q : QEnt) : Bool := q.cls == .rt && (m.head q.head).panic

/-- The count at which a rank's RFM is forced (R284). -/
def Mach.rfmLimit (m : Mach) (ch rank : Nat) : Nat := m.raammt ch rank - m.raaimt ch rank

/-- The commands of order 1, oldest first (R273): what R279 forces and the RFMs at their limit, each held back while R280 protects RT
reads of a bank index it covers. -/
def forcedCands (L : Image) (m : Mach) (k : Nat) : List Cand :=
  let s := m.sub k
  let rfm := rfmCands L m k m.rfmLimit
  let all := s.forced.filterMap (fun f =>
    if f.2 = 0 then some (Cand.refAb f.1) else if f.2 < 5 then some (Cand.refSb f.1 (f.2 - 1))
    else if rfm.contains (.rfmSb f.1 (f.2 - 5)) then some (Cand.rfmSb f.1 (f.2 - 5)) else none)
  ((all ++ rfm).eraseDups).filter fun c => match c with
    | .refAb lr => !(List.range 4).any (s.blocked280 lr)
    | .refSb lr bi | .rfmSb lr bi => !s.blocked280 lr bi
    | .req _ => false

/-- Intervals that REFsb has paid in part at a bank index of a logical rank (R278). -/
def Sub.sbDigit (s : Sub) (lr bi : Nat) : Nat := s.sbPaid.get 0 lr / 8 ^ bi % 8

/-- The refresh commands that a logical rank with debt may have as order 6 (R279). -/
def refreshCands (L : Image) (m : Mach) (k lr : Nat) : List Cand :=
  let s := m.sub k
  if s.debtOf lr = 0 then []
  else if !s.rtBusy then [Cand.refAb lr]
  else if refMode L (k / 2) = 2 then
    ((List.range 4).filter (fun bi => (m.rtOn s lr bi).isEmpty && s.sbDigit lr bi == 0)).map (Cand.refSb lr)
  else []

/-- The commands of order 6, oldest due first (R273, R279, R284); an RFM at its forced limit belongs to order 1. -/
def dueCands (L : Image) (m : Mach) (k : Nat) : List Cand :=
  let s := m.sub k
  let forced := rfmCands L m k m.rfmLimit
  let rfm := (rfmCands L m k m.raaimt).filter (fun c => !forced.contains c)
  let old := s.due.flatMap (fun d => if d.2 = 0 then refreshCands L m k d.1 else [Cand.rfmSb d.1 (d.2 - 5)].filter rfm.contains)
  (old ++ (List.range m.lranks).flatMap (refreshCands L m k) ++ rfm).eraseDups

/-- The scheduler's candidates in the order of R273. -/
def candidates (L : Image) (m : Mach) (k : Nat) : List Cand :=
  let s := m.sub k
  let reads := fun (p : QEnt → Bool) => (s.rq.filter p).map (fun q => Cand.req q.id)
  let writes := s.wq.map (fun q => Cand.req q.id)
  let o2 := reads m.panicRead
  let o3 := reads (fun q => q.urg == 3)
  let o4 := if s.draining || decide (64 ≤ s.wq.length) then writes else []
  let cls : List Cls := [.rt, .table, .bulk, .engine]
  let o5 := [2, 1, 0].flatMap fun u => cls.flatMap fun c => reads (fun q => q.urg == u && q.cls == c)
  forcedCands L m k ++ o2 ++ o3 ++ o4 ++ o5 ++ dueCands L m k ++ writes

/-- An ACT to a bank keeps its count below RAAMMT where RFM acts (R284). -/
def actFits (L : Image) (m : Mach) (k : Nat) (a : MAddr) : Bool :=
  !rfmActs L m (k / 2) a.rank || m.raammt (k / 2) a.rank == 0
    || decide ((m.sub k).raa.get 0 (raaKey (m.lrank a) a.bg a.bank) + 1 < m.raammt (k / 2) a.rank)

/-- DRAM timing lets a candidate go: the environment names the requests and the refresh commands it does not (`blocked`, `held`
by logical rank and bank index, 4 for all banks); a bank with an ACT in hand waits for its column command (R272), a write
waits for the reads of its line that came before it (R271), and no ACT takes a count to RAAMMT (R284). -/
def allowed (L : Image) (m : Mach) (k : Nat) (blocked : List Nat) (held : List (Nat × Nat)) (c : Cand) : Bool :=
  let s := m.sub k
  let freeRank := fun (lr : Nat) (p : MAddr → Bool) => !(s.rq ++ s.wq).any (fun x => x.act &&
    m.lrank (m.qAddr x) == lr && p (m.qAddr x))
  match c with
  | .req id => match (s.rq ++ s.wq).find? (fun q => q.id == id) with
    | some q => !blocked.contains id && !m.bankHeld s q && !(q.wr && s.rq.any (fun r => r.same q && decide (r.id < q.id)))
      && (q.act || actFits L m k (m.qAddr q))
    | none => false
  | .refAb lr => !held.contains (lr, 4) && freeRank lr (fun _ => true)
  | .refSb lr bi | .rfmSb lr bi => !held.contains (lr, bi) && freeRank lr (fun a => a.bank == bi)

/-- The command a scheduler issues. -/
def pick (L : Image) (m : Mach) (k : Nat) (blocked : List Nat) (held : List (Nat × Nat)) : Option Cand :=
  (candidates L m k).find? (allowed L m k blocked held)

/-- A same-bank refresh pays its bank index's quarter of an interval; four quarters pay the interval (R278, R279). -/
def Sub.paySb (s : Sub) (lr bi : Nat) : Sub :=
  let n := s.sbPaid.get 0 lr + 8 ^ bi
  let s := { s with sbPaid := s.sbPaid.set 0 lr n }
  if (List.range 4).any (fun b => s.sbDigit lr b == 0) then s
  else { s with sbPaid := s.sbPaid.set 0 lr (n - 585), debt := s.debt.set 0 lr (s.debtOf lr - 1), due := s.due.erase (lr, 0) }

/-- An interval of a logical rank is owed again, where POSTPONE leaves room for it; otherwise its payment is forced (R279, R285). -/
def Sub.owe (s : Sub) (postpone lr : Nat) (forced : List (Nat × Nat)) : Sub :=
  if s.debtOf lr < postpone then { s with debt := s.debt.set 0 lr (s.debtOf lr + 1), due := (lr, 0) :: s.due }
  else { s with forced := s.forced ++ forced }

/-- A same-bank refresh that fails parity again is not paid (R285): its quarter is taken back, or the interval that it completed is owed
again, of which the other quarters stay paid. -/
def Sub.unpaySb (s : Sub) (postpone lr bi : Nat) : Sub :=
  let n := s.sbPaid.get 0 lr
  if 0 < s.sbDigit lr bi then { s with sbPaid := s.sbPaid.set 0 lr (n - 8 ^ bi) }
  else if s.debtOf lr < postpone then ({ s with sbPaid := s.sbPaid.set 0 lr (n + 585 - 8 ^ bi) }).owe postpone lr []
  else { s with forced := s.forced ++ [(lr, 1 + bi)] }

/-- The banks of bank indices of a logical rank, in every bank group. -/
def raaKeys (lr : Nat) (bis : List Nat) : List Nat := bis.flatMap (fun bi => (List.range 8).map (fun bg => raaKey lr bg bi))

/-- A refresh or RFM of bank indices lowers their counts by at most `n`: what each bank's count falls by, and the counts after it
(R284; PRESUMED from JEDEC DDR5, log entry 20). -/
def Sub.raaCut (s : Sub) (lr : Nat) (bis : List Nat) (n : Nat) : List (Nat × Nat) × Sub :=
  let ks := raaKeys lr bis
  (ks.map (fun k => (k, min n (s.raa.get 0 k))), { s with raa := ks.foldl (fun t k => t.set 0 k (t.get 0 k - n)) s.raa })

/-- Counts that a command lowered stand as if it had not been issued (R285). -/
def Sub.raaBack (s : Sub) (cut : List (Nat × Nat)) : Sub :=
  { s with raa := cut.foldl (fun t p => t.set 0 p.1 (t.get 0 p.1 + p.2)) s.raa }

/-- An event of the channels: none for the traffic that the part performs for the Keeper (R508). -/
def Mach.chanEvent (m : Mach) (keeper : Bool) (code k n : Nat) : Mach := if keeper then m else m.pmuEvent code k n

/-- The access is the Keeper's. -/
def QEnt.forKeeper (q : QEnt) : Bool := q.purpose == .keeper

/-- The slot counter of a request's command (R511): a canary write is upkeep, and so are the slots that the Keeper's traffic takes, which is never
counted as data (R508; DESIGN CHOICE, log entry 111). -/
def QEnt.slot (q : QEnt) : Nat := if q.forKeeper || (q.purpose == .canary && q.wr) then 2 else 0

/-- An ACT of a bank: its count rises; at RAAIMT its RFM falls due, at RAAMMT - RAAIMT it is forced (R284). -/
def Mach.raaAct (m : Mach) (k : Nat) (a : MAddr) (keeper : Bool) : Mach :=
  let s := m.sub k
  let lr := m.lrank a
  let key := raaKey lr a.bg a.bank
  let n := s.raa.get 0 key + 1
  let it := (lr, 5 + a.bank)
  let s := { s with raa := s.raa.set 0 key n }
  let s := if n = m.raaimt (k / 2) a.rank ∧ !s.due.contains it then { s with due := s.due ++ [it] } else s
  let s := if n = m.rfmLimit (k / 2) a.rank ∧ !s.forced.contains it then { s with forced := s.forced ++ [it] } else s
  (m.setSub k s).chanEvent keeper 0x401 k 1

/-- The replay window keeps the subchannel's last 64 commands (R285). -/
def Sub.note (s : Sub) (c : RCmd) : Sub := { s with replay := (s.replay ++ [c]).drop (s.replay.length - 63) }

/-- Issue a request's next command: its ACT, or its column command. A read's symbols are taken at its RD; a write's cells are
written at its WR. -/
def Mach.issueReq (m : Mach) (k : Nat) (q : QEnt) : Mach :=
  let s := m.sub k
  let a := m.qAddr q
  if !q.act then
    let mk := fun (x : QEnt) => if x.id == q.id then { x with act := true } else x
    let s := ({ s with rq := s.rq.map mk, wq := s.wq.map mk } : Sub).note { id := q.id, kind := 0, lr := m.lrank a, ent := some q }
    (m.setSub k s).raaAct k a q.forKeeper
  else if q.wr then
    let s := ({ s with wq := s.wq.filter (fun x => x.id != q.id) }).note
      { id := q.id, kind := 2, lr := m.lrank a, ent := some q, old := ofBytes 640 (m.media.sym (m.phys a)) }
    ((({ m with media := m.media.writeAt (m.phys a) q.cw } : Mach).setSub k s).bump (oMcCnt (k / 2) 1)).chanEvent q.forKeeper 0x403 k 1
  else
    let raw := ofBytes 640 (m.media.sym (m.phys a))
    let s := ({ s with rq := s.rq.filter (fun x => x.id != q.id), flight := s.flight ++ [{ q with cw := raw }] }).note
      { id := q.id, kind := 1, lr := m.lrank a }
    let m := ((m.setSub k s).bump (oMcCnt (k / 2) 0)).chanEvent q.forKeeper 0x402 k 1
    let m := if q.urg = 3 then m.chanEvent q.forKeeper 0x407 k 1 else m
    if m.panicRead q then m.chanEvent q.forKeeper 0x408 k 1 else m

/-- A write's WR, delivered by a fault of the command or address path to the cells of another line (R553): nothing is checked. -/
def Mach.issueAstray (m : Mach) (k : Nat) (q : QEnt) (v : Nat) : Mach :=
  let t := m.issueReq k q
  { t with media := m.media.writeAt v q.cw }

/-- Issue a command (R273). Forced commands leave the forced list and note the RT reads that R280 protects. A refresh or RFM lowers
the activation counts it covers (R284). -/
def Mach.issue (m : Mach) (k : Nat) (c : Cand) : Mach :=
  let s := m.sub k
  let red := fun (lr : Nat) => m.raaimt (k / 2) (lr / 2 ^ m.pop.ld)
  match c with
  | .req id => match (s.rq ++ s.wq).find? (fun q => q.id == id) with
    | some q => m.issueReq k q
    | none => m
  | .refAb lr =>
    let fc := s.forced.contains (lr, 0)
    let s := if fc then { s with forced := s.forced.erase (lr, 0) }
      else { s with debt := s.debt.set 0 lr (s.debtOf lr - 1), due := s.due.erase (lr, 0) }
    let r := s.raaCut lr [0, 1, 2, 3] (red lr)
    (m.setSub k (r.2.note { kind := 3, lr, forced := fc, cut := r.1 })).pmuEvent 0x409 k 1
  | .refSb lr bi =>
    let fc := s.forced.contains (lr, 1 + bi)
    let s := if fc
      then { s with forced := s.forced.erase (lr, 1 + bi), block := s.block ++ [(lr, bi, m.rtOn s lr bi)] }
      else s.paySb lr bi
    let r := s.raaCut lr [bi] (red lr)
    (m.setSub k (r.2.note { kind := 4, lr, bi, forced := fc, cut := r.1 })).pmuEvent 0x40A k 1
  | .rfmSb lr bi =>
    let force := s.raaAt lr bi (m.rfmLimit (k / 2) (lr / 2 ^ m.pop.ld))
    let r := s.raaCut lr [bi] (red lr)
    let s1 := { r.2 with forced := r.2.forced.filter (· != (lr, 5 + bi)), due := r.2.due.filter (· != (lr, 5 + bi)) }
    let s2 := if force then { s1 with block := s1.block ++ [(lr, bi, m.rtOn s lr bi)] } else s1
    let m := ((m.setSub k (s2.note { kind := 5, lr, bi, forced := force, cut := r.1 })).bump (oMcCnt (k / 2) 4)).pmuEvent 0x40B k 1
    if force then m.evb (oMcEvt (k / 2)) 7 else m

/-- The tags of the requests that a read serves take what the controller writes into it (R18, R275, R276). -/
def Mach.tagReq (m : Mach) (p : Purpose) (f : Req → Req) : Mach :=
  match p with
  | .host id => go (fun r => r.id == id)
  | .ledger j => go (fun r => r.phase == .ledger j)
  | .inline page w _ =>
    let m := go (fun r => r.phase == .decode page w)
    { m with chn := { m.chn with decodes := m.chn.decodes.map (fun d =>
        if d.page == page && d.wedge == w then
          { d with tag := { d.tag with urg := max d.tag.urg (f { urg := d.tag.urg }).urg, panic := (f { cls := d.tag.cls }).panic || d.tag.panic } } else d) } }
  | _ => m
where
  /-- The requests that a read serves. -/
  go (p : Req → Bool) : Mach := { m with home := { m.home with trk := m.home.trk.map (fun r => if p r then f r else r) } }

/-- While a head's panic is asserted, the tags of its class RT reads in a read queue carry the panic bit (R276). -/
def Mach.panicTags (m : Mach) (k : Nat) : Mach :=
  let m := (m.sub k).rq.foldl (fun m q => m.tagReq q.purpose (fun r => { r with panic := m.panicRead q })) m
  m.setSub k { m.sub k with rq := (m.sub k).rq.map (fun q => { q with tag := { q.tag with panic := m.panicRead q } }) }

/-! ### Writes and reads that a command performs whole

A read that a command performs whole goes to its controller as every other read does, as an ENGINE read without a host class (R275), and
the command runs the subchannel's scheduler until DRAM has answered it. -/

/-- Write a line of media: the write goes to its controller, into its write queue or the fabric ahead of it (R270, R271). -/
def Mach.writeNow (m : Mach) (f l : Nat) (cw : Codeword) : Mach := (m.sendWrite { id := 0, frame := f, ln := l, cw }).2

/-- Write a line at a place outside the run of frames (R264). -/
def Mach.writeSpot (m : Mach) (p : Purpose) (a : MAddr) (cw : Codeword) : Mach :=
  (m.sendWrite { id := 0, frame := 0, ln := 0, spot := some a, purpose := p, cw }).2

/-- The newest write of an entry's line that has not reached DRAM. -/
def Mach.unwrittenQ (m : Mach) (q : QEnt) : Option Codeword :=
  let s := m.sub (m.qSub q)
  match (s.fabric.filter (fun w => w.wr && w.same q)).getLast? with
  | some w => some w.cw
  | none => (s.queued q).map (·.cw)

/-- The newest write of a line that has not reached DRAM. -/
def Mach.unwritten (m : Mach) (f l : Nat) : Option Codeword := m.unwrittenQ { id := 0, frame := f, ln := l }

/-- A line as a read would find it, judged: a queued write's data, or the cells. -/
def Mach.lineJudge (m : Mach) (f l : Nat) (c flat : Bool) : Judged :=
  match m.unwritten f l with
  | some cw => judge m (place m.pop.place f l) c flat (bytesOf cw 80)
  | none => m.readJudge f l c flat [] none

/-- What an answer with an error response is worth (R285). -/
def badJudge (cw : Codeword) : Judged := { v := .uncorrectable, line := BitVec.allOnes 512, rind := 0#16, fixed := [], cw, syn := 0#32 }

/-- The corrected write-back of a judged read, charged to the scrubber (R320, R321): none of a misdirected line (R318), and none where a
write of the line has entered the write queue since the read was issued, or waits. -/
def Mach.correctBack (m : Mach) (q : QEnt) (j : Judged) : Mach :=
  if j.fixed = [] ∨ j.v = .misdirected then m
  else if q.newer || (m.unwrittenQ q).isSome then m.bump oCntCwbDrop
  else (((m.sendWrite { id := 0, frame := q.frame, ln := q.ln, spot := q.spot, purpose := .scrub, cw := j.cw }).2).bump oCntCwb).chargeNow mScrub 1

/-- The slot counter of a cycle in which nothing is issued, as DRAM timing has it (R511 rows 3-6), with its split events. -/
def Mach.idleSlot (m : Mach) (k : Nat) (why : SlotWhy) : Mach :=
  let s := m.sub k
  if s.rq.isEmpty && s.wq.isEmpty then m.slotCycle k 3
  else match why with
    | .turnRw => (m.slotCycle k 1).pmuEvent 0x40C k 1
    | .turnRank => (m.slotCycle k 1).pmuEvent 0x40D k 1
    | .upkeep => m.slotCycle k 2
    | .timing => m.slotCycle k 4
    | .sameLine => (m.slotCycle k 4).pmuEvent 0x40E k 1

/-- One MC cycle of a subchannel scheduler (R273, R274, R511); `astray` is the place where a write issued in it goes wrong (R553). -/
def mcCycle (L : Image) (m : Mach) (k : Nat) (blocked : List Nat) (held : List (Nat × Nat)) (why : SlotWhy) (astray : Option Nat) : Mach :=
  if (m.sub k).sr = .inSr ∨ !m.pop.used.contains (k / 2) then m
  else
    let m := (m.drain k).panicTags k
    let s := m.sub k
    let own := fun (l : List QEnt) => l.countP (fun q => !q.forKeeper)
    let m := ((m.pmuEvent 0x404 k (own s.rq)).pmuEvent 0x405 k (own s.wq)).pmuEvent 0x406 k (if s.draining then 1 else 0)
    match pick L m k blocked held with
    | some (.req id) =>
      let m := match astray, s.wq.find? (fun q => q.id == id && q.act) with
        | some v, some q => m.issueAstray k q v
        | _, _ => m.issue k (.req id)
      (m.drain k).slotCycle k (((s.rq ++ s.wq).find? (fun q => q.id == id)).elim 0 QEnt.slot)
    | some c => ((m.issue k c).drain k).slotCycle k 2
    | none => m.idleSlot k why

/-- A cycle of a subchannel within a command: what waits ahead of its queues enters them, and the scheduler issues its next command. -/
def runCycle (L : Image) (m : Mach) (k : Nat) : Mach :=
  let r := Mach.fabricPull 128 k (m.sub k).news m
  mcCycle L (r.2.setSub k { r.2.sub k with news := r.1 }) k [] [] .timing none

/-- A subchannel's cycles until a test of it holds. `n` bounds them. -/
def runUntil (L : Image) (k : Nat) (done : Sub → Bool) : Nat → Mach → Mach
  | 0, m => m
  | n + 1, m =>
    if done (m.sub k) || (m.sub k).sr == .inSr || !m.pop.used.contains (k / 2) then m else runUntil L k done n (runCycle L m k)

/-- A bound of the cycles that a subchannel's work takes: two commands a request, and the commands between them. -/
def Sub.bound (s : Sub) : Nat := 4 * (s.rq.length + s.wq.length + s.fabric.length) + s.forced.length + 64

/-- Run a subchannel until the read of a number has its symbols; it leaves the controller with them. One that a controller in self-refresh
does not issue reads the cells as they stand. -/
def awaitRead (L : Image) (m : Mach) (k : Nat) (q : QEnt) : QEnt × Mach :=
  let mine := fun (x : QEnt) => x.id == q.id && !x.wr
  let m := runUntil L k (fun s => s.flight.any mine || s.news.fwd.any (fun p => mine p.1)) (m.sub k).bound m
  let s := m.sub k
  let rest := fun (l : List QEnt) => l.filter (fun x => !mine x)
  let out := m.setSub k { s with rq := rest s.rq, flight := rest s.flight, fabric := rest s.fabric,
                                 news := { s.news with fwd := s.news.fwd.filter (fun p => !mine p.1) } }
  match s.flight.find? mine, s.news.fwd.find? (fun p => mine p.1) with
  | some x, _ => (x, out)
  | none, some p => ({ p.1 with cw := p.2, back := true }, out)
  | none, none => ({ q with cw := ofBytes 640 (m.media.sym (m.phys (m.qAddr q))) }, out)

/-- A line of a cellar extent, judged for an in-line decode, has passed the line cipher (R21, R243). -/
def decipher (L : Image) (m : Mach) (p : Purpose) (j : Judged) : Judged :=
  match p with
  | .inline page _ i =>
    if j.v = .data ∨ j.v = .poisoned then { j with line := decFor L m (page / 65536) (tweakCellar page i) (rX j.rind) j.line } else j
  | _ => j

/-- The read for a purpose that a unit has sent ahead, wherever it stands. -/
def Sub.sentFor (s : Sub) (p : Purpose) : Option QEnt :=
  if p = .other ∨ p = .canary ∨ p = .keeper then none else (s.flight ++ s.rq ++ s.fabric.filter (fun q => !q.wr) ++ s.news.fwd.map (·.1)).find? (fun q => q.purpose == p)

/-- Read the line of an entry and judge it, with an error pattern on DRAM's answer: count it for its reader, and write a correction back
(R318, R320, R321). A read that was sent ahead for its purpose is the one awaited; one answered from a write's data read no DRAM. -/
def readEnt (L : Image) (m : Mach) (q : QEnt) (c flat : Bool) (src : Nat) (dpa : Option Nat) (errs : SymErr) : Judged × Mach :=
  let k := m.qSub q
  let a := m.qAddr q
  let errs := if errs = [] ∧ q.spot.isNone then m.errsAt q.frame q.ln else errs
  let sent := (m.sub k).sentFor q.purpose
  let q := { q with id := (sent.map (·.id)).getD m.mcs.nextId }
  let r := if sent.isSome then (.queued, m) else m.sendRead q
  match r.1 with
  | .forwarded cw => (decipher L r.2 q.purpose (judge r.2 a c flat (bytesOf cw 80)), r.2)
  | _ =>
    let x := awaitRead L r.2 k q
    match x.1.ans with
    | some j => (j, x.2)
    | none =>
      if x.1.back && !x.1.bad then (decipher L x.2 q.purpose (judge x.2 a c flat (bytesOf x.1.cw 80)), x.2)
      else
        let j := if x.1.bad then badJudge x.1.cw else judge x.2 a c flat (applyErrs errs (bytesOf x.1.cw 80))
        (decipher L x.2 q.purpose j, (x.2.account a src dpa j).correctBack x.1 j)

/-- Read and judge a line of a frame; `p` names what a unit may have sent the read ahead for. -/
def readFor (L : Image) (m : Mach) (p : Purpose) (f l : Nat) (c flat : Bool) (src : Nat) (dpa : Option Nat) (errs : SymErr) :
    Judged × Mach :=
  readEnt L m { id := 0, frame := f, ln := l, purpose := p } c flat src dpa errs

/-- As `readFor`, for a read that no unit sent ahead. -/
def readNow (L : Image) (m : Mach) (f l : Nat) (c flat : Bool) (src : Nat) (dpa : Option Nat) (errs : SymErr) : Judged × Mach :=
  readFor L m .other f l c flat src dpa errs

/-- Writes of frames that wait in a controller or ahead of it are superseded by a clearing of the frames (R140, R153). -/
def Mach.dropWrites (m : Mach) (start len : Nat) : Mach :=
  let out := fun (q : QEnt) => q.wr && q.spot.isNone && decide (start ≤ q.frame ∧ q.frame < start + len)
  { m with mcs := { m.mcs with subs := m.mcs.subs.map (fun (p : Nat × Sub) =>
      (p.1, { p.2 with wq := p.2.wq.filter (fun q => !out q), fabric := p.2.fabric.filter (fun q => !out q) })) } }

/-- The writes of a cleared frame (R153): its 64 lines, each a codeword of zeros with W given. -/
def Mach.clearWrites (m : Mach) (f : Nat) (w : Bool) : Mach :=
  (List.range 64).foldl (fun m l => m.writeNow f l (m.formCw f l 0#512 w false 0#2 false false)) m

/-- Values of g below `n` whose frames lie on rank and die number `r`, ranks first (R263). -/
def gOn (p : Place) (n r : Nat) : Nat :=
  let w := 128 * 2 ^ (p.rb + p.ld)
  n / w * 128 + min 128 (n % w - 128 * r)

/-- Frames of a run that lie on a channel and on rank and die number `r`: a whole group of C frames puts one on every channel. -/
def framesOn (p : Place) (start len ch r : Nat) : Nat :=
  let c := p.used.length
  let g0 := (start + c - 1) / c
  let g1 := (start + len) / c
  let edge := fun (a b : Nat) => (List.range (b - a)).countP (fun i =>
    let x := place p (a + i) 0
    x.ch == ch && x.rank + 2 ^ p.rb * x.die == r)
  if g1 ≤ g0 then edge start (start + len) else edge start (g0 * c) + (gOn p g1 r - gOn p g0 r) + edge (g1 * c) (start + len)

/-- The activations of a run of frames that is written whole: one of every bank of each subchannel a frame, with the RFM commands that they
call for (R272, R284). -/
def writtenRun (L : Image) (m : Mach) (start len : Nat) : Mach :=
  let p := m.pop.place
  p.used.foldl (fun m ch => (List.range (2 ^ (p.rb + p.ld))).foldl (fun m r =>
    let n := framesOn p start len ch r
    let rank := r % 2 ^ p.rb
    let lr := rank * 2 ^ p.ld + r / 2 ^ p.rb
    let lim := if rfmActs L m ch rank then m.raaimt ch rank else 0
    if n = 0 then m
    else [2 * ch, 2 * ch + 1].foldl (fun m k =>
      let s := m.sub k
      let keys := raaKeys lr [0, 1, 2, 3]
      let rfms := ((List.range 4).map (fun bi => (raaKeys lr [bi]).foldl (fun a x => max a (s.raa.get 0 x + n)) 0 / lim)).sum
      let raa := keys.foldl (fun t x => t.set 0 x (if lim = 0 then t.get 0 x + n else (t.get 0 x + n) % lim)) s.raa
      let m := ((m.setSub k { s with raa }).bumpBy (oMcCnt ch 1) (32 * n)).pmuEvent 0x401 k (32 * n)
      let m := m.pmuEvent 0x403 k (32 * n)
      if lim = 0 then m else (m.bumpBy (oMcCnt ch 4) rfms).pmuEvent 0x40B k rfms) m) m) m

/-- Frames cleared in a run (R140): every line written anew, whatever writes of them still waited. -/
def clearFrames (L : Image) (m : Mach) (start len : Nat) (w : Bool) : Mach :=
  writtenRun L ((m.dropWrites start len).paint start len w false) start len

/-- A read's wait raises its urgency, never lowers it (R275). -/
def urgencyOf (waited target : Nat) : Nat :=
  if 90 * target ≤ 100 * waited then 3 else if 75 * target ≤ 100 * waited then 2 else if 50 * target ≤ 100 * waited then 1 else 0

/-- Raise the urgency of a queued read that has waited so many ns; the controller writes it into the request's tag. -/
def raiseUrgency (m : Mach) (k entry waited : Nat) : Mach :=
  let s := m.sub k
  match s.rq.find? (fun q => q.id == entry) with
  | none => m
  | some q =>
    let u := max q.urg (urgencyOf waited q.target)
    (m.setSub k { s with rq := s.rq.map (fun x => if x.id == entry then { x with tag := { x.tag with urg := u } } else x) }).tagReq q.purpose
      (fun r => { r with urg := max r.urg u })

/-! ### Self-refresh and canaries (R287-R294) -/

/-- The canary pattern of a bank (R291). -/
def canaryData (cnt : Nat) (a : MAddr) : Line :=
  let p := cnt % 2 ^ 32 * 2 ^ 32 ^^^ a.die * 2 ^ 28 ^^^ a.ch * 2 ^ 24 ^^^ a.sub * 2 ^ 23 ^^^ a.rank * 2 ^ 20 ^^^ a.bg * 2 ^ 17
    ^^^ a.bank * 2 ^ 15 ^^^ 0x5A5A
  ofBytes 512 ((List.range 8).flatMap (fun _ => bytesOfNat p 8))

/-- The banks of a subchannel, each with its canary place: column 0 of the topmost row (R264, R291). -/
def Mach.canaryPlaces (m : Mach) (ch sub : Nat) : List MAddr :=
  (List.range (2 ^ m.pop.rb)).flatMap fun rank => (List.range (2 ^ m.pop.ld)).flatMap fun die =>
    (List.range 32).map fun b =>
      { ch, sub, bg := b / 4, bank := b % 4, col := 0, rank, die, row := devRows m.pop.dens - 1 }

/-- Write the canaries of a subchannel: its last ones carry the channel's present count (R291). -/
def writeCanaries (m : Mach) (ch sub : Nat) : Mach :=
  let cnt := m.mcs.canaryCnt.get 0 ch
  let k := 2 * ch + sub
  let m := m.setSub k { m.sub k with canAt := cnt }
  (m.canaryPlaces ch sub).foldl (fun m a =>
    m.writeSpot .canary a (Codec.rsEncode (canaryData cnt a) (mkRind true false 0#2 false false (atag a.val)))) m

/-- The queued writes of a subchannel, and no more, are issued (R287, class A). -/
def drainWrites (L : Image) (m : Mach) (k : Nat) : Mach :=
  (List.range ((m.sub k).bound)).foldl (fun m _ => if (m.sub k).wq.isEmpty then m else mcCycle L m k [] [] .timing none) m

/-- Step 2 of R288: the queues drained by the normal order, with what waits ahead of them and the commands that order 1 asks for. -/
def drainQueues (L : Image) (m : Mach) (k : Nat) : Mach :=
  runUntil L k (fun s => s.rq.isEmpty && s.wq.isEmpty && s.fabric.isEmpty && s.forced.isEmpty) (m.sub k).bound m

/-- Step 3 of R288: what each logical rank owes is paid with REFab. -/
def Mach.payDebt (m : Mach) (k : Nat) : Mach :=
  (List.range m.lranks).foldl (fun m lr =>
    (List.range ((m.sub k).debtOf lr)).foldl (fun m _ => (m.issue k (.refAb lr)).upkeep k 1) m) m

/-- A subchannel enters self-refresh (R288): both queues drained, debt paid, canaries written, SRE to every rank; in the class A case (`calm` false)
writes alone are drained. A subchannel in self-refresh stays as it is, one of a RETIRED channel among them (R336). -/
def enterSr (L : Image) (m : Mach) (k : Nat) (calm : Bool) : Mach :=
  if !m.pop.used.contains (k / 2) ∨ (m.sub k).sr = .inSr then m
  else
    let m := if calm then drainQueues L (writeCanaries ((drainQueues L m k).payDebt k) (k / 2) (k % 2)) k
      else drainWrites L (m.setSub k { m.sub k with rq := [] }) k
    (m.upkeep k (2 ^ m.pop.rb)).setSub k { m.sub k with sr := .inSr, debt := [], due := [], sbPaid := [], forced := [], canaries := calm }

/-- Count a self-refresh entry of the channels of a list that are about to enter (R291). -/
def Mach.countEntry (m : Mach) (chs : List Nat) : Mach :=
  let going := chs.filter (fun ch => (m.sub (2 * ch)).sr != .inSr || (m.sub (2 * ch + 1)).sr != .inSr)
  { m with mcs := { m.mcs with canaryCnt := going.foldl (fun t ch => t.insert ch ((t.get 0 ch + 1) % 2 ^ 32)) m.mcs.canaryCnt } }

/-- All 24 subchannels. -/
def allSubs : List Nat := List.range 24

/-- Enter self-refresh on the channels of a list: the entry is counted, then each subchannel enters (R288, R291). -/
def enterSrOn (L : Image) (m : Mach) (chs : List Nat) (calm : Bool) : Mach :=
  chs.foldl (fun m ch => enterSr L (enterSr L m (2 * ch) calm) (2 * ch + 1) calm) (m.countEntry chs)

/-- Enter self-refresh on every used channel. -/
def enterSrAll (L : Image) (m : Mach) (calm : Bool) : Mach := enterSrOn L m m.pop.used calm

/-- Leave self-refresh on a subchannel (R290): debt 0, queues reopened. -/
def Mach.exitSr (m : Mach) (k : Nat) : Mach :=
  if (m.sub k).sr = .inSr ∧ m.scb.chSt.get 0 (k / 2) ≠ 3 then m.subOut k else m

/-- Leave self-refresh everywhere. -/
def Mach.exitSrAll (m : Mach) : Mach := allSubs.foldl (fun m k => m.exitSr k) m

/-- Mark a bank suspect (R293); the scrubber is to visit it (R342). -/
def Mach.suspect (m : Mach) (a : MAddr) : Mach :=
  let m := m.evt (oSuspect a.ch a.sub a.rank a.die) (put 1 (4 * a.bg + a.bank))
  if m.scb.suspects.contains (a.ch, a.bankKey) then m
  else { m with scb := { m.scb with suspects := m.scb.suspects ++ [(a.ch, a.bankKey)] } }

end Sys2Proof.Machine
end

