-- ==== Sys2Proof/Machine/Yelrin.lean ====
section
/-! DEFINITION. The Yelrin format (R175-R207), cultures (R185-R187), wedges and cellar extents (R191-R197), stream frames, and
DEFLATE, zlib and gzip (R208-R210, R552). Decoders are written out; an encoder's choices are constants of `Config`, taken only
when the decoder gives the data back, and replaced by the stored form otherwise (log entry 13). -/

namespace Sys2Proof.Machine.Yelrin

open Codec

/-! ### Bits (R176) -/

/-- Bits in the order in which a bitstream fills bytes. -/
abbrev Bits := List Bool

/-- The bits of bytes. -/
def bitsOf (l : List Byte) : Bits := l.flatMap (fun b => (List.range 8).map b.getLsbD)

/-- A number from bits, least significant first. -/
def natOfBits : Bits → Nat
  | [] => 0
  | b :: t => b.toNat + 2 * natOfBits t

/-- Bytes from whole groups of eight bits. -/
def bytesOfBits : Bits → List Byte
  | a :: b :: c :: d :: e :: f :: g :: h :: t => BitVec.ofNat 8 (natOfBits [a, b, c, d, e, f, g, h]) :: bytesOfBits t
  | _ => []

/-- The result of parsing: a value and the rest, the input ends, or a fault. -/
inductive Res (α : Type) where
  | ok (a : α) (rest : Bits) | more | bad

/-- A parser. -/
abbrev P (α : Type) := Bits → Res α

/-- Parse one thing after another. -/
def andThen {α β : Type} (p : P α) (f : α → P β) : P β := fun b => match p b with
  | .ok a r => f a r
  | .more => .more
  | .bad => .bad

/-- A value without reading. -/
def done {α : Type} (a : α) : P α := fun b => .ok a b

/-- A fault. -/
def fail {α : Type} : P α := fun _ => .bad

/-- Take `n` bits. -/
def takeBits (n : Nat) : P Bits := fun b => if b.length < n then .more else .ok (b.take n) (b.drop n)

/-- A fixed-width integer. -/
def readBits (n : Nat) : P Nat := andThen (takeBits n) (fun x => done (natOfBits x))

/-! ### Canonical codes (R182, R183) -/

/-- A canonical code: symbols by length, and the symbols in code order. -/
structure Huff where
  counts : List Nat
  syms : List Nat
  deriving DecidableEq, Repr

/-- The code of a list of lengths (R182). -/
def Huff.ofLens (lens : List Nat) : Huff :=
  let ix := lens.zip (List.range lens.length)
  { counts := (List.range 15).map (fun l => ix.countP (fun p => p.1 == l + 1))
    syms := (List.range 15).flatMap (fun l => (ix.filter (fun p => p.1 == l + 1)).map (·.2)) }

/-- Read one code: `code`, `first` and `index` of the lengths passed so far. Where no length is left that a code has, what was
read is an invalid code, whatever follows (R183, R205: the first fault met). -/
def readCodeFrom (syms : List Nat) : List Nat → Nat → Nat → Nat → P Nat
  | [], _, _, _ => fail
  | n :: t, code, first, index => fun b => if n = 0 ∧ t.all (fun x => x == 0) then .bad else match b with
    | [] => .more
    | x :: r =>
      let code := 2 * code + x.toNat
      let first := 2 * first
      if code < first + n ∧ first ≤ code then .ok (syms.getD (index + (code - first)) 0) r
      else readCodeFrom syms t code (first + n) (index + n) r

/-- Read a symbol. -/
def Huff.read (h : Huff) : P Nat := readCodeFrom h.syms h.counts 0 0 0

/-- The Kraft sum in units of 2^-15. -/
def kraft (lens : List Nat) : Nat := lens.foldl (fun a l => if l = 0 then a else a + 2 ^ (15 - l)) 0

/-- A table is complete, or has one symbol of length 1 (R183). -/
def tableOk (lens : List Nat) : Bool :=
  kraft lens == 2 ^ 15 || lens.filter (fun l => l != 0) == [1]

/-- A table all of whose lengths are 0 (an offset table of a block without a match). -/
def tableEmpty (lens : List Nat) : Bool := lens.all (fun l => l == 0)

/-! ### Lengths and offsets (R179, R180) -/

/-- Base and extra bits of a length symbol. -/
def lenSym (c : Nat) : Nat × Nat :=
  if c ≤ 272 then (c - 253, 0)
  else if c ≤ 288 then (20 + 2 * (c - 273), 1)
  else if c ≤ 296 then (52 + 4 * (c - 289), 2)
  else if c ≤ 304 then (84 + 8 * (c - 297), 3)
  else if c ≤ 311 then (148 + 16 * (c - 305), 4)
  else (260 + 32 * (c - 312), 5)

/-- Base and extra bits of an offset symbol. -/
def offSym (c : Nat) : Nat × Nat :=
  if c < 4 then (c + 1, 0) else let e := c / 2 - 1; ((2 + c % 2) * 2 ^ e + 1, e)

/-- Base and extra bits of a DEFLATE length symbol 257-285 (RFC 1951). -/
def dLenSym (c : Nat) : Nat × Nat :=
  if c = 285 then (258, 0)
  else if c < 265 then (c - 254, 0)
  else let e := (c - 261) / 4; ((4 + (c - 261) % 4) * 2 ^ e + 3, e)

/-- Base and extra bits of a DEFLATE distance code 0-29. -/
def dOffSym (c : Nat) : Nat × Nat := offSym c

/-- A symbol of a coded block: a literal, the end, or a match. -/
inductive Sym where
  | lit (b : Byte) | stop | cp (n d : Nat)
  deriving DecidableEq, Repr

/-- A base with its extra bits. -/
def withExtra (p : Nat × Nat) : P Nat := andThen (readBits p.2) (fun x => done (p.1 + x))

/-- Read a symbol of a Yelrin block (R184) or, with `dfl`, of a DEFLATE block. -/
def readSym (dfl : Bool) (lit off : Huff) : P Sym :=
  andThen lit.read fun s =>
    if s < 256 then done (.lit (BitVec.ofNat 8 s))
    else if s = 256 then done .stop
    else if dfl && decide (285 < s) then fail
    else andThen (withExtra (if dfl then dLenSym s else lenSym s)) fun n =>
      andThen off.read fun c =>
        if dfl && decide (29 < c) then fail
        else andThen (withExtra (offSym c)) fun d => done (.cp n d)

/-- Copy `n` bytes from `d` back, newest first (R181). -/
def copyBack (d : Nat) : Nat → List Byte → List Byte
  | 0, h => h
  | n + 1, h => copyBack d n (h.getD (d - 1) 0#8 :: h)

/-! ### Table sections (R184; RFC 1951) -/

/-- Read `n` numbers. -/
def readMany (n : Nat) (p : P Nat) : P (List Nat) :=
  match n with
  | 0 => done []
  | k + 1 => andThen p fun x => andThen (readMany k p) fun t => done (x :: t)

/-- The run of code-length symbols of a Yelrin table section: `fuel` bounds the symbols, `acc` is what is there, newest first. -/
def readRun (h : Huff) : Nat → List Nat → P (List Nat)
  | 0, _ => fail
  | fuel + 1, acc =>
    if acc.length = 352 then done acc.reverse
    else if 352 < acc.length then fail
    else andThen h.read fun s =>
      if s < 13 then readRun h fuel (s :: acc)
      else if s = 13 then
        match acc with
        | [] => fail
        | p :: _ => andThen (readBits 2) fun x => readRun h fuel (List.replicate (3 + x) p ++ acc)
      else if s = 14 then andThen (readBits 3) fun x => readRun h fuel (List.replicate (3 + x) 0 ++ acc)
      else andThen (readBits 7) fun x => readRun h fuel (List.replicate (11 + x) 0 ++ acc)

/-- The table section of a TYPE 1 block: 352 lengths. -/
def readTables : P (List Nat) :=
  andThen (readMany 16 (readBits 3)) fun cl =>
    if !tableOk cl then fail
    else andThen (readRun (Huff.ofLens cl) 353 []) fun l =>
      let lit := l.take 320
      let off := l.drop 320
      if tableOk lit && lit.getD 256 0 != 0 && (tableOk off || tableEmpty off) then done l else fail

/-- The order of code-length code lengths in DEFLATE. -/
def clOrder : List Nat := [16, 17, 18, 0, 8, 7, 9, 6, 10, 5, 11, 4, 12, 3, 13, 2, 14, 1, 15]

/-- The run of code lengths of a dynamic DEFLATE block. -/
def dRun (h : Huff) (n : Nat) : Nat → List Nat → P (List Nat)
  | 0, _ => fail
  | fuel + 1, acc =>
    if acc.length = n then done acc.reverse
    else if n < acc.length then fail
    else andThen h.read fun s =>
      if s < 16 then dRun h n fuel (s :: acc)
      else if s = 16 then
        match acc with
        | [] => fail
        | p :: _ => andThen (readBits 2) fun x => dRun h n fuel (List.replicate (3 + x) p ++ acc)
      else if s = 17 then andThen (readBits 3) fun x => dRun h n fuel (List.replicate (3 + x) 0 ++ acc)
      else andThen (readBits 7) fun x => dRun h n fuel (List.replicate (11 + x) 0 ++ acc)

/-- The tables of a dynamic block: literal/length lengths padded to 320, then distance lengths padded to 32. Over-subscribed and
incomplete tables are faults, but that a table of one symbol of length 1 is taken, for code lengths and literals as for distances
(PRESUMED, log entry 13). -/
def dTables : P (List Nat) :=
  andThen (readBits 5) fun hl => if 29 < hl then fail else andThen (readBits 5) fun hd => andThen (readBits 4) fun hc =>
    andThen (readMany (hc + 4) (readBits 3)) fun cs =>
      let cl := (List.range 19).map fun s => match clOrder.idxOf? s with
        | some i => cs.getD i 0
        | none => 0
      if !tableOk cl then fail
      else andThen (dRun (Huff.ofLens cl) (hl + 257 + hd + 1) 320 []) fun l =>
        let lit := l.take (hl + 257)
        let off := l.drop (hl + 257)
        if tableOk lit && lit.getD 256 0 != 0 && (tableOk off || tableEmpty off)
        then done (lit ++ List.replicate (320 - lit.length) 0 ++ off ++ List.replicate (32 - off.length) 0) else fail

/-- The fixed tables of DEFLATE, padded as `dTables`. -/
def fixedLens : List Nat :=
  List.replicate 144 8 ++ List.replicate 112 9 ++ List.replicate 24 7 ++ List.replicate 8 8 ++ List.replicate 32 0
    ++ List.replicate 32 5

/-! ### Cultures (R185-R187) -/

/-- The 352 lengths of a culture image. -/
def imgLens (img : List Byte) : List Nat :=
  (List.range 352).map fun i => let b := (img.getD (16 + i / 2) 0#8).toNat; if i % 2 = 0 then b % 16 else b / 16

/-- The dictionary of a culture image. -/
def imgDict (img : List Byte) : List Byte := (img.drop 256).take 32768

/-- Tables full and complete (R185). -/
def fullTables (lens : List Nat) : Bool :=
  lens.all (fun l => decide (1 ≤ l ∧ l ≤ 12)) && kraft (lens.take 320) == 2 ^ 15 && kraft (lens.drop 320) == 2 ^ 15

/-- An image meets R187. -/
def imgOk (img : List Byte) : Bool :=
  img.length == 33024 && img.take 4 == [0x59#8, 0x43#8, 0x01#8, 0x00#8]
    && ((img.drop 8).take 8).all (fun b => b == 0#8) && ((img.drop 192).take 64).all (fun b => b == 0#8)
    && ofBytes 32 ((img.drop 4).take 4) == crc32c 0#32 (img.drop 16) && fullTables (imgLens img)

/-- The image with the lengths of the spec's own example and a dictionary of zeros: what stands where an image would not be valid. -/
def plainImage : List Byte :=
  let body := List.replicate 96 0x88#8 ++ List.replicate 64 0x99#8 ++ List.replicate 16 0x55#8 ++ List.replicate (64 + 32768) 0#8
  [0x59#8, 0x43#8, 0x01#8, 0x00#8] ++ bytesOf (crc32c 0#32 body) 4 ++ List.replicate 8 0#8 ++ body

/-- The symbol of a length or an offset: the last of some whose base it reaches. -/
def symOf (f : Nat → Nat × Nat) (cs : List Nat) (n : Nat) : Nat := cs.foldl (fun a c => if (f c).1 ≤ n then c else a) (cs.headD 0)

/-- Symbols give a wedge's bytes against a dictionary (R193): the history, newest first, of which `p` are the wedge's. -/
def opsGive : List (Nat × Nat) → Nat → List Byte → Option (List Byte)
  | [], _, h => some h
  | (0, b) :: t, p, h => opsGive t (p + 1) (BitVec.ofNat 8 b :: h)
  | (n, d) :: t, p, h => if 4 ≤ n ∧ n ≤ 515 ∧ 1 ≤ d ∧ d ≤ p + 32768 then opsGive t (p + n) (copyBack d n h) else none

/-- The symbols that a wedge is coded as against a dictionary; the encoder's choice counts only where it gives the wedge back. -/
def wedgeOps (dict data : List Byte) : List (Nat × Nat) :=
  let o := Config.wedgeParse dict data
  if (opsGive o 0 dict.reverse).map (fun h => (h.take data.length).reverse) == some data then o else data.map (fun b => (0, b.toNat))

/-- Add a wedge's symbols to the counts of the 352 symbols (R238): literals, lengths and offsets, and the end of the wedge. -/
def countOps (cnt : List Nat) (ops : List (Nat × Nat)) : List Nat :=
  let up := fun (c : List Nat) (s : Nat) => c.set s (c.getD s 0 + 1)
  up (ops.foldl (fun c o =>
    if o.1 = 0 then up c (o.2 % 256)
    else up (up c (symOf lenSym ((List.range 63).map (257 + ·)) o.1)) (320 + symOf offSym (List.range 32) o.2)) cnt) 256

/-- The wedges of samples. -/
def wedgesOf : Nat → List Byte → List (List Byte)
  | 0, _ => []
  | n + 1, l => if l = [] then [] else l.take 512 :: wedgesOf n (l.drop 512)

/-- Packages of symbols with a weight, in ascending weight. -/
def pkInsert (x : Nat × List Nat) : List (Nat × List Nat) → List (Nat × List Nat)
  | [] => [x]
  | y :: t => if x.1 < y.1 then x :: y :: t else y :: pkInsert x t

/-- Neighbours packaged two by two. -/
def pkPairs : List (Nat × List Nat) → List (Nat × List Nat)
  | x :: y :: t => (x.1 + y.1, x.2 ++ y.2) :: pkPairs t
  | _ => []

/-- The length-limited code of counts (R238): of least total length among the complete codes of at most 12 bits (the package-merge
construction; the rule fixes R185 alone, log entry 13). -/
def limitedLens (cnt : List Nat) : List Nat :=
  let items := (cnt.zipIdx.map (fun p => (p.1, [p.2]))).foldl (fun l x => pkInsert x l) []
  let last := (List.range 11).foldl (fun prev _ => (pkPairs prev).foldl (fun l x => pkInsert x l) items) items
  let used := (last.take (2 * cnt.length - 2)).flatMap (·.2)
  (List.range cnt.length).map (fun s => used.count s)

/-- A culture image of lengths and a dictionary (R186). -/
def imageOf (lens : List Nat) (dict : List Byte) : List Byte :=
  let nib := (List.range 176).map (fun i => BitVec.ofNat 8 (lens.getD (2 * i) 0 % 16 + 16 * (lens.getD (2 * i + 1) 0 % 16)))
  let body := nib ++ List.replicate 64 0#8 ++ dict
  [0x59#8, 0x43#8, 0x01#8, 0x00#8] ++ bytesOf (crc32c 0#32 body) 4 ++ List.replicate 8 0#8 ++ body

/-- The image the trainer writes for its samples (R238): a dictionary of strings that recur in them, the symbols of the samples coded as
wedges against it, counted, each count at least 1, and the tables of the counts. -/
def train (samples : List Byte) : List Byte :=
  let d := Config.trainDict samples
  let dict := (d ++ List.replicate 32768 0#8).take 32768
  let cnt := ((wedgesOf (samples.length / 512 + 1) samples).foldl (fun c w => countOps c (wedgeOps dict w)) (List.replicate 352 0)).map (max 1)
  let img := imageOf (limitedLens (cnt.take 320) ++ limitedLens (cnt.drop 320)) dict
  if imgOk img then img else plainImage

/-! ### Wedges (R191-R195) -/

/-- Symbols of a coded wedge until 512 bytes and the end symbol; `h` is the history, newest first, `n` bytes produced. -/
def wedgeSyms (lit off : Huff) : Nat → Nat → List Byte → Bits → Option (List Byte × Bits)
  | 0, _, _, _ => none
  | fuel + 1, n, h, b => match readSym false lit off b with
    | .ok (.lit x) r => if n < 512 then wedgeSyms lit off fuel (n + 1) (x :: h) r else none
    | .ok .stop r => if n = 512 then some (h, r) else none
    | .ok (.cp k d) r => if n + k ≤ 512 ∧ d ≤ n + 32768 then wedgeSyms lit off fuel (n + k) (copyBack d k h) r else none
    | _ => none

/-- A coded payload decoded against a culture image (R193). -/
def wedgeCoded (img payload : List Byte) : Option (List Byte) :=
  let lens := imgLens img
  match wedgeSyms (Huff.ofLens (lens.take 320)) (Huff.ofLens (lens.drop 320)) 600 0 (imgDict img).reverse (bitsOf payload) with
  | some (h, r) => if r.length < 8 ∧ r.all (fun b => !b) then some (h.take 512).reverse else none
  | none => none

/-- A wedge decoded: the header and payload lie at the start of `w`; `img` is the culture of the page, none for an empty slot.
None is a wedge failure (R195). -/
def wedgeDecode (img : Option (List Byte)) (w : List Byte) : Option (List Byte) :=
  let hdr := natOfBytes (w.take 4)
  let len := hdr % 1024
  let mode := hdr / 1024 % 4
  let payload := (w.drop 4).take len
  let out :=
    if hdr / 4096 % 16 ≠ 0 ∨ payload.length ≠ len then none
    else if mode = 0 then
      match img with
      | some i => if 1 ≤ len ∧ len ≤ 511 then wedgeCoded i payload else none
      | none => none
    else if mode = 1 then (if len = 512 then some payload else none)
    else if mode = 2 then (if len = 0 then some (List.replicate 512 0#8) else none)
    else if len = 1 then some (List.replicate 512 (payload.getD 0 0#8)) else none
  match out with
  | some d => if (crc32c 0#32 d).toNat % 65536 = hdr / 65536 % 65536 then some d else none
  | none => none

/-- A wedge's bytes from its mode and payload. -/
def wedgeBytes (mode : Nat) (payload data : List Byte) : List Byte :=
  bytesOfNat (payload.length + 1024 * mode + 65536 * ((crc32c 0#32 data).toNat % 65536)) 4 ++ payload

/-- The wedge of 512 bytes (R194). -/
def wedgeEncode (img : Option (List Byte)) (data : List Byte) : List Byte :=
  let b := data.getD 0 0#8
  if data.all (fun x => x == 0#8) then wedgeBytes 2 [] data
  else if data.all (fun x => x == b) then wedgeBytes 3 [b] data
  else match img with
    | some i =>
      let p := Config.wedgeCode i data
      if 1 ≤ p.length ∧ p.length ≤ 511 ∧ wedgeCoded i p = some data then wedgeBytes 0 p data else wedgeBytes 1 data data
    | none => wedgeBytes 1 data data

/-- Pad to a multiple of 8 bytes (R161). -/
def pad8 (l : List Byte) : List Byte := l ++ List.replicate ((8 - l.length % 8) % 8) 0#8

/-- The bytes of a page's cellar extent, its K, and WOFF1-WOFF7; none when more than 15 units are needed (R161, R196). -/
def extentOf (img : Option (List Byte)) (page : List Byte) : Option (Nat × List Nat × List Byte) :=
  let ws := (List.range 8).map (fun i => pad8 (wedgeEncode img ((page.drop (512 * i)).take 512)))
  let body := ws.flatten
  let k := (body.length + 4 + 255) / 256
  let starts := (List.range 7).map (fun i => ((ws.take (i + 1)).flatten.length) / 8)
  if 15 < k then none
  else some (k, starts, body ++ List.replicate (256 * k - 4 - body.length) 0#8 ++ bytesOf (crc32c 0#32 page) 4)

/-- Start and end of wedge `w` in an extent of `k` units (R197). -/
def wedgeSpan (woff : List Nat) (k w : Nat) : Nat × Nat :=
  let s := fun i => if i = 0 then 0 else 8 * woff.getD (i - 1) 0
  (s w, if w < 7 then s (w + 1) else 256 * k - 4)

/-- Decode wedge `w` of an extent's bytes (R195, R197). -/
def extentWedge (img : Option (List Byte)) (woff : List Nat) (k w : Nat) (ext : List Byte) : Option (List Byte) :=
  let se := wedgeSpan woff k w
  let bytes := (ext.drop se.1).take (se.2 - se.1)
  if se.2 ≤ se.1 ∨ se.2 - se.1 < 4 + natOfBytes (bytes.take 4) % 1024 then none else wedgeDecode img bytes

/-! ### Stream decoding (R198-R205, R208, R209, R552) -/

/-- Where a stream decoder stands. -/
inductive Stage where
  | head | block | stored | tables | syms | trailer | finished | between
  deriving DecidableEq, Repr

/-- A stream decoder: the bits not yet read, the bits left in a coded Yelrin block or the bytes left in a stored one, the lengths
of the block's tables, the history newest first, and the totals. `out` is this descriptor's output, newest first. -/
structure Dec where
  fmt : Nat
  stage : Stage := .head
  bits : Bits := []
  left : Nat := 0
  last : Bool := false
  cult : Option Nat := none
  lens : List Nat := []
  hist : List Byte := []
  out : List Byte := []
  total : Nat := 0
  chk : Word := 0#32
  deriving DecidableEq, Repr

/-- How a decoding ends. -/
inductive End where
  | finished | more | bad | overflow | checkFail | blockEnd
  deriving DecidableEq, Repr

/-- The running check of a format (HDR CHK, R231): CRC-32C, Adler-32, CRC-32; raw DEFLATE has none. -/
def chkInit (fmt : Nat) : Word := if fmt = 2 then 1#32 else 0#32

/-- See `chkInit`. -/
def chkStep (fmt : Nat) (c : Word) (l : List Byte) : Word :=
  if fmt = 0 then crc32c c l else if fmt = 2 then adler32 c l else if fmt = 3 then crc32 c l else 0#32

/-- Produce bytes, newest first. -/
def Dec.emit (d : Dec) (new hist : List Byte) : Dec :=
  { d with hist := hist, out := new ++ d.out, total := d.total + new.length, chk := chkStep d.fmt d.chk new.reverse }

/-- The longest offset of a format. -/
def window (fmt : Nat) : Nat := if fmt = 0 then 65536 else 32768

/-- Symbols of a block: `.overflow` stops before the symbol that has no room. Yelrin's coded block is bounded by its PLEN; its end symbol must lie in its last byte (R201). -/
def symLoop (lit off : Huff) (room : Nat) : Nat → Dec → End × Dec
  | 0, d => (.bad, d)
  | fuel + 1, d =>
    let y := d.fmt = 0
    let avail := if y then d.bits.take d.left else d.bits
    match readSym (!decide y) lit off avail with
    | .bad => (.bad, d)
    | .more => if y ∧ d.left ≤ d.bits.length then (.bad, d) else (.more, d)
    | .ok s r =>
      let used := avail.length - r.length
      let was := d
      let d := { d with bits := d.bits.drop used, left := d.left - used }
      match s with
      | .lit b => if room ≤ d.out.length then (.overflow, was) else symLoop lit off room fuel (d.emit [b] (b :: d.hist))
      | .cp n k =>
        if k > min (window d.fmt) d.hist.length then (.bad, d)
        else if room < d.out.length + n then (.overflow, was)
        else let h := copyBack k n d.hist; symLoop lit off room fuel (d.emit (h.take n) h)
      | .stop =>
        if y then
          if 8 ≤ d.left then (.bad, d)
          else if d.bits.length < d.left then (.more, { d with stage := .block })
          else if (d.bits.take d.left).any id then (.bad, d)
          else (.finished, { d with bits := d.bits.drop d.left, left := 0 })
        else (.finished, d)

/-- Bits to the next byte boundary: pieces are whole bytes, so what remains of a byte is the length modulo 8. -/
def Dec.align (d : Dec) : Dec := { d with bits := d.bits.drop (d.bits.length % 8) }

/-- The header of a Yelrin frame (R199, R204): the culture, and EMPTY. -/
def yHead (h : List Byte) : Option (Option Nat × Bool) :=
  let fl := (h.getD 3 0#8).toNat
  let cu := (h.getD 4 0#8).toNat
  if h.take 3 ≠ [0x59#8, 0x4C#8, 0x01#8] ∨ 4 ≤ fl ∨ fl = 3 ∨ 64 ≤ cu ∨ (fl % 2 = 0 ∧ cu ≠ 0) ∨ h.getD 5 0#8 ≠ 0#8
    ∨ h.getD 6 0#8 ≠ 0#8 ∨ (h.foldl (fun a b => a + b.toNat) 0) % 256 ≠ 0 then none
  else some (if fl % 2 = 1 then some cu else none, decide (fl = 2))

/-- A header of which these are the first bytes is a fault whatever follows (R205: the first fault met). -/
def yHeadBad (h : List Byte) : Bool :=
  let fl := (h.getD 3 0#8).toNat
  let cu := (h.getD 4 0#8).toNat
  h.take 3 != ([0x59#8, 0x4C#8, 0x01#8] : List Byte).take h.length || decide (3 ≤ fl) || decide (64 ≤ cu)
    || (decide (5 ≤ h.length) && fl % 2 == 0 && cu != 0) || h.getD 5 0#8 != 0#8 || h.getD 6 0#8 != 0#8

/-- A block header of a frame of which this is the first byte is a fault whatever follows: TYPE, or a reserved bit (R205). -/
def yBlockBad (cult : Option Nat) (b : Nat) : Bool := b % 4 == 3 || decide (8 ≤ b) || (b % 4 == 2 && cult.isNone)

/-- Skip a zero-terminated field: the bytes after it, none when it does not end. -/
def skipZ : List Byte → Option (List Byte)
  | [] => none
  | b :: t => if b = 0#8 then some t else skipZ t

/-- The header of a gzip member: its length, none when the bytes end inside it, or a fault. -/
inductive GzHead where
  | ok (n : Nat) | more | bad

/-- See `GzHead` (RFC 1952). A fault shows as soon as the bytes that hold it are there. -/
def gzHead (l : List Byte) : GzHead :=
  if (1 ≤ l.length ∧ l.getD 0 0#8 ≠ 0x1F#8) ∨ (2 ≤ l.length ∧ l.getD 1 0#8 ≠ 0x8B#8) ∨ (3 ≤ l.length ∧ l.getD 2 0#8 ≠ 8#8)
    ∨ (4 ≤ l.length ∧ 32 ≤ (l.getD 3 0#8).toNat) then .bad
  else if l.length < 10 then .more
  else
    let flg := l.getD 3 0#8
    let r0 := some (l.drop 10)
    let r1 := if flg.getLsbD 2 then r0.bind (fun r =>
      if r.length < 2 then none
      else let n := natOfBytes (r.take 2); if r.length < 2 + n then none else some (r.drop (2 + n))) else r0
    let r2 := if flg.getLsbD 3 then r1.bind skipZ else r1
    let r3 := if flg.getLsbD 4 then r2.bind skipZ else r2
    match r3 with
    | none => .more
    | some r =>
      if flg.getLsbD 1 then
        if r.length < 2 then .more
        else if natOfBytes (r.take 2) = (crc32 0#32 (l.take (l.length - r.length))).toNat % 65536
        then .ok (l.length - r.length + 2) else .bad
      else .ok (l.length - r.length)

/-- The end of a block: the next block, or what follows the last one. -/
def Dec.blockEnd (d : Dec) : Dec :=
  if !d.last then { d with stage := .block, lens := [] }
  else if d.fmt = 1 then { d with stage := .finished, lens := [] }
  else { (if d.fmt = 0 then d else d.align) with stage := .trailer, lens := [] }

/-- One element of a stream: header, block header, stored bytes, tables, symbols or trailer. `img` gives a culture slot's image;
`room` is the destination's size. `.finished` here says that the element is complete. -/
def Dec.element (img : Nat → Option (List Byte)) (room : Nat) (d : Dec) : End × Dec :=
  match d.stage with
  | .head =>
    if d.fmt = 0 then
      if d.bits.length < 64 then (if yHeadBad (bytesOfBits d.bits) then .bad else .more, d)
      else match yHead (bytesOfBits (d.bits.take 64)) with
        | none => (.bad, d)
        | some (cu, empty) =>
          let d := { d with bits := d.bits.drop 64, cult := cu, stage := if empty then .trailer else .block }
          match cu with
          | none => (.finished, d)
          | some s => match img s with
            | none => (.bad, d)
            | some i => (.finished, { d with hist := (imgDict i).reverse })
    else if d.fmt = 1 then (.finished, { d with stage := .block })
    else if d.fmt = 2 then
      let cm := natOfBits (d.bits.take 8)
      if d.bits.length < 16 then (if 8 ≤ d.bits.length ∧ (cm % 16 ≠ 8 ∨ 7 < cm / 16) then .bad else .more, d)
      else
        let h := natOfBits (d.bits.take 16)
        let cmf := h % 256
        let flg := h / 256
        if cmf % 16 ≠ 8 ∨ 7 < cmf / 16 ∨ (cmf * 256 + flg) % 31 ≠ 0 ∨ flg / 32 % 2 = 1 then (.bad, d)
        else (.finished, { d with bits := d.bits.drop 16, stage := .block })
    else match gzHead (bytesOfBits d.bits) with
      | .bad => (.bad, d)
      | .more => (.more, d)
      | .ok n => (.finished, { d with bits := d.bits.drop (8 * n), stage := .block })
  | .block =>
    if d.fmt = 0 then
      if d.left ≠ 0 then
        -- the padding of the last coded block had not arrived
        if d.bits.length < d.left then (.more, d)
        else if (d.bits.take d.left).any id then (.bad, d)
        else (.finished, ({ d with bits := d.bits.drop d.left, left := 0 }).blockEnd)
      else if d.bits.length < 32 then
        (if 8 ≤ d.bits.length ∧ yBlockBad d.cult (natOfBits (d.bits.take 8)) then .bad else .more, d)
      else
        let h := natOfBits (d.bits.take 32)
        let ty := h % 4
        let plen := h / 256
        let d := { d with bits := d.bits.drop 32, last := h / 4 % 2 = 1 }
        if ty = 3 ∨ h / 8 % 32 ≠ 0 ∨ plen = 0 ∨ (ty = 2 ∧ d.cult = none) then (.bad, d)
        else if ty = 0 then (.finished, { d with stage := .stored, left := plen })
        else if ty = 1 then (.finished, { d with stage := .tables, left := 8 * plen })
        else match d.cult.bind img with
          | some i => (.finished, { d with stage := .syms, left := 8 * plen, lens := imgLens i })
          | none => (.bad, d)
    else if d.bits.length < 3 then (.more, d)
    else
      let h := natOfBits (d.bits.take 3)
      let ty := h / 2
      let d' := { d with bits := d.bits.drop 3, last := h % 2 = 1 }
      if ty = 3 then (.bad, d)
      else if ty = 1 then (.finished, { d' with stage := .syms, lens := fixedLens })
      else if ty = 2 then (.finished, { d' with stage := .tables })
      else
        let a := d'.align
        if a.bits.length < 32 then
          (if 24 ≤ a.bits.length ∧ natOfBits (a.bits.take 8) + natOfBits ((a.bits.drop 16).take 8) ≠ 255 then .bad else .more, d)
        else
          let n := natOfBits (a.bits.take 32)
          if n % 65536 + n / 65536 ≠ 65535 then (.bad, d)
          else (.finished, { a with bits := a.bits.drop 32, stage := .stored, left := n % 65536 })
  | .stored =>
    if d.left = 0 then (.finished, d.blockEnd)
    else
      let n := min (min d.left (d.bits.length / 8)) (room - d.out.length)
      if d.bits.length < 8 then (.more, d)
      else if n = 0 then (.overflow, d)
      else
        let new := (bytesOfBits (d.bits.take (8 * n))).reverse
        (.finished, ({ d with bits := d.bits.drop (8 * n), left := d.left - n }).emit new (new ++ d.hist))
  | .tables =>
    let y := d.fmt = 0
    let avail := if y then d.bits.take d.left else d.bits
    match (if y then readTables else dTables) avail with
    | .bad => (.bad, d)
    | .more => if y ∧ d.left ≤ d.bits.length then (.bad, d) else (.more, d)
    | .ok l r =>
      let used := avail.length - r.length
      (.finished, { d with bits := d.bits.drop used, left := d.left - used, lens := l, stage := .syms })
  | .syms =>
    match symLoop (Huff.ofLens (d.lens.take 320)) (Huff.ofLens (d.lens.drop 320)) room (d.bits.length + 2) d with
    | (.finished, d) => (.finished, d.blockEnd)
    | r => r
  | .trailer =>
    let n := if d.fmt = 0 then 96 else if d.fmt = 2 then 32 else 64
    if d.bits.length < n then (.more, d)
    else
      let b := bytesOfBits (d.bits.take n)
      let d' := { d with bits := d.bits.drop n, stage := if d.fmt = 3 then .between else .finished }
      let good := if d.fmt = 0 then natOfBytes (b.take 4) = d.chk.toNat ∧ natOfBytes (b.drop 4) = d.total
        else if d.fmt = 2 then natOfBytes b.reverse = d.chk.toNat
        else natOfBytes (b.take 4) = d.chk.toNat ∧ natOfBytes (b.drop 4) = d.total % 2 ^ 32
      if good then (.finished, d') else (.checkFail, d')
  | .between =>
    -- a gzip member ended: bytes that follow begin a further member (R552)
    if d.bits = [] then (.more, d) else (.finished, { d with stage := .head, total := 0, chk := chkInit 3, hist := [] })
  | .finished => (.finished, d)

/-- The decoder stands at the end of a block (R224). -/
def Dec.atEnd (d : Dec) : Bool := d.stage == .trailer || (d.stage == .block && d.left == 0)

/-- Decode until the stream ends, the input ends, a block ends (a checkpoint, R224), or a fault. History is bounded to the window. -/
def Dec.run (img : Nat → Option (List Byte)) (room : Nat) : Nat → Dec → End × Dec
  | 0, d => (.more, d)
  | fuel + 1, d =>
    if d.stage = .finished then (.finished, d)
    else match d.element img room with
      | (.finished, d') =>
        let d' := { d' with hist := d'.hist.take 65536 }
        if d'.atEnd ∧ d.stage ≠ .head then (.blockEnd, d') else Dec.run img room fuel d'
      | r => r

/-- Decode a piece: bits are appended to what was left. -/
def Dec.feed (img : Nat → Option (List Byte)) (room : Nat) (d : Dec) (bytes : List Byte) : End × Dec :=
  let d := { d with bits := d.bits ++ bitsOf bytes }
  Dec.run img room (4 * d.bits.length + 16) d

/-- A decoder's state as numbers, for the coder area of a context block (R231). -/
def Dec.toNats (d : Dec) : List Nat :=
  [match d.stage with
    | .head => 0 | .block => 1 | .stored => 2 | .tables => 3 | .syms => 4 | .trailer => 5 | .finished => 6 | .between => 7,
    d.left, d.last.toNat, (match d.cult with | none => 64 | some c => c), d.total, d.lens.length] ++ d.lens
    ++ d.bits.map Bool.toNat

/-- The decoder that numbers of a coder area describe, with its history and check. -/
def Dec.ofNats (fmt : Nat) (hist : List Byte) (chk : Word) (l : List Nat) : Dec :=
  let n := l.getD 5 0
  { fmt, hist, chk, left := l.getD 1 0, last := l.getD 2 0 == 1, cult := if l.getD 3 64 < 64 then some (l.getD 3 64) else none,
    total := l.getD 4 0, lens := (l.drop 6).take n, bits := (l.drop (6 + n)).map (fun x => x == 1),
    stage := match l.getD 0 0 with
      | 0 => .head | 1 => .block | 2 => .stored | 3 => .tables | 4 => .syms | 5 => .trailer | 6 => .finished | _ => .between }

/-! ### Stream encoding (R206, R208, R225) -/

/-- The decoder at the start of a block with a history. -/
def atBlock (fmt : Nat) (cult : Option Nat) (hist : List Byte) (bits : Bits) : Dec :=
  { fmt, stage := .block, cult, hist, bits }

/-- Whether bits are a block that gives the data back from this history: they end at the block's end (a last block leads to the
trailer, or ends a raw stream). -/
def blockGood (img : Nat → Option (List Byte)) (fmt : Nat) (cult : Option Nat) (hist data : List Byte) (last : Bool)
    (b : Bits) : Bool :=
  let step := fun (d : Dec) => d.element img data.length
  let goal := fun (d : Dec) => d.bits.isEmpty && d.last == last && d.out.reverse == data
  -- header, tables and symbols: at most three elements
  match step (atBlock fmt cult hist b) with
  | (.finished, d1) => match step d1 with
    | (.finished, d2) =>
      if d2.lens.isEmpty then goal d2
      else match step d2 with
        | (.finished, d3) => goal d3
        | _ => false
    | _ => false
  | _ => false

/-- A stored block of a Yelrin frame. -/
def yStored (data : List Byte) (last : Bool) : Bits := bitsOf (bytesOfNat (4 * last.toNat + 256 * data.length) 4 ++ data)

/-- A stored block of DEFLATE after `odd` bits of a byte. -/
def dStored (odd : Nat) (data : List Byte) (last : Bool) : Bits :=
  let head : Bits := [last, false, false]
  head ++ List.replicate ((8 - (odd + 3) % 8) % 8) false
    ++ bitsOf (bytesOfNat (data.length + 65536 * (65535 - data.length)) 4 ++ data)

/-- The bits of one block. A Yelrin block is of TYPE 2 where a culture is there and TYPE 2 is no longer than TYPE 1, else of TYPE 1,
and stored where its coded form, its 4-byte header counted (DESIGN CHOICE, log entry 112: the rule does not say), is not shorter than its
data (R206); a DEFLATE block is dynamic or stored (R208). An encoder's choice
counts only where it gives the data back. -/
def encodeBlock (img : Nat → Option (List Byte)) (fmt : Nat) (cult : Option Nat) (hist data : List Byte) (odd : Nat)
    (last : Bool) : Bits :=
  let image := (cult.bind img).getD []
  let own := Config.blockCode fmt 1 image hist data last
  let good := fun (b : Bits) => blockGood img fmt cult hist data last b
  if fmt = 0 then
    let two := Config.blockCode fmt 2 image hist data last
    let ownOk := natOfBits (own.take 2) == 1 && good own
    let twoOk := cult.isSome && natOfBits (two.take 2) == 2 && good two
    let b := if twoOk && (!ownOk || decide (two.length ≤ own.length)) then two else own
    if (twoOk || ownOk) && decide (b.length < 8 * data.length) then b else yStored data last
  else
    let st := dStored odd data last
    if natOfBits ((own.drop 1).take 2) == 2 && decide (own.length < st.length) && good own then own else st

/-- An encoder: the pending original bytes and the bits of an unfinished output byte. -/
structure Enc where
  fmt : Nat
  cult : Option Nat
  hist : List Byte := []
  pend : List Byte := []
  odd : Bits := []
  total : Nat := 0
  written : Nat := 0
  chk : Word := 0#32
  deriving DecidableEq, Repr

/-- The header a stream begins with (R199, R208). -/
def encHead (fmt : Nat) (cult : Option Nat) : List Byte :=
  if fmt = 0 then
    let f := if cult.isSome then 1 else 0
    let s := (0x59 + 0x4C + 1 + f + cult.getD 0) % 256
    [0x59#8, 0x4C#8, 1#8, BitVec.ofNat 8 f, BitVec.ofNat 8 (cult.getD 0), 0#8, 0#8, BitVec.ofNat 8 (256 - s)]
  else if fmt = 1 then []
  else if fmt = 2 then [0x78#8, 0x9C#8]
  else [0x1F#8, 0x8B#8, 8#8, 0#8, 0#8, 0#8, 0#8, 0#8, 0#8, 0xFF#8]

/-- The trailer a stream ends with (R203, R208). -/
def encTail (fmt total : Nat) (chk : Word) : List Byte :=
  if fmt = 0 then bytesOf chk 4 ++ bytesOfNat total 8
  else if fmt = 1 then []
  else if fmt = 2 then (bytesOf chk 4).reverse
  else bytesOf chk 4 ++ bytesOfNat total 4

/-- The form of a stream of zero bytes (R204, R210). -/
def emptyForm (fmt : Nat) : List Byte :=
  if fmt = 0 then [0x59#8, 0x4C#8, 1#8, 2#8, 0#8, 0#8, 0#8, 0x58#8] ++ List.replicate 12 0#8
  else if fmt = 1 then [3#8, 0#8]
  else if fmt = 2 then [0x78#8, 0x9C#8, 3#8, 0#8, 0#8, 0#8, 0#8, 1#8]
  else [0x1F#8, 0x8B#8, 8#8, 0#8, 0#8, 0#8, 0#8, 0#8, 0#8, 0xFF#8, 3#8, 0#8] ++ List.replicate 8 0#8

/-- Code whole blocks of 8,192 bytes; `keep` says that more may follow, so that the last 1-8,192 bytes stay pending (R225, log
entry 13). A block refers at most 57,344 bytes back before its start: HIST holds 64 KiB with up to 8,192 pending bytes in it (R231), and
the frame is the same however the stream is cut (R225). -/
def Enc.blocks (img : Nat → Option (List Byte)) (keep : Bool) : Nat → Enc → Bits → Enc × Bits
  | 0, e, acc => (e, acc)
  | fuel + 1, e, acc =>
    if e.pend = [] ∨ (keep ∧ e.pend.length ≤ 8192) then (e, acc)
    else
      let data := e.pend.take 8192
      let rest := e.pend.drop 8192
      let b := encodeBlock img e.fmt e.cult e.hist data ((e.odd.length + acc.length) % 8) (!keep && rest.isEmpty)
      Enc.blocks img keep fuel { e with pend := rest, hist := (data.reverse ++ e.hist).take 57344 } (acc ++ b)

/-- Code a piece of a stream: the encoder and the bytes it writes. `first` writes the header, `last` ends the stream. -/
def Enc.feed (img : Nat → Option (List Byte)) (e : Enc) (bytes : List Byte) (first last : Bool) : Enc × List Byte :=
  let e := { e with pend := e.pend ++ bytes, total := e.total + bytes.length, chk := chkStep e.fmt e.chk bytes }
  let (e, bits) := Enc.blocks img (!last) (e.pend.length / 8192 + 2) e []
  let bits := e.odd ++ bits
  let whole := bits.length / 8 * 8
  let body := bytesOfBits (bits.take whole)
  let odd := bits.drop whole
  let tail := if last then
      (if odd = [] then [] else bytesOfBits (odd ++ List.replicate (8 - odd.length) false)) ++ encTail e.fmt e.total e.chk
    else []
  let out := (if first then encHead e.fmt e.cult else []) ++ body ++ tail
  ({ e with odd := if last then [] else odd, written := e.written + out.length }, out)

end Sys2Proof.Machine.Yelrin
end

