-- ==== Sys2Proof/Machine/Ledger.lean ====
section
/-! DEFINITION. The ledger (R136-R174): where entries lie, the ledger cache, the free lists, page moves, the skimmer and the
format. -/

namespace Sys2Proof.Machine

/-! ### Layout (R136, R137, R142, R265) -/

/-- Whole 256 MiB units of media, M. -/
def Mach.mediaUnits (m : Mach) : Nat := m.pop.frames / 65536

/-- 256 MiB units of one ledger copy for a number of extents: 4 MiB and 1 MiB an extent, rounded up. -/
def ledUnits (extents : Nat) : Nat := (extents + 4 + 255) / 256

/-- Ledger copies. -/
def Mach.ledCopies (m : Mach) : Nat := if m.led.dup then 2 else 1

/-- First frame of the ledger region. -/
def Mach.ledBase (m : Mach) : Nat := (m.mediaUnits - ledUnits m.led.extents * m.ledCopies) * 65536

/-- First frame of the cellar area. -/
def Mach.cellBase (m : Mach) : Nat := m.ledBase - m.led.cellarUnits * 65536

/-- First frame of the hot area. -/
def hotBase (L : Image) : Nat := fld (L.reg oFlatArea) 15 0 * 65536

/-- The media frame of ledger frame `k` of copy `c` (R265). -/
def Mach.ledFrame (m : Mach) (c k : Nat) : Nat := if m.led.dup then m.ledBase + 2 * k + c else m.ledBase + k

/-- The state of the channel of a frame: 1 LIVE, 2 CHANGING, 3 RETIRED (R335). -/
def Mach.frameCh (m : Mach) (f : Nat) : Nat := m.scb.chSt.get 0 (place m.pop.place f 0).ch

/-- A ledger copy's frame is in use: its channel is not RETIRED, and not being restored (R336, R338). -/
def Mach.copyLive (m : Mach) (c k : Nat) : Bool :=
  m.frameCh (m.ledFrame c k) != 3 && !m.scb.chg.contains ((place m.pop.place (m.ledFrame c k) 0).ch, true)

/-- The copies that are read and written: 0, and 1 with DUP. -/
def Mach.copies (m : Mach) (k : Nat) : List Nat := (List.range m.ledCopies).filter (fun c => m.copyLive c k)

/-- The ledger frame and line of ledger line `j`. -/
def lineSpot (j : Nat) : Nat × Nat := (1024 + j / 64, j % 64)

/-! ### Entries (R143-R145) -/

/-- The 128 bits of an entry. -/
def LEnt.word (e : LEnt) : BitVec 128 :=
  BitVec.ofNat 128 (e.st % 8 + e.dic.toNat * 2 ^ 3 + e.pp.toNat * 2 ^ 4 + e.cs.toNat * 2 ^ 5 + e.ma % 2 ^ 34 * 2 ^ 6
    + e.k % 16 * 2 ^ 40 + e.cult % 64 * 2 ^ 44 + e.heat % 64 * 2 ^ 50
    + ((List.range 7).map (fun i => e.woff.getD i 0 % 512 * 2 ^ (56 + 9 * i))).sum + e.gen % 512 * 2 ^ 119)

/-- The entry that 128 bits spell. -/
def LEnt.ofWord (w : BitVec 128) : LEnt :=
  { st := fld w 2 0, dic := w.getLsbD 3, pp := w.getLsbD 4, cs := w.getLsbD 5, ma := fld w 39 6, k := fld w 43 40,
    cult := fld w 49 44, heat := fld w 55 50, woff := (List.range 7).map (fun i => fld w (64 + 9 * i) (56 + 9 * i)),
    gen := fld w 127 119 }

/-- An entry that DRAM never holds (R144). -/
def LEnt.bad (e : LEnt) : Bool := decide (e.st = 3 ∨ 6 ≤ e.st) || (decide (1 ≤ e.k) && e.st != 2)

/-- The entry as it is stored in DRAM: the state before the move for Moving, DIC 0 (R144, R148). -/
def Mach.storedEnt (m : Mach) (page : Nat) (e : LEnt) : LEnt :=
  let wasPinned := m.led.moves.any (fun v => v.page == page && v.kind == .relocate && v.pin)
  { e with dic := false, st := if e.st ≠ 3 then e.st else if 1 ≤ e.k then 2 else if wasPinned then 4 else 1 }

/-- The four entries of a ledger line's 64 bytes. -/
def lineEnts (d : Line) : List LEnt := (List.range 4).map (fun i => LEnt.ofWord (d.extractLsb' (128 * i) 128))

/-- The 64 bytes of a ledger line's entries as stored. -/
def Mach.entsLine (m : Mach) (j : Nat) (ents : List LEnt) : Line :=
  ofBytes 512 ((List.range 4).flatMap (fun i => bytesOf (m.storedEnt (4 * j + i) (ents.getD i {})).word 16))

/-- Write one line of a ledger frame to the copies in use. -/
def Mach.ledWrite (m : Mach) (k l : Nat) (d : Line) : Mach :=
  (m.copies k).foldl (fun m c =>
    let f := m.ledFrame c k
    m.writeNow f l (m.formCw f l d true false 0#2 false false)) m

/-- Write a ledger line through to both copies (R149). -/
def Mach.ledWriteLine (m : Mach) (j : Nat) (ents : List LEnt) : Mach :=
  let p := lineSpot j
  m.ledWrite p.1 p.2 (m.entsLine j ents)

/-- A judged ledger line is good: decoded, in place, and for entries none that DRAM never holds. -/
def Judged.ledGood (j : Judged) (ents : Bool) : Bool :=
  (j.v == .data || j.v == .zeros) && (!ents || (lineEnts j.stored.1).all (fun e => !e.bad))

/-- The first page of a lost ledger line, with ENTRY_LOST and its record, whose syndrome is that of the last copy read (R150, R457). -/
def Mach.lostEvent (m : Mach) (j : Nat) (syn : Word) : Mach :=
  let p := 4 * j
  (((m.setReg oLostLo (BitVec.ofNat 32 p)).setReg oLostHi (BitVec.ofNat 32 (p / 2 ^ 32))).evb oLdgEvt 4).raiseOcc
    { src := 36, unit := 0, detail := 0, addr := p * 4096, addrk := 1, syn }

/-- Read a line of a ledger frame: copy 0, then copy 1 with the repair of copy 0 (R147). None when no copy is good, with the syndrome of
the last copy read. `p` is the purpose of a read sent ahead; `mst` pays for the other copy's read and for the repair (R298). An uncorrectable copy 0 is recorded once copy 1 has been read: as DUP_FIX
when it is rewritten, as an uncorrectable line when copy 1 is bad too. -/
def ledReadFor (L : Image) (m : Mach) (mst : Nat) (p : Purpose) (k l : Nat) (ents : Bool) (e0 e1 : SymErr) : Option Line × Word × Mach :=
  match m.copies k with
  | [] => (none, Config.free 32 m.fresh, m.tick)
  | c0 :: rest =>
    let f := m.ledFrame c0 k
    let r0 := readFor L m p f l false false (if rest.isEmpty then 97 else noSrc) none (if c0 = 0 then e0 else e1)
    if r0.1.ledGood ents then (some r0.1.stored.1, r0.1.syn, r0.2)
    else match rest with
      | [] => (none, r0.2.ueSyn r0.1, r0.2.tick)
      | c1 :: _ =>
        let r1 := readNow L (r0.2.chargeNow mst 1) (m.ledFrame c1 k) l false false 97 none e1
        let a := place m.pop.place f l
        if r1.1.ledGood ents then
          let d := r1.1.stored.1
          let m := ((r1.2.writeNow f l (r1.2.formCw f l d true false 0#2 false false)).chargeNow mst 1).evb oLdgEvt 3
          (some d, r1.1.syn, (m.raiseRs 35 a none (m.ueSyn r0.1)).tick)
        else
          let m := if r0.1.v = .uncorrectable then (r1.2.raiseRs 97 a none (r1.2.ueSyn r0.1)).tick else r1.2
          (none, m.ueSyn r1.1, m.tick)

/-- As `ledReadFor`, the line alone, for a read that nobody sent ahead. -/
def ledRead (L : Image) (m : Mach) (k l : Nat) (ents : Bool) (e0 e1 : SymErr) : Option Line × Mach :=
  let r := ledReadFor L m mDesc .other k l ents e0 e1
  (r.1, r.2.2)

/-- A line of a ledger frame as the first good copy gives it, nothing else changed. -/
def Mach.ledPeek (m : Mach) (k l : Nat) (ents : Bool) : Option Line :=
  (m.copies k).findSome? fun c =>
    let j := m.lineJudge (m.ledFrame c k) l false false
    if j.ledGood ents then some j.stored.1 else none

/-! ### Free lists (R153-R155) -/

/-- Frames in a list of runs. -/
def ivLen (l : List Iv) : Nat := (l.map (·.2)).sum

/-- Add a run. -/
def ivAdd (l : List Iv) (s n : Nat) : List Iv := if n = 0 then l else l ++ [(s, n)]

/-- Take the first number of a list of runs. -/
def ivTake : List Iv → Option (Nat × List Iv)
  | [] => none
  | (s, n) :: t => if n = 0 then ivTake t else some (s, if n = 1 then t else (s + 1, n - 1) :: t)

/-- Take a run of at most `n` numbers from the front. -/
def ivTakeN : Nat → List Iv → List Iv × List Iv
  | _, [] => ([], [])
  | n, (s, k) :: t =>
    if n = 0 then ([], (s, k) :: t)
    else if k ≤ n then let r := ivTakeN (n - k) t; ((s, k) :: r.1, r.2)
    else ([(s, n)], (s + n, k - n) :: t)

/-- A number is in a list of runs. -/
def ivHas (l : List Iv) (x : Nat) : Bool := l.any (fun p => decide (p.1 ≤ x ∧ x < p.1 + p.2))

/-- Keep the numbers that a test keeps. -/
def ivKeep (keep : Nat → Bool) (l : List Iv) : List Iv :=
  l.flatMap (fun p => ((List.range p.2).filter (fun i => keep (p.1 + i))).map (fun i => (p.1 + i, 1)))

/-- Cleared and uncleared frames. -/
def Ledger.free (l : Ledger) : Nat := ivLen l.pool + ivLen l.uncleared

/-- Free cellar units. -/
def Ledger.freeUnits (l : Ledger) : Nat := 16 * ivLen l.fresh + (l.klists.map (fun (p : Nat × List Nat) => p.1 * p.2.length)).sum

/-- FREE_LOW at each fall below LOW_WM, and draining (R154, R165). -/
def freeMarks (L : Image) (m : Mach) : Mach :=
  let n := m.led.free
  let low := (L.reg oWmLow).toNat
  let high := (L.reg oWmHigh).toNat
  let d := if n < low ∧ !m.led.lowSeen then true else if high ≤ n then false else m.led.draining
  let fall := n < low ∧ !m.led.lowSeen
  let m := { m with led := { m.led with lowSeen := decide (n < low), draining := d } }
  if fall then (m.evb oLdgEvt 1).raise 33 0 else m

/-- POOL_EMPTY, once per emptying (R154). -/
def Mach.poolEmpty (m : Mach) : Mach :=
  if m.led.emptySeen then m else (({ m with led := { m.led with emptySeen := true } }).evb oLdgEvt 0).raise 32 0

/-- Take a frame from the cleared pool. -/
def takeFrame (L : Image) (m : Mach) : Option (Nat × Mach) :=
  match ivTake m.led.pool with
  | some (f, rest) =>
    let m := freeMarks L { m with led := { m.led with pool := rest } }
    some (f, if ivLen rest = 0 then m.poolEmpty else m)
  | none => none

/-- A frame goes to the uncleared list (R153); one whose channel is not LIVE stays off the lists (R336). -/
def giveFrame (L : Image) (m : Mach) (f : Nat) : Mach :=
  if m.frameCh f = 1 then freeMarks L { m with led := { m.led with uncleared := ivAdd m.led.uncleared f 1 } }
  else { m with led := { m.led with away := ivAdd m.led.away f 1 } }

/-- Clear one frame of the uncleared list into the pool (R153): a write of each of its 64 lines. -/
def Mach.clearFrame (m : Mach) : Mach :=
  match ivTake m.led.uncleared with
  | some (f, rest) =>
    let m := m.clearWrites f false
    { m with led := { m.led with uncleared := rest, pool := ivAdd m.led.pool f 1, emptySeen := false } }
  | none => m

/-- Put `k` free units on their list; a cellar frame with sixteen free units returns to the fresh list (R155). -/
def Ledger.putUnits (l : Ledger) (s k : Nat) : Ledger :=
  if k = 0 then l
  else
    let kl := l.klists.insert k (l.klists.get [] k ++ [s])
    let cf := s / 16
    let mine := (kl.map (fun (p : Nat × List Nat) => p.1 * (p.2.filter (fun u => u / 16 == cf)).length)).sum
    if mine = 16 ∨ k = 16 then
      { l with klists := (kl.map (fun (p : Nat × List Nat) => (p.1, p.2.filter (fun u => u / 16 != cf)))).filter (fun p => !p.2.isEmpty),
               fresh := ivAdd l.fresh cf 1 }
    else { l with klists := kl }

/-- Allocate `k` units: their list, the smallest list above, a fresh cellar frame (R155). -/
def Ledger.takeUnits (l : Ledger) (k : Nat) : Option (Nat × Ledger) :=
  let from' := (List.range 16).find? (fun n => decide (k ≤ n) && !(l.klists.get [] n).isEmpty)
  match from' with
  | some n =>
    match l.klists.get [] n with
    | u :: rest =>
      let l := { l with klists := if rest.isEmpty then l.klists.erase n else l.klists.insert n rest }
      some (u, l.putUnits (u + k) (n - k))
    | [] => none
  | none => match ivTake l.fresh with
    | some (cf, rest) => some (16 * cf, ({ l with fresh := rest }).putUnits (16 * cf + k) (16 - k))
    | none => none

/-! ### Culture counts (R142, R170) -/

/-- Line `i` of the header area of a copy. -/
def Mach.hdrFrame (m : Mach) (c i : Nat) : Nat × Nat := (m.ledFrame c (i / 64), i % 64)

/-- Write a line of the header area of both copies. -/
def Mach.hdrWrite (m : Mach) (i : Nat) (d : Line) : Mach := m.ledWrite (i / 64) (i % 64) d

/-- Write bytes into the header area from line `i` on, the last line padded with zeros. -/
def Mach.hdrPut (m : Mach) (i : Nat) (bytes : List Byte) : Mach :=
  (List.range ((bytes.length + 63) / 64)).foldl (fun m t => m.hdrWrite (i + t) (ofBytes 512 ((bytes.drop (64 * t)).take 64))) m

/-- Read bytes of one copy's header area from line `i` on; none when a line of it is not good, behind which no more are read. -/
def hdrGet (L : Image) (m : Mach) (c i n : Nat) : Option (List Byte) × Mach :=
  let r := (List.range ((n + 63) / 64)).foldl (fun (acc : Option (List Byte) × Mach) t =>
    match acc.1 with
    | none => acc
    | some l =>
      let p := acc.2.hdrFrame c (i + t)
      let x := readNow L acc.2 p.1 p.2 false false 97 none []
      (if x.1.ledGood false then some (l ++ bytesOf x.1.stored.1 64) else none, x.2)) (some [], m)
  (r.1.map (·.take n), r.2)

/-- The culture count record: counts, VALID, CRC-32C. -/
def Mach.countRecord (m : Mach) (valid : Bool) : List Byte :=
  let body := (List.range 64).flatMap (fun n => bytesOfNat (m.led.counts.get 0 n) 8) ++ [if valid then 1#8 else 0#8, 0#8, 0#8, 0#8]
  body ++ bytesOf (Codec.crc32c 0#32 body) 4

/-- Write the record: VALID = 1 at a stop that keeps the DRAM, VALID = 0 before the first change after a start. -/
def Mach.writeCounts (m : Mach) (valid : Bool) : Mach :=
  let m := m.hdrPut 64 (m.countRecord valid)
  { m with led := { m.led with cntOpen := !valid } }

/-- Change a culture's count; VALID = 0 is written before the first change after a start. -/
def Mach.countBy (m : Mach) (c : Nat) (d : Int) : Mach :=
  let m := if m.led.cntOpen then m else m.writeCounts false
  { m with led := { m.led with counts := m.led.counts.set 0 c ((Int.ofNat (m.led.counts.get 0 c) + d).toNat) } }

/-! ### The ledger cache (R148-R150) -/

/-- A page's entry, when its line is in the ledger cache. -/
def Mach.ent? (m : Mach) (page : Nat) : Option LEnt := (m.led.lines.find? (page / 4)).bind (fun l => l.ents[page % 4]?)

/-- Change a cached entry in place. The count of non-Unwritten pages of its extent follows. -/
def Mach.putEnt (m : Mach) (page : Nat) (e : LEnt) (changed : Bool) : Mach :=
  match m.led.lines.find? (page / 4) with
  | none => m
  | some l =>
    let was := (l.ents.getD (page % 4) {}).st != 0
    let now := e.st != 0
    let x := page / 65536
    let n := m.led.nonUnw.get 0 x
    let l := { l with ents := l.ents.set (page % 4) e, changed := l.changed || changed }
    { m with led := { m.led with lines := m.led.lines.insert (page / 4) l,
                                 nonUnw := if was = now then m.led.nonUnw else m.led.nonUnw.set 0 x (if now then n + 1 else n - 1) } }

/-- Write a page's ledger line through now, charged to the churn-descriptor master (R168). -/
def Mach.through (m : Mach) (page : Nat) : Mach :=
  match m.led.lines.find? (page / 4) with
  | some l =>
    let m := ({ m with led := { m.led with lines := m.led.lines.insert (page / 4) { l with changed := false } } }).ledWriteLine (page / 4) l.ents
    m.chargeNow mDesc (m.copies (lineSpot (page / 4)).1).length
  | none => m

/-- A change of STATE, MA, K, CULTURE or WOFF in one cycle, with GEN + 1, written through (R146, R149). -/
def Mach.flip (m : Mach) (page : Nat) (e : LEnt) : Mach :=
  (m.putEnt page { e with gen := (e.gen + 1) % 512 } false).through page

/-- A write of a ledger line has not yet been accepted by a write queue. -/
def Mach.ledWaits (m : Mach) (j : Nat) : Bool :=
  let p := lineSpot j
  (m.copies p.1).any fun c =>
    let f := m.ledFrame c p.1
    (m.sub (m.subOf f p.2)).waiting { id := 0, frame := f, ln := p.2 }

/-- The ledger cache's way may be evicted (R148). -/
def Mach.evictable (m : Mach) (p : Nat × LLine) : Bool :=
  p.2.ents.all (fun e => !e.dic && e.st != 3) && !(List.range 4).any (fun i => m.led.locked.contains (4 * p.1 + i)) && !m.ledWaits p.1

/-- Make room in the set of ledger line `j`: none when no way is evictable. -/
def Mach.ledRoom (m : Mach) (j : Nat) : Option Mach :=
  let set := m.led.lines.filter (fun p => p.1 % 16384 == j % 16384)
  if set.length < 16 then some m
  else
    let best := (set.filter m.evictable).foldl (fun (acc : Option (Nat × LLine)) p => match acc with
      | none => some p
      | some q => if p.2.use < q.2.use then some p else some q) none
    match best with
    | none => none
    | some v =>
      let m := if v.2.changed then (m.ledWriteLine v.1 v.2.ents).chargeNow mDesc (m.copies (lineSpot v.1).1).length else m
      some { m with led := { m.led with lines := m.led.lines.erase v.1 } }

/-- A page is in a flat extent. -/
def flatPage (L : Image) (page : Nat) : Bool := eFlat (L.extent (page / 65536))

/-- Lines of a page that are dirty in the line cache. -/
def Mach.pageDirty (m : Mach) (page : Nat) : List Nat :=
  (m.home.lc.filter (fun p => p.1 / 64 == page && p.2.dirty)).map (·.1)

/-- The move of a page. -/
def Ledger.moveOf (l : Ledger) (page : Nat) : Option Move := l.moves.find? (fun v => v.page == page)

/-- Change the move of a page. -/
def Ledger.setMove (l : Ledger) (v : Move) : Ledger := { l with moves := l.moves.map (fun x => if x.page == v.page then v else x) }

/-- Queue a move unless the page has one (R168). A demand promotion raises the class of a waiting one, and takes the place of a
relocation that has not started: it takes the page off its media too (R29, R337). -/
def Mach.queueMove (m : Mach) (page : Nat) (kind : MoveKind) (cls : Nat) (pin : Bool) : Mach :=
  match m.led.moveOf page with
  | some v =>
    if v.kind = kind then { m with led := m.led.setMove { v with cls := if v.started then v.cls else min v.cls cls, pin := v.pin || pin } }
    else if v.kind = .relocate ∧ kind = .promote ∧ !v.started then { m with led := m.led.setMove { v with kind, cls := min v.cls cls, pin } }
    else m
  | none => { m with led := { m.led with moves := m.led.moves ++ [{ page, kind, cls, pin }] } }

/-- Drop the move of a page; a frame it holds goes to the uncleared list (R171). -/
def dropMove (L : Image) (m : Mach) (page : Nat) : Mach :=
  match m.led.moveOf page with
  | some v =>
    let m := { m with led := { m.led with moves := m.led.moves.filter (fun x => x.page != page) } }
    match v.kind, v.dst with
    | .promote, some f => giveFrame L m f
    | _, _ => m
  | none => m

/-- Skimmer fields. -/
def skimEn (L : Image) : Bool := (L.reg oSkimCtl).getLsbD 0
def skimFld (L : Image) (hi lo : Nat) : Nat := fld (L.reg oSkimCtl) hi lo

/-- Promotion on heat (R164, R166). -/
def heatPromote (L : Image) (m : Mach) (page : Nat) (e : LEnt) : Mach :=
  let t := eTier (L.extent (page / 65536))
  if skimEn L && e.st == 2 && decide (skimFld L 19 14 ≤ e.heat)
      && ((t == 0 && decide ((L.reg oWmPromo).toNat ≤ m.led.free)) || t == 1)
  then m.queueMove page .promote 3 false else m

/-- Add 1 to a page's HEAT (R164): in the ledger cache, or in the sample queue. -/
def addHeat (L : Image) (m : Mach) (page : Nat) : Mach :=
  match m.ent? page with
  | some e =>
    let e := { e with heat := min 63 (e.heat + 1) }
    heatPromote L (m.putEnt page e true) page e
  | none =>
    if m.led.heatQ.length < 4096 then { m with led := { m.led with heatQ := m.led.heatQ ++ [page] } }
    else m.evb oLdgEvt 7

/-- Sample one host access in SAMPLE_N (R164). A sample of a flat extent finds no entry (R89). -/
def sampleHeat (L : Image) (m : Mach) (line : Nat) : Mach :=
  let n := 2 ^ min 16 (skimFld L 5 1)
  let c := m.led.heatCnt + 1
  if c < n then { m with led := { m.led with heatCnt := c } }
  else
    let m : Mach := { m with led := { m.led with heatCnt := 0 } }
    if flatPage L (line / 64) then m else addHeat L m (line / 64)

/-- An access to a Retired page: one class B record per page and cold reset (R152). -/
def Mach.retiredAccess (m : Mach) (h page : Nat) : Mach :=
  if m.led.retiredSeen.contains page then m
  else ({ m with led := { m.led with retiredSeen := m.led.retiredSeen ++ [page] } }).raiseA 39 h 1 (page * 4096)

/-- Fetch a ledger line: its read goes to the controller with the tag of what needs it (R18, R148), and is charged to that one's master
(R20, R298). -/
def Mach.fetchLine (m : Mach) (j mst : Nat) (tag : Tag) : Mach :=
  if m.led.fetching.contains j then m
  else
    let m := m.chargeNow mst 1
    let m := if mst < 32 then m.partCnt tag.part (6 + mst % 4) 1 else m
    let m : Mach := { m with led := { m.led with fetching := m.led.fetching ++ [j] } }
    let p := lineSpot j
    match m.copies p.1 with
    | c :: _ => (m.sendRead { id := 0, frame := m.ledFrame c p.1, ln := p.2, tag, purpose := .ledger j }).2
    | [] => m

/-- The ledger's update after a page has a dirty line (R29, R151, R158, R163): DIC, a frame for an Unwritten page, a promotion for
a Cellar page, the stop of a move at its next wedge boundary (R32, R158, R163). `mst` and `tag` are those of the write. -/
def noteDirty (L : Image) (m : Mach) (mst : Nat) (tag : Tag) (page : Nat) : Mach :=
  if flatPage L page then m
  else match m.ent? page with
    | none => m.fetchLine (page / 4) mst tag
    | some e =>
      let m := m.putEnt page { e with dic := true } false
      if e.st = 0 then
        if m.led.wantFrame.contains page then m
        else
          let m := { m with led := { m.led with wantFrame := m.led.wantFrame ++ [page] } }
          if ivLen m.led.pool = 0 then m.poolEmpty else m
      else if e.st = 5 then
        -- the writes of a Retired page are discarded (R152)
        let m := m.retiredAccess tag.head page
        ({ m with home := { m.home with lc := m.home.lc.filter (fun p => p.1 / 64 != page) } }).putEnt page e false
      else if e.st = 2 then m.queueMove page .promote 2 false
      else if e.st = 3 then
        match m.led.moveOf page with
        | some v => if v.started ∧ v.kind ≠ .relocate then { m with led := m.led.setMove { v with stop := true } } else m
        | none => m
      else m

/-- After the last dirty line of a page has left the line cache, DIC clears. -/
def Mach.noteClean (m : Mach) (page : Nat) : Mach :=
  match m.ent? page with
  | some e => if e.dic && (m.pageDirty page).isEmpty then m.putEnt page { e with dic := false } false else m
  | none => m

/-- A run without the numbers of another. -/
def ivMinus (l : List Iv) (x : Iv) : List Iv :=
  l.flatMap fun r =>
    let a := max r.1 x.1
    let b := min (r.1 + r.2) (x.1 + x.2)
    if b ≤ a then [r] else [(r.1, a - r.1), (b, r.1 + r.2 - b)].filter (fun p => decide (0 < p.2))

/-- Pages whose entries may differ from zeros: those of ledger lines with listed cells, with queued writes, and those in the ledger cache. -/
def Mach.knownPages (m : Mach) : List Nat :=
  let lb := m.ledBase
  let jOf := fun (f l : Nat) =>
    let k := if m.led.dup then (f - lb) / 2 else f - lb
    if lb ≤ f ∧ 1024 ≤ k then [64 * (k - 1024) + l] else []
  let ofCell := fun (c : Host.Cell) => match unplace m.pop.place (MAddr.ofVal (c.1 / 80)) with
    | some (f, l) => jOf f l
    | none => []
  let js := (m.media.cells.flatMap ofCell ++ m.led.lines.map (·.1) ++ (m.mcs.subs.flatMap fun (p : Nat × Sub) =>
    (p.2.wq ++ p.2.fabric).flatMap fun q => jOf q.frame q.ln)).eraseDups
  js.flatMap (fun j => (List.range 4).map (4 * j + ·))

/-- A page's entry without installing it. -/
def Mach.peekEnt (m : Mach) (page : Nat) : LEnt :=
  match m.ent? page with
  | some e => e
  | none =>
    let p := lineSpot (page / 4)
    match m.ledPeek p.1 p.2 true with
    | some d => (lineEnts d).getD (page % 4) {}
    | none => { st := 5 }

/-- The frames of the hot area and the cellar units that no list, entry or move accounts for, those leaked before among them: a frame
number, or a first unit counted from the cellar base. `skip` is a ledger line whose entries are lost. -/
def unaccounted (L : Image) (m : Mach) (skip : Option Nat) : List Iv × List Iv :=
  let ents := (m.knownPages.filter (fun p => skip != some (p / 4))).map m.peekEnt
  let framesUsed := m.led.pool ++ m.led.uncleared ++ (m.led.quarFrames ++ m.led.retention ++ m.led.freed.filterMap (·.frame)
      ++ (m.led.moves.filter (fun v => v.kind != .relocate || (m.peekEnt v.page).k == 0)).filterMap (·.dst)
      ++ (ents.filter (fun e => e.k == 0 && (e.st == 1 || e.st == 3 || e.st == 4))).map (·.ma)).map (fun f => (f, 1)) ++ m.led.away
  let unitsUsed := (m.led.fresh.map (fun r => (16 * r.1, 16 * r.2)))
      ++ m.led.klists.flatMap (fun (p : Nat × List Nat) => p.2.map (fun u => (u, p.1))) ++ m.led.quarCellar
      ++ m.led.freed.filterMap (·.cellar) ++ m.led.awayUnits
      ++ (m.led.moves.filter (fun v => v.kind == .relocate && decide (1 ≤ (m.peekEnt v.page).k))).filterMap
          (fun v => v.dst.map (fun d => (d, (m.peekEnt v.page).k)))
      ++ (ents.filter (fun e => decide (1 ≤ e.k))).map (fun e => (e.ma, e.k))
  (framesUsed.foldl ivMinus [(hotBase L, m.cellBase - hotBase L)], unitsUsed.foldl ivMinus [(0, m.led.cellarUnits * 65536 * 16)])

/-- A lost ledger line (R150): four Retired entries with GEN 0, written to both copies; what nothing accounts for any more is what
they held, and stays unused until the next format. How many of the four were Unwritten is a free value (log entry 14). -/
def loseLine (L : Image) (m : Mach) (j : Nat) (syn : Word) : List LEnt × Mach :=
  let es : List LEnt := List.replicate 4 { st := 5 }
  let x := 4 * j / 65536
  let u := unaccounted L m (some j)
  let lost := 16 * ivLen u.1 + ivLen u.2 - (16 * ivLen m.led.leakFrames + ivLen m.led.leakUnits)
  let m := (((m.ledWriteLine j es).chargeNow mDesc (m.copies (lineSpot j).1).length).bumpBy oCntLeak lost).lostEvent j syn
  (es, { m with led := { m.led with nonUnw := m.led.nonUnw.set 0 x (m.led.nonUnw.get 0 x + Config.freeNat m.fresh % 5),
                                    leakFrames := u.1, leakUnits := u.2 }, fresh := m.fresh + 1 })

/-- Install a fetched ledger line: the samples that waited for it are applied, and pages with dirty lines are taken up (R148,
R164, R29). None when no way of its set is evictable. -/
def ledInstall (L : Image) (m : Mach) (j : Nat) (e0 e1 : SymErr) : Option Mach :=
  if (m.led.lines.find? j).isSome then some { m with led := { m.led with fetching := m.led.fetching.filter (· != j) } }
  else match m.ledRoom j with
    | none => none
    | some m =>
      let p := lineSpot j
      let (d, syn, m) := ledReadFor L m mDesc (.ledger j) p.1 p.2 true e0 e1
      let (es, m) := match d with
        | some d => (lineEnts d, m)
        | none => loseLine L m j syn
      let m : Mach := { m with led := { m.led with lines := m.led.lines.insert j { ents := es, use := m.home.clock },
                                                   fetching := m.led.fetching.filter (· != j) } }
      let pages := (List.range 4).map (4 * j + ·)
      let waits := m.led.heatQ.filter (fun p => p / 4 == j)
      let m : Mach := { m with led := { m.led with heatQ := m.led.heatQ.filter (fun p => p / 4 != j) } }
      let m := waits.foldl (addHeat L) m
      some (pages.foldl (fun m p => if (m.pageDirty p).isEmpty then m else noteDirty L m mDesc {} p) m)

/-- A page's entry for work that the part does in one step: from the cache, or fetched at once. -/
def ledTake (L : Image) (m : Mach) (page : Nat) : Option LEnt × Mach :=
  match m.ent? page with
  | some e => (some e, m)
  | none => match ledInstall L m (page / 4) [] [] with
    | some m => (m.ent? page, m)
    | none => (none, m)

/-- Likewise, the fetch charged to a master unless it was under way (R20, R298). -/
def ledGet (L : Image) (m : Mach) (mst page : Nat) : Option LEnt × Mach :=
  ledTake L (if (m.ent? page).isSome || m.led.fetching.contains (page / 4) then m else m.chargeNow mst 1) page

/-! ### Freed media (R151) -/

/-- Requests that read the page's entry and have not completed. -/
def Mach.readers (m : Mach) (page : Nat) : List Nat :=
  (m.home.trk.filter (fun r => r.line / 64 == page && match r.phase with
    | .dram | .decode .. => true
    | _ => false)).map (·.id)

/-- Free a frame once settled. -/
def Mach.freeLater (m : Mach) (page f : Nat) : Mach :=
  { m with led := { m.led with freed := m.led.freed ++ [{ waits := m.readers page, frame := some f }] } }

/-- Free a cellar extent once settled. -/
def Mach.freeUnitsLater (m : Mach) (page ma k : Nat) : Mach :=
  { m with led := { m.led with freed := m.led.freed ++ [{ waits := m.readers page, cellar := some (ma, k) }] } }

/-- Cellar units go to their free list; those of a channel that is not LIVE stay off the lists (R336). -/
def giveUnits (m : Mach) (u k : Nat) : Mach :=
  if m.frameCh (m.cellBase + u / 16) = 1 then { m with led := m.led.putUnits u k }
  else { m with led := { m.led with awayUnits := ivAdd m.led.awayUnits u k } }

/-- Release freed media whose readers have completed. -/
def settleFreed (L : Image) (m : Mach) : Mach :=
  let live := m.home.trk.map (·.id)
  let ready := m.led.freed.filter (fun f => !f.waits.any live.contains)
  let m := { m with led := { m.led with freed := m.led.freed.filter (fun f => f.waits.any live.contains) } }
  ready.foldl (fun m f =>
    let m := match f.frame with
      | some x => giveFrame L m x
      | none => m
    match f.cellar with
    | some (ma, k) =>
      giveUnits m ma k
    | none => m) m

/-! ### Cellar extents (R193-R197) -/

/-- A culture slot's image. -/
def Mach.cultImg (m : Mach) (slot : Nat) : Option (List Byte) := m.chn.images.find? slot

/-- The frame and line of media line `i` of a cellar extent. -/
def Mach.cellSpot (m : Mach) (ma i : Nat) : Nat × Nat := (m.cellBase + ma / 16, ma % 16 * 4 + i)

/-- Read media line `i` of a page's extent: plaintext, none when it is poisoned, uncorrectable or misdirected; `w` is the wedge of an
in-line decode whose reads were sent ahead, and deciphered as they came (R21, R243). -/
def readCell (L : Image) (m : Mach) (page : Nat) (e : LEnt) (w : Option Nat) (i : Nat) : Option (List Byte) × Mach :=
  let s := m.cellSpot e.ma i
  let r := readFor L m (match w with
    | some w => .inline page w i
    | none => .other) s.1 s.2 true false 97 none []
  let d := (if w.isSome then r.1 else decipher L r.2 (.inline page 0 i) r.1).stored
  (if d.2 then none else some (bytesOf d.1 64), r.2)

/-- Read `n` media lines of a page's extent from line `first` on. -/
def readCells (L : Image) (m : Mach) (page : Nat) (e : LEnt) (w : Option Nat) (first n : Nat) : List (Option (List Byte)) × Mach :=
  (List.range n).foldl (fun (acc : List (Option (List Byte)) × Mach) t =>
    let q := readCell L acc.2 page e w (first + t)
    (acc.1 ++ [q.1], q.2)) ([], m)

/-- Media lines that hold wedge `w` of an entry (R197). -/
def LEnt.wedgeLines (e : LEnt) (w : Nat) : Nat :=
  let se := Yelrin.wedgeSpan e.woff e.k w
  (se.2 + 63) / 64 - se.1 / 64

/-- The span of wedge `w` lies in its extent. -/
def LEnt.spanOk (e : LEnt) (w : Nat) : Bool :=
  let se := Yelrin.wedgeSpan e.woff e.k w
  decide (se.1 < se.2 ∧ se.2 ≤ 256 * e.k)

/-- The first media line of a wedge, and how many it has. -/
def LEnt.wedgeAt (e : LEnt) (w : Nat) : Nat × Nat :=
  if e.spanOk w then ((Yelrin.wedgeSpan e.woff e.k w).1 / 64, e.wedgeLines w) else (0, 0)

/-- Wedge `w` of an entry from its media lines: its 512 bytes; none with a flag that says a wedge failure rather than bad media. -/
def Mach.wedgeOf (m : Mach) (e : LEnt) (w : Nat) (lines : List (Option (List Byte))) : Option (List Byte) × Bool :=
  let at' := e.wedgeAt w
  if !e.spanOk w then (none, true)
  else if lines.length < at'.2 || !lines.all (·.isSome) then (none, false)
  else
    let bytes := List.replicate (64 * at'.1) 0#8 ++ lines.flatMap (fun o => o.getD [])
    match Yelrin.extentWedge (m.cultImg e.cult) e.woff e.k w bytes with
    | some d => (some d, false)
    | none => (none, true)

/-- Read wedge `w` of a page from the cellar for an in-line decode. -/
def readWedge (L : Image) (m : Mach) (page : Nat) (e : LEnt) (w : Nat) (inl : Bool) : Option (List Byte) × Bool × Mach :=
  let at' := e.wedgeAt w
  let r := readCells L m page e (if inl then some w else none) at'.1 at'.2
  let d := r.2.wedgeOf e w r.1
  (d.1, d.2, r.2)

/-- A wedge failure's event and record (R26, R159). -/
def Mach.wedgeFail (m : Mach) (page cult : Nat) : Mach := (m.evb oLdgEvt 5).raiseA 37 cult 1 (page * 4096)

/-! ### Moves (R156-R163, R168, R337) -/

/-- Write one line of a page into its frame, encrypted (R30). -/
def writePageLine (L : Image) (m : Mach) (f line : Nat) (d : Line) (w p : Bool) (mv : BitVec 2) : Mach :=
  let x := encFor L m (line / 64 / 65536) (tweakLine line) d
  m.writeNow f (line % 64) (m.formCw f (line % 64) x.1 w p mv x.2 false)

/-- MOVE_SLOTS. -/
def moveSlots (L : Image) : Nat := 4 * (skimFld L 31 26 + 1)

/-- The waiting moves in the order in which they start: by class, resumed promotions first, then as they came (R168). -/
def Ledger.waitingMoves (l : Ledger) : List Move :=
  let w := l.moves.filter (fun v => !v.started)
  [1, 2, 3].flatMap (fun c =>
    let mine := w.filter (fun v => v.cls == c)
    mine.filter (fun v => v.resumed) ++ mine.filter (fun v => !v.resumed))

/-- Start a promotion: the entry becomes Moving with a frame from the pool, or the move waits for a frame. -/
def startPromotion (L : Image) (m : Mach) (v : Move) (e : LEnt) : Mach :=
  if v.resumed then { m with led := m.led.setMove { v with started := true } }
  else if e.st ≠ 2 then dropMove L m v.page
  else match takeFrame L m with
    | none => m.poolEmpty
    | some (f, m) =>
      ({ m with led := m.led.setMove { v with started := true, dst := some f, gen := e.gen } }).putEnt v.page { e with st := 3 } false

/-- The active culture of an extent's set (R169). -/
def activeCult (L : Image) (page : Nat) : Option Nat :=
  let s := L.reg (oCset (eCset (L.extent (page / 65536))))
  if s.getLsbD 6 then some (fld s 5 0) else none

/-- Start a demotion: Hot and clean only (R30, R160); it waits for the copy of its culture (R240). -/
def startDemotion (L : Image) (m : Mach) (v : Move) (e : LEnt) : Mach :=
  if e.st ≠ 1 then dropMove L m v.page
  else if (activeCult L v.page).any m.chn.copying.contains then m
  else if e.dic then
    let m := dropMove L m v.page
    { m with led := { m.led with ended := m.led.ended.insert v.page 3 } }
  else ({ m with led := m.led.setMove { v with started := true, gen := e.gen, cult := activeCult L v.page } }).putEnt v.page
    { e with st := 3 } false

/-- Start a relocation: Hot, Pinned or Cellar; a cellar page without units to go to is promoted instead (R337). -/
def startRelocation (L : Image) (m : Mach) (v : Move) (e : LEnt) : Mach :=
  if e.st = 2 then
    match m.led.takeUnits e.k with
    | some (u, l) => ({ m with led := l.setMove { v with started := true, gen := e.gen, dst := some u } }).putEnt v.page { e with st := 3 } false
    | none => startPromotion L { m with led := m.led.setMove { v with kind := .promote } } { v with kind := .promote } e
  else if e.st = 1 ∨ e.st = 4 then
    match takeFrame L m with
    | some (f, m) =>
      ({ m with led := m.led.setMove { v with started := true, gen := e.gen, dst := some f, pin := decide (e.st = 4) } }).putEnt v.page { e with st := 3 } false
    | none => m.poolEmpty
  else dropMove L m v.page

/-- Start a move on its entry; a move that has nothing to do any more is dropped, one that wants a frame waits (R171). -/
def startMove (L : Image) (m : Mach) (v : Move) (e : LEnt) : Mach :=
  match v.kind with
  | .promote => startPromotion L m v e
  | .demote => startDemotion L m v e
  | .relocate => startRelocation L m v e

/-- The first of the waiting moves that can start does; one that cannot yet lets the next one go. -/
def startFirst (L : Image) : List Move → Mach → Mach
  | [], m => m
  | v :: t, m =>
    match ledGet L m mDesc v.page with
    | (none, m) => startFirst L t m
    | (some e, m) =>
      let m' := startMove L m v e
      if (m'.led.moveOf v.page).any (fun x => !x.started) then startFirst L t m' else m'

/-- MOVE_START (R168). -/
def moveStart (L : Image) (m : Mach) : Mach :=
  if moveSlots L ≤ (m.led.moves.filter (fun v => v.started)).length then m else startFirst L m.led.waitingMoves m

/-- End a move: it leaves the list. -/
def Mach.endMove (m : Mach) (page : Nat) : Mach :=
  { m with led := { m.led with moves := m.led.moves.filter (fun v => v.page != page) } }

/-- A write has stopped a promotion (R158): its attempt ends with the wedge in hand. With the last wedge in hand it goes on to its end. -/
def Move.cutShort (v : Move) : Bool := v.stop && decide (v.done + 1 < 8)

/-- The media lines that a promotion's attempt reads: the extent, or those of its one wedge. -/
def Move.promoSpan (v : Move) (e : LEnt) : Nat × Nat := if v.cutShort then e.wedgeAt v.done else (0, 4 * e.k)

/-- The reads of a promotion (R156 step 2): its churn holds the lines. -/
def promotionRead (L : Image) (m : Mach) (v : Move) (e : LEnt) : Mach :=
  let s := v.promoSpan e
  let r := readCells L m v.page e none s.1 s.2
  let v := (r.2.led.moveOf v.page).getD v
  { r.2 with led := r.2.led.setMove { v with got := List.replicate s.1 none ++ r.1 } }

/-- Wedge `w` from the lines that a promotion's churn holds. -/
def Mach.promoWedge (m : Mach) (v : Move) (e : LEnt) (w : Nat) : Option (List Byte) :=
  let at' := e.wedgeAt w
  (m.wedgeOf e w ((v.got.drop at'.1).take at'.2)).1

/-- The page CRC is checked when all eight wedges decode cleanly (R159). With its line unreadable it is taken to match, since the rule does not
say whether the check then fails (DESIGN CHOICE, log entry 41). -/
def Mach.promoCrcBad (m : Mach) (v : Move) (e : LEnt) : Bool :=
  let all := (List.range 8).map (m.promoWedge v e)
  !v.cutShort && all.all (·.isSome) && (match v.got[4 * e.k - 1]? with
    | some (some l) => ofBytes 32 (l.drop 60) != Codec.crc32c 0#32 (all.flatMap (fun o => o.getD []))
    | _ => false)

/-- What a promotion's attempt writes, by wedge: its bytes, or poison. The lines of a zero wedge are not written (R156), and a page whose CRC
does not match is poisoned whole (R159). -/
def Mach.promoOut (m : Mach) (v : Move) (e : LEnt) : List (Nat × Option (List Byte)) :=
  if m.promoCrcBad v e then (List.range 8).map (fun w => (w, none))
  else
    let ws := if v.cutShort then [v.done] else (List.range (8 - v.done)).map (v.done + ·)
    (ws.map (fun w => (w, m.promoWedge v e w))).filter (fun p => !p.2.any (fun b => b.all (fun x => x == 0#8)))

/-- Write a promotion's wedge into its frame (R156 step 7, R159). -/
def writeWedge (L : Image) (m : Mach) (page f : Nat) (x : Nat × Option (List Byte)) : Mach :=
  (List.range 8).foldl (fun m i =>
    let line := 64 * page + 8 * x.1 + i
    match x.2 with
    | some b => writePageLine L m f line (ofBytes 512 ((b.drop (64 * i)).take 64)) true false 0#2
    | none => writePageLine L m f line (BitVec.allOnes 512) true true 0#2) m

/-- The end of a promotion's attempt, its lines read (R156-R159): the wedges written, then the entry flipped and the source freed, or the move
requeued as demand work when a write has stopped it. Its requeued attempt goes on behind the wedges written. -/
def promotionEnd (L : Image) (m : Mach) (v : Move) (f : Nat) (e : LEnt) : Mach :=
  let out := m.promoOut v e
  let crcBad := m.promoCrcBad v e
  let bad := crcBad || out.any (fun p => p.2.isNone)
  let m := out.foldl (fun m x => writeWedge L m v.page f x) m
  if v.cutShort then
    let m := if bad then m.putEnt v.page { e with pp := true } true else m
    { m with led := m.led.setMove { v with started := false, resumed := true, cls := 2, done := v.done + 1, stop := false, got := [] } }.bump oCntLdgAbort
  else
    let m := if crcBad then (m.evb oLdgEvt 6).raiseA 38 e.cult 1 (v.page * 4096)
      else if (List.range 8).all (fun w => (m.promoWedge v e w).isSome) then m else m.wedgeFail v.page e.cult
    let m := m.freeUnitsLater v.page e.ma e.k
    let m := m.countBy e.cult (-1)
    let m := m.flip v.page { e with st := if v.pin then 4 else 1, ma := f, k := 0, cult := 0, cs := false, woff := [0, 0, 0, 0, 0, 0, 0],
                                    pp := e.pp || bad }
    let m := if v.pin then { m with led := { m.led with pinned := m.led.pinned + 1 } } else m
    ({ m with led := { m.led with ended := m.led.ended.erase v.page } }).endMove v.page |>.bump oCntPromo |>.pmuEvent 0x203 0 1

/-- The frame lines of a page for a demotion (R160, R162): the bytes, or poison found. An uncorrectable line is written back as
read with P = 1. -/
def demoteRead (L : Image) (m : Mach) (page : Nat) (e : LEnt) : List Byte × Bool × Mach :=
  (List.range 64).foldl (fun (acc : List Byte × Bool × Mach) i =>
    let line := 64 * page + i
    let (j, m) := readNow L acc.2.2 e.ma i false false 40 (some (line * 64)) []
    let d := j.stored
    let m := if j.v = .uncorrectable then m.writeNow e.ma i (m.formCw e.ma i j.line true true 0#2 false false) else m
    (acc.1 ++ bytesOf (decFor L m (page / 65536) (tweakLine line) (rX j.rind) d.1) 64, acc.2.1 || d.2, m)) ([], false, m)

/-- Write a cellar extent, encrypted with C = 1 (R160, R196). -/
def writeExtent (L : Image) (m : Mach) (page ma : Nat) (bytes : List Byte) : Mach :=
  (List.range (bytes.length / 64)).foldl (fun m i =>
    let s := m.cellSpot ma i
    let x := encFor L m (page / 65536) (tweakCellar page i) (ofBytes 512 ((bytes.drop (64 * i)).take 64))
    m.writeNow s.1 s.2 (m.formCw s.1 s.2 x.1 true false 0#2 x.2 true)) m

/-- End a demotion in Hot with an outcome code. -/
def Mach.demoteHot (m : Mach) (v : Move) (e : LEnt) (code : Nat) : Mach :=
  let m := (m.putEnt v.page { e with st := 1 } true).endMove v.page
  { m with led := { m.led with ended := m.led.ended.insert v.page code } }

/-- The reads of a demotion (R160 step 2): its churn holds the page. One that meets poison ends (R162). -/
def demotionRead (L : Image) (m : Mach) (v : Move) (e : LEnt) : Mach :=
  let (bytes, poison, m) := demoteRead L m v.page e
  if poison then m.demoteHot v { e with pp := true } 2
  else { m with led := m.led.setMove { (m.led.moveOf v.page).getD v with got := [some bytes] } }

/-- The extent that a demotion's page makes; none when it does not shrink (R161). -/
def Mach.demoExtent (m : Mach) (v : Move) : Option (Nat × List Nat × List Byte) :=
  Yelrin.extentOf (v.cult.bind m.cultImg) ((v.got.head?.getD none).getD [])

/-- The end of a demotion, its lines read (R151, R160-R163). -/
def demotionEnd (L : Image) (m : Mach) (v : Move) (e : LEnt) : Mach :=
  if v.stop then (m.demoteHot v e 3).bump oCntLdgAbort
  else match m.demoExtent v with
    | none => (m.demoteHot v { e with cs := true, cult := v.cult.getD 0, pp := false } 1 |>.through v.page).bump oCntNoshrink
    | some (k, woff, body) => match m.led.takeUnits k with
      | none =>
        ((((m.demoteHot v { e with cs := false, cult := 0, pp := false } 1).through v.page).bump oCntCfull).evb oLdgEvt 2).raiseA 34 0 1
          (v.page * 4096)
      | some (u, l) =>
        let m := writeExtent L { m with led := l } v.page u body
        let m := m.freeLater v.page e.ma
        let m := m.countBy (v.cult.getD 0) 1
        let m := m.flip v.page { e with st := 2, ma := u, k, cult := v.cult.getD 0, cs := false, woff, pp := false }
        let m := { m with led := { m.led with ended := m.led.ended.insert v.page 0 } }
        ((m.endMove v.page).bump oCntDemo).pmuEvent 0x204 0 1

/-- Copy one media line of a relocation: data and X unchanged, the ATAG of the new place, poison for what cannot be read (R337). -/
def relocateLine (L : Image) (m : Mach) (page : Nat) (c : Bool) (f l f' l' : Nat) : Bool × Mach :=
  let (j, m) := readNow L m f l c false 41 (some (page * 4096)) []
  let r := j.rind
  match j.v with
  | .uncorrectable | .misdirected => (true, m.writeNow f' l' (m.formCw f' l' j.line true true 0#2 false c))
  | _ => (false, m.writeNow f' l' (m.formCw f' l' j.line (rW r) (rP r) (rMv r) (rX r) c))

/-- The end of a relocation (R337): the lines copied, MA flipped with GEN + 1, the source freed. A Cellar page written meanwhile is queued
for promotion (R29). -/
def relocationEnd (L : Image) (m : Mach) (v : Move) (dst : Nat) (e : LEnt) : Mach :=
  let spots : List ((Nat × Nat) × (Nat × Nat)) :=
    if 1 ≤ e.k then (List.range (4 * e.k)).map (fun i => (m.cellSpot e.ma i, m.cellSpot dst i))
    else (List.range 64).map (fun i => ((e.ma, i), (dst, i)))
  let r := spots.foldl (fun (acc : Bool × Mach) s =>
    let q := relocateLine L acc.2 v.page (decide (1 ≤ e.k)) s.1.1 s.1.2 s.2.1 s.2.2
    (acc.1 || q.1, q.2)) (false, m)
  let m := if 1 ≤ e.k then r.2.freeUnitsLater v.page e.ma e.k else r.2.freeLater v.page e.ma
  ((m.flip v.page { e with st := if 1 ≤ e.k then 2 else if v.pin then 4 else 1, ma := dst, pp := e.pp || r.1 })).endMove v.page
    |> fun m => if 1 ≤ e.k ∧ e.dic then m.queueMove v.page .promote 2 false else m

/-- Give back what a move holds (R151): the destination, and the slot; its page is in its source state again. -/
def undoMove (L : Image) (m : Mach) (page : Nat) : Mach :=
  match m.led.moveOf page with
  | none => m
  | some v =>
    let e := m.ent? page
    let m := match e with
      | some e => if e.st = 3 then m.putEnt page { e with st := (m.storedEnt page e).st } false else m
      | none => m
    let m := m.endMove page
    match v.dst with
    | none => m
    | some d => if v.kind = .promote ∨ (e.any (fun e => e.k == 0)) then giveFrame L m d
        else giveUnits m d ((e.map (·.k)).getD 0)

/-! ### Frames for first writes (R151) -/

/-- FRAME_ALLOCATE: a waiting page becomes Hot with a frame. -/
def frameAllocate (L : Image) (m : Mach) (page : Nat) : Mach :=
  if !m.led.wantFrame.contains page then m
  else match m.ent? page with
    | none => m
    | some e =>
      let drop := fun (m : Mach) => { m with led := { m.led with wantFrame := m.led.wantFrame.filter (· != page) } }
      if e.st ≠ 0 then drop m
      else match takeFrame L m with
        | none => m.poolEmpty
        | some (f, m) => (drop m).flip page { e with st := 1, ma := f, k := 0 }

/-! ### The sweep (R165) -/

/-- Whether a Hot page may be demoted (R165). -/
def demotable (L : Image) (m : Mach) (page : Nat) (e : LEnt) : Bool :=
  let t := eTier (L.extent (page / 65536))
  if e.dic then false
  else if e.cs && activeCult L page == some e.cult then false
  else if t = 2 then decide (e.heat ≤ skimFld L 25 20)
  else if t = 0 then decide (e.heat ≤ skimFld L 13 8) && (decide (m.led.free < (L.reg oWmLow).toNat) || m.led.draining)
  else false

/-- DECAY_SHIFT. -/
def decayShift (L : Image) : Nat := skimFld L 7 6

/-- A sweep visit reads the next entry's line (R165); pages of flat extents have no entry in use. -/
def sweepReads (L : Image) (m : Mach) : Bool := skimEn L && !flatPage L m.led.sweep && (m.ent? m.led.sweep).isNone

/-- SWEEP_VISIT: the next entry, once it is in the ledger cache. -/
def sweepVisit (L : Image) (m : Mach) : Mach :=
  if !skimEn L ∨ !m.led.formatted ∨ m.led.extents = 0 then m
  else
    let page := m.led.sweep
    let on := fun (m : Mach) => { m with led := { m.led with sweep := (page + 1) % (m.led.extents * 65536) } }
    if flatPage L page then on m
    else
      let (e, m) := ledTake L m page
      match e with
      | none => m
      | some e =>
        let m := on m
        if e.st = 0 ∨ e.st = 5 then m
        else
          let stale := e.st == 2 && (activeCult L page).isSome && activeCult L page != some e.cult
          let e := { e with heat := e.heat >>> decayShift L, cs := e.cs || stale }
          let m := m.putEnt page e true
          let m := if e.st = 1 ∧ demotable L m page e then m.queueMove page .demote 3 false else m
          let m := if e.st = 2 ∧ eTier (L.extent (page / 65536)) = 1 then m.queueMove page .promote 3 false else m
          m.through page

/-! ### Formatting (R137-R141) -/

/-- The bytes of a format record: settings, FSEQ, retirement states, check (its layout is the model's, log entry 15). -/
def Mach.formatRecord (m : Mach) : List Byte :=
  let st := (List.range 12).foldl (fun acc c => acc + m.scb.chSt.get 0 c % 4 * 4 ^ c) 0
  let b := bytesOfNat (m.led.extents + m.led.dup.toNat * 2 ^ 31) 4 ++ bytesOfNat m.led.cellarUnits 4 ++ bytesOfNat m.led.fseq 4
    ++ bytesOfNat st 4
  b ++ bytesOf (Codec.crc32c 0#32 b) 4

/-- Write the format record: copy 0, then copy 1. -/
def Mach.writeFormatRecord (m : Mach) : Mach := m.hdrPut 0 m.formatRecord

/-- The settings are within the limits of R137. -/
def fmtFits (L : Image) (m : Mach) (extents cellar : Nat) (dup : Bool) : Bool :=
  decide (1 ≤ extents ∧ extents ≤ 131072 ∧ cellar ≤ 16384)
    && decide (hotBase L / 65536 + 1 + cellar + ledUnits extents * (if dup then 2 else 1) ≤ m.mediaUnits)

/-- A dirty line of a flat extent is written back to its frame (R140). -/
def flatWriteBack (L : Image) (m : Mach) (line : Nat) (c : CLine) : Mach :=
  let e := line / 64 / 65536
  let f := eFlatSlot (L.extent e) * 65536 + line / 64 % 65536
  writePageLine L m f line c.data true c.p c.mv

/-- Step 1 of R140: the caches emptied, dirty lines of flat extents written back, the coalescer emptied; write-backs of other media that
still wait are dropped. -/
def fmtEmpty (L : Image) (m : Mach) : Mach :=
  let m := m.home.lc.foldl (fun m p => if p.2.dirty && flatPage L (p.1 / 64) then flatWriteBack L m p.1 p.2 else m) m
  let m := m.dropWrites (hotBase L) (m.mediaUnits * 65536 - hotBase L)
  { m with home := { m.home with lc := [] }, tally := { m.tally with coal := [], inq := [] },
           led := { m.led with lines := [], fetching := [], heatQ := [], moves := [], wantFrame := [], held := [], freed := [],
                               locked := [], ended := [] } }

/-- The churn array's work on the ledger ends with the ledger (R140). -/
def Mach.dropLedWork (m : Mach) : Mach :=
  let keep := fun (w : Running) => match w with
    | .job _ | .decode .. => true
    | _ => false
  { m with chn := { m.chn with run := m.chn.run.filter (fun (p : Nat × Running) => keep p.2),
                               queues := m.chn.queues.map (fun (p : Nat × List Running) => (p.1, p.2.filter keep)),
                               wait := m.chn.wait.filter (fun p => keep p.2) } }

/-- Start a format with settings: the caches emptied, the format records in place invalidated. -/
def fmtStart (L : Image) (m : Mach) (extents cellar : Nat) (dup auto : Bool) : Mach :=
  let m := (fmtEmpty L m).dropLedWork
  let m := if m.led.formatted then m.hdrPut 0 (List.replicate 64 0#8) else m
  { m with led := { m.led with fmtBusy := true, fmtAuto := auto, fmtResult := 0, formatted := false, extents, dup, cellarUnits := cellar } }

/-- The counters that a format clears. -/
def fmtCounters : List Nat := [oCntPromo, oCntDemo, oCntNoshrink, oCntLdgAbort, oCntCfull, oCntLeak]

/-- The frames that a format clears: the ledger region, and the first of the hot area. -/
def fmtRuns (L : Image) (m : Mach) : Nat × Nat :=
  (m.mediaUnits * 65536 - m.ledBase, min (m.cellBase - hotBase L) 262144)

/-- FORMAT_DONE (R140): the ledger region zeroed, the free lists, the first frames cleared, the records written. -/
def fmtDone (L : Image) (m : Mach) : Mach :=
  if !m.led.fmtBusy then m
  else
    let clr := (fmtRuns L m).2
    let hb := hotBase L
    let cb := m.cellBase
    let m := clearFrames L (clearFrames L m m.ledBase (fmtRuns L m).1 true) hb clr false
    -- frames of channels that are not LIVE are not free (R336)
    let all := m.pop.used.all (fun c => m.scb.chSt.get 0 c == 1)
    let part := fun (base : Nat) (live : Bool) (l : List Iv) => if all then (if live then l else []) else ivKeep (fun f => (m.frameCh (base + f) == 1) == live) l
    let pool := ivAdd [] hb clr
    let uncl := ivAdd [] (hb + clr) (cb - hb - clr)
    let cel := ivAdd [] 0 (m.led.cellarUnits * 65536)
    let led := { m.led with pool := part 0 true pool, uncleared := part 0 true uncl, fresh := part cb true cel, klists := [],
                            away := part 0 false (pool ++ uncl), awayUnits := (part cb false cel).map (fun r => (16 * r.1, 16 * r.2)),
                            quarFrames := [], quarCellar := [], counts := [], nonUnw := [], pinned := 0,
                            sweep := m.led.sweep % (m.led.extents * 65536), emptySeen := false, fmtBusy := false, formatted := true,
                            fmtResult := 1, recount := false, fseq := (m.led.fseq + 1) % 2 ^ 32, leakFrames := [],
                            leakUnits := [], cntOpen := false }
    let m := { m with led, chn := { m.chn with images := [], copying := [] } }
    let m := fmtCounters.foldl (fun m o => m.setReg o 0#32) m
    let m := freeMarks L m
    m.writeFormatRecord.evb oLdgEvt 8

/-- The settings and FSEQ of a format record, when it is valid. -/
structure FmtRec where
  extents : Nat
  dup : Bool
  cellar : Nat
  fseq : Nat
  chans : Nat
  deriving DecidableEq, Repr

/-- Decode a format record's bytes. -/
def FmtRec.ofBytes (b : List Byte) : Option FmtRec :=
  let w := fun i => natOfBytes ((b.drop (4 * i)).take 4)
  if Sys2Proof.ofBytes 32 ((b.drop 16).take 4) = Codec.crc32c 0#32 (b.take 16) then
    some { extents := w 0 % 2 ^ 31, dup := decide (2 ^ 31 ≤ w 0), cellar := w 1, fseq := w 2, chans := w 3 }
  else none

/-! ### Walks -/

/-- The ledger lines that a recount reads: those of the configured DPA that are not in the ledger cache. -/
def Mach.recountReads (m : Mach) : Nat := m.led.extents * 16384 - m.led.lines.length

/-- RECOUNT_WALK_DONE (R142): the counts of Cellar entries by culture; a Cellar page in a promotion still counts. A line that reads as it did
after the format has none. -/
def recountDone (L : Image) (m : Mach) : Mach :=
  if !m.led.recount then m
  else
    let js := (m.knownPages.map (· / 4)).eraseDups
    let r := js.foldl (fun (acc : Tbl Nat × Mach) j =>
      let p := lineSpot j
      let x := match acc.2.led.lines.find? j with
        | some l => (l.ents, acc.2)
        | none => let d := ledRead L acc.2 p.1 p.2 true [] []; ((d.1.map lineEnts).getD [], d.2)
      ((x.1.filter (fun e => decide (1 ≤ e.k))).foldl (fun (t : Tbl Nat) e => t.set 0 e.cult (t.get 0 e.cult + 1)) acc.1, x.2)) ([], m)
    { r.2 with led := { r.2.led with counts := r.1, recount := false } }

end Sys2Proof.Machine
end

