-- ==== Sys2Proof/Machine/Regulator.lean ====
section
/-! DEFINITION. The bandwidth regulator (R297-R312): charges, windows, the deliverable floor, the honoured guarantees and the pick
of a master. -/

namespace Sys2Proof.Machine

/-! ### Slices (R101, R102) -/

/-- The slice of a line (R101), from its line number, DPA bits [44:6]. -/
def sliceOf (line : Nat) : Nat :=
  (List.range 10).foldl (fun acc i => acc ^^^ (line >>> (4 * i)) % 16) 0 % 16

/-- The line-cache set of a line, DPA[21:10]. -/
def lcSet (line : Nat) : Nat := line / 16 % 4096

/-- The snoop-filter set of a line, DPA[23:10]. -/
def sfSet (line : Nat) : Nat := line / 16 % 16384

/-! ### Guarantees (R299, R307, R309) -/

def winOf (L : Image) : Nat := fld (L.reg oBwgCtl) 6 0
def resyncAdmit (L : Image) : Bool := (L.reg oBwgCtl).getLsbD 7
def guarOf (L : Image) (mst : Nat) : Nat := fld (L.reg (oGuar mst)) 15 0
def weightOf (L : Image) (mst : Nat) : Nat := fld (L.reg (oGuar mst)) 23 16
def capOf (L : Image) (h : Nat) : Nat := fld (L.reg (oRtCap h)) 15 0

/-- Bytes a window for a figure in 0.1 GB/s (R299). -/
def winBytes (L : Image) (g : Nat) : Nat := g * 100 * winOf L / 4

/-- Masters in service order: RT masters, then the others (R307). -/
def serviceOrder : List Nat := (List.range 8).map (4 * ·) ++ (List.range 38).filter (fun k => !(decide (k < 32) && k % 4 == 0))

/-- Masters that the walk counts. -/
def walked (L : Image) : List Nat := if resyncAdmit L then serviceOrder else serviceOrder.filter (· != mResync)

/-- The sum of guarantees that the walk counts, in 0.1 GB/s. -/
def guarSum (L : Image) : Nat := ((walked L).map (guarOf L)).sum

/-- The first master at which the running sum passes a limit, and what remains for it. -/
def cutAt (L : Image) (lim : Nat) : List Nat → Nat → Option (Nat × Nat)
  | [], _ => none
  | k :: t, acc => if lim < acc + guarOf L k then some (k, lim - acc) else cutAt L lim t (acc + guarOf L k)

/-- A master behind the one at which the sum passes the floor: served at step 3 of R300 alone (R309). -/
def beyondCut (L : Image) (m : Mach) (mst : Nat) : Bool :=
  match m.bwg.cut with
  | none => false
  | some (k, _) => (resyncAdmit L || mst != mResync) && (match serviceOrder.idxOf? mst, serviceOrder.idxOf? k with
    | some i, some j => decide (j < i)
    | _, _ => false)

/-- The guarantee honoured for a master in 0.1 GB/s (R309). -/
def honoured (L : Image) (m : Mach) (mst : Nat) : Nat :=
  match m.bwg.cut with
  | none => guarOf L mst
  | some (k, part) =>
    if !resyncAdmit L && mst == mResync then guarOf L mst
    else match serviceOrder.idxOf? mst, serviceOrder.idxOf? k with
      | some i, some j => if i < j then guarOf L mst else if i = j then part else 0
      | _, _ => 0

/-! ### The floor (R304-R306, R308) -/

/-- Data rate in MT/s of a speed code. -/
def rateOf (code : Nat) : Nat := [4800, 5600, 6400, 7200, 8000, 8800].getD code 0

/-- s of R305 in thousandths. -/
def sFactor (code : Nat) (dpc2 : Bool) : Nat :=
  if dpc2 then [800, 796, 790, 0, 0, 0].getD code 0 else [812, 808, 804, 798, 793, 788].getD code 0

/-- r of R306 in thousandths. -/
def rFactor (mode : Nat) (hot : Bool) : Nat :=
  if mode = 0 then (if hot then 789 else 894) else (if hot then 774 else 887)

/-- The factor of 3DS stacks in thousandths. -/
def stackFactor (ld : Nat) : Nat := if ld = 0 then 1000 else if ld = 1 then 985 else 970

/-- The floor in whole GB/s for the refresh modes of an image (R304): a channel that is CHANGING does not count (R336 step 1, R338). -/
def floorOf (I : Image) (m : Mach) (hot : Nat → Bool) : Nat :=
  let p := m.pop
  ((p.used.filter (fun c => m.scb.chSt.get 0 c == 1)).map (fun c =>
    8 * rateOf p.speed * sFactor p.speed p.dpc2 * rFactor (refMode I c) (hot c) * stackFactor p.ld)).sum / 10 ^ 12

/-- A resync runs. -/
def Yoke.resync (y : Yoke) : Bool := y.st == .resyncSrc || y.st == .resyncTgt

/-- The live floor in 0.1 GB/s, less the resync guarantee while a resync that is not admitted runs (R308). -/
def liveFloor (L : Image) (m : Mach) : Nat :=
  let f := 10 * floorOf L m (fun c => m.mcs.hot.get false c)
  if !resyncAdmit L && m.yoke.resync then f - guarOf L mResync else f

/-- Recompute the live floor; the regulator uses it from the next window (R308). -/
def floorUpdate (L : Image) (m : Mach) : Mach :=
  { m with bwg := { m.bwg with live := liveFloor L m, floorOld := m.bwg.floorOld.or (some m.bwg.live) } }

/-- The cut that the live floor makes. -/
def cutOf (L : Image) (live : Nat) : Option (Nat × Nat) := if guarSum L ≤ live then none else cutAt L live (walked L) 0

/-! ### Windows (R299, R310, R311) -/

/-- Whether a master fell short in the window that ends (R310). -/
def fellShort (L : Image) (b : Bwg) (mst : Nat) : Bool :=
  decide (b.charged.get 0 mst < winBytes L (guarOf L mst) ∧ b.cycles ≤ 2 * b.held.get 0 mst ∧ 0 < b.held.get 0 mst)

/-- What a shortfall does (R311). -/
def Mach.shortfall (m : Mach) (mst : Nat) : Mach :=
  let m := m.bump (oCntShort mst)
  let off := if mst < 32 then oShort0 else oShort1
  if m.rbit off (mst % 32) then m
  else
    let m := (m.evb off (mst % 32)).raise 130 mst
    if mst < 32 then m.hevEvt (mst / 4) 1 else m

/-- A window begins: it uses the live floor, and the cut that this makes (R308, R309). -/
def windowBegin (L : Image) (m : Mach) : Mach :=
  let cut := cutOf L m.bwg.live
  let was := m.bwg.cut.isSome
  let m : Mach := { m with bwg := { m.bwg with charged := [], held := [], cycles := 0, short := false, floorOld := none, cut } }
  if cut.isSome && !was then (m.evb oBwgEvt 0).raise 128 ((cut.map (·.1)).getD 0)
  else if !cut.isSome && was then (m.evb oBwgEvt 1).raise 129 0
  else m

/-- WINDOW_BOUNDARY (R299, R308-R311). -/
def windowBoundary (L : Image) (m : Mach) : Mach :=
  let m := if m.bwg.short then m
    else
      let m := (List.range 38).foldl (fun m k => if fellShort L m.bwg k then m.shortfall k else m) m
      { m with bwg := { m.bwg with use := (List.range 38).foldl (fun t k => t.set 0 k (m.bwg.charged.get 0 k / 64)) [] } }
  windowBegin L m

/-! ### The pick (R300-R303) -/

/-- A request goes into a queue in the order of the requests' numbers. -/
def putOrdered (r : Req) : List Req → List Req
  | [] => [r]
  | a :: t => if r.id < a.id then r :: a :: t else a :: putOrdered r t

/-- What waits for the regulator as a master (R297), oldest first: a head's class queue, and what the internal sources' queues hold for it.
A head that is in Recovery has its requests held (R54). -/
def Mach.mQueue (m : Mach) (mst : Nat) : List Req :=
  let h := m.head (mst / 4)
  let host := if 32 ≤ mst ∨ h.st = .recovery then [] else if mst % 4 = 0 then h.qRt else if mst % 4 = 1 then h.qTable
    else if mst % 4 = 2 then h.qBulk else []
  (m.home.intq.filter (fun r => r.mst == mst)).foldl (fun l r => putOrdered r l) host

/-- Masters with a request waiting. -/
def Mach.waitingMasters (m : Mach) : List Nat := (List.range 38).filter (fun k => !(m.mQueue k).isEmpty)

/-- A request at its slice holds a tracker: every one but an engine's read (R132, R221), a decoded line on its way to the line cache (R132),
and the regulator's leave for work past the home. -/
def Req.tracker (r : Req) : Bool :=
  match r.kind with
  | .agRead => r.src != 8
  | .install .. | .grant _ => false
  | _ => true

/-- Trackers in use (R132). -/
def Mach.trackers (m : Mach) : List Req := m.home.trk.filter Req.tracker

/-- Trackers of a slice. -/
def Mach.sliceTrk (m : Mach) (s : Nat) : List Req := m.trackers.filter (fun r => sliceOf r.line == s)

/-- A tracker of its slice is free for a request (R133); those admitted and not yet in the slice have theirs. -/
def Mach.trackerFor (m : Mach) (r : Req) : Bool :=
  let t := m.sliceTrk (sliceOf r.line) ++ m.home.fab.filter (fun x => x.tracker && sliceOf x.line == sliceOf r.line)
  let rsv := m.rfld oTrkCfg 9 0
  let imax := m.rfld oTrkCfg 26 16
  !r.tracker || decide (t.length < 1024) && (r.cls == .rt || decide ((t.filter (fun x => x.cls != .rt)).length < 1024 - rsv))
    && (decide (r.src < 8) || decide ((t.filter (fun x => decide (8 ≤ x.src))).length < imax))

/-- Step 3 admits nothing while the charged bytes and the reserve reach the floor (R301). -/
def step3Open (L : Image) (m : Mach) : Bool :=
  let w := m.waitingMasters
  let reserve := (w.map (fun k => winBytes L (honoured L m k) - m.bwg.charged.get 0 k)).sum
  let total := (m.bwg.charged.map (fun (p : Nat × Nat) => p.2)).sum
  let f := (m.bwg.floorOld.getD m.bwg.live) * 25 * winOf L
  reserve == 0 || decide (total + reserve < f)

/-- The masters' lowest ratio of charged count to guarantee; a tie goes to the lower index. -/
def lowestRatio (L : Image) (m : Mach) (ks : List Nat) : Option Nat :=
  ks.foldl (fun acc k => match acc with
    | none => some k
    | some b =>
      let gk := winBytes L (honoured L m k)
      let gb := winBytes L (honoured L m b)
      if m.bwg.charged.get 0 k * gb < m.bwg.charged.get 0 b * gk then some k else some b) none

/-- Smooth weighted round robin over masters of positive weight: the pick and the next credits. -/
def swrr (L : Image) (wrr : Tbl Int) (ks : List Nat) : Option (Nat × Tbl Int) :=
  let w := ks.foldl (fun t k => t.set 0 k (t.get 0 k + Int.ofNat (weightOf L k))) wrr
  let total : Int := Int.ofNat ((ks.map (weightOf L)).sum)
  match ks.foldl (fun (acc : Option Nat) k => match acc with
      | none => some k
      | some b => if w.get 0 b < w.get 0 k then some k else some b) none with
  | some k => some (k, w.set 0 k (w.get 0 k - total))
  | none => none

/-- The next master whose oldest request enters, among those not passed over in this cycle. A master of WEIGHT 0 is served at step 3 when
none of a higher WEIGHT has a request waiting. -/
def pickMaster (L : Image) (m : Mach) (passed : List Nat) : Option (Nat × Bwg) :=
  let w := m.waitingMasters.filter (fun k => !passed.contains k)
  match w.find? (fun k => decide (k < 32) && k % 4 == 0 && !beyondCut L m k && decide (m.bwg.charged.get 0 k < winBytes L (capOf L (k / 4)))) with
  | some k => some (k, m.bwg)
  | none =>
    match lowestRatio L m (w.filter (fun k => decide (m.bwg.charged.get 0 k < winBytes L (honoured L m k)))) with
    | some k => some (k, m.bwg)
    | none =>
      if !step3Open L m then none
      else match swrr L m.bwg.wrr (w.filter (fun k => decide (1 ≤ weightOf L k))) with
        | some (k, t) => some (k, { m.bwg with wrr := t })
        | none =>
          if m.waitingMasters.any (fun k => decide (1 ≤ weightOf L k)) then none
          else match (w.find? (fun k => decide (m.bwg.rr0 < k))).or w.head? with
            | some k => some (k, { m.bwg with rr0 := k })
            | none => none

end Sys2Proof.Machine
end

