-- ==== Sys2Proof/Machine/Mirror.lean ====
section
/-! DEFINITION. What the yoke sends and keeps (R348-R372): flits and their credits, records, the sync map, the mirror states. -/

namespace Sys2Proof.Machine

/-! ### Flits (R350-R353) -/

/-- Parity of a byte. -/
def parity (b : Byte) : Bool := (List.range 8).foldl (fun p i => p != b.getLsbD i) false

/-- The lane that byte `b` of a flit travels on. -/
def laneOf (y : Yoke) (b : Nat) : Nat := if y.width = 8 then b % 8 + (if y.half then 8 else 0) else b % 16

/-- The parity that bytes of a flit, from byte `at'` on, give to the lanes. -/
def laneBits (y : Yoke) (at' : Nat) (l : List Byte) : BitVec 16 :=
  (l.zipIdx at').foldl (fun v p => if parity p.1 then v ^^^ (1#16 <<< laneOf y p.2) else v) 0#16

/-- LPAR of a flit (R352). -/
def lpar (y : Yoke) (f : BitVec 2048) : BitVec 16 :=
  laneBits y 0 (bytesOf f 250) ^^^ laneBits y 252 (bytesOf (f >>> 2016) 4)

/-- CRC of a flit. -/
def flitCrc (f : BitVec 2048) : Word := Codec.crc32 0#32 (bytesOf f 252)

/-- A flit of 250 bytes, with LPAR and CRC. LPAR covers the bytes of the CRC, and the CRC covers LPAR (R352): of the four bits of LPAR whose lanes
carry the CRC, the one value that fits is taken. -/
def flitSeal (y : Yoke) (l : List Byte) : BitVec 2048 :=
  let l := l.take 250 ++ List.replicate (250 - l.length) 0#8
  let own := laneBits y 0 l
  let c := Codec.crc32 0#32 l
  let lparOf := fun (x : Nat) => own ^^^ (BitVec.ofNat 16 x <<< (if y.width = 8 ∧ !y.half then 4 else 12))
  let crcOf := fun (x : Nat) => bytesOf (Codec.crc32 c (bytesOf (lparOf x) 2)) 4
  let x := ((List.range 16).find? (fun x => lparOf x == own ^^^ laneBits y 252 (crcOf x))).getD 0
  ofBytes 2048 (l ++ bytesOf (lparOf x) 2 ++ crcOf x)

/-- The header of a flit that this part sends (R351): ACK covers every flit received good, FATAL_A tells of the safe state (R377). `nak` asks
for a flit, `cr` returns credits of a VC. -/
def Yoke.header (y : Yoke) (vc seq : Nat) (idle replay : Bool) (nak : Option Nat) (cr : Nat × Nat) : BitVec 64 :=
  BitVec.ofNat 64 (vc % 4 + idle.toNat * 2 ^ 2 + replay.toNat * 2 ^ 3 + seq % 4096 * 2 ^ 4 + (y.expect + 4095) % 4096 * 2 ^ 16
    + nak.isSome.toNat * 2 ^ 28 + nak.getD 0 % 4096 * 2 ^ 29 + cr.1 % 4 * 2 ^ 41 + cr.2 % 256 * 2 ^ 43 + y.fatalA.toNat * 2 ^ 51)

/-- The bit positions of the arguments of a VC2 message (R355). -/
def vc2At (ty : Nat) : List Nat :=
  if ty = 1 then [64, 96] else if ty = 2 then [64, 128, 192, 193, 224, 256] else if ty = 3 ∨ ty = 5 then [64, 256] else [64]

/-- The payload that carries a message or a record (R354, R355). -/
def Out.payload : Out → List Byte
  | .yokeRec _ h d => bytesOf h 8 ++ (d.map (fun x => bytesOf x 64)).getD []
  | .yokeMsg vc ty args =>
    if vc = 1 then bytesOfNat (ty + args.headD 0 % 2 ^ 32 * 2 ^ 8) 8
    else bytesOfNat (ty + ((vc2At ty).zipWith (fun p a => a * 2 ^ p) args).sum) 64
  | _ => []

/-- Send an IDLE flit at once (R351): it carries no payload, takes no credit and is not kept. -/
def Mach.ykIdle (m : Mach) (nak : Option Nat) (cr : Nat × Nat) : Mach :=
  let y := m.yoke
  m.send (.yokeFlit (flitSeal y (bytesOf (y.header 0 y.seqTx true false nak cr) 8)))

/-! ### Credits and the order of flits (R356, R357) -/

/-- Credits of a VC at link-up (R356). -/
def vcRoom (vc : Nat) : Nat := if vc = 0 then 256 else if vc = 3 then 192 else 32

/-- The link carries flits. -/
def Yoke.up (y : Yoke) : Bool := y.link == .up || y.link == .retrain

/-- Send the flit of one record or message now: it takes a credit and a place in the replay buffer. One record or message makes one flit here (how
many share a flit is timing, log entry 3); what it carries is shown ahead of it. -/
def Mach.ykSend (m : Mach) (vc : Nat) (o : Out) : Mach :=
  let y := m.yoke
  let f := flitSeal y (bytesOf (y.header vc y.seqTx false false none (0, 0)) 8 ++ o.payload)
  let m : Mach := { m with yoke := { y with credits := y.credits.set 0 vc (y.credits.get 0 vc - 1),
                                            replayBuf := y.replayBuf ++ [(y.seqTx, vc, f)], seqTx := (y.seqTx + 1) % 4096,
                                            turn3 := if vc = 0 then true else if vc = 3 then false else y.turn3 } }
  (((m.send o).send (.yokeFlit f)).bump (oYkCnt 0)).pmuEvent 0x601 0 1

/-- Send the flit of one record or message, or let it wait for a credit and for replay room. -/
def Mach.ykFlit (m : Mach) (vc : Nat) (o : Out) : Mach :=
  let y := m.yoke
  if !y.up then m
  else if y.link = .up ∧ 0 < y.credits.get 0 vc ∧ y.replayBuf.length < 512 ∧ !y.txWait.any (fun p => p.1 == vc) then m.ykSend vc o
  else { m with yoke := { y with txWait := y.txWait ++ [(vc, o)] } }

/-- The order in which waiting flits are sent: VC2, VC1, then VC0 and VC3 in turn (R356). -/
def Yoke.nextTx (y : Yoke) : Option (Nat × Out) :=
  ([2, 1] ++ (if y.turn3 then [3, 0] else [0, 3])).findSome?
    (fun vc => if 0 < y.credits.get 0 vc then y.txWait.find? (fun p => p.1 == vc) else none)

/-- Send waiting flits while credits and replay room last. -/
def Mach.ykDrain : Nat → Mach → Mach
  | 0, m => m
  | n + 1, m =>
    let y := m.yoke
    if y.link ≠ .up ∨ 512 ≤ y.replayBuf.length then m
    else match y.nextTx with
      | none => m
      | some (vc, o) => Mach.ykDrain n ({ m with yoke := { y with txWait := y.txWait.erase (vc, o) } }.ykSend vc o)

/-- Send a flit of the replay buffer again (R357): the flit named, with REPLAY = 1 and what its header says of this part as it stands now. -/
def Mach.ykResend (m : Mach) (vc seq : Nat) (f : BitVec 2048) : Mach :=
  m.send (.yokeFlit (flitSeal m.yoke (bytesOf (m.yoke.header vc seq false true none (0, 0)) 8 ++ (bytesOf f 250).drop 8)))

/-- Send a message of VC1 or VC2. -/
def Mach.ykMsg (m : Mach) (vc ty : Nat) (args : List Nat) : Mach := m.ykFlit vc (.yokeMsg vc ty args)

/-! ### The sync map (R366) -/

/-- The unit of a line: DPA[44:21]. -/
def unitOf (line : Nat) : Nat := line / 32768

/-- Insert into a rising list without repeats. -/
def insNat (x : Nat) : List Nat → List Nat
  | [] => [x]
  | a :: t => if x = a then a :: t else if x < a then x :: a :: t else a :: insNat x t

/-- Mark a unit. -/
def Mach.markUnit (m : Mach) (u : Nat) : Mach := { m with yoke := { m.yoke with map := insNat u m.yoke.map } }

/-- Units of an extent. -/
def extentUnits (e : Nat) : List Nat := (List.range 128).map (128 * e + ·)

/-- MIRROR of the extents of an image: the extents whose attribute entries are listed with MIRROR = 1. -/
def mirroredExtents (I : Image) : List Nat := (I.ext.filter (fun p => eMirror p.2)).map (·.1)

/-- Mark every unit of every live mirrored extent. -/
def markAll (L : Image) (m : Mach) : Mach := ((mirroredExtents L).flatMap extentUnits).foldl Mach.markUnit m

/-! ### Records (R354, R361, R364, R372) -/

/-- A record's header. -/
def recHdr (kind line head cls : Nat) (p : Bool) (mv : BitVec 2) : BitVec 64 :=
  BitVec.ofNat 64 (kind % 8 + line % 2 ^ 39 * 2 ^ 3 + head % 8 * 2 ^ 42 + cls % 4 * 2 ^ 45 + p.toNat * 2 ^ 47 + mv.toNat * 2 ^ 48)

/-- Send a record on VC0 or VC3: its number, kept until it is acknowledged. -/
def Mach.sendRec (m : Mach) (vc kind line head cls : Nat) (p : Bool) (mv : BitVec 2) (data : Option Line) : Nat × Mach :=
  let y := m.yoke
  let n := if vc = 0 then y.txRec0 else y.txRec3
  let ent := (n, unitOf line, m.core)
  let y := if vc = 0 then { y with txRec0 := (n + 1) % 2 ^ 32, recs0 := y.recs0 ++ [ent] }
    else { y with txRec3 := (n + 1) % 2 ^ 32, recs3 := y.recs3 ++ [ent] }
  let m := ({ m with yoke := y }).bump (oYkCnt 3)
  (n, m.ykFlit vc (.yokeRec vc (recHdr kind line head cls p mv) data))

/-- A mirrored change of this part: its record as the mirror state and the unit have it, or the unit marked (R368, R372). Answers
the VC and number of the record sent. -/
def mirrorChange (L : Image) (m : Mach) (kind line head cls : Nat) (p : Bool) (mv : BitVec 2) (data : Option Line) :
    Option (Nat × Nat) × Mach :=
  if !eMirror (L.extent (line / 64 / 65536)) then (none, m)
  else
    let u := unitOf line
    let go := fun (vc : Nat) => let r := m.sendRec vc kind line head cls p mv data; (some (vc, r.1), r.2)
    match m.yoke.st with
    | .mirrored => go 0
    | .resyncSrc => if m.yoke.map.contains u then (none, m) else if m.yoke.copying.contains u then go 3 else go 0
    | _ => (none, m.markUnit u)

/-- SYNC mode (R364). -/
def syncMode (L : Image) : Bool := !(L.reg oMirCfg).getLsbD 0

/-- An ASYNC mirrored write must wait before it is installed (R364). -/
def mirrorLag (L : Image) (m : Mach) (line : Nat) : Bool :=
  let y := m.yoke
  let sends := eMirror (L.extent (line / 64 / 65536)) &&
    (y.st == .mirrored || (y.st == .resyncSrc && !y.map.contains (unitOf line)))
  let un := y.recs0 ++ y.recs3
  sends && !syncMode L && (decide (fld (L.reg oMirCfg) 15 2 ≤ un.length + 1)
    || un.any (fun r => decide (fld (L.reg oMirCfg) 25 16 * 1600 < m.core - r.2.2)))

/-! ### Mirror states (R368) -/

/-- The code of a state. -/
def Mirror.code : Mirror → Nat
  | .degraded => 0 | .pairing => 1 | .split => 2 | .resyncSrc => 3 | .resyncTgt => 4 | .mirrored => 5

/-- Enter a mirror state with a cause: its events and records. The entry into DEGRADED from MIRRORED or a resync is class B, that of
RESYNC_TGT into SPLIT with BOTH_WROTE also; every other change is class D. -/
def mirrorTo (L : Image) (m : Mach) (st : Mirror) (cause : Nat) : Mach :=
  let old := m.yoke.st
  let m : Mach := { m with yoke := { m.yoke with st, cause } }
  let m := if old = st then m
    else match st with
      | .degraded =>
        let m := m.evb oYkEvt 2
        if old = .mirrored ∨ old = .resyncSrc ∨ old = .resyncTgt then m.raiseD 138 0 cause else m.raiseD 139 0 (st.code)
      | .mirrored => (m.evb oYkEvt 3).raiseD 139 0 st.code
      | .split =>
        let m := m.evb oYkEvt 4
        if cause = 4 ∧ old = .resyncTgt then m.raise 140 0 else m.raiseD 139 0 st.code
      | _ => m.raiseD 139 0 st.code
  floorUpdate L m

end Sys2Proof.Machine
end

