-- ==== Sys2Proof/Machine/Home.lean ====
section
/-! DEFINITION. The home (R101-R134): line cache, snoop filter, snoops, and the course of a tracked request, of a head or of one of the
part's own agents. -/

namespace Sys2Proof.Machine

/-! ### The line cache (R107-R110) -/

/-- A line's way. -/
def Mach.lcGet (m : Mach) (line : Nat) : Option CLine := Tbl.find? m.home.lc line

/-- Put a way in place, as the most recently used. -/
def Mach.lcPut (m : Mach) (line : Nat) (c : CLine) : Mach :=
  { m with home := { m.home with lc := Tbl.insert m.home.lc line { c with use := m.home.clock + 1 }, clock := m.home.clock + 1 } }

/-- Remove a way. -/
def Mach.lcDrop (m : Mach) (line : Nat) : Mach := { m with home := { m.home with lc := Tbl.erase m.home.lc line } }

/-- The ways in use of a line's set. -/
def Mach.lcWays (m : Mach) (line : Nat) : List (Nat × CLine) :=
  m.home.lc.filter (fun (p : Nat × CLine) => sliceOf p.1 == sliceOf line && lcSet p.1 == lcSet line)

/-- A request that stands on its line: it has not been answered (R104). -/
def Req.stands (r : Req) : Bool :=
  match r.phase with
  | .ackWait .. | .fill => false
  | _ => true

/-- A tracker works on a line. -/
def Mach.tracked (m : Mach) (line : Nat) : Bool := m.home.trk.any (fun r => r.line == line && r.stands)

/-- The least recently used of some ways. -/
def lruWay (l : List (Nat × CLine)) : Option (Nat × CLine) :=
  l.foldl (fun acc p => match acc with
    | none => some p
    | some q => if p.2.use < q.2.use then some p else some q) none

/-- The frame of a line of a flat extent (R89). -/
def flatFrame (L : Image) (page : Nat) : Nat := eFlatSlot (L.extent (page / 65536)) * 65536 + page % 65536

/-- The line is in the hold queue (R154). -/
def Mach.heldLine (m : Mach) (line : Nat) : Option CLine := (m.led.held.find? (fun p => p.1 == line)).map (·.2)

/-- The line is poisoned though nothing holds its P (R124). -/
def Mach.poisonDue (m : Mach) (line : Nat) : Bool := m.home.poisons.contains line

/-- The tag that the messages of a request carry (R18). -/
def Req.tagged (r : Req) : Tag :=
  { head := r.head, part := r.part, cls := r.cls, urg := r.urg, panic := r.panic, trk := if r.tracker then some r.trk else none,
    poison := r.poison }

/-- Send a line to a frame's write queue: through the cipher, the rind and the code (R30), with the tag of what sends it away (R18). True when
it entered the queue. -/
def sendLine (L : Image) (m : Mach) (f line : Nat) (c : CLine) (tag : Tag) : Bool × Mach :=
  let x := encFor L m (line / 64 / 65536) (tweakLine line) c.data
  m.sendWrite { id := 0, frame := f, ln := line % 64, tag := { tag with poison := c.p }, purpose := .wback line, cw := m.formCw f (line % 64) x.1 true c.p c.mv x.2 false }

/-- A write-back has left the line cache: DIC follows, and CS and CULTURE with a write through (R145, R149, R151). -/
def Mach.wroteBack (m : Mach) (line : Nat) : Mach :=
  let page := line / 64
  let m := match m.ent? page with
    | some e => if e.cs && (e.st == 1 || e.st == 4) then (m.putEnt page { e with cs := false, cult := 0 } true).through page else m
    | none => m
  m.noteClean page

/-- A write-back that waited ahead of its queue has entered it: its way is free (R30). -/
def Mach.entered (m : Mach) (q : QEnt) : Mach :=
  match q.purpose with
  | .wback line => if (m.lcGet line).any (·.lock) then (m.lcDrop line).wroteBack line else m
  | _ => m

/-- Write back a dirty line that leaves its way (R30, R154): none when it cannot leave now. -/
def writeBack (L : Image) (m : Mach) (line : Nat) (tag : Tag) : Option Mach :=
  match m.lcGet line with
  | none => none
  | some c =>
    if !c.dirty || c.lock then none
    else
      let page := line / 64
      let send := fun (f : Nat) =>
        let r := sendLine L m f line c tag
        if r.1 then some ((r.2.lcDrop line).wroteBack line)
        else some (r.2.lcPut line { c with lock := true })
      if flatPage L page then send (flatFrame L page)
      else match m.ent? page with
        | none => none
        | some e =>
          if e.st = 1 ∨ e.st = 4 then send e.ma
          else if e.st = 5 then some (m.lcDrop line)
          else if e.st = 0 then
            if m.led.held.length < 4096 then
              some (({ m with led := { m.led with held := m.led.held ++ [(line, c)] } }).lcDrop line)
            else none
          else none

/-- Other installs that wait for a way of a line's set (R109). -/
def Mach.setWaits (m : Mach) (line : Nat) : Nat :=
  let here := fun (x : Nat) => x != line && sliceOf x == sliceOf line && lcSet x == lcSet line
  (m.home.trk.filter (fun r => r.phase == .stall && here r.line)).length + (m.home.fills.filter (fun f => here f.line)).length

/-- The dirty victim of a set leaves (R109) for an install with a master and a tag: its page's entry is fetched where it must be had first
(R30), and each install that waits has one write-back on its way. True when its way is free. -/
def evictDirty (L : Image) (m : Mach) (mst : Nat) (tag : Tag) (line : Nat) (ways : List (Nat × CLine)) : Bool × Mach :=
  if m.setWaits line < (ways.filter (fun p => p.2.lock)).length then (false, m)
  else
    let page := fun (p : Nat × CLine) => p.1 / 64
    let ok := fun (p : Nat × CLine) => p.2.dirty && !p.2.lock && !m.tracked p.1 && (flatPage L (page p) || (match m.ent? (page p) with
      | some e => e.st != 2 && e.st != 3
      | none => true))
    match lruWay (ways.filter ok) with
    | none => (false, m)
    | some v =>
      if !flatPage L (page v) && (m.ent? (page v)).isNone then (false, m.fetchLine (page v / 4) mst tag)
      else match writeBack L m v.1 tag with
        | some m => ((m.lcGet v.1).isNone, m)
        | none => (false, m)

/-- A way of a line's set is free after this (R109): an invalid one, else the least recently used clean one, else a dirty one. -/
def makeWay (L : Image) (m : Mach) (mst : Nat) (tag : Tag) (line : Nat) : Bool × Mach :=
  let ways := m.lcWays line
  if ways.length < 12 then (true, m)
  else match lruWay (ways.filter (fun p => !p.2.lock && !p.2.dirty && !m.tracked p.1)) with
    | some v => (true, m.lcDrop v.1)
    | none => evictDirty L m mst tag line ways

/-- A line is written anew: no older copy of it waits for a frame or for a way, and no poison of it is owed. -/
def Mach.supersede (m : Mach) (line : Nat) : Mach :=
  { m with led := { m.led with held := m.led.held.filter (fun p => p.1 != line) },
           home := { m.home with fills := m.home.fills.filter (fun f => f.line != line), poisons := m.home.poisons.filter (· != line) } }

/-- Install a line (R108) for a request's master and tag: over its own way, or in a way of its set. False when no way can be chosen yet. -/
def install (L : Image) (m : Mach) (mst : Nat) (tag : Tag) (line : Nat) (c : CLine) : Bool × Mach :=
  let r := if (m.lcGet line).isSome then (true, m) else makeWay L m mst tag line
  if r.1 then (true, (if c.dirty then r.2.supersede line else r.2).lcPut line c) else r

/-- Install dirty with W = 1, and the ledger's update (R27, R29). -/
def installDirty (L : Image) (m : Mach) (mst : Nat) (tag : Tag) (line : Nat) (data : Line) (p : Bool) (mv : BitVec 2) : Bool × Mach :=
  let r := install L m mst tag line { data, p, mv, dirty := true }
  if r.1 then (true, noteDirty L r.2 mst tag (line / 64)) else r

/-- Install clean where the line is absent. False when no way can be chosen yet. -/
def installClean (L : Image) (m : Mach) (f : Fill) : Bool × Mach :=
  if (m.lcGet f.line).isSome || (m.heldLine f.line).isSome then (true, m)
  else install L m f.mst f.tag f.line { data := f.data, p := f.p, mv := f.mv, asRead := f.asRead }

/-- A set stall (R109). -/
def Mach.setStall (m : Mach) (line : Nat) : Mach := (m.bump oSetStall).pmuEvent 0x103 (sliceOf line) 1

/-- Install clean, at once or as soon as a way is free (R23, R109). -/
def fillLine (L : Image) (m : Mach) (f : Fill) : Mach :=
  let r := installClean L m f
  if r.1 || m.home.fills.any (fun x => x.line == f.line) then r.2
  else Mach.setStall { r.2 with home := { r.2.home with fills := r.2.home.fills ++ [f] } } f.line

/-- Install what waits for a way, where one is free now. -/
def retryFills (L : Image) (m : Mach) : Mach :=
  m.home.fills.foldl (fun m f =>
    let r := installClean L m f
    if r.1 then { r.2 with home := { r.2.home with fills := r.2.home.fills.filter (fun x => x.line != f.line) } } else r.2) m

/-- An SRAM error that an access finds in a line's way (R110): corrected; a clean way dropped, so that the line is fetched again; a dirty
line kept and poisoned, so that a write-back of it that waits is not its last. -/
def lcError (L : Image) (m : Mach) (h line : Nat) (err : SramErr) : Mach :=
  let s := sliceOf line
  match m.lcGet line, err with
  | some _, .lcCorr => m.raiseSram 18 s line
  | some c, .lcUncorr =>
    if c.dirty then
      (mirrorChange L (((m.lcPut line { c with p := true, lock := false, asRead := false }).evb oHomEvt 4).raiseSram 20 s line) 2 line h 0 true 0#2 none).2
    else (m.lcDrop line).raiseSram 19 s line
  | _, _ => m

/-! ### The snoop filter (R111-R118) -/

/-- A line's filter entry. -/
def Mach.sfGet (m : Mach) (line : Nat) : Option SfEnt := Tbl.find? m.home.sf line

/-- Set a line's entry; one without presence is freed. Every change of an entry counts as a use of it (R117; DESIGN CHOICE, log entry
77: the specification does not say which events count). -/
def Mach.sfPut (m : Mach) (line : Nat) (e : SfEnt) : Mach :=
  if e.pres = 0#8 then { m with home := { m.home with sf := Tbl.erase m.home.sf line } }
  else { m with home := { m.home with sf := Tbl.insert m.home.sf line { e with use := m.home.clock + 1 }, clock := m.home.clock + 1 } }

/-- Heads of a presence mask. -/
def headsOf (b : BitVec 8) : List Nat := (List.range 8).filter b.getLsbD

/-- The mask of a head. -/
def headBit (h : Nat) : BitVec 8 := 1#8 <<< h

/-- A request uses a line's entry: it becomes the most recently used (R117). -/
def Mach.sfTouch (m : Mach) (line : Nat) : Mach :=
  match m.sfGet line with
  | some e => m.sfPut line e
  | none => m

/-- Clear a head's presence. -/
def Mach.sfClear (m : Mach) (h line : Nat) : Mach :=
  match m.sfGet line with
  | some e => m.sfPut line { e with pres := e.pres &&& ~~~ headBit h }
  | none => m

/-- A line is served as HDM-DB (R112). -/
def dbLine (L : Image) (m : Mach) (line : Nat) : Bool := eShared (L.extent (line / 64 / 65536)) || (m.sfGet line).isSome

/-- The heads present in a line's entry. -/
def Mach.present (m : Mach) (line : Nat) : List Nat := ((m.sfGet line).map (fun e => headsOf e.pres)).getD []

/-- A head is unresponsive (R124). -/
def Mach.unresp (m : Mach) (h : Nat) : Bool := (m.reg oUnresp).getLsbD h

/-- A head to which no snoop is sent: its snoops complete at once (R67, R125). -/
def Mach.gone (m : Mach) (h : Nat) : Bool := m.unresp h || (m.head h).walk

/-- A head for which the filter records presence: back-invalidation is enabled for it and it answers (R113, R125). -/
def Mach.caches (m : Mach) (h : Nat) : Bool := (m.head h).bi && !m.unresp h

/-- Snoops outstanding for a line. -/
def Mach.lineSnoops (m : Mach) (line : Nat) : List Snoop := m.home.snoops.filter (fun s => s.line == line)

/-- MetaValue codes of the line's MV bits (PRESUMED: I 0, A 2, S 3). -/
def mvCode : Meta → BitVec 2
  | .i => 0#2 | .a => 2#2 | .s => 3#2

/-- The MetaValue of MV bits. -/
def metaOf (b : BitVec 2) : Meta := if b = 2#2 then .a else if b = 3#2 then .s else .i

/-- Room for a snoop of a line to each head of a list: in the slice, in the part, and in the BI credits that a head grants (R116). -/
def Mach.snoopRoom (m : Mach) (line : Nat) (heads : List Nat) : Bool :=
  decide ((m.home.snoops.filter (fun s => sliceOf s.line == sliceOf line)).length + heads.length ≤ 256
    ∧ m.home.snoops.length + heads.length ≤ 4096)
    && heads.all (fun h => !(m.head h).bi || decide ((m.home.snoops.filter (fun s => s.head == h)).length < (m.head h).biCr))

/-- Send a snoop (R116, R123). -/
def Mach.snoop (m : Mach) (h line kind : Nat) : Mach :=
  let m : Mach := { m with home := { m.home with snoops := m.home.snoops ++
    [{ head := h, line, kind, timeout := m.rfld oSnpTo 19 0, held := (m.head h).st == .recovery }] } }
  (m.send (.snoop h line kind)).pmuEvent 0x104 (sliceOf line) 1

/-! ### Wedges and answers -/

/-- The master that pays for a wedge's media lines: churn-inline (R20), or yoke-resync for a resync read (R371). -/
def Req.wedgePayer (r : Req) : Nat := if r.src = 12 then mResync else mInline

/-- A line of a decoded wedge, with its poison: a wedge that failed gives all-ones data (R26, R324). -/
def wedgeLine (d : Option (List Byte)) (line : Nat) : Line × Bool :=
  match d with
  | some b => (ofBytes 512 ((b.drop (64 * (line % 8))).take 64), false)
  | none => (BitVec.allOnes 512, true)

/-- Kinds whose poisoned answer R324 gives its data: a poisoned line is not changed by them. -/
def ReqKind.reads : ReqKind → Bool
  | .read _ | .ioRead | .agRead | .atomic .. | .agClear _ => true
  | _ => false

/-- The data of a poisoned response: what is stored where the line's codeword itself said so (R318 row 3), all-ones otherwise (R324). -/
def answerData (k : ReqKind) (d : Line) (p asRead : Bool) : Line := if p && !asRead && k.reads then BitVec.allOnes 512 else d

/-! ### Poison and snoop ends (R122-R126) -/

/-- The master that a line's accesses by a head are charged to. -/
def lineMaster (L : Image) (h line : Nat) : Nat := headMaster h (clsOf (eCls (L.extent (line / 64 / 65536))))

/-- A line is poisoned from now on, whatever a read of it finds below (R124). -/
def Mach.poisonLater (m : Mach) (line : Nat) : Mach := { m with home := { m.home with poisons := insNat line m.home.poisons } }

/-- P := 1 on a line in its frame (R66, R124). -/
def poisonFrame (L : Image) (m : Mach) (line f : Nat) : Mach :=
  let (j, m) := readNow L m f (line % 64) false (flatPage L (line / 64)) 97 (some (line * 64)) []
  let x := if j.v = .zeros then (0#512, false) else (j.line, rX j.rind)
  m.writeNow f (line % 64) (m.formCw f (line % 64) x.1 true true (rMv j.rind) x.2 false)

/-- P := 1 on a line that has no media line of its own: it is poisoned from now on, and a write of no byte by the Drausk complex carries the
poison into the line cache in its turn (DEDUCED, log entry 16). -/
def poisonInstall (m : Mach) (line : Nat) : Mach :=
  let m := m.poisonLater line
  { m with home := { m.home with nextId := m.home.nextId + 1, intq := m.home.intq ++
    [{ id := m.home.nextId, src := 15, mst := mDesc, cls := .engine, line, kind := .agWrite 0#512 0#64 true 0#2 false, quiet := true }] } }

/-- P := 1 on a line, in the line cache or the hold queue, or in media when it is not cached (R66, R124). -/
def poisonHere (L : Image) (m : Mach) (h line : Nat) : Mach :=
  let page := line / 64
  match m.lcGet line, m.heldLine line with
  | some c, _ => noteDirty L (m.lcPut line { c with p := true, asRead := false, dirty := true, lock := false }) (lineMaster L h line) { head := h } page
  | none, some _ => { m with led := { m.led with held := m.led.held.map (fun q => if q.1 == line then (q.1, { q.2 with p := true, asRead := false }) else q) } }
  | none, none =>
    let m : Mach := { m with home := { m.home with fills := m.home.fills.map (fun f => if f.line == line then { f with p := true, asRead := false } else f) } }
    if flatPage L page then poisonFrame L m line (flatFrame L page)
    else match ledGet L m (lineMaster L h line) page with
      | (some e, m) =>
        if e.st = 1 ∨ e.st = 4 then
          let m := poisonFrame L m line e.ma
          match m.ent? page with
          | some e => m.putEnt page { e with pp := true } true
          | none => m
        else if e.st = 5 then m else poisonInstall m line
      | (none, m) => m.poisonLater line

/-- P := 1 on a line of a change of this part's own, mirrored as a POISON record (R361). -/
def poisonLine (L : Image) (m : Mach) (h line : Nat) : Mach :=
  poisonHere L (mirrorChange L m 2 line h 0 true 0#2 none).2 h line

/-- An eviction's snoops have all been answered: the entry is free (R117). -/
def Mach.snoopsDone (m : Mach) (line : Nat) : Mach :=
  if !(m.lineSnoops line).isEmpty then m
  else { m with home := { m.home with evicting := m.home.evicting.filter (· != line) } }

/-- A snoop's completion by an answer (R114). BIRspE to a BISnpData, which the table does not name, leaves A{h} as it is, and the request
then makes S{h, g} (DESIGN CHOICE, log entry 77). -/
def Mach.snoopAnswer (m : Mach) (h line : Nat) (rsp : SnpRsp) : Mach :=
  match m.home.snoops.find? (fun s => s.head == h && s.line == line) with
  | none => m
  | some s =>
    let m : Mach := { m with home := { m.home with snoops := m.home.snoops.erase s } }
    let m := if s.kind = 2 then m.sfClear h line
      else match rsp with
        | .i => m.sfClear h line
        | .s => match m.sfGet line with
          | some e => m.sfPut line { e with stA := false }
          | none => m
        | .e => m
    m.snoopsDone line

/-- A snoop to `h` on a line fails: by timeout, by R125, or by a drop. Held-modified data is poisoned, presence cleared, the snoop
completed. -/
def snoopFail (L : Image) (m : Mach) (h line : Nat) : Mach :=
  let heldA := (m.sfGet line).any (fun e => e.stA && e.pres.getLsbD h)
  let m := if heldA then poisonLine L m h line else m
  let m := m.sfClear h line
  let m : Mach := { m with home := { m.home with snoops := m.home.snoops.filter (fun s => !(s.head == h && s.line == line)) } }
  m.snoopsDone line

/-- A snoop to a head that gets none completes at once (R67, R125). One of an unresponsive head is counted as a timeout, and neither sets
SNP_TIMEOUT nor HOM_TO_LINE, nor is it logged: no timer ran out (DESIGN CHOICE, log entry 77). -/
def deadSnoop (L : Image) (m : Mach) (h line : Nat) : Mach :=
  let m' := snoopFail L m h line
  if m.unresp h then m'.bump oCntTo else m'

/-- Snoops of one kind to heads, those that get none completed at once: true when all have completed now; nothing is sent while there is no
room (R116, R122). -/
def snoopAll (L : Image) (m : Mach) (line : Nat) (need : List (Nat × Nat)) : Bool × Bool × Mach :=
  let live := need.filter (fun p => !m.gone p.1)
  let m := (need.filter (fun p => m.gone p.1)).foldl (fun m p => deadSnoop L m p.1 line) m
  if live.isEmpty then (true, false, m)
  else
    let new := live.filter (fun p => !(m.lineSnoops line).any (fun s => s.head == p.1))
    if m.snoopRoom line (new.map (·.1)) then (false, true, new.foldl (fun m p => m.snoop p.1 line p.2) m) else (false, false, m)

/-! ### Tally merges (R407, R412-R416) -/

/-- Add one lane to a 64-bit field: the value, and the number of saturating increments (R407). -/
def laneAdd (sat : Bool) (v : Nat) (incs : List Nat) : Nat × Nat :=
  incs.foldl (fun (acc : Nat × Nat) i =>
    if sat then (min (2 ^ 64 - 1) (acc.1 + i), if 2 ^ 64 - 1 ≤ acc.1 + i ∧ 0 < i then acc.2 + 1 else acc.2)
    else ((acc.1 + i) % 2 ^ 64, acc.2)) (v, 0)

/-- A line with a coalescer entry's sums added, and the saturating increments. -/
def mergeInto (c : Coal) (d : Line) : Line × Nat :=
  let r := (List.range 8).map (fun i =>
    let incs := if c.sat then (c.incs.filter (fun p => p.1 == i)).map (·.2) else [c.lanes.getD i 0]
    laneAdd c.sat (d.extractLsb' (64 * i) 64).toNat incs)
  (ofBytes 512 (r.flatMap (fun p => bytesOfNat p.1 8)), (r.map (·.2)).sum)

/-- Remove a coalescer entry. -/
def Mach.coalDrop (m : Mach) (line : Nat) : Mach := { m with tally := { m.tally with coal := Tbl.erase m.tally.coal line } }

/-- How a merge with the line's data in hand ends: done, or waiting for lag room or for a way. -/
inductive Merged where
  | done | lag | stall
  deriving DecidableEq, Repr

/-- Add a line's pending sums to its data, once no head is present (R414), for a request; `free` says that the data cost no DRAM read. What the
merge is charged is charged once, when it is made (R415). Its record carries the head and class of the request that caused it (R361). -/
def mergeWith (L : Image) (m : Mach) (q : Req) (d : Line) (p free : Bool) : Merged × Mach :=
  let line := q.line
  let paid := fun (m : Mach) (n : Nat) => if n = 0 then m else m.chargeNow mTally n
  match m.tally.coal.find? line with
  | none => (.done, m)
  | some c =>
    if mirrorLag L m line then (.lag, m)
    else if p then
      (.done, ((((paid m (!free).toNat).coalDrop line).evb oTlyEvt 2).bumpBy (oTlyCnt 3) c.recs).raiseA 160 c.part 1 (line * 64))
    else
      let r := mergeInto c d
      let i := installDirty L m mTally q.tagged line r.1 false 0#2
      if !i.1 then (.stall, i.2)
      else
        let m := ((paid i.2 (1 + (!free).toNat)).coalDrop line).bumpBy (oTlyCnt 2) r.2
        let m := if r.2 = 0 then m else m.evb oTlyEvt 1
        let m := (m.bump (oTlyCnt 1)).pmuEvent 0x702 0 1
        (.done, (mirrorChange L m 1 line q.head (clsNat q.cls) false 0#2 (some r.1)).2)

/-! ### Responses -/

/-- The lowest free tracker of a slice (R18, R132). The specification gives a slice 1,024 trackers and the numbers 0-16,383: that a request takes
the lowest free one, and that slice s has the numbers 1,024 s to 1,024 s + 1,023, is a DESIGN CHOICE (log entry 96). -/
def Mach.freeTracker (m : Mach) (s : Nat) : Nat :=
  let used := (m.sliceTrk s).map (·.trk)
  1024 * s + (((List.range 1024).find? (fun i => !used.contains (1024 * s + i))).getD 0)

/-- Change a tracked request. -/
def Mach.setReq (m : Mach) (r : Req) : Mach :=
  { m with home := { m.home with trk := m.home.trk.map (fun x => if x.id == r.id then r else x) } }

/-- A request leaves its tracker (R132). -/
def Mach.freeReq (m : Mach) (r : Req) : Mach := { m with home := { m.home with trk := m.home.trk.filter (fun x => x.id != r.id) } }

/-- A response is handed over: the sample's record and the partition's counts (R515, R518). -/
def Mach.noteEnd (m : Mach) (r : Req) (poison : Bool) : Mach :=
  let m := m.sampleDone { r with poison := r.poison || poison } (r.poison || poison)
  if r.src < 8 then
    let m := if r.tier = 3 ∨ r.tier = 4 then m.partCnt r.part 3 1 else if r.tier = 1 then m.partCnt r.part 4 1 else m
    let m := if poison then m.partCnt r.part 5 1 else m
    if r.kind.code = 0 then m.partCnt r.part 13 (m.core - r.t0) else m
  else m

/-- A tracked request ends (R132, R515): a filter way reserved for it is given up; one whose clean line still waits for a way keeps its tracker
until then (R109). -/
def Mach.endReq (m : Mach) (r : Req) (poison : Bool) : Mach :=
  let m : Mach := { m with home := { m.home with sfRsv := m.home.sfRsv.filter (fun x => x.2 != r.id) } }
  let m := if m.home.fills.any (fun f => f.line == r.line) then m.setReq { r with phase := .fill } else m.freeReq r
  m.noteEnd r poison

/-- What an agent's access answered is kept for it (R119, R120). -/
def Mach.agentDone (m : Mach) (r : Req) (data : Line) (p : Bool) (mv : BitVec 2) (ack : Option (Nat × Nat)) : Mach :=
  if r.quiet then m
  else { m with home := { m.home with done := m.home.done ++ [{ who := r.tag, seq := r.seq, line := r.line, kind := r.kind, data, p, mv, ack }] } }

/-- Count a request's charge of lines, made with its admission or now (R298, R518). -/
def Mach.countCharge (m : Mach) (r : Req) (n : Nat) : Mach :=
  let m := m.pmuEvent 0x501 r.mst n
  if r.mst < 32 then m.partCnt r.part (6 + r.mst % 4) n else m

/-- A request whose charge waits for what the home finds: a host's, and a resync's read, whose DRAM traffic alone is charged (R298, R371). -/
def Req.settled (r : Req) : Bool := decide (r.src < 8) || (r.src == 12 && r.kind == .agRead && r.mst == mResync)

/-- The charge of such a request: that of a read is refunded when no line of media was read for it; every other is counted (R298). -/
def Mach.settleCharge (m : Mach) (r : Req) (free : Bool) : Mach :=
  let read := match r.kind with
    | .read _ | .ioRead | .agRead => true
    | _ => false
  if !r.settled ∨ r.merging then m else if free && read then m.refund r.mst 1 else m.countCharge r 1

/-- A line read for resync leaves as a RESYNC_LINE record, in the place that its slice gives it among the changes of the line (R362, R371). -/
def Mach.copyLine (m : Mach) (line : Nat) (d : Line) (p : Bool) (mv : BitVec 2) : Mach :=
  if m.yoke.st = .resyncSrc ∧ m.yoke.copying.contains (unitOf line) then (m.sendRec 3 4 line 0 0 p mv (some d)).2 else m

/-- Deliver the data of a read (R114, R119). -/
def deliver (L : Image) (m : Mach) (r : Req) (d : Line) (p : Bool) (mv : BitVec 2) : Mach :=
  let db := dbLine L m r.line
  let (ans, m) : Option Meta × Mach := match r.kind with
    | .read want =>
      if db then
        if m.caches r.head then
          let e := (m.sfGet r.line).getD {}
          match want with
          | .val .a => (some .a, m.sfPut r.line { pres := headBit r.head, stA := true })
          | .val .s =>
            if e.stA && e.pres == headBit r.head then (some .a, m)
            else (some .s, m.sfPut r.line { pres := e.pres ||| headBit r.head, stA := false })
          | _ => (some .i, m)
        else (some .i, m)
      else match want with
        | .val _ => (some (metaOf mv), m)
        | .noOp => (none, m)
    | _ => (none, m)
  let m := match r.kind with
    | .agRead => if r.src = 12 then m.copyLine r.line d p mv else m.agentDone r d p mv none
    | .ioRead => if r.quiet then m else m.send (.ioCpl r.head r.tag d p false)
    | _ => if r.quiet then m else m.send (.memData r.head r.tag d p ans)
  m.endReq r p

/-- What a performed atomic returns, kept in its operand while its completion waits for the partner (R364). -/
def ReqKind.keepOld (k : ReqKind) (old : BitVec 512) : ReqKind :=
  match k with
  | .atomic a b => .atomic { a with op1 := old.setWidth 128 } b
  | k => k

/-- What a write's completion returns after its wait for the partner. -/
def ReqKind.oldVal : ReqKind → BitVec 512
  | .atomic a _ => a.op1.setWidth 512
  | _ => 0#512

/-- Complete a write (R27, R364). -/
def Mach.endWrite (m : Mach) (r : Req) (old : BitVec 512) (p : Bool) : Mach :=
  let m := if r.quiet then m else match r.kind with
    | .atomic .. => m.send (.ioCpl r.head r.tag old p false)
    | .write .. => m.send (.memCmp r.head r.tag false)
    | _ => m
  m.endReq r p

/-- The filter after a write (R114, last rows): the writer's own presence follows its MetaValue. -/
def Mach.sfWrite (m : Mach) (r : Req) : Mach :=
  match r.kind, m.sfGet r.line with
  | .write mt _ _, some e =>
    if r.src < 8 ∧ e.pres.getLsbD r.head then
      match mt with
      | .i => m.sfClear r.head r.line
      | .s => if e.stA && e.pres == headBit r.head then m.sfPut r.line { e with stA := false } else m
      | .a => m
    else m
  | _, _ => m

/-- A change that this part makes, and mirrors: all but what it takes over from its partner (R361). -/
def ReqKind.ours : ReqKind → Bool
  | .agWrite _ _ _ _ mirrors => mirrors
  | _ => true

/-- An install that waits for lag room (R364), or for a way, counted once (R109). -/
def Mach.holdWrite (m : Mach) (r : Req) (why : Merged) : Mach :=
  match why with
  | .done => m
  | .lag => (m.setReq { r with phase := .lag }).bump (oYkCnt 5)
  | .stall => if r.stalled then m.setReq { r with phase := .stall } else (m.setReq { r with phase := .stall, stalled := true }).setStall r.line

/-- Install a request's write and complete it, or leave it waiting for a way, for lag room or for the partner. `d` is the line,
`old` what the line held, for an atomic what it returns. -/
def finishWrite (L : Image) (m : Mach) (r : Req) (d : Line) (p : Bool) (mv : BitVec 2) (old : BitVec 512) (oldP : Bool) : Mach :=
  if r.kind.ours && mirrorLag L m r.line then m.holdWrite r .lag
  else
    let mv := if dbLine L m r.line then 0#2 else mv
    let i := installDirty L m r.mst r.tagged r.line d p mv
    if !i.1 then i.2.holdWrite r .stall
    else
      let m := i.2.sfWrite r
      let r := { r with tier := match r.kind with
        | .atomic .. => 7
        | _ => 6 }
      let (s, m) := if r.kind.ours then mirrorChange L m 1 r.line r.head (clsNat r.cls) p mv (some d) else (none, m)
      let m := match r.kind with
        | .agWrite .. | .agClear _ => m.agentDone r old oldP mv s
        | _ => m
      match s with
      | some (vc, n) =>
        if syncMode L then m.setReq { r with phase := .ackWait vc n, late := p, kind := r.kind.keepOld old } else m.endWrite r old p
      | none => m.endWrite r old p

/-! ### Atomics (R128-R130) -/

/-- The operand's value, the new value. -/
def atomicNew (a : Atomic) (v : Nat) : Nat :=
  let n := 2 ^ (8 * a.bytes)
  match a.kind with
  | .fetchAdd => (v + a.op1.toNat) % n
  | .swap => a.op1.toNat % n
  | .cas => if v = a.op1.toNat % n then a.op2.toNat % n else v

/-- The line after an atomic at a byte, and the original operand. -/
def atomicLine (a : Atomic) (byte : Nat) (d : Line) : Line × BitVec 512 :=
  let l := bytesOf d 64
  let v := natOfBytes ((l.drop byte).take a.bytes)
  (ofBytes 512 (l.take byte ++ bytesOfNat (atomicNew a v) a.bytes ++ l.drop (byte + a.bytes)), BitVec.ofNat 512 v)

/-- Merge bytes under byte enables. -/
def mergeBytes (be : BitVec 64) (new old : Line) : Line :=
  ofBytes 512 ((List.range 64).map (fun i => if be.getLsbD i then byteAt new i else byteAt old i))

/-- Every byte of the line is written. -/
def wholeLine (be : BitVec 64) : Bool := be == BitVec.allOnes 64

/-- What a request does with its line's data; a write that carries no MetaValue leaves MV = 0 (R315) (R114, R119, R120, R128, R130, R45, R387, R413); `free` says that the data cost no DRAM
read. -/
def withData (L : Image) (m : Mach) (r : Req) (d : Line) (p : Bool) (mv : BitVec 2) (free : Bool) : Mach :=
  if r.merging then
    let x := mergeWith L m r d p free
    match x.1 with
    | .done => x.2.setReq { r with merging := false, phase := .start }
    | why => x.2.holdWrite { r with merging := false } why
  else match r.kind with
  | .read _ | .ioRead | .agRead => deliver L m r d p mv
  | .write mt data poison => finishWrite L m r data poison (mvCode mt) d p
  | .ioWrite data be => finishWrite L m r (mergeBytes be data d) (p && !wholeLine be) 0#2 d p
  | .agWrite data be poison mv' _ => finishWrite L m r (mergeBytes be data d) (poison || (p && !wholeLine be)) (if wholeLine be then mv' else 0#2) d p
  | .agClear be => if p then (m.agentDone r d true mv none).endReq r true else finishWrite L m r (mergeBytes be 0#512 d) false 0#2 d false
  | .atomic a b =>
    if p then (if r.quiet then m else m.send (.ioCpl r.head r.tag (atomicLine a b d).2 true false)).endReq r true
    else let x := atomicLine a b d; finishWrite L m r x.1 false 0#2 x.2 false
  | .setPoison => finishWrite L m r d true 0#2 d p
  | .clean | .take | .merge | .install .. | .grant _ => m

/-- A request needs the line's present data. -/
def ReqKind.needsData : ReqKind → Bool
  | .write .. | .clean | .take | .merge | .install .. | .grant _ => false
  | .ioWrite _ be | .agWrite _ be _ _ _ => !wholeLine be
  | _ => true

/-- The request is a read that installs its line clean (R108). -/
def Mach.allocates (m : Mach) (r : Req) : Bool :=
  decide (r.src < 8) && (match r.kind with
    | .read _ => true
    | _ => false) && (match r.cls with
    | .rt => m.rbit oHomCtl 0
    | .table => m.rbit oHomCtl 1
    | .bulk => m.rbit oHomCtl 2
    | .engine => false)

/-- A line of a frame has been judged for a request (R318): charge, install, delivery. A line with W = 0 is not installed (R108), and a poisoned
one keeps its stored data only where row 3 decided (R324). -/
def judgedFor (L : Image) (m : Mach) (r : Req) (j : Judged) : Mach :=
  let d := j.stored
  let x := if j.v = .data ∨ j.v = .poisoned then decFor L m (r.line / 64 / 65536) (tweakLine r.line) (rX j.rind) d.1 else d.1
  let mv := if j.v = .data ∨ j.v = .poisoned then rMv j.rind else 0#2
  let p := d.2 || m.poisonDue r.line
  let asRead := j.v == .poisoned
  let zero := j.v = .zeros
  let m := m.settleCharge r (j.v = .zeros ∨ j.v = .flatUnwritten)
  let r := { r with tier := if zero then 1 else r.tier, poison := r.poison || p }
  let m := if zero ∨ j.v = .flatUnwritten then m else if m.allocates r && !r.merging then
      fillLine L m { line := r.line, data := x, p, mv, asRead, tag := r.tagged, mst := r.mst } else m
  withData L m r (answerData r.kind x p asRead) p mv (j.v = .zeros ∨ j.v = .flatUnwritten)

/-- Start the DRAM read of a request's line, with the request's tag (R18). -/
def readFrame (L : Image) (m : Mach) (r : Req) (f : Nat) : Mach :=
  let a := place m.pop.place f (r.line % 64)
  let r := { r with phase := .dram, chan := 2 * a.ch + a.sub, tier := 2 }
  let m := m.setReq r
  let (fate, m) := m.sendRead { id := 0, frame := f, ln := r.line % 64, tag := r.tagged, purpose := .host r.id }
  match fate with
  | .forwarded cw => judgedFor L m { r with tier := 5 } (judge m a false (flatPage L (r.line / 64)) (bytesOf cw 80))
  | _ => m

/-- Send a read that its unit takes later; one answered from the write queue waits with its answer (R271). -/
def sendAhead (L : Image) (m : Mach) (q : QEnt) (c : Bool) : Mach :=
  let k := m.subOf q.frame q.ln
  match m.sendRead q with
  | (.forwarded cw, m) =>
    let j := decipher L m q.purpose (judge m (m.qAddr q) c false (bytesOf cw 80))
    m.setSub k { m.sub k with flight := (m.sub k).flight ++ [{ q with cw, back := true, ans := some j }] }
  | (_, m) => m

/-- The home cluster of a decode that a request causes (R217). -/
def Req.decodeHome (r : Req) : Nat :=
  if r.src < 8 then (if r.head < 4 then r.head else 6 + r.head % 4) else r.cluster.getD (r.line / 64 % 12)

/-- Ask for the decode of a wedge: its lines are read with the tag of the request that causes it, and charged to churn-inline (R18, R20, R21,
R215). -/
def startDecode (L : Image) (m : Mach) (r : Req) (page : Nat) (e : LEnt) (w : Nat) : Mach :=
  let at' := e.wedgeAt w
  let m := m.chargeNow r.wedgePayer at'.2
  let m : Mach := { m with chn := { m.chn with decodes := m.chn.decodes ++
    [{ page, wedge := w, gen := e.gen, home := r.decodeHome, tag := r.tagged }] } }
  (List.range at'.2).foldl (fun m t =>
    let s := m.cellSpot e.ma (at'.1 + t)
    sendAhead L m { id := 0, frame := s.1, ln := s.2, tag := r.tagged, purpose := .inline page w (at'.1 + t) } true) m

/-- A decode of the wedge is in flight (R24). -/
def Mach.decoding (m : Mach) (page w : Nat) : Bool := m.chn.decodes.any (fun d => d.page == page && d.wedge == w)

/-- Serve a request from below the line cache (R21, R24, R25, R152): a frame, the cellar, zeros, or the ledger fetched first. -/
def below (L : Image) (m : Mach) (r : Req) : Mach :=
  let page := r.line / 64
  if flatPage L page then readFrame L m r (flatFrame L page)
  else match m.ent? page with
    | none =>
      let m := m.pmuEvent 0x202 0 1
      let j := page / 4
      (m.fetchLine j r.mst r.tagged).setReq { r with phase := .ledger j, lmiss := true }
    | some e =>
      let m := if r.lmiss then m else m.pmuEvent 0x201 0 1
      if e.st = 0 then
        let p := m.poisonDue r.line
        withData L (m.settleCharge r true) { r with tier := 1 } (answerData r.kind 0#512 p false) p 0#2 true
      else if e.st = 5 then
        withData L ((m.settleCharge r false).retiredAccess r.head page) { r with tier := 8, poison := true } (BitVec.allOnes 512) true 0#2 true
      else if e.k = 0 then readFrame L m r e.ma
      else
        let w := r.line % 64 / 8
        let m := m.settleCharge r true
        if m.decoding page w then m.setReq { r with phase := .decode page w, tier := 4 }
        else (startDecode L m r page e w).setReq { r with phase := .decode page w, tier := 3 }

/-- Serve a request whose turn has come and whose snoops have completed: from the line cache or from below. SRAM errors of the
access act here (R110). -/
def serve (L : Image) (m : Mach) (r : Req) : Mach :=
  let s := sliceOf r.line
  let m := lcError L m r.head r.line r.sram
  let r := { r with sram := .none }
  match r.kind with
  | .clean =>
    let m := if r.src < 8 then m.sfClear r.head r.line else m
    (if r.quiet then m else m.send (.memCmp r.head r.tag false)).endReq r false
  | .take => m.setReq { r with phase := .taken }
  | .merge => m.endReq r false
  | .install .. | .grant _ => m
  | _ =>
    if !r.kind.needsData then withData L (m.settleCharge r false) r 0#512 false 0#2 true
    else match m.lcGet r.line with
      | some c =>
        let m := (m.lcPut r.line c).pmuEvent 0x101 s 1
        let m := if r.src < 8 then m.partCnt r.part 2 1 else m
        withData L (m.settleCharge r true) { r with tier := 0 } (answerData r.kind c.data c.p c.asRead) c.p c.mv true
      | none => match m.heldLine r.line with
        | some c => withData L (m.settleCharge r true) { r with tier := 0 } (answerData r.kind c.data c.p c.asRead) c.p c.mv true
        | none => below L (if r.lmiss then m else m.pmuEvent 0x102 s 1) r

/-! ### A request's turn (R104, R114, R117) -/

/-- The snoops a request needs in the present state: heads and kind (R114, R119, R120). -/
def needSnoops (m : Mach) (r : Req) : List (Nat × Nat) :=
  match m.sfGet r.line with
  | none => []
  | some e =>
    let here := headsOf e.pres
    let own := decide (r.src < 8)
    let others := if own then here.filter (· != r.head) else here
    let modified := e.stA && !r.snooped
    let cur := if modified then others.map (fun h => (h, 0)) else []
    match r.kind with
    | .read (.val .a) => if m.caches r.head then others.map (fun h => (h, 2)) else cur
    | .read (.val .s) => if m.caches r.head then (if modified then others.map (fun h => (h, 1)) else []) else cur
    | .read _ => cur
    | .ioRead | .agRead => if modified then here.map (fun h => (h, 0)) else []
    | .write .. => others.map (fun h => (h, 2))
    | .ioWrite .. | .atomic .. | .setPoison | .agWrite .. | .agClear _ | .take => here.map (fun h => (h, 2))
    | .clean | .merge | .install .. | .grant _ => []

/-- A write or an eviction of a head to which a snoop of the line is outstanding goes ahead of the request that caused the snoop
(R122). -/
def bypasses (m : Mach) (r : Req) : Bool :=
  decide (r.src < 8) && (match r.kind with
    | .write .. | .clean => true
    | _ => false) && (m.lineSnoops r.line).any (fun s => s.head == r.head)

/-- The request is first in its line's order. -/
def firstInLine (m : Mach) (r : Req) : Bool :=
  !(m.home.trk.takeWhile (fun x => x.id != r.id)).any (fun x => x.line == r.line && x.stands)

/-- Two lines share a set of the filter. -/
def sameSfSet (a b : Nat) : Bool := sliceOf a == sliceOf b && sfSet a == sfSet b

/-- The ways of a line's filter set are all in use or reserved (R117). -/
def sfFull (m : Mach) (line : Nat) : Bool :=
  decide (16 ≤ (m.home.sf.filter (fun (p : Nat × SfEnt) => sameSfSet p.1 line)).length
    + ((m.home.sfRsv.map (·.1)).eraseDups.filter (fun x => sameSfSet x line && (m.sfGet x).isNone)).length)

/-- Start the eviction of a filter entry (R117): an S entry before an A entry, least recently used, none with a snoop. -/
def sfEvict (L : Image) (m : Mach) (line : Nat) : Mach :=
  let c := m.home.sf.filter (fun (p : Nat × SfEnt) => sameSfSet p.1 line && (m.lineSnoops p.1).isEmpty)
  let best := fun (l : List (Nat × SfEnt)) => l.foldl (fun (acc : Option (Nat × SfEnt)) p => match acc with
    | none => some p
    | some q => if p.2.use < q.2.use then some p else some q) none
  match (best (c.filter (fun p => !p.2.stA))).or (best c) with
  | none => m
  | some v =>
    let x := snoopAll L m v.1 ((headsOf v.2.pres).map (fun h => (h, 2)))
    let m := x.2.2
    if !x.1 && !x.2.1 then m
    else
      let m := (m.bump oSfEvict).pmuEvent 0x105 (sliceOf line) 1
      if x.1 then m else { m with home := { m.home with evicting := m.home.evicting ++ [v.1] } }

/-- A way of the filter for the entry of a request's line: its own, or a free one, reserved for the request until it ends, so that an eviction of
the entry meanwhile leaves room for it; else an eviction is started (R117). -/
def sfSpace (L : Image) (m : Mach) (r : Req) : Bool × Mach :=
  let kept := (r.line, r.id)
  if m.home.sfRsv.contains kept then (true, m)
  else if (m.sfGet r.line).isNone && !(m.home.sfRsv.any (fun x => x.1 == r.line)) && sfFull m r.line then
    (false, if m.home.evicting.any (fun x => sameSfSet x r.line) then m else sfEvict L m r.line)
  else (true, { m with home := { m.home with sfRsv := m.home.sfRsv ++ [kept] } })

/-- The heads that a failed filter entry is taken to name (R118). A head for which back-invalidation is not enabled is among them and gets
the BISnpInv, though R113 sends such a head no snoop (DESIGN CHOICE, log entry 77). -/
def sfErrHeads (m : Mach) : List Nat :=
  (List.range 8).filter (fun h => (m.head h).st == .ioOnly || (m.head h).st == .active || (m.head h).st == .recovery)

/-- A request meets a failed filter entry (R118): presence in state A of every linked head, all of which are invalidated. -/
def sfFailed (L : Image) (m : Mach) (r : Req) : Mach :=
  let hs := sfErrHeads m
  if !m.snoopRoom r.line (hs.filter (fun h => !m.gone h)) then m
  else
    let m := ((m.evb oHomEvt 3).raiseSram 17 (sliceOf r.line) r.line).sfPut r.line
      { pres := hs.foldl (fun b h => b ||| headBit h) 0#8, stA := true }
    (snoopAll L m r.line (hs.map (fun h => (h, 2)))).2.2.setReq { r with sram := .none, phase := .snooping }

/-- The read of a head is to be recorded in the filter (R113, R114). -/
def recordsRead (m : Mach) (r : Req) : Bool :=
  decide (r.src < 8) && m.caches r.head && (match r.kind with
    | .read (.val .a) | .read (.val .s) => true
    | _ => false)

/-- The pending sums of a line go into it before a request takes it (R413, R416): into the cached line, or into what is fetched. -/
def mergeFirst (L : Image) (m : Mach) (r : Req) : Mach :=
  match (m.lcGet r.line).or (m.heldLine r.line) with
  | some c => withData L m { r with merging := true } c.data c.p c.mv true
  | none => below L m { r with merging := true }

/-- A request's next action when its turn has come. -/
def turn (L : Image) (m : Mach) (r : Req) : Mach :=
  let own := decide (r.src < 8)
  let db := dbLine L m r.line
  if r.sram = .sfUncorr ∧ db then
    let x := sfSpace L m r
    if x.1 then sfFailed L x.2 r else x.2
  else
    let m := if db && own && !(m.head r.head).bi && !(m.head r.head).biLogged then
        ((m.setHead r.head { m.head r.head with biLogged := true }).evb oHomEvt 5).raise 21 r.head
      else m
    if db && own && m.unresp r.head && (match r.kind with
        | .write .. | .ioWrite .. | .atomic .. => true
        | _ => false) then
      -- a write of an unresponsive head is discarded (R125)
      let m := (m.evb oHomEvt 2).settleCharge r true
      let m := if r.quiet then m else match r.kind with
        | .write .. => m.send (.memCmp r.head r.tag true)
        | .atomic .. => m.send (.ioCpl r.head r.tag (BitVec.allOnes 512) true true)
        | _ => m
      m.endReq r false
    else if bypasses m r then serve L (m.sfTouch r.line) r
    else
      let merges := r.kind != .clean && (m.tally.coal.find? r.line).isSome
      let need := if merges then (m.present r.line).map (fun h => (h, 2)) else needSnoops m r
      let x := snoopAll L m r.line need
      let m := x.2.2
      if !x.1 then (if x.2.1 then m.setReq { r with phase := .snooping, snooped := true } else m)
      else if merges then mergeFirst L m r
      else if db && recordsRead m r then
        let x := sfSpace L m r
        if x.1 then serve L (x.2.sfTouch r.line) r else x.2
      else serve L (m.sfTouch r.line) r

/-- Whether a request may act now. -/
def canTurn (m : Mach) (r : Req) : Bool :=
  match r.phase with
  | .start | .snooping | .ledger _ =>
    (firstInLine m r || bypasses m r) && (bypasses m r || ((m.lineSnoops r.line).isEmpty && !m.home.evicting.contains r.line))
      && (match r.phase with
        | .ledger j => !m.led.fetching.contains j
        | _ => true)
  | _ => false

/-- Requests whose clean line has been installed, or is no longer to be, leave their trackers (R109). -/
def Mach.filled (m : Mach) : Mach :=
  { m with home := { m.home with trk := m.home.trk.filter (fun r => r.phase != .fill || m.home.fills.any (fun f => f.line == r.line)) } }

/-- Let each tracked request that can act do so once, oldest first. -/
def pumpPass (L : Image) (m : Mach) : Mach :=
  (m.home.trk.map (·.id)).foldl (fun m id => match m.home.trk.find? (fun r => r.id == id) with
    | some r => if canTurn m r then turn L m r else m
    | none => m) (retryFills L m).filled

/-- Let tracked requests act until none can (R104). `n` bounds the passes. -/
def pump (L : Image) : Nat → Mach → Mach
  | 0, m => m
  | n + 1, m => let m' := pumpPass L m; if m' = m then m else pump L n m'

/-- The bound of `pump`: each pass advances a request, and a request acts at most a few times. -/
def Mach.pumpAll (m : Mach) (L : Image) : Mach := pump L (6 * m.home.trk.length + 6) m

/-! ### Entry into a slice (R23, R132, R393) -/

/-- A partition may reach an extent by descriptors: its live map lists it, OWNED = 1, and a DC entry is not OFFERED or RELEASED
(R76, R87, R392); one of a partition that is not bound has no DC state. -/
def dpaOk (L : Image) (m : Mach) (p e : Nat) : Bool :=
  let x := L.extent e
  eOwned x && (List.range (L.pLen p)).any (fun i => L.mapEnt (L.pBase p + i) == e
    && (!eDc x || m.dc.get 0 (L.pBase p + i) == 2 || (!L.pBound p && m.dc.get 0 (L.pBase p + i) == 0)))

/-- The running descriptor that a request belongs to: by churns, tally unit or strainer (R105). -/
def Mach.jobOf (m : Mach) (r : Req) : Option Job :=
  if 8 ≤ r.src ∧ r.src ≤ 11 ∧ r.src ≠ 9 ∧ r.tag % 4 = 0 ∧ !r.quiet then m.dqu.jobs.find? (fun j => j.id == r.tag / 4) else none

/-- A line of a decoded wedge reaches the line cache (R23, R24): it is installed where it is absent, and the request that waits for it is
served with it. -/
def wedgeEnter (L : Image) (m : Mach) (r : Req) (data : Line) (poison asRead : Bool) : Mach :=
  let p := poison || m.poisonDue r.line
  let waits := m.home.trk.filter (fun x => x.line == r.line && (match x.phase with
    | .decode .. => true
    | _ => false))
  let m := fillLine L m { line := r.line, data, p, mv := 0#2, asRead, tag := r.tagged, mst := r.mst }
  waits.foldl (fun m x => withData L m x (answerData x.kind data p asRead) p 0#2 true) m

/-- A request enters its slice (R132, R515): a tracker, the samplers, and its place in the line's order. An access of a running descriptor is
judged against the live image here (R393), and one of a descriptor whose ring has left its epoch is dropped and counted (R383). -/
def enter (L : Image) (m : Mach) (r : Req) : Mach :=
  match r.kind, m.jobOf r with
  | .install data poison asRead, _ => wedgeEnter L m r data poison asRead
  | _, some j =>
    let old := decide ((m.ring j.ring).epoch ≠ j.epoch)
    if !dpaOk L m (L.rOwner j.ring) (r.line / 2 ^ 22) ∨ old then
      let m := if old then m.bump (oDquCnt 1) else m
      { m with home := { m.home with done := m.home.done ++
        [{ who := r.tag, seq := r.seq, line := r.line, kind := r.kind, data := 0#512, p := false, denied := true }] } }
    else stand m
  | _, none =>
    let m := stand m
    if r.src < 8 then
      match r.kind with
      | .read _ => sampleHeat L (m.partCnt r.part 0 1) r.line
      | .write .. => sampleHeat L (m.partCnt r.part 1 1) r.line
      | _ => m
    else m
where
  /-- The request takes its tracker. -/
  stand (m : Mach) : Mach :=
    let r := { r with trk := if r.tracker then m.freeTracker (sliceOf r.line) else 0 }
    let (s, m) := m.sampleTick r
    let m : Mach := { m with home := { m.home with trk := m.home.trk ++ [{ r with sampled := s }] } }
    { m with home := { m.home with peak := max m.home.peak m.trackers.length } }

/-! ### Within one CORE cycle (R103, R105) -/

/-- The place of a request among the arrivals of its cycle (R105): from the slice's pointer, the CORE cycle count modulo 16, upwards. -/
def Req.turnOf (r : Req) : Nat := (r.src + 16 - r.t0 % 16) % 16

/-- A request is served before another at its slice: an earlier arrival first, then by the pointer. -/
def Req.before (a b : Req) : Bool := decide (a.t0 < b.t0) || (a.t0 == b.t0 && decide (a.turnOf < b.turnOf))

/-- The request that a slice accepts in a CORE cycle (R103). -/
def Mach.nextAt (m : Mach) (s : Nat) : Option Req :=
  (m.home.fab.filter (fun r => sliceOf r.line == s)).foldl (fun acc r => match acc with
    | none => some r
    | some q => if r.before q then some r else some q) none

/-- Each slice accepts one request, and the requests at the home act. -/
def sliceCycle (L : Image) (m : Mach) : Mach :=
  ((List.range 16).foldl (fun m s => match m.nextAt s with
    | some r => enter L { m with home := { m.home with fab := m.home.fab.filter (fun x => x.id != r.id) } } r
    | none => m) m).pumpAll L

/-! ### Answers of the controllers (R18, R270, R271, R318) -/

/-- Hand a judged line to the reader of a queue entry. -/
def handOver (L : Image) (m : Mach) (q : QEnt) (j : Judged) : Mach :=
  match q.purpose with
  | .host id => match m.home.trk.find? (fun r => r.id == id) with
    | some r => (judgedFor L m r j).pumpAll L
    | none => m
  | _ => m

/-- The line a queue entry reads for, as a DPA, when a request reads it. -/
def Mach.readDpa (m : Mach) (q : QEnt) : Option Nat :=
  match q.purpose with
  | .host id => (m.home.trk.find? (fun r => r.id == id)).map (fun r => r.line * 64)
  | _ => none

/-- A unit still waits for a read that it sent ahead. -/
def Mach.awaits (m : Mach) (p : Purpose) : Bool :=
  match p with
  | .ledger j => m.led.fetching.contains j
  | .inline page w _ => m.decoding page w
  | _ => false

/-- The reads whose answers a unit takes later. -/
def Purpose.ahead : Purpose → Bool
  | .ledger _ | .inline .. => true
  | _ => false

/-- A read of the cellar area. -/
def Purpose.cellar : Purpose → Bool
  | .inline .. => true
  | _ => false

/-- The source of an uncorrectable line's record, by what its read is for: none yet for a ledger line that another copy may repair (R147). -/
def Mach.ueSource (m : Mach) (p : Purpose) : Nat :=
  match p with
  | .ledger j => if 1 < (m.copies (lineSpot j).1).length then noSrc else 97
  | _ => 97

/-- Give a judged answer to what a read is for: a unit that takes it later finds it in the controller, deciphered where it is to be (R243). -/
def answer (L : Image) (m : Mach) (k : Nat) (q : QEnt) (j : Judged) : Mach :=
  if q.purpose.ahead then
    if m.awaits q.purpose then
      m.setSub k { m.sub k with flight := (m.sub k).flight ++ [{ q with back := true, ans := some (decipher L m q.purpose j) }] }
    else m
  else handOver L m q j

/-- Judge the symbols of a queue entry's line. -/
def Mach.judgeEnt (m : Mach) (L : Image) (q : QEnt) (syms : List Byte) : Judged :=
  judge m (m.qAddr q) q.purpose.cellar ((m.readDpa q).any (fun d => flatPage L (d / 4096))) syms

/-- What entered a subchannel from the fabric: write-backs free their ways, reads found in the write queue are answered (R30, R270, R271). -/
def takeEntered (L : Image) (m : Mach) (k : Nat) (e : Entered) : Mach :=
  e.fwd.foldl (fun m p => answer L m k p.1 (m.judgeEnt L p.1 (bytesOf p.2 80))) (e.writes.foldl Mach.entered m)

/-- What entered from the fabric while a command ran the controllers itself. `n` bounds the rounds. -/
def takeNews (L : Image) : Nat → Mach → Mach
  | 0, m => m
  | n + 1, m =>
    if m.mcs.subs.all (fun (p : Nat × Sub) => p.2.news.writes.isEmpty && p.2.news.fwd.isEmpty) then m
    else takeNews L n ((allSubs.foldl (fun m k =>
      takeEntered L (m.setSub k { m.sub k with news := {} }) k (m.sub k).news) m).pumpAll L)

/-! ### The page's lines taken by FORGET and RETIRE (R173) -/

/-- Drop a page's lines from the line cache, the hold queue and what waits for a way, discarding dirty data. -/
def Mach.dropPage (m : Mach) (page : Nat) : Mach :=
  { m with home := { m.home with lc := m.home.lc.filter (fun p => p.1 / 64 != page), fills := m.home.fills.filter (fun f => f.line / 64 != page),
                                 poisons := m.home.poisons.filter (fun l => l / 64 != page) },
           led := { m.led with held := m.led.held.filter (fun p => p.1 / 64 != page), wantFrame := m.led.wantFrame.filter (· != page) } }

end Sys2Proof.Machine
end

