-- ==== Sys2Proof/Machine/Ports.lean ====
section
/-! DEFINITION. The ports (R14-R17, R34-R74): decoding and the partition check, receive buffers and class queues, admission to the
home, link states, and the drop of a link with requests outstanding. -/

namespace Sys2Proof.Machine

/-! ### Decoding and the partition check (R14, R17, R83-R87) -/

/-- The logical device a head's decoders are kept under: its LD, or the one device of a head without MLD (R82). -/
def ldKey (m : Mach) (h ld : Nat) : Nat := if (m.head h).mld then ld else 16

/-- Decoders a logical device of a head advertises (R84). -/
def dplOf (L : Image) (h : Nat) : Nat := 2 ^ min 4 (fld (L.reg oHeadCfg) (4 * h + 2) (4 * h))

/-- The device offset at which a decoder's range begins: what the decoders before it and the skips take (R83). -/
def decBase : List Decoder → Nat
  | [] => 0
  | [d] => d.skip
  | d :: t => d.skip + d.size / d.ways + decBase t

/-- The offset within the logical device of an HPA: its interleave bits are removed (R83). -/
def decOffset (ds : List Decoder) (hpa : Nat) : Option Nat :=
  (List.range ds.length).findSome? fun i =>
    match ds[i]? with
    | some d =>
      if d.base ≤ hpa ∧ hpa < d.base + d.size then
        let x := hpa - d.base
        some (decBase (ds.take (i + 1)) + x / (d.gran * d.ways) * d.gran + x % d.gran)
      else none
    | none => none

/-- The DPA of an offset in a partition, when its extent lets the partition's requests through (R76, R77, R85, R87). -/
def partDpa (L : Image) (m : Mach) (p off : Nat) : Option Nat :=
  match L.mapIdx p (off / 2 ^ 28) with
  | none => none
  | some k =>
    let e := L.mapEnt k
    let x := L.extent e
    if eOwned x && (eShared x || eOwner x == p) && (!eDc x || m.dc.get 0 k == 2) then some (e * 2 ^ 28 + off % 2 ^ 28) else none

/-- The partition and DPA of a head's HPA (R14, R17, R85). -/
def portDecode (L : Image) (m : Mach) (h ld hpa : Nat) : Option (Nat × Nat) :=
  match ldPart L m h ld with
  | none => none
  | some p =>
    let ds := ((m.head h).decoders.filter (fun d => d.1 == ldKey m h ld)).map (·.2)
    match decOffset ds hpa with
    | none => none
    | some off => (partDpa L m p off).map (fun a => (p, a))

/-! ### Answers at the port (R17, R56, R65) -/

/-- Answer a request that goes no further than the port: reads all ones with poison, writes completed and discarded, with an
error response where `err` says so. R17 names reads and writes only: that a MemClnEvct gets a completion as a write does is a DESIGN CHOICE (log
entry 32). -/
def Mach.refuse (m : Mach) (h tag : Nat) (kind : ReqKind) (err : Bool) : Mach :=
  match kind with
  | .read _ => m.send (.memData h tag (BitVec.allOnes 512) true none)
  | .write .. | .clean => m.send (.memCmp h tag err)
  | .atomic .. | .ioRead => m.send (.ioCpl h tag (BitVec.allOnes 512) true err)
  | _ => m

/-- OUT_OF_PART of a head: both event bits and the class B record with an address of a kind (R17, R48). -/
def Mach.outOfPart (m : Mach) (h kind addr : Nat) : Mach := ((m.evb (oHeadEvt h) 5).hevEvt h 0).raiseA 1 h kind addr

/-- A write of any kind. -/
def ReqKind.isWrite : ReqKind → Bool
  | .write .. | .ioWrite .. | .atomic .. => true
  | _ => false

/-- A request over CXL.mem (the others come over CXL.io or from a mailbox). -/
def ReqKind.isMem : ReqKind → Bool
  | .read _ | .write .. | .clean => true
  | _ => false

/-- A request that carries data. -/
def ReqKind.carries : ReqKind → Bool
  | .write .. | .ioWrite .. | .atomic .. => true
  | _ => false

/-- The credit of a CXL.mem request returns to its head as it leaves the receive buffer (R51). -/
def Mach.giveCredit (m : Mach) (h : Nat) (k : ReqKind) : Mach :=
  if k.isMem && (m.head h).st.linked then m.send (.credit h k.carries) else m

/-! ### Receive buffers and class queues (R49-R53) -/

/-- The class queue of a head. -/
def Head.queue (x : Head) (c : Cls) : List Req :=
  match c with
  | .rt => x.qRt | .table => x.qTable | _ => x.qBulk

/-- Set a class queue. -/
def Head.setQueue (x : Head) (c : Cls) (q : List Req) : Head :=
  match c with
  | .rt => { x with qRt := q } | .table => { x with qTable := q } | _ => { x with qBulk := q }

/-- Entries of a class queue (R49). -/
def queueRoom (c : Cls) : Nat := if c = .rt then 512 else 1024

/-- Writes that hold a line of the write data buffer. -/
def Head.dataLines (x : Head) : Nat := ((x.qRt ++ x.qTable ++ x.qBulk).filter (fun r => r.kind.carries)).length

/-- A request waits in the receive buffer: its class queue or the write data buffer is full, an earlier request of its class
waits, or an APPLY changed its extent's class and older requests to the extent stand in another queue (R50). -/
def rxHolds (x : Head) (blocked : List Cls) (c : Cls) (r : Req) : Bool :=
  blocked.contains c || decide (queueRoom c ≤ (x.queue c).length) || (r.kind.carries && decide (2048 ≤ x.dataLines))

/-- Requests to the extent stand in the ingress queues that entered them before an APPLY changed its class (R50). -/
def rxExtentHeld (x : Head) (r : Req) : Bool := (x.qRt ++ x.qTable ++ x.qBulk).any (fun q => q.old && q.line / 2 ^ 22 == r.line / 2 ^ 22)

/-- At an APPLY instant the requests in a head's ingress queues to an extent whose class it changes are marked (R50). -/
def Head.age (x : Head) (was now : Image) : Head :=
  let f := fun (l : List Req) => l.map (fun r =>
    if eCls (was.extent (r.line / 2 ^ 22)) = eCls (now.extent (r.line / 2 ^ 22)) then r else { r with old := true })
  { x with qRt := f x.qRt, qTable := f x.qTable, qBulk := f x.qBulk }

/-- The receive buffers in arrival order. -/
def rxOrder (x : Head) : List Req :=
  let ids := ((x.rxReq ++ x.rxRwd).map (·.id)).mergeSort (fun a b => decide (a ≤ b))
  ids.filterMap (fun i => (x.rxReq ++ x.rxRwd).find? (fun r => r.id == i))

/-- Move what can move out of a head's receive buffers (R50, R51). -/
def portMove (L : Image) (m : Mach) (h : Nat) : Mach :=
  ((rxOrder (m.head h)).foldl (fun (acc : List Cls × Mach) r =>
    let x := acc.2.head h
    let c := clsOf (eCls (L.extent (r.line / 2 ^ 22)))
    if rxExtentHeld x r then acc
    else if rxHolds x acc.1 c r then (c :: acc.1, acc.2)
    else
      let x := x.setQueue c (x.queue c ++ [{ r with cls := c, mst := headMaster h c }])
      let m := acc.2.setHead h { x with rxReq := x.rxReq.filter (fun q => q.id != r.id), rxRwd := x.rxRwd.filter (fun q => q.id != r.id) }
      (acc.1, m.giveCredit h r.kind)) ([], m)).2

/-- The panic level of a head (R53). -/
def panicLevel (m : Mach) (h : Nat) : Mach :=
  let x := m.head h
  let n := x.qRt.length
  let on := m.rfld (oHeadQcfg h) 9 0
  let off := m.rfld (oHeadQcfg h) 25 16
  let p := if on ≤ n then true else if n ≤ off then false else x.panic
  if p = x.panic then m else m.setHead h { x with panic := p }

/-! ### Admission (R300-R303, R103) -/

/-- A request leaves the queue in which it waited for the regulator. -/
def Mach.dequeue (m : Mach) (r : Req) : Mach :=
  if 8 ≤ r.src then { m with home := { m.home with intq := m.home.intq.filter (fun x => x.id != r.id) } }
  else
    let x := m.head r.src
    m.setHead r.src (x.setQueue r.cls ((x.queue r.cls).filter (fun q => q.id != r.id)))

/-- What a request is charged when it is admitted (R298): a host's or a resync's line, refunded or counted when the home has found it; an agent's
lines;
nothing for what touches no media line. -/
def Mach.chargeAdmit (m : Mach) (r : Req) : Mach :=
  match r.kind with
  | .clean | .take | .merge => m
  | .agClear _ => (m.charge r.mst 2).countCharge r 2
  | .grant n => (m.charge r.mst n).countCharge r n
  | _ => if r.settled then m.charge r.mst 1 else (m.charge r.mst 1).countCharge r 1

/-- A request enters (R302): the leave for work past the home is answered here, any other request goes to its slice. -/
def Mach.letIn (m : Mach) (r : Req) : Mach :=
  match r.kind with
  | .grant _ => { m with home := { m.home with done := m.home.done ++
      [{ who := r.tag, seq := r.seq, line := r.line, kind := r.kind, data := 0#512, p := false }] } }
  | _ => { m with home := { m.home with fab := m.home.fab ++ [{ r with t0 := m.core }] } }

/-- The regulator admits up to `left` requests in a CORE cycle; a master whose oldest request finds no tracker that it may use is passed
over (R300, R134). `n` bounds the picks. -/
def admitCycle (L : Image) : Nat → Nat → List Nat → Mach → Mach
  | 0, _, _, m => m
  | n + 1, left, passed, m =>
    if left = 0 then m
    else match pickMaster L m passed with
    | none => m
    | some (k, b) =>
      match m.mQueue k with
      | [] => m
      | r :: _ =>
        if !m.trackerFor r then admitCycle L n left (k :: passed) (m.pmuEvent 0x107 (sliceOf r.line) 1)
        else
          let m := (({ m with bwg := b }).dequeue r).chargeAdmit r
          admitCycle L n (left - 1) passed (m.letIn r)

/-- The regulator admits: the part is awake and no self-refresh entry for a reset or the self-test runs (R289, R480). -/
def Mach.admits (m : Mach) : Bool :=
  (m.pwr.st == .active || m.pwr.st == .entering) && m.pwr.warm.isNone

/-- Cycles of a clock at a / b of CORE that end in this CORE cycle of the window (R476). -/
def Mach.otherCycles (m : Mach) (a b : Nat) : Nat := (m.bwg.cycles + 1) * a / b - m.bwg.cycles * a / b

/-- Churn-cycles busy by cluster, and YOKE cycles with a ready flit and no credit by VC (R510). -/
def clockEvents (m : Mach) : Mach :=
  let n := m.otherCycles 3 4
  let m := if n = 0 then m else m.chn.run.foldl (fun m p => m.pmuEvent 0x301 (p.1 / 8) n) m
  let k := m.otherCycles 35 32
  (List.range 4).foldl (fun m vc =>
    if m.yoke.up && m.yoke.credits.get 0 vc == 0 && m.yoke.txWait.any (fun p => p.1 == vc) then m.pmuEvent 0x603 vc k else m) m

/-- What the monitor counts in a CORE cycle (R510). -/
def cycleEvents (m : Mach) : Mach :=
  let m := (List.range 8).foldl (fun m h =>
    let x := m.head h
    let m := if x.qRt.isEmpty then m else m.pmuEvent 0x003 h x.qRt.length
    if x.panic then m.pmuEvent 0x004 h 1 else m) m
  let m := (List.range 16).foldl (fun m s =>
    let n := (m.sliceTrk s).length
    if n = 0 then m else m.pmuEvent 0x106 s n) m
  m.waitingMasters.foldl (fun m k => m.pmuEvent 0x502 k 1) (clockEvents m)

/-- The monitor's events of a CORE cycle, and the cycles for which masters were held (R310, R510). -/
def cycleCounts (m : Mach) : Mach :=
  let m := cycleEvents m
  let held := m.waitingMasters.foldl (fun t k => t.set 0 k (t.get 0 k + 1)) m.bwg.held
  { m with core := m.core + 1, bwg := { m.bwg with held, cycles := m.bwg.cycles + 1 } }

/-- One CORE cycle: the regulator admits (at most one request for each slice, DESIGN CHOICE, log entry 78), each slice takes one, the receive
buffers of the heads move, and the panic levels are taken. -/
def coreCycle (L : Image) (m : Mach) : Mach :=
  let heads := List.range 8
  let m := cycleCounts m
  let m := sliceCycle L (if m.admits then admitCycle L 54 16 [] m else m)
  let m := heads.foldl (fun m h => if (m.head h).st = .recovery then m else portMove L m h) m
  heads.foldl panicLevel m

/-- A request that has not begun its turn takes an error of its line's SRAM. -/
def Req.meets (r : Req) (line : Nat) : Bool :=
  r.line == line && r.sram == .none && (match r.phase with
    | .start | .snooping => true
    | _ => false)

/-- An SRAM error that an access to a line in this cycle finds (R110, R118): the access of a request that is on its way, or else one of a
write-back. -/
def meetError (L : Image) (m : Mach) (line : Nat) (err : SramErr) : Mach :=
  match (m.home.trk ++ m.home.fab ++ m.home.intq).find? (fun r => r.meets line) with
  | some q =>
    let f := fun (l : List Req) => l.map (fun r => if r.id == q.id then { r with sram := err } else r)
    { m with home := { m.home with trk := f m.home.trk, fab := f m.home.fab, intq := f m.home.intq } }
  | none => lcError L m 0 line err

/-- REGULATOR_ADMIT: a CORE cycle, with the SRAM errors that its accesses find. -/
def regulatorCycle (L : Image) (errs : List (Nat × SramErr)) (m : Mach) : Mach :=
  coreCycle L (errs.foldl (fun m e => meetError L m e.1 e.2) m)

/-! ### A request arrives (R14, R17, R49, R56, R65) -/

/-- The head's state, seen through Recovery. -/
def Head.eff (x : Head) : HeadSt := if x.st = .recovery then x.prev else x.st

/-- A posted CXL.io request. -/
def ReqKind.isPosted : ReqKind → Bool
  | .ioWrite .. => true
  | _ => false

/-- The request to HDM that a command of a head makes. -/
def hdmKind (i : Instr) : Option ReqKind :=
  match i with
  | .memRd _ _ _ _ m _ => some (.read m)
  | .memWr _ _ _ _ m d p _ => some (.write m d p)
  | .memClnEvct .. => some .clean
  | .atomicOp _ _ _ a op _ => some (.atomic op (a.toNat % 64))
  | .cxlIoMemoryRequest _ _ _ _ w be d _ => some (if w then .ioWrite d be else .ioRead)
  | _ => none

/-- The kinds of the requests to HDM that a head's link holds in Recovery. -/
def Head.heldKinds (x : Head) : List ReqKind := x.held.filterMap hdmKind

/-- The receive buffer has no room, or a tally write waits before a posted one: no credit, so nothing arrives (R51, R410). -/
def Head.noCredit (x : Head) (k : ReqKind) : Bool :=
  let waits := fun (l : List Req) => (l.filter (fun r => r.kind.isMem)).length + (x.heldKinds.filter (fun q => q.isMem && q.carries == k.carries)).length
  (k.isPosted && !x.post.isEmpty) || k.isMem && (if k.carries then decide (512 ≤ waits x.rxRwd) else decide (1024 ≤ waits x.rxReq))

/-- Put a decoded request into its receive buffer. -/
def rxPut (m : Mach) (h : Nat) (r : Req) : Mach :=
  let x := m.head h
  let r := { r with id := m.home.nextId }
  let m : Mach := { m with home := { m.home with nextId := m.home.nextId + 1 } }
  m.setHead h (if r.kind.carries then { x with rxRwd := x.rxRwd ++ [r] } else { x with rxReq := x.rxReq ++ [r] })

/-- A request goes no further than the port: its credit returns, and it is answered (R17, R51). -/
def Mach.turnAway (m : Mach) (h tag : Nat) (kind : ReqKind) (err : Bool) : Mach := (m.giveCredit h kind).refuse h tag kind err

/-- A request of a head is processed: refused at the port, or decoded, queued and offered to the regulator.
In INSECURE a CXL.mem request is answered as R56 says and CXL.io is served, though R55 has every later flit discarded until new keys
(DESIGN CHOICE, log entry 79). Of a viral head, CXL.mem writes, CXL.io writes to HDM and AtomicOps are discarded; its tally records, doorbells
and Head BAR writes are still taken, since R65 does not say which writes it means (DESIGN CHOICE, log entry 79). -/
def process (L : Image) (latch : Bool) (m : Mach) (h ld tag hpa : Nat) (kind : ReqKind) (sram : SramErr) : Mach :=
  let x := m.head h
  let m := match kind with
    | .read _ => m.pmuEvent 0x001 h 1
    | .write .. => m.pmuEvent 0x002 h 1
    | _ => m
  if latch then m.turnAway h tag kind true
  else if x.st = .ioOnly ∨ (x.st = .insecure ∧ (kind.isMem || !m.pwr.memReady)) then
    let m := m.turnAway h tag kind false
    if x.refusedLogged then m else (m.setHead h { m.head h with refusedLogged := true }).raise 2 h
  else match portDecode L m h ld hpa with
    | none => (m.turnAway h tag kind false).outOfPart h 2 hpa
    | some (p, dpa) =>
      if x.viralRx && kind.isWrite then m.turnAway h tag kind true
      else coreCycle L (portMove L (rxPut m h { src := h, head := h, part := p, tag, line := dpa / 64, kind, sram }) h)

/-- A request of a head is received. Nothing arrives on a head whose link carries no CXL traffic. -/
def arrive (L : Image) (latch : Bool) (m : Mach) (h ld tag hpa : Nat) (kind : ReqKind) (sram : SramErr) : Mach :=
  let x := m.head h
  if !x.st.linked || m.tst.scanEn || x.noCredit kind then m else process L latch m h ld tag hpa kind sram

/-- What a head sends while its link is in Recovery is held, unless it finds no credit (R54, R62). -/
def holdBack (m : Mach) (h : Nat) (i : Instr) : Mach :=
  let x := m.head h
  let none' := match hdmKind i with
    | some k => x.noCredit k
    | none => false
  if m.tst.scanEn || none' then m else m.setHead h { x with held := x.held ++ [i] }

/-! ### The drop of a link (R66-R68) -/

/-- The presence of a head in the snoop filter. -/
def Mach.presentLines (m : Mach) (h : Nat) : List (Nat × SfEnt) := m.home.sf.filter (fun (p : Nat × SfEnt) => p.2.pres.getLsbD h)

/-- Lines a head may hold modified. -/
def Mach.heldModified (m : Mach) (h : Nat) : Nat := ((m.presentLines h).filter (fun p => p.2.stA)).length

/-- Complete the walk of the snoop filter after a drop (R67). -/
def dropWalk (L : Image) (m : Mach) (h : Nat) : Mach :=
  if !(m.head h).walk then m
  else
    let m := (m.presentLines h).foldl (fun m p => snoopFail L m h p.1) m
    m.setHead h { m.head h with walk := false }

/-- Requests of a head at the home that a drop ends: reads, and atomics not yet performed (R66). -/
def dropsReq (h : Nat) (r : Req) : Bool :=
  decide (r.src < 8) && r.head == h && (match r.kind, r.phase with
    | .read _, _ | .ioRead, _ => true
    | .atomic .., .ackWait .. => false
    | .atomic .., _ => true
    | _, _ => false)

/-- A request is a read, for the drop's counts. -/
def ReqKind.isRead : ReqKind → Bool
  | .read _ | .ioRead => true
  | _ => false

/-- A write whose data is kept, for the drop's counts. -/
def ReqKind.isLineWrite : ReqKind → Bool
  | .write .. | .ioWrite .. => true
  | _ => false

/-- Forget requests that a drop ended: their queue entries and flights serve nobody. -/
def Mach.forgetReqs (m : Mach) (gone : List Req) : Mach :=
  let keep := fun (l : List Req) => l.filter (fun r => !gone.any (fun g => g.id == r.id))
  { m with home := { m.home with trk := keep m.home.trk, fab := keep m.home.fab,
                                 sfRsv := m.home.sfRsv.filter (fun p => !gone.any (fun g => g.id == p.2)) } }

/-- A request of a head. -/
def Req.ofHead (r : Req) (h : Nat) : Bool := decide (r.src < 8) && r.head == h

/-- The answers to a head's requests are no longer sent. -/
def Mach.hush (m : Mach) (h : Nat) : Mach :=
  let f := fun (l : List Req) => l.map (fun r => if r.ofHead h then { r with quiet := true } else r)
  { m with home := { m.home with trk := f m.home.trk, fab := f m.home.fab } }

/-- The records of a write into the tally window: each 8-byte quantity, and whether it came whole. -/
def tallyRecs (ep : Bool) : List (Word × BitVec 4) → List (BitVec 64 × Bool)
  | (a, x) :: (b, y) :: t => (b ++ a, !ep && x == 0xF#4 && y == 0xF#4) :: tallyRecs ep t
  | _ => []

/-- The tally window. -/
def inTally (bar : Bar) (off : Nat) : Bool := bar == .head && decide (0x800000 ≤ off ∧ off < 0x1000000)

/-- The write into the tally window that a command of a head makes. -/
def postOf (i : Instr) : Option Post :=
  match i with
  | .tallyRecordPost _ off bytes recs => some { off := off.toNat, bytes, recs }
  | .regWrite a => match a.path with
    | .head _ => if inTally a.bar a.off.toNat then some { off := a.off.toNat % 2 ^ 23, bytes := 4 * a.dws.length, recs := tallyRecs a.ep a.dws } else none
    | .mgmt => none
  | _ => none

/-- What a head holds after a drop: the writes whose data is complete, which the regulator still admits, and the tally records fully received,
which are applied (R66). -/
def Head.dropped (x : Head) : Head :=
  let f := fun (l : List Req) => (l.filter (fun r => r.kind.isLineWrite)).map (fun r => { r with quiet := true })
  { x with qRt := f x.qRt, qTable := f x.qTable, qBulk := f x.qBulk, rxReq := [], rxRwd := f x.rxRwd, held := [], panic := false,
           post := x.post ++ x.held.filterMap postOf, walk := true }

/-- What a drop does at its instant (R66, R67): snoops complete, reads and unperformed atomics go, writes with their data are kept
without a completion, partly received writes are discarded, and so is what was held in Recovery; skid-mode lines are poisoned. -/
def dropHead (L : Image) (m : Mach) (h : Nat) (d : DropEnv) : Mach :=
  let x := m.head h
  let queued := x.qRt ++ x.qTable ++ x.qBulk ++ x.rxReq ++ x.rxRwd
  let mine := (m.home.trk ++ m.home.fab).filter (fun r => r.ofHead h)
  let gone := mine.filter (dropsReq h)
  let skid := if x.skid && x.ideOn then d.skid else []
  let kept := ((queued ++ mine).filter (fun r => r.kind.isLineWrite)).length
  let lost := d.partialWrites + (x.heldKinds.filter ReqKind.isLineWrite).length
  let reads := ((queued ++ gone).filter (fun r => r.kind.isRead)).length + (x.heldKinds.filter ReqKind.isRead).length
  let m := (((m.setHead h x.dropped).evb (oHeadEvt h) 0).forgetReqs gone).hush h
  let poisoned := m.heldModified h + skid.length
  let m := ((m.home.snoops.filter (fun s => s.head == h)).map (·.line)).foldl (fun m l => snoopFail L m h l) m
  let m := skid.foldl (fun m l => poisonLine L m h l) m
  let m := m.setHead h { m.head h with drop := some (kept, lost, reads, poisoned) }
  m.pumpAll L

/-- Something of a dropped head still stands. -/
def Mach.dropping (m : Mach) (h : Nat) : Bool :=
  let x := m.head h
  (x.qRt ++ x.qTable ++ x.qBulk ++ x.rxRwd ++ m.home.trk ++ m.home.fab).any (fun r => r.ofHead h && r.quiet)

/-- Record a drop once all entries of the head are free (R68). -/
def dropRecord (m : Mach) (h : Nat) : Mach :=
  match (m.head h).drop with
  | none => m
  | some (wc, wd, rd, po) =>
    if m.dropping h then m
    else
      let s := fun n => min 0xFFFF n
      let m := m.setHead h { m.head h with drop := none }
      let m := (m.setReg (oDrop0 h) (put (s wc) 0 ||| put (s wd) 16)).setReg (oDrop1 h) (put (s rd) 0 ||| put (s po) 16)
      if 0 < po ∨ 0 < wd ∨ 0 < rd then m.raiseD 5 h po else m.raise 6 h

/-! ### Link states (R54-R65) -/

/-- ENABLE of a head. -/
def Mach.headEn (m : Mach) (h : Nat) : Bool := m.rbit (oHeadCtl h) 0

/-- A head's link goes to a state in which nothing is exchanged: a drop when it was IO_ONLY or later. -/
def linkLost (L : Image) (m : Mach) (h : Nat) (st : HeadSt) (d : DropEnv) : Mach :=
  let was := (m.head h).st.linked
  let m := if was then dropHead L m h d else m
  let m := m.setHead h { m.head h with st, memActive := false, width := 0, skid := false, viralRx := (m.head h).viralRx && st != .down, lpwr := .l0,
                                       l0pOwn := false, l0pLost := 0, rtOwn := false, rtLost := false }
  if was then coreCycle L m else m

/-- A link that trains stops its lane group's shutdown self-test (R501): 1 Port A, 2 Port B, 3 yoke, 4 management port. -/
def Mach.sstStop (m : Mach) (g : Nat) : Mach :=
  if m.tst.st = 2 ∧ m.tst.groups.contains g ∧ !m.tst.stopped.contains g then
    { m with tst := { m.tst with stopped := m.tst.stopped ++ [g] } }
  else m

/-- Enter TRAINING: the link error counts clear. -/
def Mach.train (m : Mach) (h : Nat) : Mach :=
  ((m.setHead h { m.head h with st := .training }).setReg (oHeadErr h) 0#32).sstStop (if h < 4 then 1 else 2)

/-- A function's configuration space and component registers are as after its reset, and it is not ready (R58). -/
def Pci.gone (p : Pci) (fn : Nat) : Pci :=
  { p with ready := p.ready.filter (· != fn), cfg := p.cfg.filter (fun e => e.1 / 1024 != fn), comp := p.comp.filter (fun e => e.1 / 16384 != fn) }

/-- The CXL.io function of a head resets: its decoders, keys, MSI-X table, configuration space; PRI is enabled anew (R39, R234). -/
def funcReset (m : Mach) (h : Nat) : Mach :=
  { (m.setHead h { m.head h with decoders := [], keys := [], keysNew := false, keyGo := none, ideOn := false }) with
    msix := { table := m.msix.table.filter (fun e => e.1 / 0x1000 != h), pend := m.msix.pend.filter (fun e => e.1 != h) },
    pci := m.pci.gone h,
    chn := { m.chn with priBlocked := m.chn.priBlocked.filter (· != h) } }

/-- PERST_N asserted: the link and the CXL.io function reset (R39, R55). -/
def perstOn (L : Image) (m : Mach) (h : Nat) (d : DropEnv) : Mach :=
  if (m.head h).st = .absent then m
  else
    let m := funcReset (linkLost L m h .down d) h
    m.setHead h { m.head h with perst := true }

/-- PERST_N deasserted (R55). -/
def perstOff (m : Mach) (h : Nat) : Mach :=
  let x := m.head h
  if x.st = .absent then m
  else
    let m := m.setHead h { x with perst := false }
    if (x.st = .down ∨ x.st = .disabled) ∧ m.headEn h then m.train h else m

/-- ENABLE written 0 (R55). -/
def disable (L : Image) (m : Mach) (h : Nat) (d : DropEnv) : Mach :=
  let x := m.head h
  if x.st = .absent then m
  else
    let m := m.setReg (oHeadCtl h) (m.reg (oHeadCtl h) &&& ~~~ 1#32)
    if x.st = .disabled then m else linkLost L m h .disabled d

/-- ENABLE written 1 (R55). -/
def enable (m : Mach) (h : Nat) : Mach :=
  let x := m.head h
  if x.st = .absent then m
  else
    let m := m.setReg (oHeadCtl h) (m.reg (oHeadCtl h) ||| 1#32)
    if (x.st = .disabled ∨ x.st = .down) ∧ !x.perst then m.train h else m

/-- Become ACTIVE, or IO_ONLY while memory is not ready or the rate is below CXL's (R41, R55). One refusal is logged for each entry into a
state (R56). -/
def Mach.service (m : Mach) (h : Nat) : Mach :=
  let x := m.head h
  let up := m.pwr.memReady && decide (2 ≤ x.speed)
  let st := if up then HeadSt.active else .ioOnly
  m.setHead h { x with st, memActive := up, refusedLogged := x.refusedLogged && x.st == st }

/-- A training head reaches L0 (R42, R43, R55). -/
def linkUp (L : Image) (latch : Bool) (m : Mach) (h width speed : Nat) (mld : Bool) (bi : Option Nat) (ide : Bool) : Mach :=
  if (m.head h).st ≠ .training then m
  else
    let m := dropWalk L m h
    let w := min width (m.straps.lanes h)
    let m := m.setHead h { m.head h with width := w, full := w, speed, mld, bi := bi.isSome, biCr := bi.getD 0, biLogged := false, ideOn := ide,
                                         skid := ide && m.rbit (oHeadCtl h) 2,
                                         viral := (m.head h).viral || latch }
    let m := m.setReg oUnresp (m.reg oUnresp &&& ~~~ put 1 h)
    let m := if !mld ∧ 1 < (L.boundTo h).length then (m.evb (oHeadEvt h) 6).raise 9 h else m
    if latch then (m.setHead h { m.head h with st := .ioOnly, memActive := false, refusedLogged := false }).send (.viral h) else m.service h

/-- Memory becomes ready (R55, R58). -/
def memReady (m : Mach) : Mach :=
  let m : Mach := { m with pwr := { m.pwr with memReady := true } }
  (List.range 8).foldl (fun m h => if (m.head h).st = .ioOnly then m.service h else m) m

/-- Add to a count that saturates at 0xFFFF. -/
def sat16 (a n : Nat) : Nat := min 0xFFFF (a + n)

/-- The snoops outstanding to a head are held, or their timers restart (R62). -/
def Mach.holdSnoops (m : Mach) (h : Nat) (held : Bool) : Mach :=
  { m with home := { m.home with snoops := m.home.snoops.map (fun s => if s.head == h then { s with held } else s) } }

/-- CORE cycles for which a withdrawn request is not issued again, counted from the end of the partner's change: 100 µs (R61, R349). -/
abbrev holdOff : Nat := 160000

/-- The part's own requests are withdrawn: an L0p width change, a retrain (R61). -/
def Head.withdraw (x : Head) : Head :=
  let x := if x.l0pOwn then { x with l0pOwn := false, l0pLost := x.l0pAsk, l0pNext := 0 } else x
  if x.rtOwn then { x with rtOwn := false, rtLost := true, rtNext := 0 } else x

/-- The partner's change is complete at a CORE count: what was withdrawn for it waits on (R61). -/
def Head.followed (x : Head) (core : Nat) : Head :=
  let x := if x.l0pLost ≠ 0 ∧ x.l0pNext = 0 then { x with l0pNext := core + holdOff } else x
  if x.rtLost ∧ x.rtNext = 0 then { x with rtNext := core + holdOff } else x

/-- A retrain of the part's own was withdrawn, and its time has not come (R61). -/
def Head.rtHeld (x : Head) (core : Nat) : Bool := x.rtLost && (x.rtNext == 0 || decide (core < x.rtNext))

/-- A head enters Recovery (R55), asked for by the part (`own`) or by the partner. For the partner's retrain what the part itself has asked
for is withdrawn, a retrain too that has just begun; a retrain of the part that was withdrawn is not asked for again before its time (R61).
The snoop timers of the head stop (R62). The replays and the FEC corrections that the link layer has counted since the last entry are added to
the error counts. -/
def recoveryIn (m : Mach) (h replays fec : Nat) (own : Bool) : Mach :=
  let x := m.head h
  if x.st = .ioOnly ∨ x.st = .active then
    if own && x.rtHeld m.core then m
    else
      let e := m.reg (oHeadErr h)
      let x := if own then { x with rtOwn := true, rtLost := false } else x.withdraw
      let m := ((m.setHead h { x with st := .recovery, prev := x.st }).evb (oHeadEvt h) 1).holdSnoops h true
      (m.setReg (oHeadErr h) (put (sat16 (fld e 15 0) replays) 0 ||| put (sat16 (fld e 31 16) fec) 16)).pmuEvent 0x005 h replays
  else if x.st = .recovery ∧ !own then m.setHead h x.withdraw
  else m

/-- An IDE integrity failure (R55). -/
def insecure (m : Mach) (h : Nat) : Mach :=
  ((m.setHead h { m.head h with st := .insecure, memActive := false, refusedLogged := false, keysNew := false }).evb (oHeadEvt h) 3).raise 3 h

/-- A head leaves Recovery for the state before it (R55, R62); memory may have become ready meanwhile. -/
def recoveryOut (latch : Bool) (m : Mach) (h width : Nat) : Mach :=
  let x := m.head h
  let m := (m.setHead h { x.followed m.core with st := x.prev, width := min width (m.straps.lanes h), held := [], rtOwn := false,
                                                 refusedLogged := x.refusedLogged && x.prev != .ioOnly }).holdSnoops h false
  if x.prev = .ioOnly ∧ m.pwr.memReady ∧ !latch then m.service h else m

/-- Its replayed flits have been processed: one of them may have failed its IDE check (R55). -/
def recoveryEnd (L : Image) (latch : Bool) (m : Mach) (h : Nat) (ideFail : Bool) : Mach :=
  let m := if ideFail ∧ (m.head h).st.linked then insecure m h else m
  if latch then m else coreCycle L m

/-- New keys and the stream re-enabled (R55). -/
def reenable (m : Mach) (h : Nat) : Mach :=
  let x := m.head h
  if x.st = .insecure ∧ x.keysNew then (m.setHead h { x with keysNew := false, ideOn := true }).service h else m

/-- A viral indication from the link partner (R65). -/
def viralIn (m : Mach) (h : Nat) : Mach :=
  if (m.head h).st.linked then ((m.setHead h { m.head h with viralRx := true }).evb (oHeadEvt h) 4).raise 4 h else m

/-- Half of a width, never below two lanes (R41). -/
def halfWidth (w : Nat) : Nat := if 4 ≤ w then w / 2 else w

/-- The part asks for a width, unless that request was withdrawn and its time has not come (R61). -/
def l0pAskFor (m : Mach) (h w : Nat) : Mach :=
  let x := m.head h
  if x.l0pLost = w ∧ m.core < x.l0pNext then m
  else (m.setHead h { x with l0pOwn := true, l0pAsk := w, l0pLost := 0, l0pNext := 0 }).send (.linkReq h w)

/-- The part asks for an L0p width change (R61): down after 100 µs of empty queues, up when they fill again. -/
def l0pRequest (m : Mach) (h : Nat) : Mach :=
  let x := m.head h
  let empty := x.qRt.isEmpty && x.qTable.isEmpty && x.qBulk.isEmpty
  if m.rbit (oHeadCtl h) 1 && (x.st == .active || x.st == .ioOnly) && x.speed == 5 && !x.l0pOwn then
    if empty then (if halfWidth x.width < x.width then l0pAskFor m h (halfWidth x.width) else m)
    else if x.width < x.full then l0pAskFor m h x.full
    else m
  else m

/-- An L0p width change completes (R61, R62): the part's own, or the partner's, for which it withdraws its own. -/
def l0pDone (m : Mach) (h width : Nat) : Mach :=
  let x := m.head h
  if (x.st = .active ∨ x.st = .ioOnly) ∧ x.speed = 5 ∧ 2 ≤ width ∧ width ≤ x.full then
    (m.setHead h { (if width = x.l0pAsk then { x with l0pOwn := false } else x.withdraw.followed m.core) with width }).evb (oHeadEvt h) 2
  else m

/-! ### HDM decoders (R83, R84) -/

/-- A decoder is committed, by a posted write that passes no tally write of the head (R410): in order, its range above those before it, none of them locked where it replaces one. -/
def decCommit (L : Image) (m : Mach) (h ld : Nat) (d : Decoder) : Mach :=
  let x := m.head h
  let key := ldKey m h ld
  let mine := (x.decoders.filter (fun e => e.1 == key)).map (·.2)
  let others := x.decoders.filter (fun e => e.1 != key)
  let prior := mine.take d.idx
  let last := prior.getLast?.map (fun e => e.base + e.size)
  let fits := decide (d.idx < dplOf L h ∧ d.idx ≤ mine.length ∧ mine.length ≤ d.idx + 1 ∧ 0 < d.size) && decide (last.getD 0 ≤ d.base)
    && !((mine[d.idx.toNat]?).any (·.lock))
  if x.st.linked && x.post.isEmpty && (ldPart L m h ld).isSome && fits then
    m.setHead h { x with decoders := others ++ (prior ++ [d]).map (fun e => (key, e)) }
  else m

/-- Uncommit every decoder of a head (R84). -/
def uncommit (m : Mach) (h : Nat) : Mach := m.setHead h { m.head h with decoders := [] }

/-! ### The management port (R72, R73) -/

/-- The management link goes down: its event and record. -/
def mgmtDown (m : Mach) : Mach :=
  if m.mgmt.up then ((({ m with mgmt := { m.mgmt with up := false, width := 0, lpwr := .l0, held := [] } }).evb oMptEvt 0).raise 8 0) else m

end Sys2Proof.Machine
end

