-- ==== Sys2Proof/Machine/Agents.lean ====
section
/-! DEFINITION. The part's own agents at the home (R105, R119, R120, R132-R134, R215, R221): churns, tally unit, strainer, yoke unit, descriptor
queue unit and the Drausk complex reach lines by tracked requests, as heads do.

An agent's piece of work is a function that asks for lines. An access that has been answered gives its answer; the others are issued, and
the piece is evaluated again when more of it can be done: what it does besides asking happens once, at its end. -/

namespace Sys2Proof.Machine

/-! ### Agents and what they ask -/

/-- An agent's work: its number, its source (R105), the master that pays (R214, R298), the head and partition it works for, and the home
cluster of the decodes it causes (R217). -/
structure Agent where
  who : Nat
  src : Nat
  mst : Nat
  head : Nat := 0
  part : Nat := 0
  cls : Cls := .engine
  cluster : Option Nat := none
  deriving DecidableEq, Repr

/-- The numbers of agents' work: a descriptor job, a ring's fetch, a completion record, and others. -/
def whoJob (id : Nat) : Nat := 4 * id
def whoRing (n : Nat) : Nat := 4 * n + 1
def whoRecord (id : Nat) : Nat := 4 * id + 2
abbrev whoTally := 3
abbrev whoYoke := 7
abbrev whoImage := 11
abbrev whoLedger := 15
abbrev whoMailbox := 19
abbrev whoYoke3 := 23
abbrev whoCopy := 27
abbrev whoScrub := 31
abbrev whoSuspect := 35
abbrev whoSweep := 39
abbrev whoClear := 43
abbrev whoFormat := 47
abbrev whoRecount := 243
def whoCanary (k : Nat) : Nat := 51 + 4 * k
def whoScan (h : Nat) : Nat := 147 + 4 * h
def whoMove (page : Nat) : Nat := 4 * (page + 64) + 3

/-- The request of an access. -/
def Agent.ask (a : Agent) (seq line : Nat) (kind : ReqKind) : Req :=
  { src := a.src, head := a.head, part := a.part, tag := a.who, seq, mst := a.mst, cls := a.cls, line, kind, cluster := a.cluster }

/-- A request of an agent's work. -/
def Req.ofWho (r : Req) (who : Nat) : Bool := decide (8 ≤ r.src) && r.tag == who && !r.quiet

/-- The requests that wait for the regulator, for their slices, or at the home. -/
def Mach.requests (m : Mach) : List Req := m.home.intq ++ m.home.fab ++ m.home.trk.filter Req.stands

/-- The answer that an access has had. -/
def Mach.answer? (m : Mach) (who seq line : Nat) (kind : ReqKind) : Option Done :=
  m.home.done.find? (fun d => d.who == who && d.seq == seq && d.line == line && d.kind == kind)

/-- An access is outstanding. -/
def Mach.asked (m : Mach) (who seq : Nat) : Bool := m.requests.any (fun r => r.ofWho who && r.seq == seq)

/-- Engine reads outstanding (R221). -/
def Mach.engineReads (m : Mach) : List Req := m.requests.filter (fun r => r.src == 8 && r.kind == .agRead)

/-- How many more reads an agent may issue: a churn has at most 64 outstanding and the array 4,096 (R221). -/
def Mach.readRoom (m : Mach) (a : Agent) : Nat :=
  if a.src = 8 then min (64 - (m.engineReads.filter (fun r => r.ofWho a.who)).length) (4096 - m.engineReads.length) else 64

/-- What asking for lines answers: the answers, or what is to be issued. -/
inductive Asked where
  | got (l : List Done)
  | wait (new : List Req)

/-- Ask for lines, from access number `n` on. -/
def Mach.askAll (m : Mach) (a : Agent) (n : Nat) (l : List (Nat × ReqKind)) : Asked :=
  let xs := l.zipIdx.map (fun p => (p.1, n + p.2))
  let got := xs.filterMap (fun x => m.answer? a.who x.2 x.1.1 x.1.2)
  if got.length = xs.length then .got got
  else
    let new := xs.filter (fun x => (m.answer? a.who x.2 x.1.1 x.1.2).isNone && !m.asked a.who x.2)
    .wait ((new.take (m.readRoom a)).map (fun x => a.ask x.2 x.1.1 x.1.2))

/-! ### Issue and completion -/

/-- Requests of agents enter their queues before the regulator (R134, R302); a page whose lines are to be taken keeps its ledger entry in the
cache (R148). -/
def Mach.issueAll (m : Mach) (new : List Req) : Mach :=
  new.foldl (fun m r =>
    { m with home := { m.home with nextId := m.home.nextId + 1, intq := m.home.intq ++ [{ r with id := m.home.nextId }],
                                   done := m.home.done.filter (fun d => !(d.who == r.tag && d.seq == r.seq)) },
             led := if r.kind = .take then { m.led with locked := insNat (r.line / 64) m.led.locked } else m.led }) m

/-- CORE cycles while requests of the work still move towards their slices. `n` bounds them; `left` is how many waited before. -/
def cyclesFor (L : Image) (who : Nat) : Nat → Nat → Mach → Mach
  | 0, _, m => m
  | n + 1, left, m =>
    let k := (m.home.intq.filter (fun r => r.ofWho who)).length
    if m.home.fab.any (fun r => r.ofWho who) ∨ (0 < k ∧ k < left) then cyclesFor L who n k (coreCycle L m) else m

/-- Issue requests and let them reach their slices. -/
def agentGo (L : Image) (m : Mach) (who : Nat) (new : List Req) : Mach :=
  let m := m.issueAll new
  cyclesFor L who (2 * (m.home.intq.length + m.home.fab.length) + 4) (m.home.intq.length + 1) (coreCycle L m)

/-- The lines that a page command has taken are let go (R173). -/
def Mach.untake (m : Mach) (who : Nat) : Mach :=
  let mine := fun (r : Req) => r.ofWho who && r.kind == .take
  let pages := (m.requests.filter mine).map (fun r => r.line / 64)
  { m with home := { m.home with trk := m.home.trk.filter (fun r => !mine r), fab := m.home.fab.filter (fun r => !mine r),
                                 intq := m.home.intq.filter (fun r => !mine r) },
           led := { m.led with locked := m.led.locked.filter (fun p => !pages.contains p) } }

/-- A piece of work has ended: its answers go. -/
def Mach.agentClear (m : Mach) (who : Nat) : Mach :=
  let m : Mach := { m with home := { m.home with done := m.home.done.filter (fun d => d.who != who) } }
  if m.requests.any (fun r => r.ofWho who && r.kind == .take) then m.untake who else m

/-- Work is given up: what it has not yet sent is not sent, and what is at the home answers nobody and clears nothing. -/
def agentForget (L : Image) (m : Mach) (who : Nat) : Mach :=
  let calm := fun (k : ReqKind) => match k with
    | .agClear _ => ReqKind.agRead
    | k => k
  let hush := fun (l : List Req) => l.map (fun r => if r.ofWho who then { r with quiet := true, kind := calm r.kind } else r)
  let m := m.agentClear who
  Mach.pumpAll { m with home := { m.home with intq := m.home.intq.filter (fun r => !r.ofWho who), fab := hush m.home.fab,
                                              trk := hush m.home.trk } } L

/-! ### Pieces of work -/

/-- What a piece of work answers: a value and the state after it, or the requests that it needs (none when it waits for those issued). -/
inductive Attempt (α : Type) where
  | ok (a : α) (m : Mach)
  | wait (new : List Req)

/-- Do a piece of work as far as it goes. `n` bounds the rounds of asking. -/
def runWork {α : Type} (L : Image) (who : Nat) (f : Mach → Attempt α) : Nat → Mach → Option α × Mach
  | 0, m => (none, m)
  | n + 1, m => match f m with
    | .ok a m' => (some a, m'.agentClear who)
    | .wait new => if new.isEmpty then (none, m) else runWork L who f n (agentGo L m who new)

/-- The rounds of asking that a piece of work may need. -/
abbrev askRounds := 1024

/-! ### Work past the home (R105, R214, R298, R302) -/

/-- The ledger's moves and sweeps, the clearing of frames, a format and a recount: churn-descriptor pays (R214). -/
def moveAgent (who : Nat) : Agent := { who, src := 9, mst := mDesc }

/-- The scrubber and the canary checks. -/
def scrubAgent (who : Nat) : Agent := { who, src := 13, mst := mScrub }

/-- The regulator's leave for `n` lines of work past the home: true once it is given; until then the request stands in its source's queue (R302). -/
def grant (L : Image) (m : Mach) (a : Agent) (seq n : Nat) : Bool × Mach :=
  let has := fun (m : Mach) => (m.answer? a.who seq 0 (.grant n)).isSome
  if n = 0 || has m then (true, m)
  else if m.asked a.who seq then (false, m)
  else
    let m := agentGo L m a.who [a.ask seq 0 (.grant n)]
    (has m, m)

/-- Work past the home is given up: what it had asked for is no longer asked. -/
def Mach.ungrant (m : Mach) (who : Nat) : Mach :=
  { m with home := { m.home with done := m.home.done.filter (fun d => d.who != who), intq := m.home.intq.filter (fun r => !r.ofWho who) } }

/-- The eight lines of a decoded wedge go to their slices (R24, R105). -/
def Mach.sendInstalls (m : Mach) (d : Decode) (lines : List (Nat × Line × Bool × Bool)) : Mach :=
  lines.foldl (fun m x =>
    let r : Req := { id := m.home.nextId, src := 9, head := d.tag.head, part := d.tag.part, mst := mInline, cls := d.tag.cls, urg := d.tag.urg,
                     panic := d.tag.panic, line := x.1, kind := .install x.2.1 x.2.2.1 x.2.2.2, t0 := m.core }
    { m with home := { m.home with nextId := m.home.nextId + 1, fab := m.home.fab ++ [r] } }) m

/-- CORE cycles until what is on its way to the slices from the ledger and its churns has entered. `n` bounds them. -/
def cyclesIn (L : Image) : Nat → Mach → Mach
  | 0, m => m
  | n + 1, m => if m.home.fab.any (fun r => r.src == 9) then cyclesIn L n (coreCycle L m) else m

/-! ### Merges of pending tally sums (R413, R414) -/

/-- The tally unit's agent. -/
def tallyAgent : Agent := { who := whoTally, src := 10, mst := mTally }

/-- A merge of the line is under way. -/
def Mach.merging (m : Mach) (line : Nat) : Bool := m.requests.any (fun r => r.line == line && r.kind == .merge)

/-- Merge the coalescer entries that a test names, through their slices; true when none of them waits. -/
def mergeWhere (L : Image) (m : Mach) (p : Nat → Bool) : Bool × Mach :=
  let due := ((m.tally.coal.map (·.1)).filter p).filter (fun l => !m.merging l)
  let m := if due.isEmpty then m else agentGo L m whoTally (due.map (fun l => tallyAgent.ask 0 l .merge))
  (!(m.tally.coal.map (·.1)).any p, m)

/-- Merge a line's pending sums, through its slice. -/
def mergeLine (L : Image) (m : Mach) (line : Nat) : Bool × Mach := mergeWhere L m (· == line)

/-! ### The lines of a page (R173) -/

/-- The requests that take a page's lines for a page command; none when all are taken. -/
def takeAll (m : Mach) (a : Agent) (page : Nat) : Option (List Req) :=
  let lines := (List.range 64).map (64 * page + ·)
  let mine := m.requests.filter (fun r => r.ofWho a.who && r.kind == .take)
  if lines.all (fun l => mine.any (fun r => r.line == l && r.phase == .taken)) then none
  else some ((lines.filter (fun l => !mine.any (fun r => r.line == l))).map (fun l => a.ask 0 l .take))

end Sys2Proof.Machine
end

