-- ==== Sys2Proof/Machine/Tally.lean ====
section
/-! DEFINITION. The tally unit (R406-R419): tables, records, the coalescer; and the strainer (R420-R428): lookups, inserts and
deletes. -/

namespace Sys2Proof.Machine

/-! ### Tally tables (R406, R408) -/

/-- An enabled tally table. -/
structure TallyTab where
  first : Nat
  next : Nat
  pair : Bool
  sat : Bool
  deriving DecidableEq, Repr

/-- A partition's tally table, when it is enabled. -/
def tallyTab (I : Image) (p : Nat) : Option TallyTab :=
  let c := I.reg (oTlyCfg p)
  let l := I.reg (oTlyLoc p)
  if c.getLsbD 0 then some { first := fld l 16 0, next := fld l 31 17, pair := c.getLsbD 1, sat := c.getLsbD 2 } else none

/-- Counters of a table. -/
def TallyTab.count (t : TallyTab) : Nat := t.next * (if t.pair then 2 ^ 24 else 2 ^ 25)

/-- The DPA of a logical offset of a partition by its map alone (R80). -/
def mapDpa (L : Image) (p off : Nat) : Option Nat := (L.mapIdx p (off / 2 ^ 28)).map (fun k => L.mapEnt k * 2 ^ 28 + off % 2 ^ 28)

/-- The line and lane of a counter. -/
def TallyTab.spot (L : Image) (p : Nat) (t : TallyTab) (i : Nat) : Option (Nat × Nat) :=
  (mapDpa L p (t.first * 2 ^ 28 + (if t.pair then 16 else 8) * i)).map (fun a => (a / 64, a % 64 / 8))

/-- A tally record of a record word for a partition's table; none when its index lies beyond the table (R408, R409). -/
def tallyRec (L : Image) (port p : Nat) (w : BitVec 64) : Option TRec :=
  match tallyTab L p with
  | none => none
  | some t =>
    let i := fld w 39 0
    if i < t.count then
      (t.spot L p i).map (fun s => { port, line := s.1, lane := s.2, pair := t.pair, inc := fld w 63 40, part := p, sat := t.sat })
    else none

/-! ### The coalescer (R411-R413) -/

/-- What a record adds: lane and amount. -/
def TRec.adds (r : TRec) : List (Nat × Nat) := if r.pair then [(r.lane, 1), (r.lane + 1, r.inc)] else [(r.lane, r.inc)]

/-- An entry with a record added. -/
def Coal.add (c : Coal) (r : TRec) : Coal :=
  { c with lanes := r.adds.foldl (fun l a => l.set a.1 (l.getD a.1 0 + a.2)) c.lanes, recs := c.recs + (if r.port = 3 then 0 else 1), sat := r.sat, part := r.part,
           incs := c.incs ++ r.adds }

/-- A lane of an entry would pass 2^56 - 1. -/
def Coal.full (c : Coal) (r : TRec) : Bool := r.adds.any (fun a => decide (2 ^ 56 ≤ c.lanes.getD a.1 0 + a.2))

/-- The coalescer set of a line (which bits choose it is the model's choice, log entry 17). -/
def coalSet (line : Nat) : Nat := line % 8192

/-- The way that a new line takes when its set is full: the least recently used. -/
def Mach.coalVictim (m : Mach) (line : Nat) : Option Nat :=
  let set := m.tally.coal.filter (fun (p : Nat × Coal) => coalSet p.1 == coalSet line)
  if set.length < 16 then none
  else (set.foldl (fun (acc : Option (Nat × Coal)) p => match acc with
    | none => some p
    | some q => if p.2.use < q.2.use then some p else some q) none).map (·.1)

/-- Put a record into its line's entry, and count it for its partition (R518). -/
def Mach.coalPut (m : Mach) (r : TRec) : Mach :=
  let c := (Tbl.get m.tally.coal {} r.line).add r
  let m : Mach := { m with tally := { m.tally with coal := Tbl.insert m.tally.coal r.line { c with use := m.tally.clock + 1 },
                                                   clock := m.tally.clock + 1 } }
  if r.port = 3 then m else ((m.bump (oTlyCnt 0)).pmuEvent 0x701 0 1).partCnt r.part 10 1

/-- A record of a line enters its entry, which is merged at once in an extent that a running APPLY merges (R98). -/
def coalEnter (L : Image) (m : Mach) (r : TRec) : Mach :=
  let m := m.coalPut r
  if m.tally.direct.contains (r.line / 2 ^ 22) then (mergeLine L m r.line).2 else m

/-- A write of a line has reached its slice and waits there: what enters the coalescer now adds to it (R416). -/
def Mach.writeStands (m : Mach) (line : Nat) : Bool :=
  m.home.trk.any (fun r => r.line == line && r.stands && (r.kind.isWrite || (match r.kind with
    | .agWrite .. | .agClear _ => true
    | _ => false)))

/-- A record enters the coalescer: false while a write that it adds to, or a merge that must come first, waits. -/
def coalAdd (L : Image) (m : Mach) (r : TRec) : Bool × Mach :=
  if m.writeStands r.line then (false, m)
  else match Tbl.find? m.tally.coal r.line with
  | some c =>
    if c.full r then
      let x := mergeLine L m r.line
      if x.1 then (true, coalEnter L x.2 r) else x
    else (true, coalEnter L m r)
  | none => match m.coalVictim r.line with
    | some v =>
      let x := mergeLine L m v
      if x.1 then (true, coalEnter L x.2 r) else x
    | none => (true, coalEnter L m r)

/-- The input queues' records enter the coalescer in order while they can; `n` bounds them. -/
def tallyDrain (L : Image) : Nat → Mach → Mach
  | 0, m => m
  | n + 1, m => match m.tally.inq with
    | [] => m
    | r :: t => match coalAdd L m r with
      | (true, m) => tallyDrain L n { m with tally := { m.tally with inq := t } }
      | (false, m) => m

/-- The records of the input queues enter the coalescer while they can. -/
def Mach.tallyEnter (m : Mach) (L : Image) : Mach := tallyDrain L m.tally.inq.length m

/-- Records in the input queue of a port. -/
def Mach.inqLen (m : Mach) (port : Nat) : Nat := (m.tally.inq.filter (fun r => r.port == port)).length

/-- One 8-byte quantity of a tally write (R409). -/
def tallyTake (L : Image) (m : Mach) (h p off : Nat) (w : BitVec 64) (whole : Bool) : Mach :=
  if !whole then (m.evb oTlyEvt 0).bump (oTlyCnt 4)
  else match tallyRec L (h / 4) p w with
    | some r => { m with tally := { m.tally with inq := m.tally.inq ++ [r] } }
    | none => m.outOfPart h 5 off

/-- A tally write that its port's queue has room for: its records go to the table of the partition that it names, and enter the coalescer
while they can (R409). -/
def tallyAccept (L : Image) (m : Mach) (h off : Nat) (recs : List (BitVec 64 × Bool)) : Mach :=
  let base := 0x800000 + off
  match ldPart L m h (off / 2 ^ 19) with
  | none => m.outOfPart h 5 base
  | some p =>
    if (tallyTab L p).isNone then m.outOfPart h 5 base
    else ((List.range recs.length).foldl (fun m i =>
      let r := recs.getD i (0#64, true)
      tallyTake L m h p (base + 8 * i) r.1 r.2) m).tallyEnter L

/-- The port's queue has room for a write's records. -/
def Mach.tallyRoom (m : Mach) (h n : Nat) : Bool := decide (m.inqLen (h / 4) + n ≤ 4096)

/-- A tally write is taken, or refused whole (R409); false while its port's queue has no room (R410). -/
def takePost (L : Image) (m : Mach) (h : Nat) (w : Post) : Bool × Mach :=
  if w.off % 8 ≠ 0 ∨ w.bytes % 8 ≠ 0 ∨ 512 < w.bytes ∨ w.bytes = 0 then (true, (m.evb oTlyEvt 0).bump (oTlyCnt 4))
  else if m.tallyRoom h w.recs.length then (true, tallyAccept L m h w.off w.recs)
  else (false, m)

/-- The tally writes of a head that wait are taken in order, as there is room for them (R410). -/
def takePosts (L : Image) (h : Nat) : List Post → Mach → Mach
  | [], m => m
  | w :: t, m => match takePost L m h w with
    | (true, m) => takePosts L h t (m.setHead h { m.head h with post := t })
    | (false, m) => m

/-- A head's tally writes that have waited are taken once there is room (R410). -/
def tallyRetry (L : Image) (m : Mach) (h : Nat) : Mach := takePosts L h (m.head h).post m

/-- Let the input queues drain, and take what has waited for room in them. -/
def Mach.drainTally (m : Mach) (L : Image) : Mach := (List.range 8).foldl (tallyRetry L) (m.tallyEnter L)

/-- A head's write into its tally window (R409, R410): taken whole, or held while its port's queue has no room; until it is taken the head
sends no other posted request. -/
def tallyPost (L : Image) (latch : Bool) (m : Mach) (h off bytes : Nat) (recs : List (BitVec 64 × Bool)) : Mach :=
  if !(m.head h).st.linked || latch || !(m.head h).post.isEmpty then m
  else
    let w : Post := { off, bytes, recs }
    match takePost L m h w with
    | (true, m) => m
    | (false, m) => (m.setHead h { m.head h with post := [w] }).evb oTlyEvt 3

/-- A line's pending sums are merged, and what waited may enter (R413, R414). -/
def tallyMergeLine (L : Image) (m : Mach) (line : Nat) : Mach := (mergeLine L m line).2.drainTally L

/-! ### Strainer tables (R420-R422) -/

/-- An enabled strainer table: its number, the geometry of R420, and its hash key. -/
structure StnTab where
  t : Nat
  owner : Nat
  first : Nat
  next : Nat
  klen : Nat
  vlen : Nat
  b : Nat
  e : Nat
  key : BitVec 128
  deriving DecidableEq, Repr

/-- Table slot `t` of an image, when enabled. -/
def stnTab (I : Image) (t : Nat) : Option StnTab :=
  let c := I.reg (oStnCfg t)
  let l := I.reg (oStnLoc t)
  if c.getLsbD 0 then
    some { t, owner := fld c 6 1, first := fld l 16 0, next := fld l 31 17, klen := 8 * (fld c 14 12 + 1), vlen := 8 * (fld c 17 15 + 1),
           b := fld c 22 18, e := fld c 27 23,
           key := BitVec.ofNat 128 (((List.range 4).map (fun k => (I.reg (oStnHk t k)).toNat * 2 ^ (32 * k))).sum) }
  else none

/-- A partition's table with a local number. -/
def stnFind (I : Image) (p loc : Nat) : Option StnTab :=
  (List.range 256).findSome? (fun t => match stnTab I t with
    | some x => if x.owner = p ∧ fld (I.reg (oStnCfg t)) 11 8 = loc then some x else none
    | none => none)

/-- Bytes of a key-store entry. -/
def StnTab.esz (x : StnTab) : Nat := if x.klen + x.vlen ≤ 64 then 64 else 128

/-- Offsets of the areas from the table's start, and the table's end. -/
def StnTab.storeAt (x : StnTab) : Nat := 64 * 2 ^ x.b
def StnTab.mapAt (x : StnTab) : Nat := x.storeAt + x.esz * 2 ^ x.e
def StnTab.size (x : StnTab) : Nat := x.mapAt + 2 ^ x.e / 8

/-- The line of an offset of a table. -/
def StnTab.line (L : Image) (x : StnTab) (off : Nat) : Option Nat := (mapDpa L x.owner (x.first * 2 ^ 28 + off)).map (· / 64)

/-- The hash of a key (R422). -/
def StnTab.hash (x : StnTab) (k : List Byte) : Nat := (Codec.sipHash x.key k).toNat

/-- Signature, mask and buckets of a hash (R422). -/
def stnSig (h : Nat) : Nat := if h / 2 ^ 48 % 2 ^ 16 = 0 then 1 else h / 2 ^ 48 % 2 ^ 16
def StnTab.mask (x : StnTab) (sig : Nat) : Nat := (sig * 0x9E3779B1 % 2 ^ x.b) ||| 1
def StnTab.b1 (x : StnTab) (h : Nat) : Nat := h % 2 ^ x.b
def StnTab.b2 (x : StnTab) (h : Nat) : Nat := x.b1 h ^^^ x.mask (stnSig h)

/-- A slot of a bucket (R421). -/
structure Slot where
  sig : Nat
  ent : Nat
  hash : Nat
  deriving DecidableEq, Repr

/-- Slot `s` of a bucket's bytes. -/
def slotOf (b : List Byte) (s : Nat) : Slot :=
  let x := (b.drop (16 * s)).take 16
  { sig := natOfBytes (x.take 2), ent := natOfBytes ((x.drop 4).take 4), hash := natOfBytes ((x.drop 8).take 8) }

/-- The bytes of a slot. -/
def Slot.bytes (s : Slot) : List Byte := bytesOfNat s.sig 2 ++ [0#8, 0#8] ++ bytesOfNat s.ent 4 ++ bytesOfNat s.hash 8

/-- An empty slot. -/
def Slot.none : Slot := { sig := 0, ent := 0, hash := 0 }

/-- A bucket's bytes with a slot replaced. -/
def putSlot (b : List Byte) (s : Nat) (x : Slot) : List Byte := b.take (16 * s) ++ x.bytes ++ b.drop (16 * s + 16)

/-- What a strainer operation on an item answers: a value with the number of accesses made, a wait for lines, or a poisoned line. -/
inductive SRes (α : Type) where
  | ok (a : α) (n : Nat) (m : Mach)
  | wait (new : List Req)
  | poison (n : Nat) (m : Mach)

/-- Go on with a value. -/
def SRes.bind {α β : Type} (r : SRes α) (f : α → Nat → Mach → SRes β) : SRes β :=
  match r with
  | .ok a n m => f a n m
  | .wait new => .wait new
  | .poison n m => .poison n m

/-- Read a line of a table (R420). A line outside the table's extents is as one that reads poisoned. -/
def stnRead (L : Image) (a : Agent) (x : StnTab) (off n : Nat) (m : Mach) : SRes (List Byte) :=
  match x.line L off with
  | none => .poison n m
  | some l => match m.askAll a n [(l, .agRead)] with
    | .wait new => .wait new
    | .got ds =>
      let m := m.pmuEvent 0x704 0 1
      match ds with
      | d :: _ => if d.p then .poison (n + 1) (m.evb oStnEvt 1) else .ok (bytesOf d.data 64) (n + 1) m
      | [] => .wait []

/-- Write a line of a table. -/
def stnWrite (L : Image) (a : Agent) (x : StnTab) (off : Nat) (d : List Byte) (n : Nat) (m : Mach) : SRes Unit :=
  match x.line L off with
  | none => .poison n m
  | some l => match m.askAll a n [(l, .agWrite (ofBytes 512 d) (BitVec.allOnes 64) false 0#2 true)] with
    | .wait new => .wait new
    | .got _ => .ok () (n + 1) m

/-- Read two lines of a table together (R424). -/
def stnRead2 (L : Image) (a : Agent) (x : StnTab) (off off' n : Nat) (m : Mach) : SRes (List Byte × List Byte) :=
  match x.line L off, x.line L off' with
  | some l, some l' => match m.askAll a n [(l, .agRead), (l', .agRead)] with
    | .wait new => .wait new
    | .got ds =>
      let m := m.pmuEvent 0x704 0 2
      match ds with
      | [d, e] => if d.p || e.p then .poison (n + 2) (m.evb oStnEvt 1) else .ok (bytesOf d.data 64, bytesOf e.data 64) (n + 2) m
      | _ => .wait []
  | _, _ => .poison n m

/-- The entry that an index read from a bucket names: within the key store, whatever the bucket holds (R423). -/
def StnTab.entry (x : StnTab) (i : Nat) : Nat := i % 2 ^ x.e

/-- Where an entry of the key store lies. -/
def StnTab.entryAt (x : StnTab) (i : Nat) : Nat := x.storeAt + x.esz * x.entry i

/-- Write a key-store entry (R421). -/
def stnPutEntry (L : Image) (a : Agent) (x : StnTab) (i : Nat) (key value : List Byte) (n : Nat) (m : Mach) : SRes Unit :=
  let d := key ++ value ++ List.replicate (x.esz - x.klen - x.vlen) 0#8
  (stnWrite L a x (x.entryAt i) (d.take 64) n m).bind fun _ n m =>
    if x.esz = 64 then .ok () n m else stnWrite L a x (x.entryAt i + 64) (d.drop 64) n m

/-- A found key: bucket, slot, entry number, value. -/
abbrev Found := Nat × Nat × Nat × List Byte

/-- Compare the candidates of a lookup in order (R424): the whole key lies in an entry's first line, and the second is read of the entry that
compares equal. -/
def stnCompare (L : Image) (a : Agent) (x : StnTab) (key : List Byte) : List (Nat × Nat × Nat) → Nat → Mach → SRes (Option Found)
  | [], n, m => .ok none n m
  | (b, s, i) :: t, n, m =>
    match stnRead L a x (x.entryAt i) n m with
    | .ok d n m =>
      if d.take x.klen = key then
        if x.esz = 64 then .ok (some (b, s, i, (d.drop x.klen).take x.vlen)) n m
        else (stnRead L a x (x.entryAt i + 64) n m).bind fun e n m => .ok (some (b, s, i, ((d ++ e).drop x.klen).take x.vlen)) n m
      else stnCompare L a x key t n m
    | .wait new => .wait new
    | .poison n m => .poison n m

/-- A lookup (R424), with the bytes of the two buckets. -/
def stnLook (L : Image) (a : Agent) (x : StnTab) (key : List Byte) (n : Nat) (m : Mach) : SRes ((List Byte × List Byte) × Option Found) :=
  let h := x.hash key
  (stnRead2 L a x (64 * x.b1 h) (64 * x.b2 h) n m).bind fun d n m =>
    let cand := fun (b : Nat) (d : List Byte) => (List.range 4).filterMap (fun s =>
      let y := slotOf d s
      if y.sig = stnSig h ∧ y.hash = h then some (b, s, y.ent) else none)
    (stnCompare L a x key (cand (x.b1 h) d.1 ++ cand (x.b2 h) d.2) n m).bind fun f n m => .ok (d, f) n m

/-- A lookup (R424). -/
def stnLookup (L : Image) (a : Agent) (x : StnTab) (key : List Byte) (n : Nat) (m : Mach) : SRes (Option Found) :=
  (stnLook L a x key n m).bind fun f n m => .ok f.2 n m

/-- An entry freed while lookups were in flight is not allocated until they have finished; `live` names those that have not (R428). -/
def Strainer.keeps (s : Strainer) (live : List (Nat × Nat)) (t i : Nat) : Bool :=
  s.kept.any (fun k => k.1 == t && k.2.1 == i && k.2.2.any live.contains)

/-- The lowest free entry at or after the allocation pointer, wrapping (R426); `left` entries are left to look at. -/
def stnFree (L : Image) (a : Agent) (x : StnTab) (live : List (Nat × Nat)) : Nat → Nat → Nat → Mach → SRes (Option Nat)
  | 0, _, n, m => .ok none n m
  | left + 1, i, n, m =>
    match stnRead L a x (x.mapAt + i / 512 * 64) n m with
    | .ok d n m =>
      if ((d.getD (i / 8 % 64) 0#8).getLsbD (i % 8)) || m.strn.keeps live x.t i then stnFree L a x live left ((i + 1) % 2 ^ x.e) n m
      else .ok (some i) n m
    | .wait new => .wait new
    | .poison n m => .poison n m

/-- Set or clear the allocation bit of an entry, with the count of entries in use; one freed is kept from the lookups in flight (R428). -/
def stnMark (L : Image) (a : Agent) (x : StnTab) (live : List (Nat × Nat)) (i : Nat) (on : Bool) (n : Nat) (m : Mach) : SRes Unit :=
  let i := x.entry i
  let off := x.mapAt + i / 512 * 64
  (stnRead L a x off n m).bind fun d n m =>
    let k := i / 8 % 64
    let b := d.getD k 0#8
    let bit : Byte := 1#8 <<< (i % 8)
    (stnWrite L a x off (d.set k (if on then b ||| bit else b &&& ~~~ bit)) n m).bind fun _ n m =>
      let u := m.strn.used.get 0 x.t
      .ok () n { m with strn :=
        { used := m.strn.used.set 0 x.t (if on then u + 1 else u - 1),
          ptr := if on then m.strn.ptr.set 0 x.t ((i + 1) % 2 ^ x.e) else m.strn.ptr,
          kept := (m.strn.kept.filter (fun k => k.2.2.any live.contains)) ++ (if on || live.isEmpty then [] else [(x.t, i, live)]) } }

/-- The first empty slot of a bucket. -/
def emptySlot (d : List Byte) : Option Nat := (List.range 4).find? (fun s => (slotOf d s).sig == 0)

/-- A displacement: from a bucket's slot to a bucket. -/
abbrev Kick := Nat × Nat × Nat

/-- The moves that one bucket of the search offers. -/
def kicksOf (x : StnTab) (b : Nat) (d : List Byte) : List Kick :=
  (List.range 4).map (fun s => (b, s, b ^^^ x.mask (slotOf d s).sig))

/-- Look at one layer's buckets: the first path that ends at an empty slot, or the next layer (paths latest displacement first). -/
def kickLayer (L : Image) (a : Agent) (x : StnTab) : List (Nat × List Kick) → List (Nat × List Kick) → List Nat → Nat → Mach →
    SRes ((Option (List Kick)) × List (Nat × List Kick) × List Nat)
  | [], next, seen, n, m => .ok (none, next, seen) n m
  | (b, path) :: t, next, seen, n, m =>
    match stnRead L a x (64 * b) n m with
    | .ok d n m =>
      if !path.isEmpty ∧ (emptySlot d).isSome then .ok (some path, next, seen) n m
      else
        let ks := (kicksOf x b d).filter (fun k => !seen.contains k.2.2)
        let add := ks.map (fun k => (k.2.2, k :: path))
        kickLayer L a x t (next ++ add) (seen ++ ks.map (·.2.2)) n m
    | .wait new => .wait new
    | .poison n m => .poison n m

/-- Search for a shortest displacement path, layer by layer (R426: a path of at most MAX_KICK displacements; which one is the
model's choice, log entry 17). -/
def kickSearch (L : Image) (a : Agent) (x : StnTab) : Nat → List (Nat × List Kick) → List Nat → Nat → Mach → SRes (Option (List Kick))
  | 0, front, seen, n, m => (kickLayer L a x front [] seen n m).bind fun r n m => .ok r.1 n m
  | left + 1, front, seen, n, m =>
    match kickLayer L a x front [] seen n m with
    | .ok (some p, _, _) n m => .ok (some p) n m
    | .ok (none, next, seen) n m => kickSearch L a x left next seen n m
    | .wait new => .wait new
    | .poison n m => .poison n m

/-- Read the buckets of a path. -/
def kickRead (L : Image) (a : Agent) (x : StnTab) : List Nat → Tbl (List Byte) → Nat → Mach → SRes (Tbl (List Byte))
  | [], t, n, m => .ok t n m
  | b :: l, t, n, m => match stnRead L a x (64 * b) n m with
    | .ok d n m => kickRead L a x l (t.insert b d) n m
    | .wait new => .wait new
    | .poison n m => .poison n m

/-- The buckets that a path touches. -/
def kickBuckets (path : List Kick) : List Nat := (path.flatMap (fun k => [k.1, k.2.2])).eraseDups

/-- Apply displacements from the end of the path to the buckets as they stand: the destination slot written, then the source cleared (R426). -/
def kickApply (L : Image) (a : Agent) (x : StnTab) : List Kick → Tbl (List Byte) → Nat → Mach → SRes (Tbl (List Byte))
  | [], b, n, m => .ok b n m
  | (src, s, dst) :: t, b, n, m => match emptySlot (b.get [] dst) with
    | none => kickApply L a x t b n m
    | some k =>
      let e := putSlot (b.get [] dst) k (slotOf (b.get [] src) s)
      let b := b.insert dst e
      let d := putSlot (b.get [] src) s Slot.none
      match (stnWrite L a x (64 * dst) e n m).bind fun _ n m => stnWrite L a x (64 * src) d n m with
      | .ok _ n m => kickApply L a x t (b.insert src d) n m
      | .wait new => .wait new
      | .poison n m => .poison n m

/-- Item statuses of a strainer batch. -/
inductive Item where
  | ok | full | missing
  deriving DecidableEq, Repr

/-- An item ends TABLE_FULL. -/
def stnIsFull (n : Nat) (m : Mach) : SRes Item := .ok .full n ((m.evb oStnEvt 0).bump (oStnCnt 4))

/-- The slot of a key's entry. -/
def StnTab.slot (x : StnTab) (key : List Byte) (i : Nat) : Slot := { sig := stnSig (x.hash key), ent := i, hash := x.hash key }

/-- Write a new item: bit, entry, the displacements of a path, then the slot (R426). -/
def stnPlace (L : Image) (a : Agent) (x : StnTab) (live : List (Nat × Nat)) (key value : List Byte) (path : List Kick) (t : Tbl (List Byte))
    (i b s n : Nat) (m : Mach) : SRes Item :=
  (stnMark L a x live i true n m).bind fun _ n m =>
    (stnPutEntry L a x i key value n m).bind fun _ n m =>
      (kickApply L a x path t n m).bind fun t n m =>
        (stnWrite L a x (64 * b) (putSlot (t.get [] b) s (x.slot key i)) n m).bind fun _ n m => .ok .ok n (m.bump (oStnCnt 2))

/-- Insert a key and value (R426); `live` names the lookups of the table in flight. Every line that it changes is read before it changes the
first. -/
def stnInsert (L : Image) (a : Agent) (x : StnTab) (live : List (Nat × Nat)) (key value : List Byte) (n : Nat) (m : Mach) : SRes Item :=
  let h := x.hash key
  let (b1, b2) := (x.b1 h, x.b2 h)
  (stnLook L a x key n m).bind fun f n m =>
    (stnFree L a x live (2 ^ x.e) (x.entry (m.strn.ptr.get 0 x.t)) n m).bind fun free n m =>
      match free with
      | none => stnIsFull n m
      | some i =>
        match f.2 with
        | some (b, s, old, _) =>
          (stnRead L a x (x.mapAt + x.entry old / 512 * 64) n m).bind fun _ n m =>
            (stnMark L a x live i true n m).bind fun _ n m =>
              (stnPutEntry L a x i key value n m).bind fun _ n m =>
                (stnWrite L a x (64 * b) (putSlot (if b = b1 then f.1.1 else f.1.2) s (x.slot key i)) n m).bind fun _ n m =>
                  (stnMark L a x live old false n m).bind fun _ n m => .ok .ok n (m.bump (oStnCnt 2))
        | none =>
          let t : Tbl (List Byte) := Tbl.insert (Tbl.insert [] b1 f.1.1) b2 f.1.2
          match emptySlot f.1.1, emptySlot f.1.2 with
          | some s, _ => stnPlace L a x live key value [] t i b1 s n m
          | none, some s => stnPlace L a x live key value [] t i b2 s n m
          | none, none =>
            (kickSearch L a x (m.rfld oStnCtl 5 0) [(b1, []), (b2, [])] [b1, b2] n m).bind fun p n m =>
              match p with
              | none => stnIsFull n m
              | some path =>
                (kickRead L a x (kickBuckets path) [] n m).bind fun t n m =>
                  let first := path.getLast?.getD (0, 0, 0)
                  stnPlace L a x live key value path t i first.1 first.2.1 n m

/-- Delete a key (R427): the slot is written empty, then the entry is freed; the lines that it changes are read before it changes the first. -/
def stnDelete (L : Image) (a : Agent) (x : StnTab) (live : List (Nat × Nat)) (key : List Byte) (n : Nat) (m : Mach) : SRes Item :=
  (stnLook L a x key n m).bind fun f n m =>
    match f.2 with
    | none => .ok .missing n m
    | some (b, s, i, _) =>
      (stnRead L a x (x.mapAt + x.entry i / 512 * 64) n m).bind fun _ n m =>
        (stnWrite L a x (64 * b) (putSlot (if b = x.b1 (x.hash key) then f.1.1 else f.1.2) s Slot.none) n m).bind fun _ n m =>
          (stnMark L a x live i false n m).bind fun _ n m => .ok .ok n (m.bump (oStnCnt 3))

/-- The lines that a strainer item has written in SYNC wait for the partner's acknowledgement (R364, R397). -/
def Mach.itemAcks (m : Mach) (who : Nat) : List (Nat × Nat) := (m.home.done.filter (fun d => d.who == who)).filterMap (·.ack)

/-- A line of the bucket array of a table, wherever its extents lie. -/
def StnTab.isBucket (L : Image) (x : StnTab) (line : Nat) : Bool :=
  (List.range x.next).any (fun k => (mapDpa L x.owner ((x.first + k) * 2 ^ 28)).any (fun d =>
    d / 2 ^ 28 == line / 2 ^ 22 && decide (k * 2 ^ 28 + line % 2 ^ 22 * 64 < x.storeAt)))

/-- A write by an agent. -/
def ReqKind.isAgWrite : ReqKind → Bool
  | .agWrite .. => true
  | _ => false

/-- A displacement of the table is in progress by an agent's item: two of its bucket writes have been issued, which no other kind of item does
(R426, R428). -/
def Mach.displacing (L : Image) (m : Mach) (who : Nat) (x : StnTab) : Bool :=
  let out := (m.requests.filter (fun r => r.ofWho who && r.kind.isAgWrite && x.isBucket L r.line)).length
  let done := (m.home.done.filter (fun d => d.who == who && d.kind.isAgWrite && x.isBucket L d.line)).length
  decide (2 ≤ out + done)

end Sys2Proof.Machine
end

