-- ==== Sys2Proof/Machine/Safe.lean ====
section
/-! DEFINITION. How a step settles the detections it raised (R458, R464-R466): the log's records, and for class A the latch and
the safe state; and the forms in which the commands' meanings run their work. -/

namespace Sys2Proof.Machine

/-! ### The safe state (R464, R465) -/

/-- Answer a request that the safe state ends: reads poisoned, writes with an error response, non-caching writes discarded. -/
def Mach.safeAnswer (m : Mach) (r : Req) : Mach :=
  if r.quiet || decide (8 ≤ r.src) then m else m.refuse r.head r.tag r.kind true

/-- Answer what a head holds in its receive buffers and class queues, and empty them; the credits of what leaves a receive buffer return
(R51). -/
def safeHead (m : Mach) (h : Nat) : Mach :=
  let x := { m.head h with post := [] }
  let m := if (m.head h).post.isEmpty then m else m.setHead h x
  let m := (rxOrder x).foldl (fun m r => if r.quiet then m else m.giveCredit h r.kind) m
  let held := x.qRt ++ x.qTable ++ x.qBulk ++ rxOrder x
  if held.isEmpty then m
  else (held.foldl Mach.safeAnswer m).setHead h { x with qRt := [], qTable := [], qBulk := [], rxReq := [], rxRwd := [], panic := false }

/-- Answer every request that has been admitted, and empty the internal sources' queues; the agents get no answers. -/
def safeHome (m : Mach) : Mach :=
  let waiting := m.home.fab ++ m.home.trk.filter (fun r => r.phase != .fill)
  waiting.foldl Mach.safeAnswer { m with home := { m.home with intq := [], fab := [], trk := [], done := [], sfRsv := [], fills := [] },
                                         led := { m.led with locked := [] } }

/-- Drain the write queue of a subchannel and drop its reads; what waits in the fabric is not accepted and is lost (R287, R288). -/
def safeSub (L : Image) (m : Mach) (k : Nat) : Mach :=
  let m := drainWrites L m k
  m.setSub k { m.sub k with fabric := [], rq := [], flight := [], sr := if (m.sub k).sr = .entering then .out else (m.sub k).sr }

/-- Every linked head enters viral (R64, R464 step 4). -/
def safeViral (m : Mach) (h : Nat) : Mach :=
  let x := m.head h
  if x.st.linked && !x.viral then (m.setHead h { x with viral := true }).send (.viral h) else m

/-- What an entry to DEEP put away comes back (R249, R465, R484, R487): the key slots, the retention frames to the uncleared list, the
nonce gone. -/
def deepBack (L : Image) (m : Mach) : Mach :=
  let kept := m.led.retention
  let m : Mach := { m with pwr := { m.pwr with nonce := none }, led := { m.led with retention := [] },
                           cry := { m.cry with slots := m.cry.sealedSlots.getD m.cry.slots, sealedSlots := none } }
  kept.foldl (giveFrame L) m

/-- Undo an entry before the instant E (R483, R484): subchannels not yet in self-refresh abort, the others exit, the paused services
resume, a retention image made is given up. The part stays armed. -/
def undoEntry (L : Image) (m : Mach) : Mach :=
  if m.pwr.st ≠ .entering then m
  else
    let m := allSubs.foldl (fun m k => if (m.sub k).sr = .entering then m.reach k else m) m
    let m := m.exitSrAll
    let m : Mach := { m with pwr := { m.pwr with st := .active, undo := false }, scb := { m.scb with paused := false } }
    (deepBack L m).bump oCntAbort

/-- Class A detection wakes a part that is asleep, and stands in PWR_WAKE_CAUSE (R465, R486). -/
def Mach.wokenByA (m : Mach) : Mach :=
  match m.pwr.st with
  | .drowse | .deep => m.setReg oWakeCause 0x80#32
  | .waking => m.setReg oWakeCause (put (m.pwr.cause.toNat ||| 0x80) 0)
  | .active | .entering => m

/-- The safe state's actions on the machinery after the record is made (R464 steps 2, 4-7, R465). -/
def safeMach (L : Image) (m : Mach) : Mach :=
  let m := m.wokenByA
  let m := safeHome ((List.range 8).foldl safeHead m)
  let m := (List.range 8).foldl safeViral m
  let m := { m with yoke := { m.yoke with fatalA := true } }.ykMsg 2 0x0A []
  let m := enterSrAll L (allSubs.foldl (safeSub L) m) false
  let m : Mach := { m with tally := { m.tally with inq := [], coal := [], direct := [] }, scb := { m.scb with paused := true },
                           pwr := { m.pwr with st := .active, target := 0, result := if m.pwr.target = 0 then m.pwr.result else 11 },
                           tst := if m.tst.st = 2 then { m.tst with st := 4 } else m.tst }
  let r := (List.find? (fun (p : Nat × FRec) => p.2.cls == 0) m.flt.log).map (·.2)
  if m.wld.steward = .up ∧ !m.wld.mgmtStopped then { m with flt := { m.flt with qspiA := r.or m.flt.qspiA, prevA := if r.isSome then none else m.flt.prevA } } else m

/-- An APPLY ends as applied (R97 step 6). -/
def Commit.applied (c : Commit) (code : Byte) : Commit := { c with op := .idle, code, checked := false, pairedPass := false }

/-- What becomes of the stage machinery: an APPLY that has not reached its instant does not apply (R465). -/
def Commit.halt (c : Commit) : Commit :=
  match c.op with
  | .apply | .arming | .armed => { c with op := .idle }
  | .copy code => c.applied code
  | _ => c

/-- FLT_A_FIRST takes the first class A source (R464 step 1, R466). -/
def Mach.firstA (m : Mach) (src : Nat) (inj : Bool) : Mach :=
  if m.rbit oAFirst 8 then m else m.setReg oAFirst (put src 0 ||| put 1 8 ||| putB inj 9)

/-- One occurrence is taken by the collector: its record, and for class A the latch and the safe state (R458, R464). -/
def State.take (s : State) (o : Occ) (inj real : Bool) : State :=
  if srcClass o.src = some 0 then
    let m := record s.live (s.m.firstA o.src inj) o inj real
    if s.latch then { s with m } else { s with m := safeMach s.live (deepBack s.live m), latch := true, commit := s.commit.halt }
  else { s with m := record s.live s.m o inj real }

/-- Take the detections that wait, in order. -/
def State.drainRaised (s : State) : State :=
  s.m.raised.foldl (fun s o => s.take o false true) { s with m := { s.m with raised := [] } }

/-! ### Triplicated words (R343, R344) -/

/-- Copies that agree, of a word whose copy `c` differs. -/
def agreeing (c : Fin 3) : Nat := 7 - 2 ^ c.toNat

/-- One upset word at a vote (R344). -/
def vote (m : Mach) (u : Upset) : Mach :=
  let k := u.kind.toNat
  if k = 0 then m
  else
    let at' := put k 0 ||| put (u.index % 4096) 4
    let occ := fun (src : Nat) (agree : Nat) =>
      ({ src, unit := 0, detail := 0, addr := 0, addrk := 0, syn := at' ||| put agree 16 } : Occ)
    if u.agree then (((m.evb oScbEvt 6).bump oCntVote).setReg oVoteLast at').raiseOcc (occ 104 (agreeing u.copy))
    else m.raiseOcc (occ 105 0)

/-- The hardware reads the struck words and votes them: those of copies that differ (R344). -/
def voteStruck (m : Mach) : Mach := m.scb.struck.foldl vote { m with scb := { m.scb with struck := [] } }

/-! ### The end of a step -/

/-- Rounds in which what entered the controllers is taken. -/
abbrev newsRounds := 64

/-- What a command leaves to the home and to the power controller: what entered the controllers (R270), an entry that one of them aborted
(R289, R483). -/
def wrapUp (L : Image) (m : Mach) : Mach :=
  let m := takeNews L newsRounds m
  if m.pwr.undo then undoEntry L { m with pwr := { m.pwr with undo := false } } else m

/-- Settle a step: struck words are voted, what its effects left to others is done, and its detections are taken in order; those that entering the
safe state raises are taken after it. -/
def settle (s : State) : State := { s with m := wrapUp s.live (voteStruck s.m) }.drainRaised.drainRaised

/-! ### Forms of meanings -/

/-- A meaning that changes the machinery alone; its detections settle. -/
def State.op (s : State) (f : Mach → Mach) : Host.Outcome State Fault Refusal := .next (settle { s with m := f s.m })

/-- A meaning that the safe state stops (R464, R465). -/
def State.work (s : State) (f : Mach → Mach) : Host.Outcome State Fault Refusal := if s.latch then .next s else s.op f

end Sys2Proof.Machine
end

