-- ==== Sys2Proof/Machine/Channels.lean ====
section
/-! DEFINITION. The DRAM channels' commands: a read judged (R318, R320, R321), the fabric (R270), the scheduler's cycle (R273),
refresh, polls, command parity (R285), self-refresh exit, canaries and training (R266-R269). -/

namespace Sys2Proof.Machine

/-! ### A read comes back (R318-R321) -/

/-- DRAM_READ_DONE: the oldest read in flight on a subchannel is judged, with the symbols that DRAM changed, or with those of the
place it was misrouted to (R318, R319, R553); what it corrects is written back (R320, R321). -/
def readDone (L : Image) (m : Mach) (ch sub : Nat) (errs : SymErr) (misroute : Option Nat) : Mach :=
  let k := 2 * ch + sub
  match (m.sub k).flight.find? (fun q => !q.back) with
  | none => m
  | some q =>
    let m := m.setSub k { m.sub k with flight := (m.sub k).flight.erase q }
    let syms := applyErrs errs (match misroute with
      | some v => m.media.sym v
      | none => bytesOf q.cw 80)
    let j := m.judgeEnt L q syms
    answer L ((m.account (m.qAddr q) (m.ueSource q.purpose) (m.readDpa q) j).correctBack q j) k q j

/-! ### The fabric (R270) -/

/-- FABRIC_WAIT_RELEASE: what waits in the fabric enters while there is room; a read answered from a queued write is served. -/
def fabricRelease (L : Image) (m : Mach) (k : Nat) : Mach :=
  let r := m.fabricPull (m.sub k).fabric.length k {}
  (takeEntered L r.2 k r.1).pumpAll L

/-! ### Polls (R262, R268, R282) -/

/-- An MRR to every logical rank of a channel that is awake, on both subchannels (R282, R511). -/
def readModes (m : Mach) (ch : Nat) : Mach :=
  [2 * ch, 2 * ch + 1].foldl (fun m k => if (m.sub k).sr = .inSr then m else m.upkeep k m.lranks) m

/-- MR4_POLL: the channel's interval is halved or restored; the floor follows (R282, R308). -/
def mr4Poll (L : Image) (m : Mach) (ch : Nat) (hot : Bool) : Mach :=
  if !m.pop.used.contains ch then m
  else if m.mcs.hot.get false ch = hot then readModes m ch
  else
    let m := readModes m ch
    let m : Mach := { m with mcs := { m.mcs with hot := m.mcs.hot.set false ch hot } }
    floorUpdate L (if hot then (m.evb (oMcEvt ch) 4).raise 68 ch else m)

/-- A channel has a DIMM, in the used set or not: its SPD hub answers (R257, R262). -/
def Mach.hasDimm (m : Mach) (ch : Nat) : Bool :=
  let c := m.pop.chans.getD ch {}
  !(c.dimms.isEmpty && c.rejected.isEmpty)

/-- SPD_TEMP_POLL: a DIMM above its critical temperature raises DIMM_HOT (R262). The Steward polls, so not while it is down (R445). -/
def spdTemp (m : Mach) (ch : Nat) (hot : Bool) : Mach :=
  let rest := m.pwr.dimmHot.filter (· != ch)
  if !m.hasDimm ch || !m.stewardOn then m
  else if hot then (({ m with pwr := { m.pwr with dimmHot := rest ++ [ch] } }).evb (oMcEvt ch) 6).raise 67 ch
  else { m with pwr := { m.pwr with dimmHot := rest } }

/-- A command to every rank of a used channel that is awake, on both subchannels: each takes a command slot (R268, R511). -/
def calibrate (m : Mach) (ch : Nat) : Mach :=
  if !m.pop.used.contains ch then m
  else [2 * ch, 2 * ch + 1].foldl (fun m k =>
    if (m.sub k).sr = .inSr then m else m.upkeep k (2 ^ m.pop.rb)) m

/-- The write DQS of a channel's ranks is recentred (R268, R485). -/
def recentre (m : Mach) (ch : Nat) : Mach :=
  { m with mcs := { m.mcs with recentred := m.mcs.recentred.set 0 ch (m.mcs.recentred.get 0 ch + 1) } }

/-- The channels leave self-refresh with the part: ZQ calibration and DQS recentring on every rank (R485, R487). -/
def Mach.wakeDram (m : Mach) : Mach := m.pop.used.foldl (fun m ch => recentre (calibrate m ch) ch) m.exitSrAll

/-- DQS_OSC_READ: the oscillators are read, and the write DQS is recentred on drift (R268). -/
def oscRead (m : Mach) (ch : Nat) (drifted : Bool) : Mach :=
  let m := calibrate m ch
  if drifted && m.pop.used.contains ch then recentre m ch else m

/-! ### Command parity (R285) -/

/-- CA_FAIL of a rank: the event, and MCn_CA_LOG. -/
def caFail (m : Mach) (ch sub rank die cmd : Nat) : Mach :=
  let n := min 0xFFFF (fld (m.reg (oCaLog ch)) 31 16 + 1)
  (m.evb (oMcEvt ch) 1).setReg (oCaLog ch) (put sub 0 ||| put rank 1 ||| put die 3 ||| put cmd 8 ||| put n 16)

/-- A write whose command failed again returns to the home: the cells hold what they held, and the line is dirty again unless the
home holds newer data. While no way of its set can be chosen, the write stands in its queue again (R107; DEDUCED, log entry 38). -/
def returnWrite (L : Image) (m : Mach) (q : QEnt) (old : Codeword) : Mach :=
  let v := m.phys (m.qAddr q)
  let m : Mach := if m.media.sym v = bytesOf q.cw 80 then { m with media := m.media.writeAt v old } else m
  match q.purpose with
  | .wback line =>
    if (m.lcGet line).any (·.dirty) then m
    else
      let s := bytesOf q.cw 80
      let rd : BitVec 16 := ofBytes 16 ((s.drop 64).take 2)
      let d := decFor L m (line / 64 / 65536) (tweakLine line) (rX rd) (ofBytes 512 (s.take 64))
      let r := installDirty L m mDesc q.tag line d (rP rd) (rMv rd)
      if r.1 then r.2 else (r.2.sendWrite { q with act := false }).2
  | _ => (m.sendWrite { q with act := false }).2

/-- One replayed command fails parity again (R285): of a read or a write, its ACT or its column command. -/
def caAgain (L : Image) (m : Mach) (ch sub rank die : Nat) (c : CaCmd) : Mach :=
  let k := 2 * ch + sub
  let s := m.sub k
  let lr := rank * 2 ^ m.pop.ld + die
  let win := s.replay.filter (fun x => x.lr == lr)
  let drop := fun (m : Mach) (x : RCmd) => m.setSub k { m.sub k with replay := (m.sub k).replay.erase x }
  match c with
  | .read id => match s.flight.find? (fun q => q.id == id && !q.back && m.lrank (m.qAddr q) == lr) with
    | some q =>
      let m := (caFail (m.setSub k { s with flight := s.flight.filter (fun x => x.id != id) }) ch sub rank die 1).raise 69 ch
      answer L m k { q with bad := true } (badJudge q.cw)
    | none => match s.rq.find? (fun q => q.id == id && q.act), win.find? (fun x => x.kind == 0 && x.id == id) with
      | some q, some x =>
        let m := drop m x
        let m := (caFail (m.setSub k { m.sub k with rq := (m.sub k).rq.filter (fun y => y.id != id) }) ch sub rank die 1).raise 69 ch
        answer L m k { q with bad := true } (badJudge q.cw)
      | _, _ => m
  | .write id => match win.find? (fun x => x.kind == 2 && x.id == id) with
    | some x => match x.ent with
      | some q => returnWrite L ((caFail (drop m x) ch sub rank die 2).raise 69 ch) q x.old
      | none => m
    | none => match s.wq.find? (fun q => q.id == id && q.act), win.find? (fun x => x.kind == 0 && x.id == id) with
      | some q, some x =>
        let m := drop m x
        let m := m.setSub k { m.sub k with wq := (m.sub k).wq.filter (fun y => y.id != id) }
        returnWrite L ((caFail m ch sub rank die 2).raise 69 ch) q (ofBytes 640 (m.media.sym (m.phys (m.qAddr q))))
      | _, _ => m
  | .refAb => match win.reverse.find? (fun x => x.kind == 3) with
    | some x =>
      let m := caFail (drop m x) ch sub rank die 3
      let s := (m.sub k).raaBack x.cut
      m.setSub k (if x.forced then { s with forced := s.forced ++ [(lr, 0)] } else s.owe (refPostpone L ch) lr [(lr, 0)])
    | none => m
  | .refSb => match win.reverse.find? (fun x => x.kind == 4) with
    | some x =>
      let m := caFail (drop m x) ch sub rank die 4
      let s := (m.sub k).raaBack x.cut
      m.setSub k (if x.forced then { s with forced := s.forced ++ [(lr, 1 + x.bi)] } else s.unpaySb (refPostpone L ch) lr x.bi)
    | none => m
  | .rfmSb => match win.reverse.find? (fun x => x.kind == 5) with
    | some x =>
      let m := caFail (drop m x) ch sub rank die 5
      let s := (m.sub k).raaBack x.cut
      m.setSub k (if x.forced then { s with forced := s.forced ++ [(lr, 5 + x.bi)] } else s)
    | none => m

/-- CA_PARITY_ALERT (R285): the rank's commands of the replay window are issued once more; a repeated write or refresh leaves the
same state, so only those that fail again change it. -/
def caAlert (L : Image) (m : Mach) (ch sub rank die : Nat) (again : List CaCmd) : Mach :=
  if !m.pop.used.contains ch then m
  else again.foldl (fun m c => caAgain L m ch sub rank die c) ((m.evb (oMcEvt ch) 0).bump (oMcCnt ch 5))

/-! ### Self-refresh exit and canaries (R290, R292) -/

/-- A subchannel may leave self-refresh: the part is not in DROWSE or DEEP (R287, R289). -/
def Mach.mayExit (m : Mach) : Bool := m.pwr.st != .drowse && m.pwr.st != .deep

/-- The channels of a list enter self-refresh, with the canaries: what waits in the fabric is drained too, so its write-backs free their
ways (R270, R288, R291). -/
def sleepOn (L : Image) (m : Mach) (chs : List Nat) : Mach := takeNews L newsRounds (enterSrOn L m chs true)

/-- Both subchannels of a channel being retired are drained and held in self-refresh, with no canaries (R336 step 4). -/
def holdRetired (L : Image) (m : Mach) (ch : Nat) : Mach :=
  [2 * ch, 2 * ch + 1].foldl (fun m k => takeNews L newsRounds (enterSr L ((drainQueues L m k).payDebt k) k false)) m

/-- SELF_REFRESH_EXIT. -/
def srExit (m : Mach) (k : Nat) : Mach := if m.mayExit then m.exitSr k else m

/-- Check the canary of one bank with the errors of its read: a scrub-class read, whose correction is written back (R292, R320). -/
def checkCanary (L : Image) (m : Mach) (a : MAddr) (errs : SymErr) : Mach :=
  let (j, m) := readEnt L m { id := 0, frame := 0, ln := 0, spot := some a, purpose := .canary } false false noSrc none errs
  if j.v = .data ∧ j.line = canaryData (m.sub (2 * a.ch + a.sub)).canAt a then
    if j.fixed = [] then m else ((m.suspect a).evb (oMcEvt a.ch) 2).raiseRs 70 a none j.syn
  else ((m.suspect a).evb (oMcEvt a.ch) 3).raiseRs 71 a none j.syn

/-- CANARY_CHECK: every canary that the last entry of a subchannel wrote; `errs` names the banks read with errors (logical rank × 32 + bank).
Not on a RETIRED channel (R336). The
reads wait for the regulator as the scrubber's traffic does (R297, R302). -/
def canaryCheck (L : Image) (m : Mach) (ch sub : Nat) (errs : List (Nat × SymErr)) : Mach :=
  let k := 2 * ch + sub
  if m.scb.chSt.get 0 ch ≠ 3 ∧ (m.sub k).canaries ∧ (m.sub k).sr = .out then
    match grant L m (scrubAgent (whoCanary k)) 0 (m.canaryPlaces ch sub).length with
    | (false, m) => m
    | (true, m) =>
      let m := (m.canaryPlaces ch sub).foldl (fun m a =>
        checkCanary L m a ((errs.find? (fun e => e.1 == m.lrank a * 32 + 4 * a.bg + a.bank)).map (·.2)).toList.flatten) m
      (m.setSub k { m.sub k with canaries := false }).agentClear (whoCanary k)
  else m

/-! ### Training (R266, R267, R269) -/

/-- The last shutdown self-test passed for a channel (R267, R504). -/
def Mach.sstPassed (m : Mach) (ch : Nat) : Bool := m.tst.src != 0 && fld m.tst.ch (2 * ch + 1) (2 * ch) == 1

/-- The slots and serial numbers of a channel's DIMMs. -/
def Mach.serials (m : Mach) (ch : Nat) : List (Nat × Nat) := ((m.pop.chans.getD ch {}).dimms).map (fun d => (d.slot.toNat, d.serial))

/-- The channel may take the saved path (R267); `intact` says that its record is. -/
def Mach.savedPath (m : Mach) (ch : Nat) (intact : Bool) : Bool :=
  intact && !m.mcs.allFull && (m.mcs.trainRec.find? ch == some (m.pop.speed, m.serials ch)) && m.sstPassed ch

/-- TRAIN and STEP after a training (R266, R267, R269). -/
def trainOutcome (saved : Bool) (r : TrainRes) : Nat × Nat :=
  let full := fun (ok : Nat) (step : Nat) => match r.fullFails with
    | none => (ok, step)
    | some f => (4, max 1 f.toNat)
  if saved then match r.savedFails with
    | none => (1, 0)
    | some f => full 3 (max 1 f.toNat)
  else full 2 0

/-- A channel ends its training. -/
def trainDone (m : Mach) (ch : Nat) (r : TrainRes) : Mach :=
  if !m.pop.used.contains ch ∨ m.mcs.trained.get 0 ch % 256 ≠ 0 then m
  else
    let o := trainOutcome (m.savedPath ch r.intact) r
    let m : Mach := { m with mcs := { m.mcs with trained := m.mcs.trained.insert ch (o.1 + 256 * o.2) } }
    if o.1 = 4 then m.raise 66 ch
    else ({ m with mcs := { m.mcs with trainRec := m.mcs.trainRec.insert ch (m.pop.speed, m.serials ch),
                                       saved := some (m.pop.place, m.pop.dens) } }).chanOut ch

/-! ### The commands -/

/-- DRAM_READ_DONE. -/
def execDramReadDone (ch : Fin 12) (sub : Fin 2) (errs : SymErr) (misroute : Option Nat) (s : State) :
    Host.Outcome State Fault Refusal := s.work (fun m => readDone s.live m ch sub errs misroute)

/-- FABRIC_WAIT_RELEASE. -/
def execFabricWaitRelease (ch : Fin 12) (sub : Fin 2) (s : State) : Host.Outcome State Fault Refusal :=
  s.work (fun m => fabricRelease s.live m (2 * ch + sub))

/-- DRAM_CMD_ISSUE; `astray` is the place that a write goes to in error (R553). -/
def execDramCmdIssue (ch : Fin 12) (sub : Fin 2) (blocked : List Nat) (held : List (Nat × Nat)) (why : SlotWhy) (s : State)
    (astray : Option Nat := none) : Host.Outcome State Fault Refusal := s.work (fun m => mcCycle s.live m (2 * ch + sub) blocked held why astray)

/-- URGENCY_RAISE. -/
def execUrgencyRaise (ch : Fin 12) (sub : Fin 2) (entry waited : Nat) (s : State) : Host.Outcome State Fault Refusal :=
  s.work (fun m => raiseUrgency m (2 * ch + sub) entry waited)

/-- REFRESH_DUE. -/
def execRefreshDue (ch : Fin 12) (sub : Fin 2) (lrank : Fin 16) (s : State) : Host.Outcome State Fault Refusal :=
  s.work (fun m => if m.pop.used.contains ch ∧ lrank.toNat < m.lranks then refreshDue s.live m ch sub lrank else m)

/-- MR4_POLL. -/
def execMr4Poll (ch : Fin 12) (hot : Bool) (s : State) : Host.Outcome State Fault Refusal := s.op (fun m => mr4Poll s.live m ch hot)

/-- ZQ_CALIBRATION. -/
def execZqCalibration (ch : Fin 12) (s : State) : Host.Outcome State Fault Refusal := s.op (fun m => calibrate m ch)

/-- DQS_OSC_READ. -/
def execDqsOscRead (ch : Fin 12) (drifted : Bool) (s : State) : Host.Outcome State Fault Refusal := s.op (fun m => oscRead m ch drifted)

/-- SPD_TEMP_POLL. -/
def execSpdTempPoll (ch : Fin 12) (hot : Bool) (s : State) : Host.Outcome State Fault Refusal := s.op (fun m => spdTemp m ch hot)

/-- CA_PARITY_ALERT. -/
def execCaParityAlert (ch : Fin 12) (sub : Fin 2) (rank die : Fin 4) (again : List CaCmd) (s : State) :
    Host.Outcome State Fault Refusal := s.work (fun m => caAlert s.live m ch sub rank die again)

/-- SELF_REFRESH_EXIT. The channels stay in self-refresh in the safe state (R465). -/
def execSelfRefreshExit (ch : Fin 12) (sub : Fin 2) (s : State) : Host.Outcome State Fault Refusal :=
  s.work (fun m => srExit m (2 * ch + sub))

/-- CANARY_CHECK. -/
def execCanaryCheck (ch : Fin 12) (sub : Fin 2) (errs : List (Nat × SymErr)) (s : State) : Host.Outcome State Fault Refusal :=
  s.work (fun m => canaryCheck s.live m ch sub errs)

end Sys2Proof.Machine
end

