-- ==== Sys2Proof/Machine/Rind.lean ====
section
/-! DEFINITION. Scrubbing, repairs and voted words (R325-R344): the walk, suspect banks, row remap, post-package repair, device marks,
channel retirement, and the audit of triplicated words. -/

namespace Sys2Proof.Machine

/-! ### One scrubbed line (R341) -/

/-- First frame behind the run. -/
def Mach.runEnd (m : Mach) : Nat := m.pop.frames

/-- A frame lies in the cellar area. -/
def Mach.inCellar (m : Mach) (f : Nat) : Bool := decide (m.cellBase ≤ f ∧ f < m.ledBase)

/-- A line of media is free: its frame is in the cleared pool or on the uncleared list, or its cellar unit is free. -/
def Mach.freeLine (m : Mach) (f l : Nat) : Bool :=
  if m.inCellar f then
    let cf := f - m.cellBase
    let u := 16 * cf + l / 4
    ivHas m.led.fresh cf || m.led.klists.any (fun (p : Nat × List Nat) => p.2.any (fun s => decide (s ≤ u ∧ u < s + p.1)))
  else ivHas m.led.pool f || ivHas m.led.uncleared f

/-- A line of the ledger region: the copy that is not good is rewritten from the other, or the line is lost (R147, R150). A copy 1 that is
not good is recorded once copy 0 has been read: as DUP_FIX when it is rewritten. -/
def scrubLedger (L : Image) (m : Mach) (f l : Nat) (e e1 : SymErr) : Mach :=
  let i := f - m.ledBase
  let k := if m.led.dup then i / 2 else i
  let c := if m.led.dup then i % 2 else 0
  let ents := decide (1024 ≤ k)
  let lost := fun (m : Mach) (syn : Word) =>
    if !ents then m
    else
      let j := 64 * (k - 1024) + l
      match m.led.lines.find? j with
      | some x => (m.ledWriteLine j x.ents).chargeNow mScrub (m.copies (lineSpot j).1).length
      | none => (loseLine L m j syn).2
  if c = 0 then
    match ledReadFor L m mScrub .other k l ents e e1 with
    | (some _, _, m) => m
    | (none, syn, m) => lost m syn
  else if !(m.copies k).contains 0 then
    match ledReadFor L m mScrub .other k l ents e1 e with
    | (some _, _, m) => m
    | (none, syn, m) => lost m syn
  else
    let a := place m.pop.place f l
    let (j, m) := readNow L m f l false false noSrc none e
    if j.ledGood ents then m
    else
      let (d, m) := readNow L (m.chargeNow mScrub 1) (m.ledFrame 0 k) l false false 97 none e1
      if d.ledGood ents then
        let m := ((m.writeNow f l (m.formCw f l d.stored.1 true false 0#2 false false)).chargeNow mScrub 1).evb oLdgEvt 3
        if j.v = .uncorrectable then (m.raiseRs 35 a none (m.ueSyn j)).tick else m
      else
        let m := if j.v = .uncorrectable then (m.raiseRs 97 a none (m.ueSyn j)).tick else m
        lost m.tick (m.ueSyn d)

/-- Read and judge one line of media and handle it by R341: a line it rewrites is charged to the scrubber (R297), as its read was when the
regulator let it enter. The line of a ledger copy is handled by R147 and R150. -/
def scrubOne (L : Image) (m : Mach) (f l : Nat) (e e1 : SymErr) : Mach :=
  if m.led.formatted && decide (m.ledBase ≤ f) then scrubLedger L m f l e e1
  else
    let c := m.inCellar f
    let free := m.freeLine f l
    let (j, m) := readNow L m f l c false (if free then 106 else 100) none e
    if j.v = .uncorrectable then
      (m.writeNow f l (if free then m.formCw f l 0#512 false false 0#2 false c else m.formCw f l j.line true true 0#2 false c)).chargeNow mScrub 1
    else m

/-! ### The walk (R340) -/

/-- The scrubber may act: enabled, not paused, memory ready (R340, R342). -/
def Mach.scrubs (m : Mach) : Bool := m.rbit oScbCtl 0 && !m.scb.paused && m.pwr.memReady && decide (0 < m.runEnd)

/-- The next position of the walk; `n` bounds the frames of RETIRED channels it skips. -/
def scrubSkip (m : Mach) : Nat → Nat → Nat
  | 0, p => p
  | n + 1, p => if p % 64 = 0 ∧ p / 64 < m.runEnd ∧ m.frameCh (p / 64) = 3 then scrubSkip m n (p + 64) else p

/-- The end of a pass: PASSES, and PASS_LATE past 1.1 × SCRUB_H. -/
def passEnd (m : Mach) : Mach :=
  let late := decide (11 * m.rfld oScbCtl 10 1 * 3600 * 1600000000 < 10 * (m.core - m.scb.passStart))
  let m : Mach := { m with scb := { m.scb with pos := 0, passes := min 0xFFFF (m.scb.passes + 1), passStart := m.core } }
  if late then m.evb oScbEvt 7 else m

/-- Do work whose DRAM reads meet the errors of a list, by media line. -/
def Mach.withErrs (m : Mach) (errs : List (Nat × SymErr)) (f : Mach → Mach) : Mach := { f { m with errs } with errs := [] }

/-- Work past the home that waits for the regulator (R302): `f` is done once `n` lines are let in, and its answer is then forgotten. -/
def paced (L : Image) (m : Mach) (a : Agent) (n : Nat) (f : Mach → Mach) : Mach :=
  match grant L m a 0 n with
  | (true, m) => (f m).agentClear a.who
  | (false, m) => m

/-- SCRUB_LINE: the next line of the walk, once the regulator lets its read in. Suspect banks come first (R342). -/
def scrubNext (L : Image) (m : Mach) (e e1 : SymErr) : Mach :=
  if !m.scrubs || !m.scb.suspects.isEmpty then m
  else
    let p := scrubSkip m 24 m.scb.pos
    if m.runEnd * 64 ≤ p then passEnd m
    else paced L m (scrubAgent whoScrub) 1 fun m =>
      let m := scrubOne L m (p / 64) (p % 64) e e1
      let q := scrubSkip m 24 (p + 1)
      if m.runEnd * 64 ≤ q then passEnd m else { m with scb := { m.scb with pos := q } }

/-- The media lines that back a page's lines (R342): none of an Unwritten or Retired page. -/
def Mach.backing (L : Image) (m : Mach) (page : Nat) (e : LEnt) (inRange : Nat → Bool) : List (Nat × Nat) :=
  let frame := fun (f : Nat) => ((List.range 64).filter (fun i => inRange (64 * page + i))).map (fun l => (f, l))
  if flatPage L page then frame (flatFrame L page)
  else if e.st = 0 ∨ e.st = 5 then []
  else if e.k = 0 then frame e.ma
  else (List.range (4 * e.k)).map (m.cellSpot e.ma)

/-- How many lines of media a scrub of a page reads. -/
def backingLines (L : Image) (m : Mach) (page : Nat) (inRange : Nat → Bool) : Nat := (m.backing L page (m.peekEnt page) inRange).length

/-- Scrub the media lines that back a page (SCRUB_RANGE, Scan Media; R342). -/
def scrubPage (L : Image) (m : Mach) (page : Nat) (inRange : Nat → Bool) : Mach :=
  let r := if flatPage L page then (some {}, m) else ledGet L m mScrub page
  match r.1 with
  | some e => (r.2.backing L page e inRange).foldl (fun m s => scrubOne L m s.1 s.2 [] []) r.2
  | none => r.2

/-- SUSPECT_SCRUB: the one line in a suspect bank of every frame of its rank (R342). `errs` names the lines read with errors, row ×
128 + burst index. -/
def suspectScrub (L : Image) (m : Mach) (ch sub rank die bank : Nat) (errs : List (Nat × SymErr)) : Mach :=
  let a0 : MAddr := { ch, sub, bg := bank / 4, bank := bank % 4, col := 0, rank, die, row := 0 }
  if !m.scrubs || !m.scb.suspects.contains (ch, a0.bankKey) then m
  else
    let n := (devRows m.pop.dens - 64) * 128
    paced L m (scrubAgent whoSuspect) n fun m =>
      let m := (List.range n).foldl (fun m i =>
        match unplace m.pop.place { a0 with row := i / 128, col := i % 128 } with
        | some (f, l) => scrubOne L m f l ((errs.find? (fun e => e.1 == i)).map (·.2)).toList.flatten []
        | none => m) m
      { m with scb := { m.scb with suspects := m.scb.suspects.erase (ch, a0.bankKey) } }

/-- SCB_STICKY_POP (R326). -/
def stickyPop (m : Mach) (v : Word) : Mach :=
  if v.getLsbD 0 then { m with scb := { m.scb with sticky := m.scb.sticky.drop 1 } } else m

/-! ### Repair commands (R328, R329) -/

/-- The place that the repair arguments name: SCB_REP_ARG0 and SCB_REP_ARG1. -/
def Mach.repAddr (m : Mach) : MAddr :=
  let f := m.rfld oRepArg0
  { ch := f 3 0, sub := f 4 4, rank := f 6 5, bg := f 9 7, bank := f 11 10, die := f 17 16, col := 0, row := m.rfld oRepArg1 17 0 }

/-- DEV of the arguments. -/
def Mach.repDev (m : Mach) : Nat := m.rfld oRepArg0 15 12

/-- A repair command ends with a result (R329). -/
def Mach.repEnd (m : Mach) (code : Nat) : Mach := ({ m with scb := { m.scb with rep := .none, repResult := code } }).evb oScbEvt 8

/-- A repair command starts. -/
def Mach.repStart (m : Mach) (r : Repair) : Mach := { m with scb := { m.scb with rep := r } }

/-- Channel, rank, die and row exist, and the row lies below the reserved rows. -/
def Mach.repRowOk (m : Mach) (a : MAddr) : Bool :=
  m.pop.used.contains a.ch && decide (a.rank < 2 ^ m.pop.rb ∧ a.die < 2 ^ m.pop.ld ∧ a.row < devRows m.pop.dens - 64)

/-- State of a channel: 0 NOT_USED, 1 LIVE, 2 CHANGING, 3 RETIRED. -/
def Mach.chState (m : Mach) (c : Nat) : Nat := m.scb.chSt.get 0 c

/-- The lowest free spare of a bank (R331). -/
def Mach.freeSpare (m : Mach) (a : MAddr) : Option Nat :=
  (List.range 62).find? (fun s => !m.scb.remaps.any (fun r => r.ch == a.ch && r.bank == a.bankKey && r.spare == s)
    && !m.scb.oldSpares.contains (a.ch * 1024 + a.bankKey, s))

/-- Entries of a channel in the remap table. -/
def Mach.remapCount (m : Mach) (c : Nat) : Nat := (m.scb.remaps.filter (fun r => r.ch == c)).length

/-- REMAP (R328, R332): the entry is made with its pointer at 0. -/
def remapStart (m : Mach) : Mach :=
  if m.scb.rep ≠ .none then m
  else
    let a := m.repAddr
    if !m.repRowOk a then m.repEnd 2
    else if m.chState a.ch ≠ 1 ∧ m.chState a.ch ≠ 2 then m.repEnd 5
    else match m.freeSpare a with
      | none => m.repEnd 3
      | some s =>
        if 2048 ≤ m.remapCount a.ch then m.repEnd 3
        else ({ m with scb := { m.scb with remaps := { ch := a.ch, bank := a.bankKey, row := a.row, spare := s, progress := 0 } :: m.scb.remaps,
                                           repSpare := s, repArgs := (a.ch * 1024 + a.bankKey, a.row) } }).repStart .remap

/-- The place of a remap command's row. -/
def Mach.repPlace (m : Mach) : MAddr :=
  let k := m.scb.repArgs.1
  let b := k % 1024
  { ch := k / 1024, sub := b / 512 % 2, rank := b / 128 % 4, die := b / 32 % 4, bg := b / 4 % 8, bank := b % 4, col := 0, row := m.scb.repArgs.2 }

/-- A place of the run of frames, or one outside it, as a queue entry. -/
def Mach.entAt (m : Mach) (a : MAddr) : QEnt :=
  match unplace m.pop.place a with
  | some (f, l) => { id := 0, frame := f, ln := l }
  | none => { id := 0, frame := 0, ln := 0, spot := some a }

/-- Read and judge one line of a row copy where it lies now, with its errors; the codeword to write at the new place (R332). -/
def copyCw (L : Image) (m : Mach) (a : MAddr) (errs : SymErr) : Codeword × Mach :=
  let q := m.entAt a
  let c := q.spot.isNone && m.inCellar q.frame
  let (j, m) := readEnt L m q c false 101 none errs
  match j.v with
  | .uncorrectable | .misdirected => (Codec.rsEncode j.line (mkRind true true 0#2 false c (atag a.val)), m)
  | _ => (j.cw, m)

/-- Change the pointer of the newest entry of a row. -/
def Scb.setNewest (s : Scb) (a : MAddr) (f : Remap → Remap) : Scb :=
  let mine := fun (r : Remap) => r.ch == a.ch && r.bank == a.bankKey && r.row == a.row
  { s with remaps := s.remaps.takeWhile (fun r => !mine r) ++ (match s.remaps.dropWhile (fun r => !mine r) with
    | r :: t => f r :: t
    | [] => []) }

/-- Copy the 128 lines of a row one at a time: read where it lies, move the pointer, write where it lies then. -/
def copyRow (L : Image) (m : Mach) (a0 : MAddr) (errs : List (Nat × SymErr)) : Mach :=
  (List.range 128).foldl (fun m i =>
    let a : MAddr := { a0 with col := i }
    let (cw, m) := copyCw L m a ((errs.find? (fun e => e.1 == i)).map (·.2)).toList.flatten
    let m : Mach := { m with scb := m.scb.setNewest a0 (fun r => { r with progress := i + 1 }) }
    (m.sendWrite { m.entAt a with cw }).2) m

/-- REMAP_DONE (R331, R332): the row is copied and the entry active; the old spare of a row already remapped stays used. -/
def remapDone (L : Image) (m : Mach) (errs : List (Nat × SymErr)) : Mach :=
  if m.scb.rep ≠ .remap then m
  else
    let a := m.repPlace
    let m := copyRow L m a errs
    let mine := m.scb.remaps.filter (fun r => r.ch == a.ch && r.bank == a.bankKey && r.row == a.row)
    let old := (mine.drop 1).map (fun r => (a.ch * 1024 + a.bankKey, r.spare))
    let rest := m.scb.remaps.filter (fun r => !(r.ch == a.ch && r.bank == a.bankKey && r.row == a.row))
    ({ m with scb := { m.scb with remaps := mine.take 1 ++ rest, oldSpares := m.scb.oldSpares ++ old } }).repEnd 1

/-- The row has an active remap entry. -/
def Mach.activeRemap (m : Mach) (a : MAddr) : Bool :=
  m.scb.remaps.any (fun r => r.ch == a.ch && r.bank == a.bankKey && r.row == a.row && r.progress == 128 && !r.back)

/-- SPPR (R328, R333); `resource` is what the DIMM reports. -/
def spprStart (m : Mach) (resource : Bool) : Mach :=
  if m.scb.rep ≠ .none then m
  else
    let a := m.repAddr
    if !m.repRowOk a then m.repEnd 2
    else if !m.activeRemap a then m.repEnd 5
    else if !resource then m.repEnd 4
    else ({ m with scb := { m.scb with repArgs := (a.ch * 1024 + a.bankKey, a.row) } }).repStart .sppr

/-- SPPR_DONE (R333): the row copied back, its entry freed, the repair recorded (R330). -/
def spprDone (L : Image) (m : Mach) (ok : Bool) (errs : List (Nat × SymErr)) : Mach :=
  if m.scb.rep ≠ .sppr then m
  else if !ok then m.repEnd 10
  else
    let a := m.repPlace
    let m : Mach := { m with scb := m.scb.setNewest a (fun r => { r with back := true, progress := 0 }) }
    let m := copyRow L m a errs
    let rest := m.scb.remaps.filter (fun r => !(r.ch == a.ch && r.bank == a.bankKey && r.row == a.row))
    ({ m with scb := { m.scb with remaps := rest, spprs := m.scb.spprs ++ [(a.ch, a.bankKey, a.row)] } }).repEnd 1

/-- HPPR (R328, R333). -/
def hpprStart (m : Mach) (resource : Bool) : Mach :=
  if m.scb.rep ≠ .none then m
  else
    let a := m.repAddr
    if !m.repRowOk a then m.repEnd 2
    else if m.chState a.ch ≠ 3 then m.repEnd 5
    else if !resource then m.repEnd 4
    else ({ m with scb := { m.scb with repArgs := (a.ch * 1024 + a.bankKey, a.row) } }).repStart .hppr

/-- HPPR_DONE: it preserves nothing, so the row's cells hold free values. -/
def hpprDone (m : Mach) (ok : Bool) : Mach :=
  if m.scb.rep ≠ .hppr then m
  else if !ok then m.repEnd 10
  else
    let a := m.repPlace
    let m := (List.range 128).foldl (fun m i =>
      ({ m with media := m.media.writeAt (MAddr.val { a with col := i }) (Config.free 640 m.fresh) }).tick) m
    m.repEnd 1

/-- The key of a rank's mark. -/
def markKey (a : MAddr) : Nat := 8 * a.ch + 4 * a.sub + a.rank

/-- MARK (R328, R334). -/
def markDevice (m : Mach) : Mach :=
  if m.scb.rep ≠ .none then m
  else
    let a := m.repAddr
    if !m.pop.used.contains a.ch ∨ 2 ^ m.pop.rb ≤ a.rank ∨ 10 ≤ m.repDev then m.repEnd 2
    else if (m.scb.marks.find? (markKey a)).isSome then m.repEnd 5
    else ({ m with scb := { m.scb with marks := m.scb.marks.insert (markKey a) m.repDev } }).repEnd 1

/-- UNMARK (R328, R334). -/
def unmarkDevice (m : Mach) : Mach :=
  if m.scb.rep ≠ .none then m
  else
    let a := m.repAddr
    if !m.pop.used.contains a.ch ∨ 2 ^ m.pop.rb ≤ a.rank then m.repEnd 2
    else if (m.scb.marks.find? (markKey a)).isNone then m.repEnd 5
    else ({ m with scb := { m.scb with marks := m.scb.marks.erase (markKey a) } }).repEnd 1

/-! ### Channel retirement (R335-R338) -/

/-- The frame of group `g` that the hash places on a channel (R263). -/
def chFrame (p : Place) (ch g : Nat) : Option Nat :=
  match p.used.idxOf? ch with
  | none => none
  | some i =>
    let c := p.used.length
    let s := (g ^^^ (g >>> 7) ^^^ (g >>> 15) ^^^ (g >>> 23)) % c
    some (g * c + (i + c - s) % c)

/-- Frames of a run [s, s + n) on a channel: one in each whole group. -/
def chFramesOn (p : Place) (ch s n : Nat) : Nat :=
  let c := p.used.length
  if n = 0 ∨ c = 0 then 0
  else
    let hit := fun (g : Nat) => match chFrame p ch g with
      | some f => if s ≤ f ∧ f < s + n then 1 else 0
      | none => 0
    let g0 := s / c
    let g1 := (s + n - 1) / c
    if p.used.contains ch then
      if g0 = g1 then hit g0 else hit g0 + (g1 - g0 - 1) + hit g1
    else 0

/-- Frames of a list of runs on a channel. -/
def ivOn (p : Place) (ch base : Nat) (l : List Iv) : Nat := (l.map (fun r => chFramesOn p ch (base + r.1) r.2)).sum

/-- Free hot-area frames on a channel. -/
def Mach.freeOn (m : Mach) (ch : Nat) : Nat := ivOn m.pop.place ch 0 m.led.pool + ivOn m.pop.place ch 0 m.led.uncleared

/-- The channel of a cellar unit. -/
def Mach.unitCh (m : Mach) (u : Nat) : Nat := (place m.pop.place (m.cellBase + u / 16) 0).ch

/-- Free cellar units on a channel. -/
def Mach.freeUnitsOn (m : Mach) (ch : Nat) : Nat :=
  16 * ivOn m.pop.place ch m.cellBase m.led.fresh
    + (m.led.klists.map (fun (p : Nat × List Nat) => p.1 * (p.2.filter (fun u => m.unitCh u == ch)).length)).sum

/-- Hot-area frames in use on a channel: neither free nor quarantined. -/
def usedOn (L : Image) (m : Mach) (ch : Nat) : Nat :=
  let hb := hotBase L
  chFramesOn m.pop.place ch hb (m.cellBase - hb) - m.freeOn ch
    - (m.led.quarFrames.filter (fun f => (place m.pop.place f 0).ch == ch)).length

/-- Cellar units in use on a channel. -/
def Mach.usedUnitsOn (m : Mach) (ch : Nat) : Nat :=
  16 * chFramesOn m.pop.place ch m.cellBase (m.ledBase - m.cellBase) - m.freeUnitsOn ch
    - ((m.led.quarCellar.filter (fun p => m.unitCh p.1 == ch)).map (·.2)).sum

/-- The other LIVE channels. -/
def Mach.otherLive (m : Mach) (ch : Nat) : List Nat := m.pop.used.filter (fun c => c != ch && m.chState c == 1)

/-- The channel stands next to a RETIRED or CHANGING channel in chan[], cyclically (R335). -/
def Mach.adjacent (m : Mach) (ch : Nat) : Bool :=
  let u := m.pop.used
  let n := u.length
  match u.idxOf? ch with
  | none => false
  | some i => [u.getD ((i + 1) % n) 0, u.getD ((i + n - 1) % n) 0].any (fun c => c != ch && decide (2 ≤ m.chState c))

/-- The refusals of RETIRE_CH in their order; none accepts (R335). -/
def retireRefusal (L : Image) (m : Mach) (ch : Nat) : Option Nat :=
  if !m.pop.used.contains ch then some 2
  else if m.chState ch ≠ 1 ∨ m.pop.used.any (fun c => m.chState c == 2) then some 5
  else if hotBase L ≠ 0 then some 6
  else if !m.led.dup then some 7
  else if m.adjacent ch then some 8
  else
    let live := m.otherLive ch
    if (live.map m.freeOn).sum < usedOn L m ch + (L.reg oWmLow).toNat ∨ (live.map m.freeUnitsOn).sum < m.usedUnitsOn ch then some 9
    else none

/-- The channel of a page's media. -/
def Mach.pageCh (m : Mach) (e : LEnt) : Option Nat :=
  if 1 ≤ e.k then some (m.unitCh e.ma)
  else if e.st = 1 ∨ e.st = 4 ∨ e.st = 3 then some (place m.pop.place e.ma 0).ch else none

/-- Pages of the configured DPA whose media lies on a channel. -/
def pagesOn (L : Image) (m : Mach) (ch : Nat) : List Nat :=
  m.knownPages.filter (fun p => !flatPage L p && m.pageCh (m.peekEnt p) == some ch)

/-- RETIRE_CH (R335, R336 step 1): the channel leaves the floor, and its free media the lists; its pages are to be relocated. -/
def retireStart (L : Image) (m : Mach) : Mach :=
  if m.scb.rep ≠ .none then m
  else
    let ch := m.rfld oRepArg0 3 0
    match retireRefusal L m ch with
    | some r => m.repEnd r
    | none =>
      let m : Mach := { m with scb := { m.scb with chSt := m.scb.chSt.insert ch 2, chg := m.scb.chg ++ [(ch, false)] } }
      let keep := fun (f : Nat) => (place m.pop.place f 0).ch != ch
      let cb := m.cellBase
      let away := fun (l : List Iv) => ivKeep (fun f => !keep f) l
      let m : Mach := { m with led := { m.led with
        away := m.led.away ++ away m.led.pool ++ away m.led.uncleared,
        awayUnits := m.led.awayUnits ++ (ivKeep (fun c => !keep (cb + c)) m.led.fresh).map (fun r => (16 * r.1, 16 * r.2))
          ++ m.led.klists.flatMap (fun (p : Nat × List Nat) => (p.2.filter (fun u => !keep (cb + u / 16))).map (fun u => (u, p.1))),
        pool := ivKeep keep m.led.pool, uncleared := ivKeep keep m.led.uncleared, fresh := ivKeep (fun c => keep (cb + c)) m.led.fresh,
        klists := (m.led.klists.map (fun (p : Nat × List Nat) => (p.1, p.2.filter (fun u => keep (cb + u / 16))))).filter (fun p => !p.2.isEmpty) } }
      let m := freeMarks L (if ivLen m.led.pool = 0 then m.poolEmpty else m)
      let m := (floorUpdate L m).raise 103 ch
      ((pagesOn L m ch).foldl (fun m p => m.queueMove p .relocate 3 false) m).repEnd 1

/-- RETIRE_CH_DONE (R336 steps 3 and 4): once no page's media lies on the channel, it is RETIRED, its ranks held in self-refresh. Pages
that remain are queued again. -/
def retireDone (L : Image) (m : Mach) : Mach :=
  match m.scb.chg.find? (fun p => !p.2) with
  | none => m
  | some (ch, _) =>
    let left := pagesOn L m ch
    if !left.isEmpty then left.foldl (fun m p => m.queueMove p .relocate 3 false) m
    else
      let m := holdRetired L m ch
      let m : Mach := { m with scb := { m.scb with chSt := m.scb.chSt.insert ch 3, chg := m.scb.chg.erase (ch, false) } }
      ((floorUpdate L m).writeFormatRecord.evb oScbEvt 9).raise 103 ch

/-- UNRETIRE_CH (R338): its frames go to the lists. -/
def unretireStart (L : Image) (m : Mach) : Mach :=
  if m.scb.rep ≠ .none then m
  else
    let ch := m.rfld oRepArg0 3 0
    if !m.pop.used.contains ch then m.repEnd 2
    else if m.chState ch ≠ 3 then m.repEnd 5
    else
      let m : Mach := { m with scb := { m.scb with chSt := m.scb.chSt.insert ch 2, chg := m.scb.chg ++ [(ch, true)],
                                                   oldSpares := m.scb.oldSpares.filter (fun s => s.1 / 1024 != ch) } }
      let m := (m.exitSr (2 * ch)).exitSr (2 * ch + 1)
      let hb := hotBase L
      let mine := fun (s n : Nat) => ((List.range n).map (s + ·)).filter (fun f => (place m.pop.place f 0).ch == ch)
      let hot := (mine hb (m.cellBase - hb)).filter (fun f => !ivHas m.led.leakFrames f)
      let units := fun (cf : Nat) => ((List.range 16).map (16 * cf + ·)).filter (fun u => !ivHas m.led.leakUnits u)
      let led := ((mine m.cellBase (m.ledBase - m.cellBase)).map (· - m.cellBase)).foldl (fun (l : Ledger) cf =>
        if (units cf).length = 16 then { l with fresh := l.fresh ++ [(cf, 1)] } else (units cf).foldl (fun l u => l.putUnits u 1) l) m.led
      let m : Mach := { m with led := { led with
        uncleared := led.uncleared ++ hot.map (fun f => (f, 1)),
        away := ivKeep (fun f => (place m.pop.place f 0).ch != ch) m.led.away, awayUnits := m.led.awayUnits.filter (fun p => m.unitCh p.1 != ch),
        quarFrames := m.led.quarFrames.filter (fun f => (place m.pop.place f 0).ch != ch),
        quarCellar := m.led.quarCellar.filter (fun p => m.unitCh p.1 != ch) } }
      (freeMarks L m).repEnd 1

/-- Rewrite the copy of a ledger frame on a channel from the other copy. -/
def restoreCopy (L : Image) (m : Mach) (c k : Nat) : Mach :=
  (List.range 64).foldl (fun m l =>
    let r := ledRead L m k l (decide (1024 ≤ k)) [] []
    let f := m.ledFrame c k
    match r.1 with
    | some d => (r.2.writeNow f l (r.2.formCw f l d true false 0#2 false false)).chargeNow mDesc 2
    | none => r.2) m

/-- UNRETIRE_CH_DONE (R338). -/
def unretireDone (L : Image) (m : Mach) : Mach :=
  match m.scb.chg.find? (fun p => p.2) with
  | none => m
  | some (ch, _) =>
    let m := (List.range (ledUnits m.led.extents * 65536)).foldl (fun m k =>
      (List.range m.ledCopies).foldl (fun m c => if (place m.pop.place (m.ledFrame c k) 0).ch = ch then restoreCopy L m c k else m) m) m
    let m : Mach := { m with scb := { m.scb with chSt := m.scb.chSt.insert ch 1, chg := m.scb.chg.erase (ch, true) } }
    ((floorUpdate L m).writeFormatRecord.evb oScbEvt 9).raise 103 ch

/-! ### Voted words (R343, R344) -/

/-- VOTE_AUDIT: upsets strike copies; an audit votes every word (R343, R344), and so does the hardware's next read of one. -/
def voteAudit (m : Mach) (us : List Upset) (audit : Bool) : Mach :=
  let m : Mach := { m with scb := { m.scb with struck := m.scb.struck ++ us } }
  if audit then voteStruck m else m

/-! ### The commands -/

/-- SCRUB_LINE. -/
def execScrubLine (errs errs1 : SymErr) (s : State) : Host.Outcome State Fault Refusal := s.work (fun m => scrubNext s.live m errs errs1)

/-- SUSPECT_SCRUB. -/
def execSuspectScrub (ch : Fin 12) (sub : Fin 2) (rank die : Fin 4) (bank : Fin 32) (errs : List (Nat × SymErr)) (s : State) :
    Host.Outcome State Fault Refusal := s.work (fun m => suspectScrub s.live m ch sub rank die bank errs)

/-- SCB_STICKY_POP. -/
def execScbStickyPop (v : Word) (s : State) : Host.Outcome State Fault Refusal := s.op (fun m => stickyPop m v)

/-- REMAP. Writes of SCB_REP_CMD are ignored in the safe state (R465). -/
def execRemap (s : State) : Host.Outcome State Fault Refusal := s.work remapStart

/-- REMAP_DONE. -/
def execRemapDone (errs : List (Nat × SymErr)) (s : State) : Host.Outcome State Fault Refusal := s.work (fun m => remapDone s.live m errs)

/-- SPPR. -/
def execSppr (resource : Bool) (s : State) : Host.Outcome State Fault Refusal := s.work (fun m => spprStart m resource)

/-- SPPR_DONE. -/
def execSpprDone (ok : Bool) (errs : List (Nat × SymErr)) (s : State) : Host.Outcome State Fault Refusal :=
  s.work (fun m => spprDone s.live m ok errs)

/-- HPPR. -/
def execHppr (resource : Bool) (s : State) : Host.Outcome State Fault Refusal := s.work (fun m => hpprStart m resource)

/-- HPPR_DONE. -/
def execHpprDone (ok : Bool) (s : State) : Host.Outcome State Fault Refusal := s.work (fun m => hpprDone m ok)

/-- MARK. -/
def execMark (s : State) : Host.Outcome State Fault Refusal := s.work markDevice

/-- UNMARK. -/
def execUnmark (s : State) : Host.Outcome State Fault Refusal := s.work unmarkDevice

/-- RETIRE_CH. -/
def execRetireCh (s : State) : Host.Outcome State Fault Refusal := s.work (retireStart s.live)

/-- RETIRE_CH_DONE. -/
def execRetireChDone (s : State) : Host.Outcome State Fault Refusal := s.work (retireDone s.live)

/-- UNRETIRE_CH. -/
def execUnretireCh (s : State) : Host.Outcome State Fault Refusal := s.work (unretireStart s.live)

/-- UNRETIRE_CH_DONE. -/
def execUnretireChDone (s : State) : Host.Outcome State Fault Refusal := s.work (unretireDone s.live)

/-- VOTE_AUDIT. -/
def execVoteAudit (upsets : List Upset) (s : State) (audit : Bool := true) : Host.Outcome State Fault Refusal :=
  if audit then s.op (fun m => voteAudit m upsets true) else .next { s with m := voteAudit s.m upsets false }

end Sys2Proof.Machine
end

