-- ==== Sys2Proof/Machine/Queues.lean ====
section
/-! DEFINITION. Descriptors' fields, and the class queues of the churn array's clusters (R213-R219, R228, R379, R385). -/

namespace Sys2Proof.Machine

/-! ### Descriptors and their rings (R379, R385) -/

/-- A 64-bit field of a descriptor, by its first byte. -/
def Job.word (j : Job) (byte : Nat) : Nat := fld j.desc (8 * byte + 63) (8 * byte)

def Job.op (j : Job) : Nat := fld j.desc 7 0
def Job.srcDpa (j : Job) : Bool := j.desc.getLsbD 9
def Job.dstDpa (j : Job) : Bool := j.desc.getLsbD 10
def Job.auxDpa (j : Job) : Bool := j.desc.getLsbD 11
def Job.src (j : Job) : Nat := j.word 8
def Job.dst (j : Job) : Nat := j.word 16
def Job.len (j : Job) : Nat := j.word 24
def Job.aux (j : Job) : Nat := j.word 32
def Job.arg0 (j : Job) : Nat := j.word 40
def Job.arg1 (j : Job) : Nat := j.word 48

/-- Bytes of the destination of a COMPRESS or DECOMPRESS. -/
def Job.dlen (j : Job) : Nat := j.arg1 % 2 ^ 32

/-- The context block a descriptor names: COMPRESS, DECOMPRESS, CULTURE_TRAIN in TRAIN mode (R231). -/
def Job.ctx (j : Job) : Option (Bool × Nat) :=
  if ([3, 4].contains j.op || (j.op == 6 && j.arg0 % 2 == 0)) && j.aux != 0 then some (j.auxDpa, j.aux) else none

/-- The function that carries a ring's host accesses: a head, or the management port (R379). -/
def Image.rFn (L : Image) (n : Nat) : Nat := if L.rPlace n = 1 then mgmtFn else L.pHead (L.rOwner n)

/-- A job, and a changed job put back. -/
def Mach.job? (m : Mach) (id : Nat) : Option Job := m.dqu.jobs.find? (fun j => j.id == id)
def Mach.setJob (m : Mach) (j : Job) : Mach :=
  { m with dqu := { m.dqu with jobs := m.dqu.jobs.map (fun x => if x.id == j.id then j else x) } }

/-- The agent of a job's accesses to DPA (R105, R214, R217). -/
def jobAgent (L : Image) (j : Job) : Agent :=
  let p := L.rOwner j.ring
  { who := whoJob j.id, src := 8, mst := engineMaster L p, head := L.pHead p, part := p, cluster := some (j.ring % 12) }

/-- An event of the descriptor queue unit: its bit, and DQU_LAST. -/
def Mach.dquEvent (m : Mach) (ring bit : Nat) : Mach := (m.evb oDquEvt bit).setReg oDquLast (put ring 0 ||| put bit 8)

/-! ### Queues and stealing (R213-R219, R228) -/

/-- The steal order of a cluster (R219). -/
def stealOrder (c : Nat) : List Nat :=
  let b := 6 * (c / 6)
  let i := c % 6
  (List.range 5).map (fun k => b + (i + k + 1) % 6) ++ (List.range 6).map (fun k => (6 - b) + (i + k) % 6)

/-- CHN_EN of a churn (R220). -/
def Mach.churnOn (m : Mach) (n : Nat) : Bool := (m.reg (oChnEn (n / 32))).getLsbD (n % 32)

/-- A churn takes work: enabled and running nothing. -/
def Mach.churnIdle (m : Mach) (n : Nat) : Bool := m.churnOn n && (m.chn.run.find? n).isNone && (m.chn.lent.find? n).isNone

/-- Entries of a class queue (R216): in-line 0, RT 1, normal 2, bulk 3. -/
def chnRoom (cls : Nat) : Nat := [64, 64, 128, 256].getD cls 0

/-- The decode asked for of a wedge. -/
def Mach.decode? (m : Mach) (page w : Nat) : Option Decode := m.chn.decodes.find? (fun d => d.page == page && d.wedge == w)

/-- The class of work (R213). -/
def Mach.workCls (m : Mach) : Running → Nat
  | .decode _ _ => 0
  | .job id => ((m.job? id).map (fun j => j.wclass + 1)).getD 2
  | .move p => ((m.led.moveOf p).map (·.cls)).getD 3
  | .clear _ | .sweep _ | .format | .recount => 3

/-- The home cluster of work (R217); that of a format and of a recount, which the specification does not name, is cluster 0 (DESIGN CHOICE, log entry 80). -/
def Mach.workHome (m : Mach) : Running → Nat
  | .decode p w => ((m.decode? p w).map (·.home)).getD (p % 12)
  | .job id => ((m.job? id).map (fun j => j.ring % 12)).getD 0
  | .move p | .clear p | .sweep p => p % 12
  | .format | .recount => 0

/-- The queue of work. -/
def Mach.workKey (m : Mach) (w : Running) : Nat := 4 * m.workHome w + m.workCls w

/-- A class queue of a cluster. -/
def Mach.chq (m : Mach) (k : Nat) : List Running := m.chn.queues.get [] k
def Mach.setChq (m : Mach) (k : Nat) (l : List Running) : Mach := { m with chn := { m.chn with queues := m.chn.queues.set [] k l } }

/-- The place of work in its queue's order: the class of the read that caused it for an in-line decode, and nothing for other work
(R19, R218: first in, first out within a class; DEDUCED, log entry 80). -/
def Mach.workRank (m : Mach) : Running → Nat
  | .decode p w => ((m.decode? p w).map (fun d => clsNat d.cls)).getD 3
  | _ => 0

/-- A queue with work entered. -/
def Mach.queueIn (m : Mach) (w : Running) (l : List Running) : List Running :=
  l.takeWhile (fun x => decide (m.workRank x ≤ m.workRank w)) ++ w :: l.dropWhile (fun x => decide (m.workRank x ≤ m.workRank w))

/-- The churn to pre-empt for a job of a class (R228): one that runs the lowest-class job with a checkpoint, the most recently
started among those. A churn that is to finish its job (R220) is none. -/
def Mach.victimChurn (m : Mach) (cls : Nat) : Option Nat :=
  let js := m.dqu.jobs.filterMap (fun j => match j.st with
    | .running c => if cls < j.wclass + 1 ∧ m.churnOn c ∧ !m.chn.preempt.any (fun p => p.1 == c) then some (j.wclass, j.seq, c) else none
    | _ => none)
  (js.foldl (fun (acc : Option (Nat × Nat × Nat)) x => match acc with
    | none => some x
    | some y => if y.1 < x.1 ∨ (y.1 = x.1 ∧ y.2.1 < x.2.1) then some x else some y) none).map (·.2.2)

/-- A job that has entered a queue while no churn is free is to pre-empt one, at most once (R228). -/
def Mach.wantChurn (m : Mach) (w : Running) : Mach :=
  match w with
  | .job id =>
    let cls := m.workCls w
    if (List.range 96).any m.churnIdle || !m.rbit oChnCtl 0 || decide (3 ≤ cls) || m.chn.preempt.any (fun p => p.2 == id) then m
    else match m.victimChurn cls with
      | some c => { m with chn := { m.chn with preempt := m.chn.preempt ++ [(c, id)] } }
      | none => m
  | _ => m

/-- Work held outside a full queue enters it in order as room frees (R216). -/
def Mach.chnEnter (m : Mach) (k : Nat) : Mach :=
  match m.chn.wait.find? (fun p => p.1 == k) with
  | some p => if (m.chq k).length < chnRoom (k % 4) then
      (({ m with chn := { m.chn with wait := m.chn.wait.erase p } }).setChq k (m.queueIn p.2 (m.chq k))).wantChurn p.2 else m
  | none => m

/-- The work a churn would take (R219): by class, its own cluster first. -/
def Mach.pick (m : Mach) (c : Nat) : Option (Nat × Running) :=
  (List.range 4).findSome? fun cls => (c / 8 :: stealOrder (c / 8)).findSome? fun cl =>
    ((m.chq (4 * cl + cls)).find? (fun w => !m.chn.avoid.contains (c, w))).map (fun w => (4 * cl + cls, w))

/-- What is held outside full queues enters them where room has come. -/
def Mach.chnRefill (m : Mach) : Mach := (m.chn.wait.map (·.1)).foldl Mach.chnEnter m

end Sys2Proof.Machine
end

