-- ==== Sys2Proof/Machine/Pages.lean ====
section
/-! DEFINITION. Page commands and the ledger's commands: FORGET and RETIRE (R173, R174), the release of quarantined media, fetches,
frames, the sweep, and the format (R139-R142). -/

namespace Sys2Proof.Machine

/-! ### Taking a page (R173) -/

/-- Take the churn array's work off a page's move. -/
def Mach.unrunMove (m : Mach) (page : Nat) : Mach :=
  let keep := fun (w : Running) => w != Running.move page
  Mach.chnRefill { m with chn := { m.chn with run := m.chn.run.filter (fun (p : Nat × Running) => keep p.2),
                                              queues := m.chn.queues.map (fun (p : Nat × List Running) => (p.1, p.2.filter keep)),
                                              wait := m.chn.wait.filter (fun p => keep p.2) } }

/-- Stop a page's move: its destination is given back (R151). -/
def stopMove (L : Image) (m : Mach) (page : Nat) : Mach :=
  if (m.led.moveOf page).isSome then ((undoMove L m page).ungrant (whoMove page)).unrunMove page else m

/-- The media of a page's entry, freed: a frame, or a cellar extent with its culture count (R151). -/
def freeEntry (m : Mach) (page : Nat) (e : LEnt) : Mach :=
  if 1 ≤ e.k then (m.freeUnitsLater page e.ma e.k).countBy e.cult (-1)
  else if e.st = 1 ∨ e.st = 3 ∨ e.st = 4 then m.freeLater page e.ma
  else m

/-- The media of a page's entry, quarantined (R174). -/
def quarEntry (m : Mach) (e : LEnt) : Mach :=
  if 1 ≤ e.k then ({ m with led := { m.led with quarCellar := m.led.quarCellar ++ [(e.ma, e.k)] } }).countBy e.cult (-1)
  else { m with led := { m.led with quarFrames := m.led.quarFrames ++ [e.ma] } }

/-- Pinned pages counted for PIN_MAX: one less when a pinned page stops being one. -/
def Mach.unpinned (m : Mach) (e : LEnt) (moving : Bool) : Mach :=
  if e.st = 4 || moving then { m with led := { m.led with pinned := m.led.pinned - 1 } } else m

/-- The entry without media. -/
def LEnt.bare (e : LEnt) (st : Nat) : LEnt :=
  { e with st, dic := false, pp := false, cs := false, ma := 0, k := 0, cult := 0, woff := [0, 0, 0, 0, 0, 0, 0] }

/-- FORGET of one page (R151, R173), once its entry is in the ledger cache: it asks for the page's 64 lines, and acts when all are taken.
Pending tally sums of a line are merged as it is taken (R416). False when it waits. -/
def forgetPage (L : Image) (a : Agent) (page : Nat) (m : Mach) : Attempt Bool :=
  match m.ent? page with
  | none => .ok false m
  | some e => match takeAll m a page with
    | some new => .wait new
    | none =>
      let relPin := (m.led.moveOf page).any (fun v => v.kind == .relocate && v.pin)
      let m := stopMove L (m.dropPage page) page
      if e.st = 0 then .ok true (m.putEnt page { e with dic := false } false)
      else .ok true (((freeEntry m page e).unpinned e relPin).flip page (e.bare 0))

/-- RETIRE of one page (R151, R173, R174), likewise: false when it waits, for a move to end too. An Unwritten page has no transition and
stays as it is, and so does a Retired one. -/
def retirePage (L : Image) (a : Agent) (page : Nat) (m : Mach) : Attempt Bool :=
  match m.ent? page with
  | none => .ok false m
  | some e =>
    if e.st = 3 then .ok false m
    else if e.st = 0 ∨ e.st = 5 then .ok true m
    else match takeAll m a page with
      | some new => .wait new
      | none =>
        let m := stopMove L (m.dropPage page) page
        .ok true (((quarEntry m e).unpinned e false).flip page (e.bare 5))

/-- The argument of LDG_CMD. -/
def Mach.ldgArg (m : Mach) : Nat := (m.reg oLdgArgLo).toNat + 2 ^ 32 * m.rfld oLdgArgHi 0 0

/-- A page command ends with a result: 1 done, 2 BAD_ARG. -/
def Mach.ldgEnd (m : Mach) (code : Nat) : Mach := { m with led := { m.led with cmdBusy := false, cmdResult := code } }

/-- The agent of LDG_CMD: it takes lines as source 8 (R173). -/
def ledgerAgent : Agent := { who := whoLedger, src := 8, mst := mDesc }

/-- LDG_CMD RETIRE (R174) of the page that the argument named when it was given. While it waits for the page's lines it stays BUSY, and goes on
when it is given again. -/
def retireCmd (L : Image) (m : Mach) : Mach :=
  let p := if m.led.cmdBusy then m.led.cmdArg else m.ldgArg
  let m : Mach := { m with led := { m.led with cmdArg := p } }
  if m.led.extents * 65536 ≤ p ∨ flatPage L p then m.ldgEnd 2
  else match runWork L whoLedger (retirePage L ledgerAgent p) askRounds (ledGet L m mDesc p).2 with
    | (some true, m) => (m.pumpAll L).ldgEnd 1
    | (_, m) => { m with led := { m.led with cmdBusy := true } }

/-- LDG_CMD RELEASE_FRAME (R174): not while another command is BUSY. -/
def releaseFrame (L : Image) (m : Mach) : Mach :=
  let f := m.ldgArg
  if m.led.cmdBusy then m
  else if m.led.quarFrames.contains f then
    (giveFrame L { m with led := { m.led with quarFrames := m.led.quarFrames.erase f } } f).ldgEnd 1
  else m.ldgEnd 2

/-- LDG_CMD RELEASE_CELLAR (R174): units of a channel that is not LIVE stay off the lists (R336). -/
def releaseCellar (m : Mach) : Mach :=
  let cf := m.ldgArg
  let mine := m.led.quarCellar.filter (fun p => p.1 / 16 == cf)
  if m.led.cmdBusy then m
  else if mine.isEmpty then m.ldgEnd 2
  else
    let m : Mach := { m with led := { m.led with quarCellar := m.led.quarCellar.filter (fun p => p.1 / 16 != cf) } }
    (mine.foldl (fun m p => giveUnits m p.1 p.2) m).ldgEnd 1

/-! ### Fetches, frames, write-backs -/

/-- LEDGER_FETCH_DONE (R148). -/
def fetchDone (L : Image) (m : Mach) (j : Nat) (e0 e1 : SymErr) : Mach :=
  if !m.led.fetching.contains j then m
  else match ledInstall L m j e0 e1 with
    | some m => m.pumpAll L
    | none => m

/-- A page that has a frame sends the lines that wait for one in the hold queue to the write queues (R151, R154). -/
def sendHeld (L : Image) (m : Mach) (page : Nat) : Mach :=
  match m.ent? page with
  | some e =>
    if (e.st = 1 ∨ e.st = 4) ∧ !m.led.wantFrame.contains page then
      let mine := m.led.held.filter (fun p => p.1 / 64 == page)
      let m : Mach := { m with led := { m.led with held := m.led.held.filter (fun p => p.1 / 64 != page) } }
      mine.foldl (fun m p => ((sendLine L m e.ma p.1 p.2 {}).2).noteClean page) m
    else m
  | none => m

/-- FRAME_ALLOCATE (R151, R154): the page gets its frame, and its held lines go to the write queues. -/
def allocateFrame (L : Image) (m : Mach) (page : Nat) : Mach := (sendHeld L (frameAllocate L m page) page).pumpAll L

/-- WRITE_BACK (R30): a dirty line leaves its way, when it can and no request stands on it. -/
def writeBackCmd (L : Image) (m : Mach) (line : Nat) : Mach :=
  if m.tracked line then m
  else match writeBack L m line {} with
    | some m => m.pumpAll L
    | none => m

/-- SET_STALL_RELEASE (R109): the install of a waiting request is tried again, that of a clean line already answered for too. -/
def stallRelease (L : Image) (m : Mach) (id : Nat) : Mach :=
  match m.home.trk.find? (fun r => r.id == id) with
  | some r => (if r.phase = .stall then turn L m r else m).pumpAll L
  | none => m

/-! ### Formatting (R141) -/

/-- LDG_FMT_CTL FORMAT (R141). -/
def formatCmd (L : Image) (m : Mach) (key : Nat) : Mach :=
  if key ≠ 0x5C1EA2 ∨ m.led.fmtBusy then m
  else if (List.range 64).any L.pValid then { m with led := { m.led with fmtResult := 2 } }
  else
    let ext := m.rfld oFmtDpa 17 0
    let dup := m.rbit oFmtDpa 31
    let cel := m.rfld oFmtCellar 14 0
    if !fmtFits L m ext cel dup then { m with led := { m.led with fmtResult := 3 } }
    else
      let m := (fmtStart L m ext cel dup false).chnRefill
      { m with pwr := { m.pwr with memReady := false }, yoke := { m.yoke with trust := false } }

/-! ### The commands -/

/-- LEDGER_FETCH_DONE. -/
def execLedgerFetchDone (lline : Nat) (e0 e1 : SymErr) (s : State) : Host.Outcome State Fault Refusal :=
  s.work (fun m => fetchDone s.live m lline e0 e1)

/-- WRITE_BACK. -/
def execWriteBack (line : Nat) (s : State) : Host.Outcome State Fault Refusal := s.work (fun m => writeBackCmd s.live m line)

/-- SET_STALL_RELEASE. -/
def execSetStallRelease (req : Nat) (s : State) : Host.Outcome State Fault Refusal := s.work (fun m => stallRelease s.live m req)

/-- FRAME_ALLOCATE. -/
def execFrameAllocate (page : Nat) (s : State) : Host.Outcome State Fault Refusal := s.work (fun m => allocateFrame s.live m page)

/-- MEDIA_SETTLED. -/
def execMediaSettled (s : State) : Host.Outcome State Fault Refusal := s.work (settleFreed s.live)

/-- MOVE_START. -/
def execMoveStart (s : State) : Host.Outcome State Fault Refusal := s.work (moveStart s.live)

/-- RETIRE. Writes of LDG_CMD are ignored in the safe state (R465). -/
def execRetire (s : State) : Host.Outcome State Fault Refusal := s.work (retireCmd s.live)

/-- RELEASE_FRAME. -/
def execReleaseFrame (s : State) : Host.Outcome State Fault Refusal := s.work (releaseFrame s.live)

/-- RELEASE_CELLAR. -/
def execReleaseCellar (s : State) : Host.Outcome State Fault Refusal := s.work releaseCellar

/-- FORMAT. Writes of LDG_FMT_CTL are ignored in the safe state (R465). -/
def execFormat (key : BitVec 24) (s : State) : Host.Outcome State Fault Refusal := s.work (fun m => formatCmd s.live m key.toNat)

end Sys2Proof.Machine
end

