-- ==== Sys2Proof/Machine/Wake.lean ====
section
/-! DEFINITION. What ends a power state early (R480, R483, R486): an entry undone, a wake begun, and the effect of an access on a part
that is entering or asleep. -/

namespace Sys2Proof.Machine

/-- A wake in DROWSE or DEEP: its sources are recorded, in the layout of PWR_WAKE_EN, and the exit begins (R480, R486). -/
def beginWake (m : Mach) (srcs : Byte) : Mach :=
  match m.pwr.st with
  | .drowse => { m with pwr := { m.pwr with st := .waking, toDeep := false, cause := srcs } }
  | .deep => { m with pwr := { m.pwr with st := .waking, toDeep := true, cause := srcs } }
  | _ => m

/-- The part is in DROWSE or on its way out of it: what a link brings waits until the part is ACTIVE (R480, R527). -/
def Mach.dozing (m : Mach) : Bool := m.pwr.st == .drowse || (m.pwr.st == .waking && !m.pwr.toDeep)

/-- What a head sends is held: its link is in Recovery (R54, R62), or brings it to a part in DROWSE (R480). -/
def Mach.holdsFrom (m : Mach) (h : Nat) : Bool := (m.head h).st == .recovery || (m.dozing && (m.head h).st.linked)

/-- An access over a link reaches the part: it undoes an entry, and wakes a part in DROWSE (R480). -/
def touch (L : Image) (m : Mach) : Mach :=
  match m.pwr.st with
  | .entering => undoEntry L m
  | .drowse => beginWake m 1#8
  | _ => m

/-- A yoke record, or a VC2 message other than HEARTBEAT, does the same by its own source (R480, R486). -/
def touchYoke (L : Image) (m : Mach) : Mach :=
  match m.pwr.st with
  | .entering => undoEntry L m
  | .drowse => beginWake m 2#8
  | _ => m

end Sys2Proof.Machine
end

