-- ==== Sys2Proof/Machine/Requests.lean ====
section
/-! DEFINITION. The hosts' requests to memory and what serves them at the port, the regulator and the home: CXL.mem and CXL.io requests,
snoop answers and timeouts, tally records. -/

namespace Sys2Proof.Machine

/-! ### Snoops (R122-R126) -/

/-- A snoop is outstanding to a head for a line. -/
def Mach.snoopOut (m : Mach) (h line : Nat) : Bool := m.home.snoops.any (fun s => s.head == h && s.line == line)

/-- A response after its snoop has ended is discarded and counted (R126). -/
def Mach.lateRsp (m : Mach) : Mach := (m.bump oCntLate).evb oHomEvt 1

/-- BIRSP: the snoop completes, and what waited for it goes on (R122). -/
def snoopRsp (L : Image) (m : Mach) (h line : Nat) (rsp : SnpRsp) : Mach :=
  if !(m.head h).st.linked then m
  else if m.snoopOut h line then (m.snoopAnswer h line rsp).pumpAll L else m.lateRsp

/-- BICONFLICT (R122, R126). -/
def snoopConflict (m : Mach) (h line : Nat) : Mach :=
  if !(m.head h).st.linked then m
  else if m.snoopOut h line then m.send (.biConflictAck h line) else m.lateRsp

/-- Fail one snoop by timeout: HOM_TO_LINE, TO count (R124). -/
def timeoutOne (L : Image) (m : Mach) (h line : Nat) : Mach :=
  let p := (m.sfGet line).any (fun e => e.stA && e.pres.getLsbD h)
  let m := (snoopFail L m h line).bump oCntTo
  (m.setReg oToLo (BitVec.ofNat 32 line)).setReg oToHi (put (line / 2 ^ 32 % 128) 0 ||| put h 8 ||| putB p 11)

/-- A snoop of a line to a head whose timer runs: those of a head in RECOVERY are held, and their timers start again after it (R62). -/
def Mach.snoopTimed (m : Mach) (h line : Nat) : Bool := m.home.snoops.any (fun s => s.head == h && s.line == line && !s.held)

/-- SNOOP_TIMEOUT (R124): what arrives in the CORE cycle comes before its timeouts (R106); then, unless the snoop has ended, the head is
unresponsive, and every snoop outstanding to it fails. -/
def snoopTimeout (L : Image) (m : Mach) (h line : Nat) : Mach :=
  let m := coreCycle L m
  if !m.snoopTimed h line then m
  else
    let m := m.setReg oUnresp (m.reg oUnresp ||| put 1 h)
    let others := (m.home.snoops.filter (fun s => s.head == h && s.line != line)).map (·.line)
    let m := others.foldl (fun m l => (snoopFail L m h l).bump oCntTo) m
    let m := ((timeoutOne L m h line).evb oHomEvt 0).raiseA 16 h 1 (line * 64)
    m.pumpAll L

/-! ### Requests at a head -/

/-- What a head sends over its link acts at once, or is held: while the link is in Recovery (R54, R62), and while the part is in DROWSE, which
it wakes (R480, R486, R527). -/
def received (s : State) (h : Nat) (i : Instr) (act : State → Host.Outcome State Fault Refusal) : Host.Outcome State Fault Refusal :=
  if s.m.holdsFrom h then s.op (fun m => holdBack (if m.dozing then touch s.live m else m) h i) else act s

/-- Likewise for an access that comes by way of a head's link or of the management port. -/
def receivedVia (s : State) (via : Option (Fin 8)) (i : Instr) (act : State → Host.Outcome State Fault Refusal) : Host.Outcome State Fault Refusal :=
  match via with
  | some h => received s h i act
  | none =>
    if s.m.dozing && s.m.mgmt.up then
      s.op (fun m => let m := touch s.live m; { m with mgmt := { m.mgmt with held := m.mgmt.held ++ [i] } })
    else act s

/-- A request over a head's link: it touches a part that is entering a power state or asleep, and arrives. -/
def request (s : State) (h : Fin 8) (ld : Fin 16) (tag : Nat) (hpa : BitVec 52) (kind : ReqKind) (sram : SramErr) (i : Instr) :
    Host.Outcome State Fault Refusal :=
  received s h i (fun s => s.op (fun m => arrive s.live s.latch (touch s.live m) h ld tag hpa.toNat kind sram))

/-- MEM_RD. -/
def execMemRd (h : Fin 8) (ld : Fin 16) (tag : Nat) (hpa : BitVec 52) (m : MetaRd) (sram : SramErr) (s : State) :
    Host.Outcome State Fault Refusal := request s h ld tag hpa (.read m) sram (.memRd h ld tag hpa m sram)

/-- MEM_WR. -/
def execMemWr (h : Fin 8) (ld : Fin 16) (tag : Nat) (hpa : BitVec 52) (m : Meta) (data : Line) (poison : Bool) (sram : SramErr)
    (s : State) : Host.Outcome State Fault Refusal :=
    request s h ld tag hpa (.write m data poison) sram (.memWr h ld tag hpa m data poison sram)

/-- MEM_CLN_EVCT. -/
def execMemClnEvct (h : Fin 8) (ld : Fin 16) (tag : Nat) (hpa : BitVec 52) (s : State) (sram : SramErr := .none) :
    Host.Outcome State Fault Refusal := request s h ld tag hpa .clean sram (.memClnEvct h ld tag hpa sram)

/-- ATOMIC_OP. A misaligned one is answered as a malformed TLP (R129). -/
def execAtomicOp (h : Fin 8) (ld : Fin 16) (tag : Nat) (hpa : BitVec 52) (op : Atomic) (s : State) (sram : SramErr := .none) :
    Host.Outcome State Fault Refusal :=
  if op.bytes = 0 ∨ hpa.toNat % op.bytes ≠ 0 then
    received s h (.atomicOp h ld tag hpa op sram)
      (fun s => s.op (fun m => if (m.head h).st.linked then (touch s.live m).send (.errMsg h tag) else m))
  else request s h ld tag hpa (.atomic op (hpa.toNat % 64)) sram (.atomicOp h ld tag hpa op sram)

/-- CXL_IO_MEMORY_REQUEST (R119, R120). -/
def execCxlIoMemoryRequest (h : Fin 8) (ld : Fin 16) (tag : Nat) (hpa : BitVec 52) (write : Bool) (be : BitVec 64) (data : Line)
    (s : State) (sram : SramErr := .none) : Host.Outcome State Fault Refusal :=
  request s h ld tag hpa (if write then .ioWrite data be else .ioRead) sram (.cxlIoMemoryRequest h ld tag hpa write be data sram)

/-- REGULATOR_ADMIT: a CORE cycle, in which `errs` names the SRAM errors that the accepted requests of the part's agents meet. What the
tally unit's input queues hold may enter (R413). -/
def execRegulatorAdmit (s : State) (errs : List (Nat × SramErr) := []) : Host.Outcome State Fault Refusal :=
  s.work (fun m => (regulatorCycle s.live errs m).drainTally s.live)

/-- WINDOW_BOUNDARY. -/
def execWindowBoundary (s : State) : Host.Outcome State Fault Refusal := s.work (windowBoundary s.live)

/-- BIRSP. -/
def execBirsp (h : Fin 8) (line : Nat) (rsp : SnpRsp) (s : State) : Host.Outcome State Fault Refusal :=
  received s h (.birsp h line rsp) (fun s => s.op (fun m => snoopRsp s.live m h line rsp))

/-- BICONFLICT. -/
def execBiconflict (h : Fin 8) (line : Nat) (s : State) : Host.Outcome State Fault Refusal :=
  received s h (.biconflict h line) (fun s => s.op (fun m => snoopConflict m h line))

/-- SNOOP_TIMEOUT. -/
def execSnoopTimeout (h : Fin 8) (line : Nat) (s : State) : Host.Outcome State Fault Refusal :=
  s.op (fun m => snoopTimeout s.live m h line)

/-! ### Tally records -/

/-- TALLY_RECORD_POST. -/
def execTallyRecordPost (h : Fin 8) (off : BitVec 23) (bytes : Nat) (recs : List (BitVec 64 × Bool)) (s : State) :
    Host.Outcome State Fault Refusal :=
  received s h (.tallyRecordPost h off bytes recs) (fun s => s.op (fun m => tallyPost s.live s.latch (touch s.live m) h off.toNat bytes recs))

/-- COALESCER_AGE_MERGE. -/
def execCoalescerAgeMerge (line : Nat) (s : State) : Host.Outcome State Fault Refusal := s.work (fun m => tallyMergeLine s.live m line)

/-- TALLY_MERGE. -/
def execTallyMerge (line : Nat) (s : State) : Host.Outcome State Fault Refusal := s.work (fun m => tallyMergeLine s.live m line)

/-- HDM_DECODER_COMMIT. -/
def execHdmDecoderCommit (h : Fin 8) (ld : Fin 16) (d : Decoder) (s : State) : Host.Outcome State Fault Refusal :=
  received s h (.hdmDecoderCommit h ld d) (fun s => s.op (fun m => decCommit s.live m h ld d))

/-- LAG_WAIT_RELEASE (R364): writes that wait for lag room are installed when the condition has cleared. -/
def lagRelease (L : Image) (m : Mach) : Mach :=
  let w := m.home.trk.filter (fun r => r.phase == .lag)
  (w.foldl (fun m r => if mirrorLag L m r.line then m else turn L m { r with phase := .start }) m).pumpAll L

/-- LAG_WAIT_RELEASE. -/
def execLagWaitRelease (s : State) : Host.Outcome State Fault Refusal := s.work (lagRelease s.live)

end Sys2Proof.Machine
end

