-- ==== Sys2Proof/Machine/Churn.lean ====
section
/-! DEFINITION. The churn array (R211-R236): stealing, lending, checkpoints and parking, page faults; and how the ledger's
moves and the in-line decodes end on it. -/

namespace Sys2Proof.Machine

/-! ### A job leaves the array -/

/-- Take a job off the churn array: its churn, its queue entry, its slot, and what it was to pre-empt or be pre-empted for. -/
def Mach.unrunJob (m : Mach) (id : Nat) : Mach :=
  let keep := fun (w : Running) => w != Running.job id
  let its := (m.chn.run.filter (fun (p : Nat × Running) => !keep p.2)).map (·.1)
  let m : Mach := { m with chn := { m.chn with run := m.chn.run.filter (fun (p : Nat × Running) => keep p.2),
                                               queues := m.chn.queues.map (fun (p : Nat × List Running) => (p.1, p.2.filter keep)),
                                               wait := m.chn.wait.filter (fun p => keep p.2), avoid := m.chn.avoid.filter (fun p => keep p.2),
                                               preempt := m.chn.preempt.filter (fun p => p.2 != id && !its.contains p.1) } }
  m.chnRefill

/-! ### How a job ends (R391, R395) -/

/-- TALLY_BATCH, STRAIN_INSERT and STRAIN_DELETE (R395). -/
def Job.isBatch (j : Job) : Bool := j.op == 0x10 || j.op == 0x15 || j.op == 0x16

/-- RESULT of a status other than OK for a job that is stopped: by the opcode's group; `more` is what the piece under way has written. -/
def Job.stopResult (j : Job) (more : Nat := 0) : Nat :=
  if (8 ≤ j.op ∧ j.op ≤ 12) ∨ j.op = 0x18 then (match j.first with
    | some f => f.2
    | none => (j.dst / 4096 + j.prog) % 2 ^ 33)
  else if j.isBatch then (match j.first with
    | some f => f.2
    | none => j.prog)
  else if j.op = 0x1E ∨ j.op = 0x1F then 0
  else j.wrote + more

/-- A value in pieces that a lane holds (R412). -/
def lanePieces (v : Nat) : List Nat :=
  List.replicate (v / (2 ^ 56 - 1)) (2 ^ 56 - 1) ++ (if v % (2 ^ 56 - 1) = 0 then [] else [v % (2 ^ 56 - 1)])

/-- The counters that a TALLY_READ has cleared by accesses not yet taken up. -/
def Mach.tookOf (m : Mach) (j : Job) (p : Nat) : List Took :=
  (m.home.done.filter (fun d => d.who == whoJob j.id && !d.p)).flatMap (fun d => match d.kind with
    | .agClear be => ((List.range 8).filter (fun k => be.getLsbD (8 * k))).map (fun k => { line := d.line, lane := k, value := fld d.data (64 * k + 63) (64 * k), part := p, dest := none })
    | _ => [])

/-- Counter values that a TALLY_READ cleared and did not write go back through the coalescer to the lines they came from, while those
extents keep ROLE = 1 and their OWNER; otherwise they are counted as lost (R419). -/
def giveBack (L : Image) (m : Mach) (took : List Took) : Mach :=
  let m := took.foldl (fun (m : Mach) (t : Took) =>
    let x := L.extent (t.line / 64 / 65536)
    if eRole x = 1 ∧ eOwner x = t.part then
      { m with tally := { m.tally with inq := m.tally.inq ++ (lanePieces t.value).map (fun v =>
          { port := 3, line := t.line, lane := t.lane, pair := false, inc := v, part := t.part, sat := (tallyTab L t.part).any (·.sat) }) } }
    else m.bump (oTlyCnt 3)) m
  m.drainTally L

/-- The writes of a job's piece that have been made, or that still will be when it is stopped: those answered, at the home, and on their way to their
slices unless its ring has left the job's epoch, which drops them there (R383). -/
def Mach.piecesWritten (m : Mach) (j : Job) : List (Nat × BitVec 64) :=
  let be := fun (k : ReqKind) (l : Nat) => match k with
    | .agWrite _ be .. => some (l, be)
    | _ => none
  let who := whoJob j.id
  ((m.home.done.filter (fun d => d.who == who && !d.denied)).filterMap (fun d => be d.kind d.line))
    ++ ((m.home.trk ++ (if j.stale then [] else m.home.fab)).filter (fun r => r.ofWho who)).filterMap (fun r => be r.kind r.line)

/-- The strainer table that a descriptor names. -/
def Job.table (L : Image) (j : Job) : Option StnTab := stnFind L (L.rOwner j.ring) (j.arg0 % 16)

/-- Bytes of a data opcode's destination. -/
def Job.destLen (j : Job) (L : Image) : Nat :=
  match j.op with
  | 0x01 | 0x02 => j.len
  | 0x03 | 0x04 => j.dlen
  | 0x06 => if j.arg0 % 2 = 0 then 33024 else 0
  | 0x11 => (if (tallyTab L (L.rOwner j.ring)).any (·.pair) then 16 else 8) * j.len
  | 0x14 => ((j.table L).map (fun x => (8 + x.vlen) * j.len)).getD 0
  | _ => 0

/-- Bytes of its destination that the piece under way has written (R395). -/
def Mach.pieceBytes (L : Image) (m : Mach) (j : Job) : Nat :=
  if !j.dstDpa then 0
  else ((m.piecesWritten j).map (fun w => ((List.range 64).filter (fun i => w.2.getLsbD i
    && decide (j.dst + j.wrote ≤ 64 * w.1 + i ∧ 64 * w.1 + i < j.dst + j.destLen L))).length)).sum

/-- A value that a TALLY_READ cleared is not yet written to the destination. -/
def Mach.unwrittenTook (m : Mach) (j : Job) (t : Took) : Bool :=
  match t.dest with
  | some a => !j.dstDpa || !((m.piecesWritten j).any (fun w => w.1 == a / 64) && (m.piecesWritten j).any (fun w => w.1 == (a + 7) / 64))
  | none => true

/-- What a job whose ring has left its epoch has on its way to the slices is dropped there, each message counted (R383). -/
def Mach.dropStale (m : Mach) (id : Nat) : Mach :=
  let mine := fun (r : Req) => r.ofWho (whoJob id)
  let n := (m.home.fab.filter mine).length
  { m with home := { m.home with fab := m.home.fab.filter (fun r => !mine r) } }.bumpBy (oDquCnt 1) n

/-- A job ends with a status and RESULT: what it held is given up; a later descriptor of the ring that names its context block is to
end ABORTED unless the status is OK, OK_EMPTY or NO_SHRINK (R397). -/
def endJob (L : Image) (m : Mach) (id status result : Nat) : Mach :=
  match m.job? id with
  | none => m
  | some j =>
    match j.st with
    | .ended _ _ => m
    | _ =>
      let took := j.took.filter (m.unwrittenTook j) ++ m.tookOf j (L.rOwner j.ring)
      let m := agentForget L (if status = 6 then (m.unrunJob id).dropStale id else m.unrunJob id) (whoJob id)
      let n := m.chn.started + 1
      let m : Mach := { m with chn := { m.chn with started := n, slots := if j.slot = 1 then m.chn.slots - 1 else m.chn.slots } }
      let m := m.setJob { j with st := .ended status result, slot := 0, seq := n, held := [], res := [], coder := none, took := [] }
      let m := if status = 5 ∨ status = 6 ∨ status = 10 then giveBack L m took else m
      let m := if status = 6 then (m.bump (oDquCnt 1)).dquEvent j.ring 3 else m
      let m : Mach := if status = 6 ∧ j.st = .parked ∧ j.prqSent then { m with dqu := { m.dqu with lostPrq := m.dqu.lostPrq ++ [id] } } else m
      let m := if status = 10 then m.bump (oDquCnt 2) else m
      let m := if status = 5 then m.evb oChnEvt 1 else m
      if status ≤ 2 ∨ j.ctx = none then m
      else { m with dqu := { m.dqu with jobs := m.dqu.jobs.map (fun x =>
          if x.ring == j.ring && decide (j.id < x.id) && x.ctx == j.ctx && x.epoch == j.epoch then { x with ctxFail := true } else x) } }

/-- A job is stopped with a status (STALE 6, POISONED 7, ABORTED 10): RESULT by R395. -/
def stopJob (L : Image) (m : Mach) (id status : Nat) : Mach :=
  match m.job? id with
  | some j => endJob L m id status (j.stopResult (m.pieceBytes L j))
  | none => m

/-! ### Churns take work (R218-R220) -/

/-- A churn starts work. A job leaves its context slot. -/
def Mach.startOn (m : Mach) (c : Nat) (w : Running) : Mach :=
  let m : Mach := { m with chn := { m.chn with run := m.chn.run.insert c w, started := m.chn.started + 1,
                                               avoid := m.chn.avoid.filter (fun p => p.2 != w) } }
  match w with
  | .job id => match m.job? id with
    | some j => ({ m with chn := { m.chn with slots := if j.slot = 1 then m.chn.slots - 1 else m.chn.slots } }).setJob
        { j with st := .running c, slot := 0, seq := m.chn.started }
    | none => m
  | _ => m

/-- A free churn takes the next work (R219); a job of an old epoch ends STALE as it is taken (R230, R383), and the churn takes more.
`n` bounds the work looked at. -/
def takeWork (L : Image) : Nat → Nat → Mach → Mach
  | 0, _, m => m
  | n + 1, c, m =>
    if !m.churnIdle c then m
    else match m.pick c with
      | none => m
      | some (k, w) =>
        let m := (m.setChq k ((m.chq k).erase w)).chnEnter k
        let m := if k / 4 = c / 8 then m else (m.bump oCntSteal).pmuEvent 0x303 (c / 8) 1
        match w with
        | .job id => if (m.job? id).any (fun j => j.stale) then takeWork L n c (stopJob L m id 6) else m.startOn c w
        | _ => m.startOn c w

/-- Queued work in the array. -/
def Mach.chnWork (m : Mach) : Nat := (m.chn.queues.map (fun (p : Nat × List Running) => p.2.length)).sum + m.chn.wait.length

/-- The churn that takes work entering a queue of a cluster (R219); one that is to leave the work to others is passed over (R212). -/
def Mach.churnFor (m : Mach) (home : Nat) : Option Nat :=
  (home :: stealOrder home).findSome? (fun cl => ((List.range 8).map (8 * cl + ·)).find? (fun c => m.churnIdle c && (m.pick c).isSome))

/-- Let a free churn take what has entered a queue. -/
def offerWork (L : Image) (m : Mach) (home : Nat) : Mach :=
  match m.churnFor home with
  | some c => takeWork L (m.chnWork + 1) c m
  | none => m

/-- Work enters its home cluster's queue, or is held until there is room, behind what is already held; an in-line decode is offered again instead
(R216). -/
def pushWork (L : Image) (m : Mach) (w : Running) : Mach :=
  let k := m.workKey w
  if chnRoom (k % 4) ≤ (m.chq k).length ∨ m.chn.wait.any (fun p => p.1 == k) then
    (match w with
      | .decode _ _ => m
      | _ => { m with chn := { m.chn with wait := m.chn.wait ++ [(k, w)] } })
  else offerWork L ((m.setChq k (m.queueIn w (m.chq k))).wantChurn w) (k / 4)

/-- Work that was stopped or parked returns to the head of its class queue (R218); while that is full, it is the first to enter (R216). -/
def Mach.headWork (m : Mach) (w : Running) : Mach :=
  let k := m.workKey w
  if (m.chq k).length < chnRoom (k % 4) then m.setChq k (w :: m.chq k) else { m with chn := { m.chn with wait := (k, w) :: m.chn.wait } }

/-- The work stands in the array. -/
def Mach.hasWork (m : Mach) (w : Running) : Bool :=
  m.chn.run.any (fun (p : Nat × Running) => p.2 == w) || m.chn.queues.any (fun (p : Nat × List Running) => p.2.contains w)
    || m.chn.wait.any (fun p => p.2 == w) || (match w with
      | .decode p v => m.chn.lent.any (fun (x : Nat × (Nat × Nat)) => x.2 == (p, v))
      | _ => false)

/-- A media line of an in-line decode is still on its way (R21 step 10). -/
def Mach.inlineOut (m : Mach) (page w : Nat) : Bool :=
  let mine := fun (q : QEnt) => match q.purpose with
    | .inline p v _ => p == page && v == w && !q.back
    | _ => false
  m.mcs.subs.any (fun (x : Nat × Sub) => x.2.rq.any mine || x.2.fabric.any mine || x.2.flight.any mine)

/-- A started move, or a needed decode whose lines are there, that is not yet on the array enters it. -/
def pushOnce (L : Image) (m : Mach) (w : Running) : Mach :=
  let due := match w with
    | .move p => (m.led.moveOf p).any (·.started)
    | .decode p v => m.decoding p v && !m.inlineOut p v
    | _ => false
  if due && !m.hasWork w then pushWork L m w else m

/-- A churn becomes free; it is no longer to be pre-empted (R228). -/
def Mach.freeChurn (m : Mach) (c : Nat) : Mach :=
  { m with chn := { m.chn with run := m.chn.run.erase c, preempt := m.chn.preempt.filter (fun p => p.1 != c) } }

/-- The churn that runs work. -/
def Mach.churnOf (m : Mach) (w : Running) : Option Nat := (List.find? (fun (p : Nat × Running) => p.2 == w) m.chn.run).map (·.1)

/-- Whether work stands at a yield point at a position (R223): every 512 bytes of input, output or bytes moved, 256 of samples, and every
key or record; page commands, relocations and the sweep have none. The position lies in what is being done since the last checkpoint. -/
def Mach.yields (m : Mach) (w : Running) (pos : Nat) : Bool :=
  match w with
  | .job id => (m.job? id).any (fun j => match j.op with
    | 0x01 | 0x02 | 0x03 | 0x05 => decide (pos % 512 = 0 ∧ j.prog ≤ pos ∧ pos ≤ j.len)
    | 0x04 => decide (pos % 512 = 0 ∧ j.wrote ≤ pos ∧ pos ≤ j.dlen)
    | 0x06 => decide ((if pos ≤ j.len then pos else pos - j.len) % 256 = 0 ∧ j.prog ≤ pos ∧ pos ≤ 2 * j.len)
    | 0x10 | 0x11 | 0x14 | 0x15 | 0x16 => decide (pos ≤ j.len)
    | _ => false)
  | .move p => (m.led.moveOf p).any (fun v => v.kind != .relocate) && decide (pos % 512 = 0 ∧ pos ≤ 4096)
  | .clear _ | .format => decide (pos % 512 = 0)
  | .decode .. | .sweep _ | .recount => false

/-- A churn may lend itself at a position (R220, R222, R226): enabled, not yet lent, not held in PARK_WAIT, and at a yield point of work
that is not in-line. -/
def Mach.lendable (m : Mach) (c pos : Nat) : Bool :=
  m.churnOn c && (m.chn.lent.find? c).isNone && (m.chn.run.find? c).any (fun w => m.yields w pos && (match w with
    | .job id => (m.job? id).any (fun j => match j.st with
      | .running _ => true
      | _ => false)
    | _ => true))

/-- The churn of a list that takes waiting work of a cluster (R222): one of that cluster first, then the lowest; never one that is to leave the
work to others (R212). -/
def Mach.lender (m : Mach) (cs : List Nat) (cl : Nat) (w : Running) : Option Nat :=
  let may := cs.filter (fun c => !m.chn.avoid.contains (c, w))
  ((may.filter (fun c => c / 8 == cl)).min?).or may.min?

/-- In-line work is lent to the churns of a list that stand at yield points (R222), the first work in order of the lowest cluster first, since
the specification does not say which of several waiting works goes first (DESIGN CHOICE, log entry 97). `n` bounds the decodes lent. -/
def lendTo : Nat → List Nat → Mach → Mach
  | 0, _, m => m
  | n + 1, cs, m =>
    match (List.range 12).findSome? (fun cl => (m.chq (4 * cl)).findSome? (fun w => (m.lender cs cl w).map (fun c => (cl, w, c)))) with
    | some (cl, .decode p v, c) =>
      let m := (m.setChq (4 * cl) ((m.chq (4 * cl)).erase (.decode p v))).chnEnter (4 * cl)
      let m : Mach := { m with chn := { m.chn with lent := m.chn.lent.insert c (p, v),
                                                   avoid := m.chn.avoid.filter (fun x => x.2 != .decode p v) } }
      lendTo n (cs.filter (· != c)) ((m.bump oCntLend).pmuEvent 0x304 (c / 8) 1)
    | _ => m

/-- CHURN_LEND (R222): in-line work that finds no free churn is taken by the churns that reach yield points in a CHURN cycle; `ready` names
them with their positions. -/
def Mach.lend (m : Mach) (ready : List (Nat × Nat)) : Mach :=
  if (List.range 96).any m.churnIdle then m
  else lendTo ready.length (((ready.filter (fun r => m.lendable r.1 r.2)).map (·.1)).eraseDups) m

/-! ### The moves and decodes that run on the array -/

/-- The lines read ahead for a decode that is given up go. -/
def Mach.dropInline (m : Mach) (page w : Nat) : Mach :=
  let keep := fun (q : QEnt) => match q.purpose with
    | .inline p v _ => !(p == page && v == w)
    | _ => true
  { m with mcs := { m.mcs with subs := m.mcs.subs.map (fun (x : Nat × Sub) =>
    (x.1, { x.2 with rq := x.2.rq.filter keep, fabric := x.2.fabric.filter keep, flight := x.2.flight.filter keep,
                     news := { x.2.news with fwd := x.2.news.fwd.filter (fun p => keep p.1) } })) } }

/-- A decode is over: its requests that still wait look their lines up again. -/
def dropDecode (L : Image) (m : Mach) (page w : Nat) : Mach :=
  let m : Mach := { m with chn := { m.chn with decodes := m.chn.decodes.filter (fun d => !(d.page == page && d.wedge == w)),
                                               avoid := m.chn.avoid.filter (fun x => x.2 != .decode page w) } }
  let rs := m.home.trk.filter (fun r => r.phase == .decode page w)
  (rs.foldl (fun m r => m.setReq { r with phase := .start }) (m.dropInline page w)).pumpAll L

/-- The lines of a decoded wedge: its bytes, or all ones with poison (R26). -/
def wedgeLines (page w : Nat) (d : Option (List Byte)) : List (Nat × Line × Bool × Bool) :=
  (List.range 8).map (fun i => (64 * page + 8 * w + i, match d with
    | some b => (ofBytes 512 ((b.drop (64 * i)).take 64), false, false)
    | none => (BitVec.allOnes 512, true, false)))

/-- A decode ends, from the lines read for it: the wedge's eight lines go to their slices, where they are installed and the requests that wait are
served (R21, R23, R24). All eight are installed, whatever read caused the decode: R108 row 4 and R23 say so, though R119 says that a non-caching
read of a Cellar line is served without installing the line (DESIGN CHOICE, log entry 98). Where the page's entry has changed since the lines were
read, its requests look it up again; an entry that has left the ledger cache is fetched anew, for the first of them (R20). -/
def wedgeEnd (L : Image) (m : Mach) (page w : Nat) (d : Decode) : Mach :=
  let payer := ((m.home.trk.find? (fun r => r.phase == .decode page w)).map (·.mst)).getD mInline
  let (e, m) := ledGet L m payer page
  match e with
  | some e =>
    if 1 ≤ e.k ∧ d.gen = e.gen then
      let (b, bad, m) := readWedge L m page e w true
      let m := if bad then m.wedgeFail page e.cult else m
      let m := m.sendInstalls d (wedgeLines page w b)
      dropDecode L (cyclesIn L m.home.fab.length m) page w
    else dropDecode L m page w
  | none => dropDecode L m page w

/-- WEDGE_DECODE_DONE: the churn that has the decode ends it. -/
def wedgeDone (L : Image) (m : Mach) (page w : Nat) : Mach :=
  let onRun := m.churnOf (.decode page w)
  let onLent := (List.find? (fun (x : Nat × (Nat × Nat)) => x.2 == (page, w)) m.chn.lent).map (·.1)
  match onRun.or onLent, m.decode? page w with
  | some c, some d =>
    let m := if onRun.isSome then m.freeChurn c else { m with chn := { m.chn with lent := m.chn.lent.erase c } }
    wedgeEnd L (m.pmuEvent 0x302 (c / 8) 1) page w d
  | some c, none => if onRun.isSome then m.freeChurn c else { m with chn := { m.chn with lent := m.chn.lent.erase c } }
  | none, _ => m

/-- A piece of a page's move on its churn: `f` does it on the entry, whose GEN must still be the move's (R146). A churn that is lent goes on
only when the lent decode is done (R222); the churn is free once the move, or its attempt, has ended. -/
def moveDone (L : Image) (m : Mach) (page : Nat) (kind : MoveKind) (f : Mach → Move → LEnt → Mach) : Mach :=
  match m.churnOf (.move page), m.led.moveOf page, m.ent? page with
  | some c, some v, some e =>
    if v.kind ≠ kind ∨ !v.started ∨ (m.chn.lent.find? c).isSome then m
    else
      let m := if e.gen = v.gen then f m v e else undoMove L m page
      if (m.led.moveOf page).any (·.started) then m else ((m.freeChurn c).ungrant (whoMove page)).pumpAll L
  | _, _, _ => m

/-- A move's reads, once the regulator lets them in, and then, once it lets those in, its writes (R168, R214, R302). What the reads give stays in
the churn's local memory between the two. -/
def movePiece (L : Image) (page : Nat) (m : Mach) (v : Move) (reads : Nat) (read : Mach → Mach) (writes : Mach → Move → Nat)
    (write : Mach → Move → Mach) : Mach :=
  let a := moveAgent (whoMove page)
  let (ok, m) := if v.got.isEmpty then (match grant L m a 0 reads with
    | (true, m) => (true, read m)
    | x => x) else (true, m)
  match ok, m.led.moveOf page with
  | true, some v => match grant L m a 1 (writes m v) with
    | (true, m) => write m v
    | (false, m) => m
  | _, _ => m

/-- PROMOTION_DONE (R156, R159). -/
def promoteDone (L : Image) (m : Mach) (page : Nat) : Mach :=
  moveDone L m page .promote fun m v e => match v.dst with
    | some f => movePiece L page m v (v.promoSpan e).2 (fun m => promotionRead L m v e) (fun m v => 8 * (m.promoOut v e).length)
        (fun m v => promotionEnd L m v f e)
    | none => undoMove L m page

/-- DEMOTION_DONE (R160-R163). -/
def demoteDone (L : Image) (m : Mach) (page : Nat) : Mach :=
  moveDone L m page .demote fun m v e =>
    if v.stop then demotionEnd L m v e
    else movePiece L page m v 64 (fun m => demotionRead L m v e) (fun m v => 4 * ((m.demoExtent v).map (·.1)).getD 0)
      (fun m v => demotionEnd L m v e)

/-- RELOCATION_DONE (R337). -/
def relocateDone (L : Image) (m : Mach) (page : Nat) : Mach :=
  moveDone L m page .relocate fun m v e => match v.dst with
    | some d => match grant L m (moveAgent (whoMove page)) 0 (if 1 ≤ e.k then 8 * e.k else 128) with
      | (true, m) => relocationEnd L m v d e
      | (false, m) => m
    | none => undoMove L m page

/-! ### Clearing, sweep, format and recount on the array (R142, R213) -/

/-- Two pieces of the ledger's own bulk work of one kind. -/
def Running.alike : Running → Running → Bool
  | .clear _, .clear _ | .sweep _, .sweep _ | .format, .format | .recount, .recount => true
  | _, _ => false

/-- A piece of the ledger's bulk work: it enters its home cluster's bulk queue unless it stands on the array; the churn that has it does it once the
regulator lets its `n` lines in (R302), and is free again. While no churn has taken it, or its churn is lent (R222), it waits. -/
def bulkWork (L : Image) (m : Mach) (w : Running) (who n : Nat) (f : Mach → Mach) : Mach :=
  let on := fun (m : Mach) => List.find? (fun (p : Nat × Running) => p.2.alike w) m.chn.run
  let stands := (on m).isSome || m.chn.queues.any (fun (p : Nat × List Running) => p.2.any (fun x => x.alike w))
    || m.chn.wait.any (fun p => p.2.alike w)
  let m := if stands then m else pushWork L m w
  match on m with
  | some p => if (m.chn.lent.find? p.1).isSome then m else paced L m (moveAgent who) n (fun m => f (m.freeChurn p.1))
  | none => m

/-- FRAME_CLEAR (R153): nothing is cleared with RATE = 0. -/
def frameClear (L : Image) (m : Mach) : Mach :=
  match ivTake m.led.uncleared with
  | some (f, _) => if m.rfld oClrCtl 15 0 = 0 ∨ m.scb.paused then m else bulkWork L m (.clear f) whoClear 64 Mach.clearFrame
  | none => m

/-- SWEEP_VISIT (R165): the next entry of the sweep, while it is on, memory is ready and no power state pauses it (R482). -/
def sweepStep (L : Image) (m : Mach) : Mach :=
  if !skimEn L ∨ m.scb.paused ∨ !m.pwr.memReady ∨ !m.led.formatted ∨ m.led.extents = 0 then m
  else bulkWork L m (.sweep m.led.sweep) whoSweep (if sweepReads L m then 1 else 0) (sweepVisit L)

/-- FORMAT_DONE (R140). -/
def formatStep (L : Image) (m : Mach) : Mach :=
  if m.led.fmtBusy then bulkWork L m .format whoFormat (64 * ((fmtRuns L m).1 + (fmtRuns L m).2)) (fmtDone L) else m

/-- RECOUNT_WALK_DONE (R142): the walk of the ledger, once memory is ready. -/
def recountStep (L : Image) (m : Mach) : Mach :=
  if m.led.recount && m.pwr.memReady then bulkWork L m .recount whoRecount m.recountReads (recountDone L) else m

/-! ### Parking (R226, R228) -/

/-- A job leaves its churn at its last checkpoint: the history in local memory is given up, to be read again (R227), and input read beyond
the checkpoint too. A STRAIN does its lookups again for the results not yet written (R237). -/
def Job.leave (j : Job) : Job :=
  let j := if j.op = 0x14 then { j with res := [], acc := 0, first := none, again := false } else j
  match j.coder with
  | none => j
  | some c =>
    let d := Yelrin.Dec.ofNats c.ctx.fmt [] c.ctx.chk c.ctx.nums
    let back := if c.ctx.dir then min (d.bits.length / 8) j.prog else 0
    let nums := if c.ctx.dir then ({ d with bits := d.bits.take (d.bits.length - 8 * back) }).toNats else c.ctx.nums
    { j with prog := j.prog - back,
             coder := some { ctx := { c.ctx with hist := [], nums }, lost := some (c.lost.getD c.ctx.hist.length) } }

/-- Save a stopped job's state: in its PARK area when few slots are free, in a context slot, or nowhere yet (R226). True when saved.
What the PARK area then holds is opaque: `park` writes it. -/
def Mach.saveState (m : Mach) (park : Mach → Job → Mach) (j : Job) : Option (Nat × Mach) :=
  let left := 256 - m.chn.slots
  if j.ctx.isSome ∧ left < m.rfld oChnCtl 15 8 + 1 then some (2, park (m.bump oCntSpill) j)
  else if 0 < left then some (1, { m with chn := { m.chn with slots := m.chn.slots + 1 } })
  else none

/-- Park a running job, by a fault or a pre-emption: its churn is free once its state is saved. -/
def Mach.park (m : Mach) (park : Mach → Job → Mach) (j : Job) (c : Nat) (fault : Bool) : Mach :=
  let j := j.leave
  match m.saveState park j with
  | some (slot, m) =>
    let m := m.freeChurn c
    if fault then m.setJob { j with st := .parked, slot }
    else (m.setJob { j with st := .queued, slot }).headWork (.job j.id)
  | none => ((m.setJob { j with st := .parkWait c fault }).evb oChnEvt 3).raise 50 c

/-- CONTEXT_SLOT_FREE (R226): a freed slot takes the state of a job in PARK_WAIT, of the lowest-numbered churn first. -/
def Mach.slotFree (m : Mach) : Mach :=
  if 256 ≤ m.chn.slots then m
  else match m.chn.run.findSome? (fun (p : Nat × Running) => match p.2 with
      | .job id => match m.job? id with
        | some j => match j.st with
          | .parkWait c f => some (j, c, f)
          | _ => none
        | none => none
      | _ => none) with
    | some (j, c, fault) =>
      let m := ({ m with chn := { m.chn with slots := m.chn.slots + 1 } }).freeChurn c
      if fault then m.setJob { j with st := .parked, slot := 1 }
      else (m.setJob { j with st := .queued, slot := 1 }).headWork (.job j.id)
    | none => m

/-- A parked job returns to its queue (R218, R234). -/
def resume (L : Image) (m : Mach) (j : Job) : Mach :=
  offerWork L (((m.setJob { j with st := .queued, prqSent := false }).headWork (.job j.id)).wantChurn (.job j.id)) (j.ring % 12)

/-- LOCAL_MEMORY_UE (R212): the churn's work restarts on another churn; a job ends POISONED the second time. -/
def localUe (L : Image) (m : Mach) (c : Nat) (syn : Word) : Mach :=
  match m.chn.run.find? c with
  | none => m
  | some w =>
    let m := (m.evb oChnEvt 0).raiseOcc { src := 49, unit := c, detail := 0, addr := 0, addrk := 0, syn }
    let lent := m.chn.lent.find? c
    let again := fun (m : Mach) (w : Running) =>
      let m : Mach := { m with chn := { m.chn with avoid := m.chn.avoid ++ [(c, w)] } }
      offerWork L (m.headWork w) (m.workHome w)
    let m := m.freeChurn c
    let m : Mach := { m with chn := { m.chn with lent := m.chn.lent.erase c } }
    let m := match lent with
      | some d => again m (.decode d.1 d.2)
      | none => m
    match w with
    | .job id => match m.job? id with
      | some j =>
        if 1 ≤ j.lmErrs then stopJob L m id 7
        else again ((m.setJob { j.leave with st := .queued, lmErrs := 1 })) w
      | none => m
    | _ => again m w

/-! ### Page faults (R234) -/

/-- PRI_PAGE_REQUEST: sent for a parked job's page, unless the function may send none; it waits while the function's outstanding allocation
has no `room`. -/
def pageRequest (L : Image) (m : Mach) (id : Nat) (room : Bool) : Mach :=
  match m.job? id with
  | none => m
  | some j =>
    let fn := L.rFn j.ring
    if j.st ≠ .parked ∨ j.prqSent ∨ !room ∨ m.chn.priBlocked.contains fn then m
    else
      let page := j.faultAddr / 4096
      let n := ((j.faults.find? (fun p => p.1 == page)).map (·.2)).getD 0
      let m := m.setJob { j with prqSent := true, faults := (page, n + 1) :: j.faults.filter (fun p => p.1 != page) }
      (m.bump oCntPri).send (.pageReq fn (page * 4096))

/-- A job ends FAULT_UNRESOLVED with the faulting address (R395). -/
def unresolved (L : Image) (m : Mach) (j : Job) : Mach := endJob L m j.id 5 (j.faultAddr / 4096 % 2 ^ 48)

/-- PRG_RESPONSE: a parked job resumes or ends; a Failure ends every parked job of the function and blocks it. A response for a job of
an old epoch is dropped and counted (R383). -/
def pageResponse (L : Image) (m : Mach) (id : Nat) (code : PrgCode) : Mach :=
  if m.dqu.lostPrq.contains id then { m with dqu := { m.dqu with lostPrq := m.dqu.lostPrq.erase id } }.bump (oDquCnt 1)
  else match m.job? id with
  | none => m
  | some j =>
    if j.st ≠ .parked ∨ !j.prqSent then m
    else match code with
      | .success => resume L m j
      | .invalid => unresolved L m j
      | .failure =>
        let fn := L.rFn j.ring
        let js := m.dqu.jobs.filter (fun x => x.st == .parked && L.rFn x.ring == fn)
        let m := js.foldl (unresolved L) m
        { m with chn := { m.chn with priBlocked := if m.chn.priBlocked.contains fn then m.chn.priBlocked else m.chn.priBlocked ++ [fn] } }

/-- PRI_TIMEOUT. -/
def pageTimeout (L : Image) (m : Mach) (id : Nat) : Mach :=
  match m.job? id with
  | none => m
  | some j =>
    if j.st ≠ .parked ∨ !j.prqSent then m
    else ((unresolved L m j).evb oChnEvt 2).raiseA 51 j.ring 4 j.faultAddr

/-- CHN_EN_WRITE (R220). -/
def chnEnable (m : Mach) (i : Nat) (v : Word) : Mach :=
  let m' := m.setReg (oChnEn i) v
  if ((List.range 96).filter m'.churnOn).length < 8 then m else m'

/-! ### Meanings -/

/-- WEDGE_DECODE_DONE. -/
def execWedgeDecodeDone (page : Nat) (wedge : Fin 8) (s : State) : Host.Outcome State Fault Refusal :=
  s.work (fun m => wedgeDone s.live m page wedge)

/-- PROMOTION_DONE. -/
def execPromotionDone (page : Nat) (s : State) (errs : List (Nat × SymErr) := []) : Host.Outcome State Fault Refusal :=
  s.work (fun m => m.withErrs errs (fun m => promoteDone s.live m page))

/-- DEMOTION_DONE. -/
def execDemotionDone (page : Nat) (s : State) (errs : List (Nat × SymErr) := []) : Host.Outcome State Fault Refusal :=
  s.work (fun m => m.withErrs errs (fun m => demoteDone s.live m page))

/-- RELOCATION_DONE. -/
def execRelocationDone (page : Nat) (s : State) (errs : List (Nat × SymErr) := []) : Host.Outcome State Fault Refusal :=
  s.work (fun m => m.withErrs errs (fun m => relocateDone s.live m page))

/-- RECOUNT_WALK_DONE. -/
def execRecountWalkDone (s : State) : Host.Outcome State Fault Refusal := s.work (recountStep s.live)

/-- CHURN_FREE (R219). -/
def execChurnFree (churn : Fin 96) (s : State) : Host.Outcome State Fault Refusal :=
  s.work (fun m => takeWork s.live (m.chnWork + 1) churn m)

/-- CHURN_LEND. -/
def execChurnLend (ready : List (Fin 96 × Nat)) (s : State) : Host.Outcome State Fault Refusal :=
  s.work (fun m => m.lend (ready.map (fun r => (r.1.toNat, r.2))))

/-- SWEEP_VISIT. -/
def execSweepVisit (s : State) : Host.Outcome State Fault Refusal := s.work (sweepStep s.live)

/-- FRAME_CLEAR. -/
def execFrameClear (s : State) : Host.Outcome State Fault Refusal := s.work (frameClear s.live)

/-- FORMAT_DONE. -/
def execFormatDone (s : State) : Host.Outcome State Fault Refusal := s.work (formatStep s.live)

/-- LOCAL_MEMORY_UE. -/
def execLocalMemoryUe (churn : Fin 96) (syn : Word) (s : State) : Host.Outcome State Fault Refusal := s.work (fun m => localUe s.live m churn syn)

/-- CONTEXT_SLOT_FREE. -/
def execContextSlotFree (s : State) : Host.Outcome State Fault Refusal := s.work Mach.slotFree

/-- PRI_PAGE_REQUEST. -/
def execPriPageRequest (job : Nat) (s : State) (room : Bool := true) : Host.Outcome State Fault Refusal :=
  s.work (fun m => pageRequest s.live m job room)

/-- The head over whose link a job's page response comes. -/
def prgVia (s : State) (job : Nat) : Option (Fin 8) :=
  (s.m.job? job).bind (fun j => let fn := s.live.rFn j.ring; if fn < 8 then some (Fin.ofNat 8 fn) else none)

/-- PRG_RESPONSE. -/
def execPrgResponse (job : Nat) (code : PrgCode) (s : State) : Host.Outcome State Fault Refusal :=
  receivedVia s (prgVia s job) (.prgResponse job code) fun s => s.work (fun m => pageResponse s.live m job code)

/-- PRI_TIMEOUT. -/
def execPriTimeout (job : Nat) (s : State) : Host.Outcome State Fault Refusal := s.work (fun m => pageTimeout s.live m job)

/-- CHN_EN_WRITE. -/
def execChnEnWrite (i : Fin 3) (v : Word) (s : State) : Host.Outcome State Fault Refusal := s.op (fun m => chnEnable m i v)

end Sys2Proof.Machine
end

