-- ==== Sys2Proof/Machine/Stage.lean ====
section
/-! DEFINITION. The stage as registers write it (R75, R80, R94): staged registers, the extent window, the map window. -/

namespace Sys2Proof.Machine

/-- BUSY of GLB_STAGE_STATUS. -/
def Commit.busy (c : Commit) : Bool := c.op != .idle

/-- An armed paired APPLY ends unapplied (R375): the partner is told, and both report PAIR_ABORTED. Neither the abort nor the ignored
write that made it clears CHECKED: an ignored write writes nothing (DESIGN CHOICE, log entry 84). -/
def pairAbort (s : State) : State :=
  if s.commit.op = .armed then
    let m : Mach := { s.m with yoke := { s.m.yoke with phase := 4, goAcked := false, peerArm := none }, tally := { s.m.tally with direct := [] } }
    { s with commit := { s.commit with op := .idle, code := 0x31#8 }, m := m.ykMsg 2 9 [] }
  else s

/-- A staged write ignored because BUSY = 1 (R94); while armed it aborts the pair (R375). -/
def State.lostWrite (s : State) : State := pairAbort { s with commit := { s.commit with lost := true } }

/-- A write to staged state (R94): lost while BUSY = 1, and otherwise it clears CHECKED. True when it was stored. -/
def State.stageWrite (s : State) (f : Image → Image) : State :=
  if s.commit.busy then s.lostWrite
  else { s with stage := f s.stage, commit := { s.commit with checked := false, pairedPass := false } }

/-- Fields of an index register: INDEX, LIVE, AUTOINC. -/
def Mach.ixNo (m : Mach) (off : Nat) : Nat := m.rfld off 16 0
def Mach.ixLive (m : Mach) (off : Nat) : Bool := m.rbit off 30

/-- Advance INDEX by `n`, modulo its width. -/
def Mach.ixAdd (m : Mach) (off n : Nat) : Mach :=
  m.setReg off ((m.reg off &&& 0xFFFE0000#32) ||| put ((m.ixNo off + n) % 131072) 0)

/-- Advance INDEX by 1 with AUTOINC. -/
def Mach.ixAuto (m : Mach) (off : Nat) : Mach := if m.rbit off 31 then m.ixAdd off 1 else m

/-- The staged bits of an extent entry. -/
def extWord (lo hi : Word) : BitVec 64 := (hi &&& 0x1FFFF#32) ++ (lo &&& 0x7FFFFFFF#32)

/-- Store an extent entry of an image. -/
def Image.setExtent (i : Image) (e : Nat) (x : BitVec 64) : Image := { i with ext := i.ext.set extDefault e x }

/-- GLB_EXT_DATA_LO: the holding register. It and the last GLB_EXT_DATA_HI value hold 0 after reset, so that a FILL before any write of
them stores an entry of zeros (DESIGN CHOICE, log entry 84). -/
def extLoWrite (s : State) (v : Word) : State :=
  if s.commit.busy then s.lostWrite
  else if s.m.ixLive oExtIndex then s
  else { s with commit := { s.commit with holdLo := v } }

/-- GLB_EXT_DATA_HI (R75). -/
def extHiWrite (s : State) (v : Word) : State :=
  if s.commit.busy then s.lostWrite
  else if s.m.ixLive oExtIndex then s
  else
    let s := s.stageWrite (fun i => i.setExtent (s.m.ixNo oExtIndex) (extWord s.commit.holdLo v))
    { s with commit := { s.commit with holdHi := v }, m := s.m.ixAuto oExtIndex }

/-- GLB_EXT_FILL. -/
def extFillWrite (s : State) (v : Word) : State :=
  let n := fld v 17 0
  let k := s.m.ixNo oExtIndex
  if s.commit.busy then s.lostWrite
  else if s.m.ixLive oExtIndex ∨ 131072 < k + n then s
  else
    let x := extWord s.commit.holdLo s.commit.holdHi
    let s := s.stageWrite (fun i => (List.range n).foldl (fun i t => i.setExtent (k + t) x) i)
    { s with m := s.m.ixAdd oExtIndex n }

/-- GLB_MAP_DATA (R80). -/
def mapWrite (s : State) (v : Word) : State :=
  if s.commit.busy then s.lostWrite
  else if s.m.ixLive oMapIndex then s
  else
    let s := s.stageWrite (fun i => { i with map := i.map.set 0 (s.m.ixNo oMapIndex) (fld v 16 0) })
    { s with m := s.m.ixAuto oMapIndex }

/-- A register of a channel that is not used, whose writes are ignored (R261, R295, R296): its queue, latency and refresh set-up. -/
def Mach.unusedReg (m : Mach) (off : Nat) : Bool :=
  match mcReg off with
  | some (c, r) => !m.pop.used.contains c && (r == 8 || r == 0xC || r == 0x10 || r == 0x20)
  | none => false

/-- A write at a staged offset; the refresh set-up of a channel that is not used takes none. -/
def stagedPut (s : State) (off : Nat) (v : Word) : State :=
  if s.m.unusedReg off then s
  else if off = oExtLo then extLoWrite s v
  else if off = oExtHi then extHiWrite s v
  else if off = oExtFill then extFillWrite s v
  else if off = oMapData then mapWrite s v
  else if stMask off = 0#32 then s
  else s.stageWrite (fun i => i.setReg off (v &&& stMask off))

/-- What GLB_EXT_DATA_LO and GLB_EXT_DATA_HI read. -/
def extRead (s : State) : BitVec 64 :=
  (if s.m.ixLive oExtIndex then s.live else s.stage).extent (s.m.ixNo oExtIndex)

/-- What GLB_MAP_DATA reads: with LIVE = 1 the DC state too (R87). -/
def mapRead (s : State) : Word :=
  let k := s.m.ixNo oMapIndex
  if s.m.ixLive oMapIndex then put (s.live.mapEnt k) 0 ||| put (s.m.dc.get 0 k) 17 else put (s.stage.mapEnt k) 0

/-- STAGED_WRITE. -/
def execStagedWrite (off : BitVec 26) (v : Word) (s : State) : Host.Outcome State Fault Refusal := .next (stagedPut s off.toNat v)

/-- EXT_DATA_HI_WRITE. -/
def execExtDataHiWrite (v : Word) (s : State) : Host.Outcome State Fault Refusal := .next (extHiWrite s v)

/-- EXT_DATA_HI_READ. -/
def execExtDataHiRead (s : State) : Host.Outcome State Fault Refusal :=
  .next { s with m := (s.m.send (.regData .mgmt [(extRead s).extractLsb' 32 32])).ixAuto oExtIndex }

/-- EXT_FILL. -/
def execExtFill (v : Word) (s : State) : Host.Outcome State Fault Refusal := .next (extFillWrite s v)

/-- MAP_DATA_WRITE. -/
def execMapDataWrite (v : Word) (s : State) : Host.Outcome State Fault Refusal := .next (mapWrite s v)

/-- MAP_DATA_READ. -/
def execMapDataRead (s : State) : Host.Outcome State Fault Refusal :=
  .next { s with m := (s.m.send (.regData .mgmt [mapRead s])).ixAuto oMapIndex }

end Sys2Proof.Machine
end

