-- ==== Sys2Proof/Machine/Jobs.lean ====
section
/-! DEFINITION. The descriptors' operations (R171-R173, R204-R210, R224-R240, R386-R395, R418-R427), piece by piece: a piece is what
lies between two checkpoints. -/

namespace Sys2Proof.Machine

/-! ### Memory as a descriptor reaches it (R379, R385, R393) -/

/-- What an access or a piece answers: a value, or the requests that it needs. The job's mirror acknowledgements are kept with its other
state. -/
inductive Acc (α : Type) where
  | ok (a : α) (j : Job) (m : Mach)
  | wait (new : List Req)

/-- Go on with a value. -/
def Acc.bind {α β : Type} (r : Acc α) (f : α → Job → Mach → Acc β) : Acc β :=
  match r with
  | .ok a j m => f a j m
  | .wait new => .wait new

/-- The key of the host memory that a ring's descriptors reach: function and PASID. -/
def hostKey (L : Image) (ring : Nat) : Nat :=
  let c := L.reg (oRing ring 6)
  L.rFn ring + 16 * (if c.getLsbD 20 then fld c 19 0 + 1 else 0)

/-- Host memory of a key. -/
def Mach.host (m : Mach) (k : Nat) : Memory := m.hostMem.get [] k
def Mach.setHost (m : Mach) (k : Nat) (c : Memory) : Mach := { m with hostMem := m.hostMem.set [] k c }

/-- A page is Retired, by its ledger entry in the ledger cache or in media. -/
def retiredNow (L : Image) (m : Mach) (page : Nat) : Bool :=
  !flatPage L page && (m.peekEnt page).st == 5

/-- The job notes that it touches Retired pages (R152). -/
def Job.touch (j : Job) (L : Image) (m : Mach) (lines : List Nat) : Job :=
  { j with retired := j.retired || ((lines.map (· / 64)).eraseDups).any (retiredNow L m) }

/-- Ask for lines with an agent, and go on with the answers. -/
def askLines {α : Type} (a : Agent) (l : List (Nat × ReqKind)) (j : Job) (m : Mach) (f : List Done → Job → Acc α) : Acc α :=
  match m.askAll a j.asked l with
  | .wait new => .wait new
  | .got ds => f ds { j with asked := j.asked + l.length }

/-- Read lines of DPA, each with its poison. -/
def readLines (L : Image) (lines : List Nat) (j : Job) (m : Mach) : Acc (List (List Byte × Bool)) :=
  askLines (jobAgent L j) (lines.map (fun l => (l, .agRead))) j m fun ds j =>
    .ok (ds.map (fun d => (bytesOf d.data 64, d.p))) (j.touch L m lines) m

/-- Read bytes of a space, each with the poison of its line. -/
def readSpan (L : Image) (dpa : Bool) (addr n : Nat) (j : Job) (m : Mach) : Acc (List (Byte × Bool)) :=
  if n = 0 then .ok [] j m
  else if dpa then
    let l0 := addr / 64
    (readLines L ((List.range ((addr + n - 1) / 64 + 1 - l0)).map (l0 + ·)) j m).bind fun ls j m =>
      .ok (((ls.flatMap (fun x => x.1.map (fun b => (b, x.2)))).drop (addr % 64)).take n) j m
  else .ok ((Memory.bytes hostBg (m.host (hostKey L j.ring)) (addr % 2 ^ 64) n).map (fun b => (b, false))) j m

/-- Keep the record of a mirrored write that a synchronous extent's completion waits for (R397). -/
def Job.ack (L : Image) (j : Job) (a : Option (Nat × Nat)) : Job :=
  match a with
  | some r => if syncMode L then { j with acks := j.acks ++ [r] } else j
  | none => j

/-- Keep the records of answers. -/
def Job.ackAll (L : Image) (j : Job) (ds : List Done) : Job := ds.foldl (fun j d => j.ack L d.ack) j

/-- The writes of bytes from byte `off` of line `l` on: whole lines replaced, parts merged (R387). `n` bounds the lines. -/
def lineWrites : Nat → Nat → Nat → List (Byte × Bool) → List (Nat × ReqKind)
  | 0, _, _, _ => []
  | n + 1, l, off, bs =>
    if bs.isEmpty then []
    else
      let seg := bs.take (64 - off)
      (l, .agWrite (ofBytes 512 (List.replicate off 0#8 ++ seg.map (·.1))) (BitVec.ofNat 64 ((2 ^ seg.length - 1) <<< off)) (seg.any (·.2)) 0#2 true)
        :: lineWrites n (l + 1) 0 (bs.drop (64 - off))

/-- Write bytes to a space. -/
def writeSpan (L : Image) (dpa : Bool) (addr : Nat) (bs : List (Byte × Bool)) (j : Job) (m : Mach) : Acc Unit :=
  if dpa then
    let ws := lineWrites (bs.length / 64 + 2) (addr / 64) (addr % 64) bs
    askLines (jobAgent L j) ws j m fun ds j => .ok () ((j.ackAll L ds).touch L m (ws.map (·.1))) m
  else
    let k := hostKey L j.ring
    .ok () j (m.setHost k (Memory.putAll hostBg (m.host k) (addr % 2 ^ 64) (bs.map (·.1))))

/-- Clean bytes, to be written. -/
def clean (l : List Byte) : List (Byte × Bool) := l.map (fun b => (b, false))

/-- The bytes before the first poisoned one. -/
def good (l : List (Byte × Bool)) : List Byte := (l.takeWhile (fun b => !b.2)).map (·.1)

/-- A value that the specification does not state, for a job's byte: the free values beyond those that `fresh` numbers. -/
def Job.freeAt (j : Job) (i : Nat) : Nat := 2 ^ 64 * (j.id + 1) + i

/-- Bytes of a job's without a stated value. -/
def Job.freeBytes (j : Job) (at' n : Nat) : List (Byte × Bool) := (List.range n).map (fun i => (Config.free 8 (j.freeAt (at' + i)), false))

/-- Write bytes whose value the specification does not state over a range, for a job that has left its churn: nobody waits for the writes. -/
def scramble (L : Image) (dpa : Bool) (addr n : Nat) (j : Job) (m : Mach) : Mach :=
  let bs := j.freeBytes addr n
  if dpa then
    let ws := (lineWrites (n / 64 + 2) (addr / 64) (addr % 64) bs).filter (fun w => dpaOk L m (L.rOwner j.ring) (w.1 / 64 / 65536))
    coreCycle L (m.issueAll (ws.map (fun w => { (jobAgent L j).ask 0 w.1 w.2 with quiet := true })))
  else
    let k := hostKey L j.ring
    m.setHost k (Memory.putAll hostBg (m.host k) (addr % 2 ^ 64) (bs.map (·.1)))

/-! ### Pieces -/

/-- How a piece ends: at a checkpoint with more to do, between checkpoints, with a wait for something other than the home's answers, with a
status and RESULT, or at a page that is denied. -/
inductive Piece where
  | more
  | step
  | hold
  | ended (status result : Nat)
  | denied (page : Nat)

/-- The outcome of a piece. -/
abbrev PieceOut := Acc Piece

/-- COPY of one piece (R236, R387). -/
def copyPiece (L : Image) (j : Job) (m : Mach) : PieceOut :=
  let n := min 8192 (j.len - j.prog)
  (readSpan L j.srcDpa (j.src + j.prog) n j m).bind fun bs j m =>
    let out := if j.dstDpa then bs else clean (good bs)
    (writeSpan L j.dstDpa (j.dst + j.prog) out j m).bind fun _ j m =>
      let j := { j with prog := j.prog + n, wrote := j.wrote + out.length }
      if out.length < n then .ok (.ended 7 j.wrote) j m
      else if j.len ≤ j.prog then .ok (.ended 0 j.wrote) j m else .ok .more j m

/-- FILL of one piece: destination byte i takes pattern byte i mod 8. -/
def fillPiece (L : Image) (j : Job) (m : Mach) : PieceOut :=
  let n := min 8192 (j.len - j.prog)
  let pat := bytesOfNat j.arg0 8
  (writeSpan L j.dstDpa (j.dst + j.prog) (clean ((List.range n).map (fun i => pat.getD ((j.prog + i) % 8) 0#8))) j m).bind fun _ j m =>
    let j := { j with prog := j.prog + n, wrote := j.wrote + n }
    if j.len ≤ j.prog then .ok (.ended 0 j.wrote) j m else .ok .more j m

/-- CHECKSUM of one piece (R388). -/
def checksumPiece (L : Image) (j : Job) (m : Mach) : PieceOut :=
  let n := min 8192 (j.len - j.prog)
  (readSpan L j.srcDpa (j.src + j.prog) n j m).bind fun bs j m =>
    if (good bs).length < n then .ok (.ended 7 0) j m
    else
      let alg := j.arg0 % 4
      let seed : Word := BitVec.ofNat 32 (if j.prog = 0 then j.arg1 % 2 ^ 32 else j.acc)
      let v := if alg = 0 then Codec.crc32c seed (good bs) else if alg = 1 then Codec.crc32 seed (good bs) else Codec.adler32 seed (good bs)
      let j := { j with prog := j.prog + n, acc := v.toNat }
      if j.len ≤ j.prog then .ok (.ended 0 j.acc) j m else .ok .more j m

/-! ### The context block (R231, R232) -/

/-- What a coder area written by this part means; other bytes mean what `Config.coderDec` says. -/
def Mach.coder (m : Mach) (b : List Byte) : List Nat :=
  match m.chn.coders.find? (fun p => p.1 == b) with
  | some p => p.2
  | none => Config.coderDec b

/-- Read a context block: none where MAGIC, VERSION, STATE or HCRC is wrong, or a line is poisoned. -/
def readCtx (L : Image) (dpa : Bool) (addr : Nat) (j : Job) (m : Mach) : Acc (Option Ctx) :=
  (readSpan L dpa addr 69632 j m).bind fun bs j m =>
    let b := good bs
    let h := b.drop 65536
    let num := fun (i n : Nat) => natOfBytes ((h.drop i).take n)
    let ok := b.length == 69632 && h.take 3 == [0x59#8, 0x58#8, 1#8] && num 5 1 == 1
      && num 60 4 == (Codec.crc32c 0#32 (h.take 60 ++ h.drop 64)).toNat
    let hfill := num 28 4
    let hpos := num 32 4
    .ok (if ok then some
        { fmt := num 3 1 % 4, dir := decide (128 ≤ num 3 1), cult := if num 4 1 / 64 % 2 = 1 then some (num 4 1 % 64) else none,
          loads := num 6 2, inTot := num 8 8, outTot := num 16 8, chk := BitVec.ofNat 32 (num 24 4),
          hist := (List.range hfill).map (fun i => b.getD ((hpos + 65536 - 1 - i) % 65536) 0#8),
          pend := num 36 2, nums := m.coder (h.drop 64) }
      else none) j m

/-- Write a context block: `ended` says that the stream has ended. The coder's bytes are the part's own. -/
def writeCtx (L : Image) (dpa : Bool) (addr : Nat) (c : Ctx) (ended : Bool) (total : Nat) (j : Job) (m : Mach) : Acc Unit :=
  let coder := ((Config.coderEnc c.nums) ++ List.replicate 4032 0#8).take 4032
  let m : Mach := { m with chn := { m.chn with coders := (coder, c.nums) :: m.chn.coders.filter (fun p => p.1 != coder) } }
  let hpos := total % 65536
  let n := c.hist.length
  let head := [0x59#8, 0x58#8, 1#8] ++ bytesOfNat (c.fmt + 128 * c.dir.toNat) 1
    ++ bytesOfNat (match c.cult with
      | some s => 64 + s
      | none => 0) 1 ++ bytesOfNat (if ended then 2 else 1) 1 ++ bytesOfNat c.loads 2
    ++ bytesOfNat c.inTot 8 ++ bytesOfNat c.outTot 8 ++ bytesOf c.chk 4 ++ bytesOfNat n 4 ++ bytesOfNat hpos 4 ++ bytesOfNat c.pend 2
    ++ List.replicate 22 0#8
  let hdr := head ++ bytesOf (Codec.crc32c 0#32 (head ++ coder)) 4 ++ coder
  let old := c.hist.reverse
  let start := (hpos + 65536 - n) % 65536
  (writeSpan L dpa (addr + start) (clean (old.take (65536 - start))) j m).bind fun _ j m =>
    (writeSpan L dpa addr (clean (old.drop (65536 - start))) j m).bind fun _ j m =>
      writeSpan L dpa (addr + 65536) (clean hdr) j m

/-- Store the stream's state when the descriptor names a context block, unless the job has touched a Retired page, or would here, and so
completes POISONED (R152, R232). -/
def keepCtx (L : Image) (c : Ctx) (ended : Bool) (total : Nat) (j : Job) (m : Mach) : Acc Unit :=
  match j.ctx with
  | some (dpa, a) =>
    let j := if dpa then j.touch L m ((List.range 1088).map (a / 64 + ·)) else j
    if j.retired then .ok () j m else writeCtx L dpa a c ended total j m
  | none => .ok () j m

/-! ### Streams (R205-R210, R225, R389, R390, R552) -/

/-- Stream word fields. -/
def Job.fmt (j : Job) : Nat := j.arg0 % 4
def Job.cultEn (j : Job) : Bool := j.arg0.testBit 2
def Job.slotNo (j : Job) : Nat := j.arg0 / 8 % 64
def Job.sStart (j : Job) : Bool := j.arg0.testBit 9
def Job.sEnd (j : Job) : Bool := j.arg0.testBit 10

/-- The dictionary of a slot, newest first. -/
def Mach.dictRev (m : Mach) (slot : Option Nat) : List Byte :=
  ((slot.bind m.cultImg).map (fun i => (Yelrin.imgDict i).reverse)).getD []

/-- Load count of a slot, modulo its field. -/
def Mach.loads (m : Mach) (slot : Nat) : Nat := m.chn.loadCnt.get 0 slot % 65536

/-- OVERFLOW: from the output's end to the end of the destination each byte holds output or what it held; which of them is left open, and a free
value decides (R205). What was not decoded for want of room, a match that has none among it, leaves what was there (DESIGN CHOICE, log entry 99). -/
def overflow (L : Image) (out : List Byte) (j : Job) (m : Mach) : PieceOut :=
  let n := j.dlen - j.wrote
  (readSpan L j.dstDpa (j.dst + j.wrote) n j m).bind fun old j m =>
    let mix := (List.range n).map (fun i =>
      if i < out.length ∧ Config.freeBool (j.freeAt i) then (out.getD i 0#8, false) else old.getD i (0#8, false))
    (writeSpan L j.dstDpa (j.dst + j.wrote) mix j m).bind fun _ j m => .ok (.ended 11 0) j m

/-- Write a piece's output behind what earlier pieces wrote. -/
def putOut (L : Image) (out : List Byte) (j : Job) (m : Mach) : Acc Unit :=
  (writeSpan L j.dstDpa (j.dst + j.wrote) (clean out) j m).bind fun _ j m => .ok () { j with wrote := j.wrote + out.length } m

/-- What a stream's piece begins with: the stream, or a status that ends the job. -/
inductive Begin where
  | bad (status : Nat)
  | ok (c : Ctx)

/-- The history of a stream read again after its job has left a churn (R227): of a COMPRESS from its source, of a DECOMPRESS from its
destination, and what lies before the job's first byte from the context block. -/
def againHist (L : Image) (c : Ctx) (n : Nat) (j : Job) (m : Mach) : Acc Begin :=
  let dpa := if c.dir then j.dstDpa else j.srcDpa
  let from' := if c.dir then j.dst else j.src
  let here := if c.dir then j.wrote else j.prog
  let k := min n here
  (readSpan L dpa (from' + here - k) k j m).bind fun bs j m =>
    if bs.any (·.2) then .ok (.bad 7) j m
    else
      let new := (bs.map (·.1)).reverse
      if k = n then .ok (.ok { c with hist := new }) j m
      else match j.ctx with
        | none => .ok (.bad 4) j m
        | some (x, a) => (readCtx L x a j m).bind fun o j m => match o with
          | some o => .ok (.ok { c with hist := new ++ o.hist.take (n - k) }) j m
          | none => .ok (.bad 4) j m

/-- The stream that a piece goes on with: the job's own, or what its context block holds (`ok` judges it); `fresh` is a first piece's. -/
def beginStream (L : Image) (fresh : Option Ctx) (ok : Ctx → Bool) (j : Job) (m : Mach) : Acc Begin :=
  match j.coder with
  | some c => match c.lost with
    | some n => againHist L c.ctx n j m
    | none => .ok (.ok c.ctx) j m
  | none =>
    if j.sStart then .ok (match fresh with
      | some c => .ok c
      | none => .bad 4) j m
    else match j.ctx with
      | none => .ok (.bad 4) j m
      | some (dpa, a) => (readCtx L dpa a j m).bind fun c j m => .ok (match c with
        | some c => if c.fmt == j.fmt && !c.cult.any (fun s => m.loads s != c.loads) && ok c then .ok c else .bad 4
        | none => .bad 4) j m

/-- The culture slot that a COMPRESS names. -/
def Job.slot? (j : Job) : Option Nat := if j.cultEn then some j.slotNo else none

/-- The stream a COMPRESS begins with. -/
def encBegin (L : Image) (j : Job) (m : Mach) : Acc Begin :=
  let fresh : Ctx := { fmt := j.fmt, dir := false, cult := j.slot?, loads := if j.cultEn then m.loads j.slotNo else 0, inTot := 0, outTot := 0,
                       chk := Yelrin.chkInit j.fmt, hist := [], pend := 0, nums := [] }
  beginStream L (if j.cultEn && (m.cultImg j.slotNo).isNone then none else some fresh) (fun c => !c.dir && c.cult == j.slot?) j m

/-- The encoder of a stream: a context holds the last original bytes, those not yet coded first, and behind them comes the dictionary. -/
def encOf (m : Mach) (c : Ctx) : Yelrin.Enc :=
  let pend := c.pend + 8192 * c.nums.getD 0 0
  { fmt := c.fmt, cult := c.cult, hist := (c.hist.drop pend ++ m.dictRev c.cult).take 57344, pend := (c.hist.take pend).reverse,
    odd := (c.nums.drop 1).map (fun x => x == 1), total := c.inTot, written := c.outTot, chk := c.chk }

/-- The context that an encoder leaves. -/
def encCtx (e : Yelrin.Enc) (loads : Nat) : Ctx :=
  { fmt := e.fmt, dir := false, cult := e.cult, loads, inTot := e.total, outTot := e.written, chk := e.chk,
    hist := (e.pend.reverse ++ e.hist.take (e.total - e.pend.length)).take 65536, pend := e.pend.length % 8192,
    nums := e.pend.length / 8192 :: e.odd.map Bool.toNat }

/-- A slot that a descriptor codes with has been replaced since it began (R189). -/
def Mach.replaced (m : Mach) (j : Job) : Bool := j.loadCnt.any (fun p => m.loads p.1 != p.2)

/-- The work waits for the copy of a slot applied (R240). -/
def Mach.copyingSlot (m : Mach) (s : Option Nat) : Bool := s.any m.chn.copying.contains

/-- COMPRESS to its next checkpoint, the end of a block (R224): input that completes a block is read and coded, and the output written; at
the end of the input the stream's state is kept or the stream ends. -/
def compressPiece (L : Image) (j : Job) (m : Mach) : PieceOut :=
  if m.replaced j then .ok (.ended 10 j.wrote) j m
  else if m.copyingSlot j.slot? then .ok .hold j m
  else (encBegin L j m).bind fun b j m => match b with
    | .bad s => .ok (.ended s j.wrote) j m
    | .ok c =>
      let e := encOf m c
      let first := j.sStart && j.coder.isNone
      let j := { j with loadCnt := e.cult.map (fun s => (s, c.loads)) }
      let n := min (j.len - j.prog) (16384 - e.pend.length)
      (readSpan L j.srcDpa (j.src + j.prog) n j m).bind fun bs j m =>
        let g := good bs
        let room := j.dlen - j.wrote
        if g.length < n ∨ j.prog + n < j.len then
          let r := e.feed m.cultImg g first false
          if room < r.2.length then overflow L r.2 j m
          else (putOut L r.2 j m).bind fun _ j m =>
            if g.length < n then .ok (.ended 7 j.wrote) j m
            else .ok .more { j with prog := j.prog + n, coder := some { ctx := encCtx r.1 c.loads } } m
        else
          let empty := first && j.sEnd && j.len == 0
          let r := e.feed m.cultImg g first j.sEnd
          let out := if empty then Yelrin.emptyForm j.fmt else r.2
          let e := if empty then { r.1 with written := out.length } else r.1
          -- where both apply, OVERFLOW comes before NO_SHRINK (R207 does not say; DESIGN CHOICE, log entry 99)
          if room < out.length then overflow L out j m
          else if j.sEnd ∧ !empty ∧ e.total ≤ e.written then
            (writeSpan L j.dstDpa j.dst (j.freeBytes 0 j.dlen) j m).bind fun _ j m =>
              (keepCtx L (encCtx e c.loads) true e.total j m).bind fun _ j m => .ok (.ended 2 0) j m
          else
            (putOut L out j m).bind fun _ j m =>
              (keepCtx L (encCtx e c.loads) j.sEnd e.total j m).bind fun _ j m =>
                .ok (if empty then .ended 1 0 else .ended 0 j.wrote) j m

/-- The stream a DECOMPRESS begins with. -/
def decBegin (L : Image) (j : Job) (m : Mach) : Acc Begin :=
  let d : Yelrin.Dec := { fmt := j.fmt, chk := Yelrin.chkInit j.fmt }
  beginStream L (some { fmt := j.fmt, dir := true, cult := none, loads := 0, inTot := 0, outTot := 0, chk := d.chk, hist := [], pend := 0,
                        nums := d.toNats }) (fun c => c.dir) j m

/-- The decoder of a stream. -/
def decOf (m : Mach) (c : Ctx) : Yelrin.Dec := Yelrin.Dec.ofNats c.fmt ((c.hist ++ m.dictRev c.cult).take 65536) c.chk c.nums

/-- The context that a decoder leaves. -/
def decCtx (d : Yelrin.Dec) (loads inTot outTot : Nat) : Ctx :=
  { fmt := d.fmt, dir := true, cult := d.cult, loads, inTot, outTot, chk := d.chk, hist := d.hist.take (min d.total 65536), pend := 0,
    nums := d.toNats }

/-- Decode until a block ends, the room is used, the stream ends or is at fault, or the input ends; input is read line by line as it is needed, so
that none wholly after the end of the stream is read (R205, R552). True when it ends at a poisoned line. `n` bounds the reads. -/
def decLoop (L : Image) (room : Nat) : Nat → Yelrin.Dec → Job → Mach → Acc (Yelrin.End × Yelrin.Dec × Bool)
  | 0, d, j, m => .ok (.more, d, false) j m
  | n + 1, d, j, m =>
    let r := d.feed m.cultImg room []
    if r.1 ≠ .more ∨ j.len ≤ j.prog then .ok (r.1, r.2, false) j m
    else (readSpan L j.srcDpa (j.src + j.prog) (min (64 - (j.src + j.prog) % 64) (j.len - j.prog)) j m).bind fun bs j m =>
      let g := good bs
      if g.isEmpty then .ok (.more, r.2, true) j m
      else decLoop L room n { r.2 with bits := r.2.bits ++ Yelrin.bitsOf g } { j with prog := j.prog + g.length } m

/-- DECOMPRESS to its next checkpoint: the end of a block, or 8,192 bytes of output (R224). -/
def decompressPiece (L : Image) (j : Job) (m : Mach) : PieceOut :=
  if m.replaced j then .ok (.ended 10 j.wrote) j m
  else (decBegin L j m).bind fun b j m => match b with
    | .bad s => .ok (.ended s j.wrote) j m
    | .ok c =>
      let d0 := decOf m c
      let at0 := j.prog
      let rest := j.dlen - j.wrote
      let near := min rest 8192
      (decLoop L near (j.len + 4) d0 j m).bind fun r j m =>
        -- one element may be longer than the interval
        let far := decide (r.1 = .overflow ∧ near < rest) && r.2.1.out.isEmpty
        (if far then decLoop L rest (j.len + 4) r.2.1 j m else .ok r j m).bind fun r j m =>
          let d := r.2.1
          let out := d.out.reverse
          if m.copyingSlot d.cult then .ok .hold { j with prog := at0 } m
          else
            let cnt := if c.cult.isSome then c.loads else (d.cult.map m.loads).getD 0
            let j := { j with loadCnt := d.cult.map (fun s => (s, cnt)) }
            let c := decCtx d cnt (c.inTot + d0.bits.length / 8 + (j.prog - at0) - d.bits.length / 8) (c.outTot + out.length)
            let keep := fun (ended : Bool) (j : Job) (m : Mach) =>
              (keepCtx L c ended c.outTot j m).bind fun _ j m => (.ok (.ended 0 j.wrote) j m : PieceOut)
            if r.1 = .overflow ∧ (far ∨ near = rest) then overflow L out j m
            else (putOut L out j m).bind fun _ j m => match r.1 with
              | .finished => keep true j m
              | .overflow | .blockEnd => .ok .more { j with coder := some { ctx := c } } m
              | .bad => .ok (.ended 4 j.wrote) j m
              | .checkFail => .ok (.ended 3 j.wrote) j m
              | .more =>
                if r.2.2 then .ok (.ended 7 j.wrote) j m
                else if !j.sEnd then keep false j m
                else if d.stage = .between then keep true j m
                else .ok (.ended 4 j.wrote) j m

/-! ### Culture training (R187, R238-R240) -/

/-- CULTURE_TRAIN: two passes over the samples, the image formed, then written; or the check of an image. `prog` counts the sample bytes of
both passes, and one more once the image is formed; `held` is the samples as the second pass reads them, then the image. -/
def trainPiece (L : Image) (j : Job) (m : Mach) : PieceOut :=
  if j.arg0 % 2 = 1 then
    (readSpan L j.srcDpa j.src 33024 j m).bind fun bs j m =>
      let g := good bs
      .ok (if g.length < 33024 then .ended 7 0 else if Yelrin.imgOk g then .ended 0 0 else .ended 4 0) j m
  else if j.prog < 2 * j.len then
    let at' := j.prog % j.len
    let n := min 8192 (j.len - at')
    (readSpan L j.srcDpa (j.src + at') n j m).bind fun bs j m =>
      .ok (if bs.any (·.2) then .ended 7 0 else .more) { j with prog := j.prog + n, held := if j.prog < j.len then [] else j.held ++ bs.map (·.1) } m
  else if j.prog = 2 * j.len then .ok .more { j with prog := j.prog + 1, held := Yelrin.train j.held } m
  else
    (writeSpan L j.dstDpa j.dst (clean j.held) j m).bind fun _ j m =>
      (writeSpan L j.auxDpa j.aux (j.freeBytes 0 73728) j m).bind fun _ j m => .ok (.ended 0 33024) { j with wrote := 33024 } m

/-! ### Page commands (R171-R173, R342) -/

/-- What a page answers: a wait, the requests that it needs, or a status. -/
inductive PageRes where
  | wait
  | ask (new : List Req)
  | code (status : Nat)

/-- The move that a page command waits for is queued at the ring's class. -/
def Mach.cmdMove (m : Mach) (j : Job) (page : Nat) (kind : MoveKind) (pin : Bool) : Mach := m.queueMove page kind (j.wclass + 1) pin

/-- Pages pinned, and promotions that will pin. -/
def Mach.pins (m : Mach) : Nat := m.led.pinned + (m.led.moves.filter (fun v => v.pin && v.kind == .promote)).length

/-- DEMOTE of a Hot page: its dirty lines written back, then the move; how the move ended decides (R171). `acc` remembers, as the page
number + 1, that the move was queued. -/
def demotePage (L : Image) (m : Mach) (j : Job) (page : Nat) : PageRes × Job × Mach :=
  let mine := j.acc == page + 1
  let none' : Mach := { m with led := { m.led with ended := m.led.ended.erase page } }
  match if mine then Tbl.find? m.led.ended page else none with
  | some c => (.code ([0, 2, 7, 10].getD c 0), { j with acc := 0 }, none')
  | none =>
    if mine && (m.led.moveOf page).isSome then (.wait, j, m)
    else
      let m := (m.pageDirty page).foldl (fun m l => if m.tracked l then m else (writeBack L m l { head := (jobAgent L j).head, part := (jobAgent L j).part }).getD m) m
      if !(m.pageDirty page).isEmpty then (.wait, j, m)
      else
        let m := m.noteClean page
        let m : Mach := { m with led := { m.led with ended := m.led.ended.erase page } }
        (.wait, { j with acc := page + 1 }, m.cmdMove j page .demote false)

/-- Pin a page: a frame for an Unwritten one, STATE for a Hot one, a promotion for a Cellar one; OVERFLOW beyond PIN_MAX. -/
def pinPage (L : Image) (m : Mach) (j : Job) (page : Nat) (e : LEnt) : PageRes × Mach :=
  let mine := (m.led.moveOf page).any (·.pin)
  if !mine ∧ (L.reg oPinMax).toNat < m.pins + 1 then (.code 11, m)
  else
    let pinned := fun (m : Mach) => { m with led := { m.led with pinned := m.led.pinned + 1 } }
    if e.st = 0 then
      match takeFrame L m with
      | none => (.wait, m.poolEmpty)
      | some (f, m) =>
        let m : Mach := { m with led := { m.led with wantFrame := m.led.wantFrame.filter (· != page) } }
        (.code 0, sendHeld L (pinned (m.flip page { e with st := 4, ma := f, k := 0 })) page)
    else if e.st = 1 then (.code 0, pinned (m.flip page { e with st := 4 }))
    else (.wait, m.cmdMove j page .promote true)

/-- One page of a page command by R171; `op` is the opcode. The page is within the partition and has a ledger entry. -/
def pageStep (L : Image) (m : Mach) (j : Job) (op page : Nat) (e : LEnt) : PageRes × Job × Mach :=
  if op = 0x0C then
    match forgetPage L (jobAgent L j) page m with
    | .ok true m =>
      let r := mirrorChange L m 3 (64 * page) (L.pHead (L.rOwner j.ring)) 0 false 0#2 none
      (.code 0, j.ack L r.1, r.2)
    | .ok false m => (.wait, j, m)
    | .wait new => (.ask new, j, m)
  else if e.st = 3 then (.wait, j, m)
  else if e.st = 5 then (.code 7, j, m)
  else if op = 0x08 then
    if e.st = 2 then (.wait, j, m.cmdMove j page .promote false) else (.code 0, j, m)
  else if op = 0x09 then
    if e.st = 4 then (.code 8, j, m) else if e.st = 1 then demotePage L m j page
    else (.code 0, { j with acc := 0 }, { m with led := { m.led with ended := m.led.ended.erase page } })
  else if op = 0x0A then
    if e.st = 4 then (.code 0, j, m) else let r := pinPage L m j page e; (r.1, j, r.2)
  else if e.st = 4 then (.code 0, j, ({ m with led := { m.led with pinned := m.led.pinned - 1 } }).flip page { e with st := 1 })
  else (.code 0, j, m)

/-- Run a scrub and count what it corrected and what it could not (R386). -/
def countScrub (m : Mach) (f : Mach → Mach) : Nat × Nat × Mach :=
  let ce := m.reg oCntCe
  let ue := m.reg oCntUe
  let m := f ((m.setReg oCntCe 0#32).setReg oCntUe 0#32)
  let a := (m.reg oCntCe).toNat
  let b := (m.reg oCntUe).toNat
  (a, b, ((m.setReg oCntCe ce).setReg oCntUe ue).bumpBy oCntCe a |>.bumpBy oCntUe b)

/-- A page command ends a page with a status: the lowest page that did not give OK decides (R172); RESULT is 0 for NO_SHRINK,
BAD_DESCRIPTOR and OVERFLOW (R395). -/
def pageEnd (j : Job) (page status : Nat) (m : Mach) : PieceOut :=
  let j := { j with first := if status ≠ 0 ∧ j.first = none then some (status, page % 2 ^ 33) else j.first, prog := j.prog + 1 }
  if j.len / 4096 ≤ j.prog then
    .ok (match j.first with
      | some f => .ended f.1 (if f.1 = 2 ∨ f.1 = 9 ∨ f.1 = 11 then 0 else f.2)
      | none => .ended 0 (if j.op = 0x18 then j.acc % 2 ^ 48 else j.len / 4096)) j m
  else .ok .more j m

/-- SCRUB_RANGE on a page, once the regulator lets the scrubber's reads in (R214, R302, R342, R386). -/
def scrubRangePage (L : Image) (j : Job) (page : Nat) (m : Mach) : PieceOut :=
  let n := backingLines L m page (fun _ => true)
  let act := fun (j : Job) (m : Mach) =>
    let r := countScrub m (fun m => scrubPage L m page (fun _ => true))
    let ce := min 0xFFFFFF (j.acc % 2 ^ 24 + r.1)
    let ue := min 0xFFFFFF (j.acc / 2 ^ 24 + r.2.1)
    pageEnd { j with acc := ce + 2 ^ 24 * ue } page 0 r.2.2
  if n = 0 then act j m else askLines (scrubAgent (whoJob j.id)) [(0, .grant n)] j m fun _ j => act j m

/-- The lowest page at which an access of some work was judged at its slice and not made (R393). -/
def Mach.deniedPage (m : Mach) (who : Nat) : Option Nat :=
  ((m.home.done.filter (fun d => d.who == who && d.denied)).map (fun d => d.line / 64)).min?

/-- A page command or SCRUB_RANGE on its next page (R171, R172). -/
def pagePiece (L : Image) (j : Job) (m : Mach) : PieceOut :=
  let page := j.dst / 4096 + j.prog
  let p := L.rOwner j.ring
  let x := L.extent (page / 65536)
  if !dpaOk L m p (page / 65536) ∨ (m.deniedPage (whoJob j.id)).isSome then pageEnd j page 8 m
  else if eFlat x then pageEnd j page 9 m
  else if j.op = 0x18 then
    if retiredNow L m page then pageEnd j page 7 m else scrubRangePage L j page m
  else if j.op = 0x0C ∧ eShared x ∧ eOwner x ≠ p then pageEnd j page 8 m
  else match ledGet L m (jobAgent L j).mst page with
    | (none, m) => .ok .hold j m
    | (some e, m) => match pageStep L m j j.op page e with
      | (.wait, j, m) => .ok .hold j m
      | (.ask new, _, _) => .wait new
      | (.code s, j, m) => pageEnd j page s m

/-! ### Batches (R237, R391, R418, R419, R425-R427) -/

/-- Read a batch's items, `w` bytes each: kept with one byte that says whether any of an item's bytes was poisoned. -/
def readItems (L : Image) (w : Nat) (j : Job) (m : Mach) : PieceOut :=
  (readSpan L j.srcDpa j.src (w * j.len) j m).bind fun bs j m =>
    .ok .more { j with held := (List.range j.len).flatMap (fun i =>
      let x := (bs.drop (w * i)).take w
      x.map (·.1) ++ [if x.any (·.2) then 1#8 else 0#8]) } m

/-- Item `i` of a batch. -/
def Job.item (j : Job) (w i : Nat) : List Byte × Bool :=
  let x := (j.held.drop ((w + 1) * i)).take (w + 1)
  (x.take w, x.getD w 0#8 != 0#8)

/-- An item of a batch ends with a status (R391); between items there is no checkpoint (R224). -/
def itemEnd (j : Job) (status : Nat) (m : Mach) : PieceOut :=
  let j := { j with first := if status ≠ 0 ∧ j.first = none then some (status, j.prog) else j.first, prog := j.prog + 1 }
  if j.len ≤ j.prog then
    .ok (match j.first with
      | some f => .ended f.1 f.2
      | none => .ended 0 j.len) j m
  else .ok .step j m

/-- TALLY_BATCH: the records read, then one record applied (R418). -/
def tallyBatchPiece (L : Image) (j : Job) (m : Mach) : PieceOut :=
  if j.held.isEmpty then readItems L 8 j m
  else
    let it := j.item 8 j.prog
    if it.2 then itemEnd j 7 m
    else match tallyRec L 2 (L.rOwner j.ring) (ofBytes 64 it.1) with
      | none => itemEnd j 8 m
      | some r => match coalAdd L m r with
        | (false, m) => .ok .hold j m
        | (true, m) => itemEnd j 0 m

/-- The lines of a chunk of counters, with the bytes wanted of each. -/
def chunkLines (n : Nat) (spots : List (Nat × Nat)) : List (Nat × BitVec 64) :=
  ((spots.map (·.1)).eraseDups).map (fun l => (l, (spots.filter (fun s => s.1 == l)).foldl (fun be s =>
    be ||| BitVec.ofNat 64 ((2 ^ (8 * n) - 1) <<< (8 * s.2))) 0#64))

/-- TALLY_READ, phase 2 of a chunk of 128: its counters' lines are merged and read under their locks, and with CLEAR zeroed in the same step
(R237, R419). -/
def tallyTakeChunk (L : Image) (j : Job) (m : Mach) : PieceOut :=
  let p := L.rOwner j.ring
  match tallyTab L p with
  | none => .ok (.ended 8 0) j m
  | some t =>
    let n := if t.pair then 2 else 1
    let spots := (List.range (min 128 (j.len - j.prog))).map (fun i => t.spot L p (j.arg0 % 2 ^ 40 + j.prog + i))
    if spots.any Option.isNone then .ok (.ended 8 0) j m
    else
      let spots := spots.filterMap id
      let clr := j.arg1 % 2 = 1
      let ls := chunkLines n spots
      askLines { jobAgent L j with src := 10, mst := mTally, cluster := none } (ls.map (fun x => (x.1, if clr then .agClear x.2 else .agRead))) j m fun ds j =>
        let got := fun (s : Nat × Nat) => match ds.find? (fun d => d.line == s.1) with
          | some d => (((bytesOf d.data 64).drop (8 * s.2)).take (8 * n), d.p)
          | none => ([], true)
        let held := spots.flatMap (fun s => let x := got s; x.1 ++ [if x.2 then 1#8 else 0#8])
        let took := if clr then spots.zipIdx.flatMap (fun (s, i) => let x := got s
          if x.2 then [] else (List.range n).map (fun k => { line := s.1, lane := s.2 + k, value := natOfBytes ((x.1.drop (8 * k)).take 8),
                                                             part := p, dest := some (j.dst + 8 * (n * (j.prog + i) + k)) })) else []
        .ok .more { (j.ackAll L ds).touch L m (ls.map (·.1)) with held, took } m

/-- TALLY_READ: a chunk's counters taken, then the chunk written (R237, R419). -/
def tallyReadPiece (L : Image) (j : Job) (m : Mach) : PieceOut :=
  if j.held.isEmpty then tallyTakeChunk L j m
  else
    let n := min 128 (j.len - j.prog)
    let w := if (tallyTab L (L.rOwner j.ring)).any (·.pair) then 16 else 8
    let bs := ((List.range n).map (fun i => j.item w i)).flatMap (fun x => x.1.map (fun b => (b, x.2)))
    let out := if j.dstDpa then bs else clean (good bs)
    (writeSpan L j.dstDpa (j.dst + w * j.prog) out j m).bind fun _ j m =>
      let j := { j with prog := j.prog + n, wrote := j.wrote + out.length, held := [], took := [] }
      if out.length < bs.length then .ok (.ended 7 j.wrote) j m
      else if j.len ≤ j.prog then .ok (.ended 0 j.len) j m else .ok .more j m

/-- The agent of a job's accesses to a strainer table: the strainer, whose decodes go to their pages' clusters (R217). -/
def stnAgent (L : Image) (j : Job) : Agent := { jobAgent L j with src := 11, mst := mStrain, cluster := none }

/-- A job that has been dispatched and has not ended. -/
def Job.dispatched (j : Job) : Bool :=
  match j.st with
  | .waiting | .ended .. => false
  | _ => true

/-- A job has accesses under way. -/
def Mach.midItem (m : Mach) (j : Job) : Bool := m.requests.any (fun r => r.ofWho (whoJob j.id)) || m.home.done.any (fun d => d.who == whoJob j.id)

/-- The dispatched inserts and deletes of a table, but for one job's. -/
def editsOf (L : Image) (m : Mach) (x : StnTab) (but : Nat) : List Job :=
  m.dqu.jobs.filter (fun j => j.id != but && j.dispatched && (j.op == 0x15 || j.op == 0x16) && j.table L == some x)

/-- The lookups of a table that are in flight: job and key (R428). -/
def liveLookups (L : Image) (m : Mach) (x : StnTab) : List (Nat × Nat) :=
  (m.dqu.jobs.filter (fun j => j.op == 0x14 && !j.held.isEmpty && j.dispatched && m.midItem j && j.table L == some x)).map
    (fun j => (j.id, j.res.length))

/-- A key of a partition's table is looked up (R510, R518). -/
def Mach.keyLooked (m : Mach) (p : Nat) : Mach := ((m.bump (oStnCnt 0)).pmuEvent 0x703 0 1).partCnt p 11 1

/-- STRAIN: the keys read, and translations held for the results; then the keys looked up one by one; then the results written (R237, R425).
A poisoned key or line ends the lookups. A lookup that finds nothing while the table has a displacement in progress, or had one under way when it began, is repeated after it (R428). -/
def strainPiece (L : Image) (j : Job) (m : Mach) : PieceOut :=
  match j.table L with
  | none => .ok (.ended 8 0) j m
  | some x =>
    let w := 8 + x.vlen
    let i := j.res.length / w
    if j.held.isEmpty then readItems L x.klen j m
    else if i < j.len ∧ j.first = none then
      let it := j.item x.klen i
      let moving := (editsOf L m x j.id).any (fun y => m.displacing L (whoJob y.id) x)
      if it.2 then .ok .more { j with first := some (7, i) } m
      else if j.again && moving then .ok .hold j m
      else
        let m' := if j.again then m.bump (oStnCnt 5) else m
        match stnLookup L (stnAgent L j) x it.1 j.asked m' with
        | .wait new => .wait new
        | .poison _ m => .ok .more { j with first := some (7, i), again := false } m
        | .ok none _ m =>
          if moving ∨ j.spans then .ok .hold { j with again := true, spans := false } m
          else
            let j := { j with res := j.res ++ [1#8, 0#8, 0#8, 0#8] ++ List.replicate (4 + x.vlen) 0#8, again := false }
            .ok (if i + 1 < j.len then .step else .more) j (m.keyLooked x.owner)
        | .ok (some (_, _, ent, v)) _ m =>
          let j := { j with res := j.res ++ [0#8, 0#8, 0#8, 0#8] ++ bytesOfNat ent 4 ++ v, acc := j.acc + 1, again := false, spans := false }
          .ok (if i + 1 < j.len then .step else .more) j ((m.keyLooked x.owner).bump (oStnCnt 1))
    else
      (writeSpan L j.dstDpa j.dst (clean j.res) j m).bind fun _ j m =>
        let j := { j with wrote := j.res.length }
        .ok (match j.first with
          | some f => .ended f.1 j.wrote
          | none => .ended 0 j.acc) j m

/-- A displacement ends: the lookups of its table that are in flight have read some buckets before and may read others after it (R428). -/
def Mach.markSpans (m : Mach) (live : List (Nat × Nat)) : Mach :=
  { m with dqu := { m.dqu with jobs := m.dqu.jobs.map (fun y => if live.any (fun l => l.1 == y.id) then { y with spans := true } else y) } }

/-- STRAIN_INSERT and STRAIN_DELETE: the items read, then one item (R426, R427), whole or not at all; those of one table run one at a time, in
the order in which their descriptors were dispatched (R428). -/
def strainEdit (L : Image) (insert : Bool) (j : Job) (m : Mach) : PieceOut :=
  match j.table L with
  | none => .ok (match j.first with
      | some f => .ended f.1 f.2
      | none => .ended 8 0) j m
  | some x =>
    let w := if insert then x.klen + x.vlen else x.klen
    if j.held.isEmpty then readItems L w j m
    else
      let it := j.item w j.prog
      let others := editsOf L m x j.id
      if others.any m.midItem || (!m.midItem j && others.any (fun y => decide (y.disp < j.disp))) then .ok .hold j m
      else if it.2 then itemEnd j 7 m
      else
        let live := liveLookups L m x
        let a := stnAgent L j
        let r := if insert then stnInsert L a x live (it.1.take x.klen) (it.1.drop x.klen) j.asked m else stnDelete L a x live it.1 j.asked m
        match r with
        | .wait new => .wait new
        | .poison _ m => itemEnd j 7 m
        | .ok s _ m =>
          let m := if insert then m else m.keyLooked x.owner
          let m := if insert ∨ s ≠ .ok then m else m.bump (oStnCnt 1)
          let m := if m.displacing L (whoJob j.id) x then m.markSpans live else m
          let j := (m.itemAcks (whoJob j.id)).foldl (fun j a => j.ack L (some a)) j
          itemEnd j (match s with
            | .ok => 0
            | .full => 12
            | .missing => 13) m

/-! ### Running a job (R224, R226-R230) -/

/-- The piece of a job's opcode. -/
def pieceOf (L : Image) (j : Job) (m : Mach) : PieceOut :=
  match j.op with
  | 0x01 => copyPiece L j m
  | 0x02 => fillPiece L j m
  | 0x03 => compressPiece L j m
  | 0x04 => decompressPiece L j m
  | 0x05 => checksumPiece L j m
  | 0x06 => trainPiece L j m
  | 0x10 => tallyBatchPiece L j m
  | 0x11 => tallyReadPiece L j m
  | 0x14 => strainPiece L j m
  | 0x15 => strainEdit L true j m
  | 0x16 => strainEdit L false j m
  | _ => pagePiece L j m

/-- The state that is written to a PARK area is opaque. -/
def parkArea (L : Image) (m : Mach) (j : Job) : Mach :=
  match j.ctx with
  | some (dpa, a) => scramble L dpa (a + 0x11000) 4096 j m
  | none => m

/-- A job that reaches a checkpoint: stopped by its ring's reset or fall (R403, R404), by its old epoch (R383), or pre-empted (R228). -/
def checkpoint (L : Image) (m : Mach) (id : Nat) : Mach :=
  match m.job? id with
  | none => m
  | some j => match j.st with
    | .running c =>
      if j.stale then stopJob L m id 6
      else if (m.ring j.ring).st = .resetting ∨ (m.ring j.ring).st = .down ∨ j.noRec then stopJob L m id 10
      else match m.chn.preempt.find? (fun p => p.1 == c) with
        | none => m
        | some p =>
          let m : Mach := { m with chn := { m.chn with preempt := m.chn.preempt.erase p } }
          if m.churnOn c && (m.job? p.2).any (fun x => x.st == .queued && decide (x.wclass < j.wclass)) then
            let m := (m.bump oCntPreempt).park (parkArea L) j c false
            takeWork L (m.chnWork + 1) c m
          else m
    | _ => m

/-- Where a piece leaves its job: off its churn or waiting, between checkpoints, or at a checkpoint. -/
inductive Ran where
  | stop
  | step
  | check
  deriving DecidableEq, Repr

/-- The ledger entry of a page command's page is brought into the ledger cache before the piece (R148). -/
def jobPrep (L : Image) (j : Job) (m : Mach) : Mach :=
  let page := j.dst / 4096 + j.prog
  if 8 ≤ j.op ∧ j.op ≤ 12 ∧ !flatPage L page ∧ page < m.led.extents * 65536 then (ledGet L m (jobAgent L j).mst page).2 else m

/-- A page command or SCRUB_RANGE: a page that is denied does not end it (R172). -/
def Job.paged (j : Job) : Bool := (decide (8 ≤ j.op) && decide (j.op ≤ 12)) || j.op == 0x18

/-- A piece as an agent's work: it stops at the first page that is denied at its slice (R393). -/
def pieceWork (L : Image) (j : Job) (m : Mach) : Attempt (Piece × Job) :=
  match if j.paged then none else m.deniedPage (whoJob j.id) with
  | some page => .ok (.denied page, j) m
  | none => match pieceOf L { j with asked := 0 } m with
    | .ok p j m => .ok (p, j) m
    | .wait new => .wait new

/-- A job's state after a piece, and what follows (R152, R395). -/
def pieceEnd (L : Image) (m : Mach) (p : Piece) (j : Job) : Ran × Mach :=
  let m := (m.setJob { j with asked := 0 }).pumpAll L
  match p with
  | .hold => (.stop, m)
  | .step => (.step, m)
  | .more => (.check, checkpoint L m j.id)
  | .denied page => (.stop, endJob L m j.id 8 (if j.isBatch then j.stopResult else page % 2 ^ 33))
  | .ended st r =>
    -- a descriptor other than FORGET that touches a Retired page completes POISONED (R152)
    (.stop, if j.retired ∧ st ≤ 2 then endJob L m j.id 7 j.stopResult else endJob L m j.id st (r % 2 ^ 48))

/-- One piece of a running job. A churn that is lent does nothing else meanwhile (R222). -/
def jobPiece (L : Image) (m : Mach) (id : Nat) : Ran × Mach :=
  match m.job? id with
  | none => (.stop, m)
  | some j => match j.st with
    | .running c =>
      if j.stale then (.stop, stopJob L m id 6)
      else if (m.chn.lent.find? c).isSome then (.stop, m)
      else match runWork L (whoJob id) (pieceWork L j) askRounds (jobPrep L j m) with
        | (some (p, j), m) => pieceEnd L m p j
        | (none, m) => (.stop, m)
    | _ => (.stop, m)

/-- Run a job until it ends, waits or leaves its churn, or to its next checkpoint; `n` bounds the pieces. -/
def runJob (L : Image) (once : Bool) : Nat → Nat → Mach → Mach
  | 0, _, m => m
  | n + 1, id, m =>
    let r := jobPiece L m id
    if r.1 = .stop ∨ (once ∧ r.1 = .check) then r.2 else runJob L once n id r.2

/-- Pieces that a job may take. -/
def Job.fuel (j : Job) : Nat := 4 * j.len + j.dlen + 16

/-- A descriptor's command: its job runs on its churn, until it ends or has to wait; then the command is given again. -/
def runOp (L : Image) (m : Mach) (op id : Nat) : Mach :=
  match m.job? id with
  | some j => if j.op = op then runJob L false j.fuel id m else m
  | none => m

/-- A batch applies its items, which makes no host access and cannot fault (R237). -/
def Job.applying (j : Job) (L : Image) : Bool :=
  match j.op with
  | 0x10 | 0x15 | 0x16 => !j.held.isEmpty
  | 0x11 => j.held.isEmpty && decide (0 < j.prog)
  | 0x14 => !j.held.isEmpty && j.first.isNone && (j.table L).any (fun x => decide (j.res.length < (8 + x.vlen) * j.len))
  | _ => false

/-- The work of a rolled back job leaves bytes undefined from the checkpoint's output position up to the faulting address (R235); where the
fault is on the source, as far as the work since the checkpoint may have written. -/
def faultBytes (L : Image) (m : Mach) (j : Job) (addr : Nat) : Mach :=
  let room := j.destLen L
  let upTo :=
    if !j.dstDpa ∧ j.dst + j.wrote ≤ addr ∧ addr < j.dst + room then addr - j.dst
    else if j.srcDpa then j.wrote
    else if j.op = 1 then (if j.src ≤ addr then min room (addr - j.src) else j.wrote)
    else if j.op = 3 ∨ j.op = 4 then min room (j.wrote + 8256)
    else j.wrote
  if j.wrote < upTo then scramble L j.dstDpa (j.dst + j.wrote) (upTo - j.wrote) j m else m

/-- TRANSLATION_FAULT (R234): parked for a page, or ended FAULT_UNRESOLVED. -/
def translationFault (L : Image) (m : Mach) (id addr : Nat) (ats pri : Bool) : Mach :=
  match m.job? id with
  | none => m
  | some j => match j.st with
    | .running c =>
      let fn := L.rFn j.ring
      if j.applying L then m else
      let j := { j with faultAddr := addr, prqSent := false }
      let m := faultBytes L (m.setJob j) j addr
      if !ats then (unresolved L m j).raiseA 52 j.ring 4 addr
      else if !pri ∨ 3 ≤ ((j.faults.find? (fun p => p.1 == addr / 4096)).map (·.2)).getD 0 then unresolved L m j
      else
        let m : Mach := { m with chn := { m.chn with priBlocked := m.chn.priBlocked.filter (· != fn) } }
        (m.bump oCntPark).park (parkArea L) j c true
    | _ => m

/-! ### Meanings -/

/-- A descriptor's command. -/
def opExec (op job : Nat) (s : State) : Host.Outcome State Fault Refusal := s.work (fun m => runOp s.live m op job)

/-- COPY. -/
def execCopy (job : Nat) (s : State) : Host.Outcome State Fault Refusal := opExec 0x01 job s
/-- FILL. -/
def execFill (job : Nat) (s : State) : Host.Outcome State Fault Refusal := opExec 0x02 job s
/-- COMPRESS. -/
def execCompress (job : Nat) (s : State) : Host.Outcome State Fault Refusal := opExec 0x03 job s
/-- DECOMPRESS. -/
def execDecompress (job : Nat) (s : State) : Host.Outcome State Fault Refusal := opExec 0x04 job s
/-- CHECKSUM. -/
def execChecksum (job : Nat) (s : State) : Host.Outcome State Fault Refusal := opExec 0x05 job s
/-- PROMOTE. -/
def execPromote (job : Nat) (s : State) : Host.Outcome State Fault Refusal := opExec 0x08 job s
/-- DEMOTE. -/
def execDemote (job : Nat) (s : State) : Host.Outcome State Fault Refusal := opExec 0x09 job s
/-- PIN. -/
def execPin (job : Nat) (s : State) : Host.Outcome State Fault Refusal := opExec 0x0A job s
/-- UNPIN. -/
def execUnpin (job : Nat) (s : State) : Host.Outcome State Fault Refusal := opExec 0x0B job s
/-- FORGET. -/
def execForget (job : Nat) (s : State) : Host.Outcome State Fault Refusal := opExec 0x0C job s
/-- TALLY_BATCH. -/
def execTallyBatch (job : Nat) (s : State) : Host.Outcome State Fault Refusal := opExec 0x10 job s
/-- TALLY_READ. -/
def execTallyRead (job : Nat) (s : State) : Host.Outcome State Fault Refusal := opExec 0x11 job s
/-- STRAIN. -/
def execStrain (job : Nat) (s : State) : Host.Outcome State Fault Refusal := opExec 0x14 job s
/-- STRAIN_INSERT. -/
def execStrainInsert (job : Nat) (s : State) : Host.Outcome State Fault Refusal := opExec 0x15 job s
/-- STRAIN_DELETE. -/
def execStrainDelete (job : Nat) (s : State) : Host.Outcome State Fault Refusal := opExec 0x16 job s
/-- SCRUB_RANGE: `errs` names the symbols in error of the media lines that it reads. -/
def execScrubRange (job : Nat) (s : State) (errs : List (Nat × SymErr) := []) : Host.Outcome State Fault Refusal :=
  s.work (fun m => m.withErrs errs (fun m => runOp s.live m 0x18 job))

/-- The image that an OK job with STAGE = 1 stages for its slot, with ACT = 1 (R239). -/
def stageImage (s : State) (j : Job) : State :=
  let a := if j.arg0 % 2 = 1 then j.src else j.dst
  let slot := j.arg0 / 4 % 64
  let s := stagedPut s (oCultLo slot) (put (a / 4096 % 2 ^ 20) 12 ||| put 1 0)
  stagedPut s (oCultHi slot) (BitVec.ofNat 32 (a / 2 ^ 32))

/-- CULTURE_TRAIN. -/
def execCultureTrain (job : Nat) (s : State) : Host.Outcome State Fault Refusal :=
  if s.latch then .next s
  else
    let m := runOp s.live s.m 0x06 job
    let fresh := !((s.m.job? job).any (fun j => match j.st with
      | .ended .. => true
      | _ => false))
    let s' := settle { s with m }
    match m.job? job with
    | some j => match j.st with
      | .ended 0 _ => .next (if fresh && j.op == 0x06 && j.arg0.testBit 1 then stageImage s' j else s')
      | _ => .next s'
    | none => .next s'

/-- JOB_CHECKPOINT: the job's work to its next checkpoint. A CULTURE_TRAIN's last piece belongs to its own command. -/
def jobCheckpoint (L : Image) (m : Mach) (id : Nat) : Mach :=
  match m.job? id with
  | some j => if j.op = 6 ∧ (j.arg0 % 2 = 1 ∨ 2 * j.len < j.prog) then checkpoint L m id else runJob L true j.fuel id m
  | none => m

/-- JOB_CHECKPOINT. -/
def execJobCheckpoint (job : Nat) (s : State) : Host.Outcome State Fault Refusal := s.work (fun m => jobCheckpoint s.live m job)

/-- TRANSLATION_FAULT. -/
def execTranslationFault (job : Nat) (addr : BitVec 64) (ats pri : Bool) (s : State) : Host.Outcome State Fault Refusal :=
  s.work (fun m => translationFault s.live m job addr.toNat ats pri)

end Sys2Proof.Machine
end

