-- ==== Sys2Proof/Machine/Rings.lean ====
section
/-! DEFINITION. Descriptor rings (R379-R405): doorbells, fetching, the checks at dispatch, completion records and interrupts, ring states
and assignment epochs. -/

namespace Sys2Proof.Machine

/-! ### A ring's configuration (R379-R381) -/

/-- The configuration that a ring runs or ran under. -/
structure RCfg where
  place : Nat
  size : Nat
  owner : Nat
  fn : Nat
  sq : Nat
  cq : Nat
  vector : Nat
  icnt : Nat
  itime : Nat
  deriving DecidableEq, Repr

/-- The configuration of the live registers. -/
def Image.rCfg (L : Image) (n : Nat) : RCfg :=
  let w := fun (i : Nat) => L.reg (oRing n i)
  { place := L.rPlace n, size := 2 ^ L.rLog n, owner := L.rOwner n, fn := L.rFn n, sq := (w 1).toNat + 2 ^ 32 * (w 2).toNat,
    cq := (w 3).toNat + 2 ^ 32 * (w 4).toNat, vector := fld (w 5) 7 0, icnt := fld (w 5) 15 8, itime := fld (w 5) 31 16 }

/-- The numbers of a configuration, as `Ring.old` keeps them. -/
def RCfg.nums (c : RCfg) : List Nat := [c.place, c.size, c.owner, c.fn, c.sq, c.cq, c.vector, c.icnt, c.itime]
def RCfg.ofNums (l : List Nat) : RCfg :=
  { place := l.getD 0 0, size := l.getD 1 0, owner := l.getD 2 0, fn := l.getD 3 0, sq := l.getD 4 0, cq := l.getD 5 0,
    vector := l.getD 6 0, icnt := l.getD 7 0, itime := l.getD 8 0 }

/-- The link that carries a ring: 0 down, 1 held (Recovery), 2 up. A ring in DPA needs none for its memory. -/
def Mach.linkFor (m : Mach) (fn : Nat) : Nat :=
  if fn = mgmtFn then (if m.mgmt.up then 2 else 0)
  else match (m.head fn).st with
    | .ioOnly | .active | .insecure => 2
    | .recovery => 1
    | _ => 0

/-! ### Doorbells (R398) -/

/-- A doorbell write that is not accepted. -/
def Mach.dbBad (m : Mach) (n : Nat) : Mach := (m.dquEvent n 0).bump (oDquCnt 5)

/-- TAIL. -/
def tailWrite (L : Image) (m : Mach) (n v : Nat) : Mach :=
  let r := m.ring n
  if r.st = .active ∧ v < 2 ^ L.rLog n then m.setRing n { r with sqTail := v } else m.dbBad n

/-- CQ_HEAD: forward by no more than the records written. -/
def headWrite (L : Image) (m : Mach) (n v : Nat) : Mach :=
  let r := m.ring n
  let z := 2 ^ L.rLog n
  if (r.st = .active ∨ r.st = .resetting ∨ r.st = .error) ∧ v < z ∧ (v + z - r.cqHead) % z ≤ (r.cqTail + z - r.cqHead) % z then
    m.setRing n { r with cqHead := v } else m.dbBad n

/-- A doorbell by way of a head's BAR reaches only a ring of one of its partitions (R48); nothing arrives over a link that is
down, or while a tally write of the head waits (R410). One over a link in Recovery is held (R62), by its command. -/
def doorbell (L : Image) (m : Mach) (via : Option Nat) (n off : Nat) (f : Mach → Mach) : Mach :=
  match via with
  | none => f m
  | some h =>
    let m := touch L m
    if m.linkFor h ≠ 2 ∨ !(m.head h).post.isEmpty then m
    else if (presented L m h).contains (L.rOwner n) then f m
    else m.outOfPart h 5 (n * 0x1000 + off)

/-! ### Fetching (R399) -/

/-- How many descriptors may be fetched now: none of a class whose queue in the ring's cluster is full (R216, R399). -/
def fetchRoom (L : Image) (m : Mach) (n : Nat) : Nat :=
  let r := m.ring n
  let z := 2 ^ L.rLog n
  let fence := m.dqu.jobs.any (fun j => j.ring == n && j.op == 0x1E && j.epoch == r.epoch)
  let k := 4 * (n % 12) + L.rCls n + 1
  let full := decide (chnRoom (k % 4) ≤ (m.chq k).length) || m.chn.wait.any (fun p => p.1 == k)
  if r.st ≠ .active ∨ r.retiring ∨ fence ∨ full then 0
  else min 8 (min ((r.sqTail + z - r.sqHead) % z) (z - 1 - (r.sqHead + z - r.cqHead) % z))

/-- The agent of a ring's accesses to DPA (R105, R298): the descriptor queue unit. -/
def ringAgent (L : Image) (who owner : Nat) : Agent :=
  { who, src := 14, mst := engineMaster L owner, head := L.pHead owner, part := owner }

/-- The descriptors of `k` places from place `i` on, from ring memory. What the partition may not reach reads as all ones (R17). -/
def ringRead (L : Image) (n : Nat) (c : RCfg) (i k : Nat) (m : Mach) : Attempt (List (BitVec 512)) :=
  let at' := (List.range k).map (fun t => c.sq + 64 * ((i + t) % c.size))
  if c.place = 2 then
    let open' := fun (a : Nat) => dpaOk L m c.owner (a / 2 ^ 28)
    match m.askAll (ringAgent L (whoRing n) c.owner) 0 ((at'.filter open').map (fun a => (a / 64, .agRead))) with
    | .wait new => .wait new
    | .got ds => .ok (at'.map (fun a => match ds.find? (fun d => d.line == a / 64 && open' a) with
      | some d => if d.p then BitVec.allOnes 512 else d.data
      | none => BitVec.allOnes 512)) m
  else .ok (at'.map (fun a => ofBytes 512 (Memory.bytes hostBg (m.host c.fn) a 64))) m

/-- A fetched descriptor enters the descriptor queue unit. -/
def fetchOne (L : Image) (n : Nat) (m : Mach) (d : BitVec 512) : Mach :=
  let r := m.ring n
  let j : Job := { id := m.dqu.nextJob, ring := n, epoch := r.epoch, idx := r.sqHead, desc := d }
  let m : Mach := { m with dqu := { m.dqu with nextJob := m.dqu.nextJob + 1, jobs := m.dqu.jobs ++ [j] } }
  m.setRing n { r with sqHead := (r.sqHead + 1) % 2 ^ L.rLog n }

/-- DESCRIPTOR_FETCH: up to eight descriptors in one read (R399). A read that waits is finished by a later one. -/
def fetch (L : Image) (m : Mach) (n : Nat) : Mach :=
  if L.rPlace n ≠ 2 ∧ m.linkFor (L.rFn n) ≠ 2 then m
  else match runWork L (whoRing n) (fun m => ringRead L n (L.rCfg n) (m.ring n).sqHead (fetchRoom L m n) m) askRounds m with
    | (some ds, m) =>
      -- nothing is fetched behind a FENCE that waits
      let fence := fun (d : BitVec 512) => fld d 7 0 == 0x1E
      (ds.takeWhile (fun d => !fence d) ++ (ds.dropWhile (fun d => !fence d)).take 1).foldl (fetchOne L n) (agentForget L m (whoRing n))
    | (none, m) => m

/-! ### The checks at dispatch (R392) -/

/-- Two ranges of one space overlap. -/
def overlaps (a n b k : Nat) : Bool := decide (a < b + k ∧ b < a + n)

/-- A descriptor breaks R386, R387, R389 or R390 (row 3). -/
def badDesc (L : Image) (j : Job) : Bool :=
  let two := fun (k : Nat) => decide (j.len ≤ 2 ^ k)
  let stream := decide (j.len < 2 ^ 32) && (if j.aux = 0 then j.sStart && j.sEnd else j.aux % 4096 == 0)
  let pages := j.dstDpa && j.dst % 4096 == 0 && j.len % 4096 == 0 && two 40
  let ok := match j.op with
    | 0x01 => two 40 && !(j.srcDpa == j.dstDpa && overlaps j.src j.len j.dst j.len)
    | 0x02 => two 40
    | 0x03 => stream && !(j.cultEn && j.fmt != 0)
    | 0x04 => stream
    | 0x05 => two 40 && j.arg0 % 4 != 3
    | 0x06 =>
      let load := j.arg0 % 2 == 1
      let st := !j.arg0.testBit 1 || (if load then j.srcDpa && j.src % 4096 == 0 else j.dstDpa && j.dst % 4096 == 0)
      (if load then j.len == 33024 else decide (65536 ≤ j.len ∧ j.len ≤ 67108864) && j.aux != 0 && j.aux % 4096 == 0) && st
    | 0x08 | 0x09 | 0x0A | 0x0B | 0x0C | 0x18 => pages
    | 0x10 => decide (j.len ≤ 8192)
    | 0x11 => decide (j.len < 2 ^ 32) && (match tallyTab L (L.rOwner j.ring) with
      | some t => decide (j.arg0 % 2 ^ 40 + j.len ≤ t.count)
      | none => true)
    | 0x14 | 0x15 | 0x16 => decide (j.len ≤ 256)
    | 0x1E | 0x1F => true
    | _ => false
  !ok

/-- LEN or count 0 ends OK_EMPTY, except a COMPRESS that ends its stream (row 4, R390). -/
def emptyDesc (j : Job) : Bool := j.len == 0 && !(j.op == 3 && j.sEnd)

/-- The DPA ranges of a descriptor, in the order in which they are judged. -/
def descRanges (L : Image) (j : Job) : List (Nat × Nat) :=
  let src := fun (n : Nat) => if j.srcDpa then [(j.src, n)] else []
  let dst := fun (n : Nat) => if j.dstDpa then [(j.dst, n)] else []
  let aux := match j.ctx with
    | some (true, a) => [(a, 73728)]
    | _ => []
  match j.op with
  | 0x01 => src j.len ++ dst j.len
  | 0x02 => dst j.len
  | 0x03 | 0x04 => src j.len ++ dst j.dlen ++ aux
  | 0x05 => src j.len
  | 0x06 => src j.len ++ (if j.arg0 % 2 = 1 then [] else dst 33024) ++ aux
  | 0x10 => src (8 * j.len)
  | 0x11 => dst ((if (tallyTab L (L.rOwner j.ring)).any (·.pair) then 16 else 8) * j.len)
  | 0x14 | 0x15 | 0x16 => match j.table L with
    | some x => src ((if j.op = 0x15 then x.klen + x.vlen else x.klen) * j.len) ++ (if j.op = 0x14 then dst ((8 + x.vlen) * j.len) else [])
    | none => []
  | _ => []

/-- The first page of a range that the partition may not reach. -/
def deniedIn (L : Image) (m : Mach) (p a n : Nat) : Option Nat :=
  if n = 0 then none
  else
    let e0 := a / 2 ^ 28
    ((List.range ((a + n - 1) / 2 ^ 28 + 1 - e0)).map (e0 + ·)).findSome? (fun e =>
      if dpaOk L m p e then none else some (max (a / 4096) (e * 65536)))

/-- Row 5: RESULT of ACCESS_DENIED. -/
def deniedDesc (L : Image) (m : Mach) (j : Job) : Option Nat :=
  let p := L.rOwner j.ring
  if j.op = 6 ∧ j.arg0.testBit 1 ∧ L.rPlace j.ring ≠ 1 then some 0
  else if (j.op = 0x10 ∨ j.op = 0x11) ∧ (tallyTab L p).isNone then some 0
  else if (j.op = 0x14 ∨ j.op = 0x15 ∨ j.op = 0x16) ∧ (j.table L).isNone then some 0
  else ((descRanges L j).findSome? (fun r => deniedIn L m p r.1 r.2)).map (· % 2 ^ 33)

/-- What becomes of a dispatched descriptor: ended at once with a status and RESULT, or its operation runs (R392). -/
def judgeDesc (L : Image) (m : Mach) (j : Job) : Option (Nat × Nat) :=
  if j.stale then some (6, j.stopResult)
  else if j.ctxFail then some (10, j.stopResult)
  else if badDesc L j then some (9, 0)
  else if emptyDesc j then some (1, if j.op = 5 then j.arg1 % 2 ^ 32 else 0)
  else match deniedDesc L m j with
    | some r => some (8, if j.isBatch then 0 else r)
    | none => none

/-- A job has ended. -/
def Job.over (j : Job) : Bool := match j.st with
  | .ended _ _ => true
  | _ => false

/-- A job has been dispatched and has not completed. -/
def Job.busy (j : Job) : Bool := !j.over && j.st != .waiting

/-- Descriptors dispatched and not completed (BUSY of DQU_Rn_STAT). -/
def Mach.ringBusy (m : Mach) (n : Nat) : Nat := (m.dqu.jobs.filter (fun j => j.ring == n && j.busy && !j.stale)).length

/-- A descriptor's turn to be dispatched has come: in SQ order, no earlier FENCE whose record is not written, room under INFLIGHT, and
no earlier descriptor of its context block that has not completed (R397, R400). -/
def mayDispatch (L : Image) (m : Mach) (j : Job) : Bool :=
  let before := m.dqu.jobs.filter (fun x => x.ring == j.ring && decide (x.id < j.id) && !x.stale)
  j.st == .waiting && (m.ring j.ring).st == .active
    && !before.any (fun x => x.st == .waiting || x.op == 0x1E)
    && decide (m.ringBusy j.ring < L.rInflight j.ring)
    && !(j.ctx.isSome && before.any (fun x => x.ctx == j.ctx && !x.over))

/-- Dispatch a descriptor to its churn queue (R392, R400). -/
def dispatch (L : Image) (m : Mach) (id : Nat) : Mach :=
  match m.job? id with
  | none => m
  | some j =>
    if j.op = 0x1E ∨ j.op = 0x1F ∨ !mayDispatch L m j then m
    else match judgeDesc L m j with
      | some r => endJob L m id r.1 r.2
      | none => let n := m.chn.started + 1
        pushWork L (({ m with chn := { m.chn with started := n } }).setJob { j with st := .queued, wclass := L.rCls j.ring, disp := n }) (.job id)

/-- WORK_ENQUEUE. -/
def enqueue (L : Image) (m : Mach) (w : Work) : Mach :=
  match w with
  | .job id => dispatch L m id
  | .decode p v => pushOnce L m (.decode p v.toNat)
  | .move p => pushOnce L m (.move p)

/-- NOP: completed at once in its turn. -/
def nopDone (L : Image) (m : Mach) (id : Nat) : Mach :=
  match m.job? id with
  | some j => if j.op = 0x1F ∧ mayDispatch L m j then endJob L m id 0 0 else m
  | none => m

/-- FENCE: completed once every descriptor fetched before it has had its record written (R400). -/
def fenceDone (L : Image) (m : Mach) (id : Nat) : Mach :=
  match m.job? id with
  | some j =>
    if j.op = 0x1E ∧ mayDispatch L m j ∧ !m.dqu.jobs.any (fun x => x.ring == j.ring && decide (x.id < j.id) && !x.stale) then endJob L m id 0 0
    else m
  | none => m

/-! ### Completion records and interrupts (R394-R397, R401) -/

/-- The record of a job. -/
def Job.record (j : Job) (phase : Bool) : BitVec 128 :=
  let (st, r) := match j.st with
    | .ended st r => (st, r)
    | _ => (0, 0)
  BitVec.ofNat 128 (j.idx + st * 2 ^ 16 + j.op * 2 ^ 24 + fld j.desc 63 32 * 2 ^ 32 + r % 2 ^ 48 * 2 ^ 64 + j.epoch % 256 * 2 ^ 112
    + phase.toNat * 2 ^ 127)

/-- The job leaves the descriptor queue unit. -/
def Mach.dropJob (m : Mach) (id : Nat) : Mach := { m with dqu := { m.dqu with jobs := m.dqu.jobs.filter (fun j => j.id != id) } }

/-- A record is not written: counted, and REC_DROP. -/
def Mach.recDrop (m : Mach) (j : Job) : Mach := (((m.dropJob j.id).bump (oDquCnt 3)).dquEvent j.ring 5)

/-- Write a record into ring memory: false while it waits. A place that the partition may not reach takes nothing (R17). -/
def recWrite (L : Image) (m : Mach) (id : Nat) (c : RCfg) (tail : Nat) (r : BitVec 128) : Bool × Mach :=
  let a := c.cq + 16 * tail
  if c.place = 2 then
    let off := a % 64
    let d := ofBytes 512 (List.replicate off 0#8 ++ bytesOf r 16)
    let put := fun (m : Mach) =>
      match m.askAll (ringAgent L (whoRecord id) c.owner) 0 [(a / 64, .agWrite d (BitVec.ofNat 64 (0xFFFF <<< off)) false 0#2 true)] with
      | .wait new => Attempt.wait new
      | .got _ => .ok () m
    if !dpaOk L m c.owner (a / 2 ^ 28) then (true, m)
    else
      let x := runWork L (whoRecord id) put askRounds m
      (x.1.isSome, x.2)
  else (true, m.setHost c.fn (Memory.putAll hostBg (m.host c.fn) a (bytesOf r 16)))

/-- Send a ring's vector. -/
def Mach.ringIrq (m : Mach) (c : RCfg) : Mach := (m.irq c.fn c.vector).bump (oDquCnt 4)

/-- The configuration, indices and phase of a ring's epoch that has ended (R383). -/
def Ring.oldOf (r : Ring) (epoch : Nat) : Option (List Nat × Nat × Nat × Bool) := (r.old.find? (fun o => o.1 == epoch)).map (·.2)

/-- The record's place in the order of completion has come, and its acknowledgements are in (R397). -/
def recReady (m : Mach) (j : Job) : Bool :=
  let acked := fun (x : Job) => !x.acks.any (fun a => (if a.1 = 0 then m.yoke.recs0 else m.yoke.recs3).any (fun r => r.1 == a.2))
  j.over && acked j && !m.dqu.jobs.any (fun x => x.ring == j.ring && x.over && x.stale == j.stale && decide (x.seq < j.seq) && acked x)

/-- COMPLETION_RECORD_WRITE (R383, R397, R401, R404). -/
def recordJob (L : Image) (m : Mach) (id : Nat) : Mach :=
  match m.job? id with
  | none => m
  | some j =>
    if !recReady m j then m
    else
      let r := m.ring j.ring
      let (c, tail, phase) := match j.stale, r.oldOf j.epoch with
        | true, some o => (RCfg.ofNums o.1, o.2.1, o.2.2.2)
        | _, _ => (L.rCfg j.ring, r.cqTail, r.phase)
      let link := m.linkFor c.fn
      if j.noRec ∨ (link = 0 ∧ c.place ≠ 2) then m.recDrop j
      else if link = 1 ∧ c.place ≠ 2 then m
      else match recWrite L m id c tail (j.record phase) with
        | (false, m) => m
        | (true, m) =>
          let tail' := (tail + 1) % c.size
          let phase' := if tail' = 0 then !phase else phase
          let st := match j.st with
            | .ended st _ => st
            | _ => 0
          let now := c.icnt ≠ 0 ∧ (c.icnt ≤ r.since + 1 ∨ j.desc.getLsbD 8 ∨ 3 ≤ st)
          let r' := match j.stale, r.oldOf j.epoch with
            | true, some o => { r with old := (j.epoch, o.1, tail', o.2.2.1, phase') :: r.old.filter (fun o => o.1 != j.epoch) }
            | _, _ => { r with cqTail := tail', phase := phase', since := if now then 0 else r.since + 1 }
          let m := (((m.dropJob id).setRing j.ring r').bump (oDquCnt 0)).partCnt c.owner 12 1
          if now then m.ringIrq c else m

/-- RING_ITIME_EXPIRE (R401). -/
def itime (L : Image) (m : Mach) (n : Nat) : Mach :=
  let c := L.rCfg n
  let r := m.ring n
  if c.icnt = 0 ∨ c.itime = 0 ∨ r.since = 0 then m else (m.setRing n { r with since := 0 }).ringIrq c

/-! ### Ring states (R402-R405) -/

/-- Descriptors of a ring that are not running end with a status; running ones stop at their next checkpoint. -/
def stopRing (L : Image) (m : Mach) (n status : Nat) : Mach :=
  (m.dqu.jobs.filter (fun j => j.ring == n && !j.stale)).foldl (fun m j => match j.st with
    | .running _ => m
    | _ => stopJob L m j.id status) m

/-- What a ring is fetching, or writes of its records, is given up. -/
def ringForget (L : Image) (m : Mach) (n : Nat) : Mach :=
  (m.dqu.jobs.filter (fun j => j.ring == n && !j.stale && j.over)).foldl (fun m j => agentForget L m (whoRecord j.id)) (agentForget L m (whoRing n))

/-- RESET of a ring (R402, R403). -/
def ringReset (L : Image) (m : Mach) (n : Nat) : Mach :=
  let r := m.ring n
  let go := fun (m : Mach) => stopRing L (agentForget L (m.setRing n { r with st := .resetting }) (whoRing n)) n 10
  match r.st with
  | .active | .error => go m
  | .down =>
    let up := if L.rPlace n = 1 then m.mgmt.up else (m.head (L.rFn n)).st == .active
    if up then go m else m
  | _ => m

/-- RING_RESET_DONE (R403): the last job has ended and its record is written, or dropped where none is. -/
def ringResetDone (m : Mach) (n : Nat) : Mach :=
  let r := m.ring n
  let js := m.dqu.jobs.filter (fun j => j.ring == n && !j.stale)
  if r.st ≠ .resetting ∨ js.any (fun j => !j.over || !j.noRec) then m
  else
    let m := js.foldl Mach.recDrop m
    (m.setRing n { m.ring n with st := .active, sqHead := 0, sqTail := 0, cqHead := 0, cqTail := 0, phase := true, since := 0 }).dquEvent n 4

/-- A ring falls with the link that carries it (R404): its jobs stop and no record is written. -/
def ringFall (L : Image) (m : Mach) (n : Nat) : Mach :=
  let r := m.ring n
  match r.st with
  | .active | .resetting | .error =>
    let m := ringForget L (m.setRing n { r with st := .down }) n
    let m : Mach := { m with dqu := { m.dqu with jobs := m.dqu.jobs.map (fun j => if j.ring == n && !j.stale then { j with noRec := true } else j) } }
    ((stopRing L m n 10).dquEvent n 2).raise 153 n
  | _ => m

/-- Every ring that a function carries falls. -/
def ringsFall (L : Image) (m : Mach) (fn : Nat) : Mach :=
  (m.dqu.rings.map (·.1)).foldl (fun m n => if L.rFn n = fn then ringFall L m n else m) m

/-- RING_ERROR (R405): UR or CA on a ring's fetch, or on a record's write, whose record is dropped. -/
def ringErr (m : Mach) (n : Nat) (job : Option Nat) : Mach :=
  let r := m.ring n
  let m := match job.bind m.job? with
    | some j => if j.ring = n ∧ j.over then m.recDrop j else m
    | none => m
  if r.st = .active then ((m.setRing n { m.ring n with st := .error }).dquEvent n 1).raise 152 n else m

/-! ### Assignment epochs (R382-R384) -/

/-- An APPLY changes what R382 names for a ring; the BOUND and HEAD of its OWNER count for a ring that is enabled (DEDUCED, log entry 57). -/
def epochMoves (old new : Image) (n : Nat) : Bool :=
  (old.reg (oRing n 0) &&& 0x003F03E7#32) != (new.reg (oRing n 0) &&& 0x003F03E7#32)
    || [1, 2, 3, 4, 6].any (fun i => old.reg (oRing n i) != new.reg (oRing n i))
    || (new.rEn n && (old.pBound (old.rOwner n) != new.pBound (new.rOwner n) || old.pHead (old.rOwner n) != new.pHead (new.rOwner n)))

/-- A ring at an APPLY instant (R382, R383, R402): work that has not been dispatched, and parked or pre-empted work, ends at once. -/
def ringApply (old new : Image) (m : Mach) (n : Nat) : Mach :=
  if !epochMoves old new n then m
  else
    let r := m.ring n
    let m := agentForget old m (whoRing n)
    let js := m.dqu.jobs.filter (fun j => j.ring == n && !j.stale)
    let st := if !new.rEn n then .disabled else if r.st = .disabled then .active else r.st
    let m := m.setRing n { r with st, epoch := (r.epoch + 1) % 256, sqHead := 0, sqTail := 0, cqHead := 0, cqTail := 0, phase := true, since := 0,
                                  retiring := r.retiring || old.rEn n,
                                  old := if old.rEn n then (r.epoch, (old.rCfg n).nums, r.cqTail, r.cqHead, r.phase)
                                    :: r.old.filter (fun o => o.1 != r.epoch) else r.old }
    let m : Mach := { m with dqu := { m.dqu with jobs := m.dqu.jobs.map (fun j => if j.ring == n then { j with stale := true } else j) } }
    js.foldl (fun m j => match j.st with
      | .waiting | .parked | .parkWait .. => stopJob new m j.id 6
      | .queued => if j.slot ≠ 0 then stopJob new m j.id 6 else m
      | _ => m) m

/-- Every ring at an APPLY instant. -/
def ringsApply (old new : Image) (m : Mach) : Mach := (List.range 256).foldl (ringApply old new) m

/-- RETIRING_DONE (R383). -/
def retired (m : Mach) (n : Nat) : Mach :=
  let r := m.ring n
  if !r.retiring ∨ m.dqu.jobs.any (fun j => j.ring == n && j.stale) then m else m.setRing n { r with retiring := false, old := [] }

/-! ### Meanings -/

/-- DOORBELL_TAIL. The safe state ignores doorbells (R465). -/
def execDoorbellTail (via : Option (Fin 8)) (ring : Fin 256) (v : Word) (s : State) : Host.Outcome State Fault Refusal :=
  receivedVia s via (.doorbellTail via ring v) fun s => s.work (fun m => doorbell s.live m (via.map (·.val)) ring 0 (fun m => tailWrite s.live m ring (fld v 15 0)))

/-- DOORBELL_CQ_HEAD. -/
def execDoorbellCqHead (via : Option (Fin 8)) (ring : Fin 256) (v : Word) (s : State) : Host.Outcome State Fault Refusal :=
  receivedVia s via (.doorbellCqHead via ring v) fun s => s.work (fun m => doorbell s.live m (via.map (·.val)) ring 4 (fun m => headWrite s.live m ring (fld v 15 0)))

/-- RING_RESET. -/
def execRingReset (ring : Fin 256) (s : State) : Host.Outcome State Fault Refusal := s.work (fun m => ringReset s.live m ring)

/-- RING_RESET_DONE. -/
def execRingResetDone (ring : Fin 256) (s : State) : Host.Outcome State Fault Refusal := s.work (fun m => ringResetDone m ring)

/-- DESCRIPTOR_FETCH. -/
def execDescriptorFetch (ring : Fin 256) (s : State) : Host.Outcome State Fault Refusal := s.work (fun m => fetch s.live m ring)

/-- RETIRING_DONE. -/
def execRetiringDone (ring : Fin 256) (s : State) : Host.Outcome State Fault Refusal := s.work (fun m => retired m ring)

/-- FENCE. -/
def execFence (job : Nat) (s : State) : Host.Outcome State Fault Refusal := s.work (fun m => fenceDone s.live m job)

/-- NOP. -/
def execNop (job : Nat) (s : State) : Host.Outcome State Fault Refusal := s.work (fun m => nopDone s.live m job)

/-- COMPLETION_RECORD_WRITE. -/
def execCompletionRecordWrite (job : Nat) (s : State) : Host.Outcome State Fault Refusal := s.work (fun m => recordJob s.live m job)

/-- RING_ITIME_EXPIRE. -/
def execRingItimeExpire (ring : Fin 256) (s : State) : Host.Outcome State Fault Refusal := s.work (fun m => itime s.live m ring)

/-- RING_ERROR. -/
def execRingError (ring : Fin 256) (job : Option Nat) (s : State) : Host.Outcome State Fault Refusal := s.work (fun m => ringErr m ring job)

/-- WORK_ENQUEUE. -/
def execWorkEnqueue (w : Work) (s : State) : Host.Outcome State Fault Refusal := s.work (fun m => enqueue s.live m w)

end Sys2Proof.Machine
end

