-- ==== Sys2Proof/Machine/Yoke.lean ====
section
/-! DEFINITION. The yoke (R345-R378): training, flits in, records in, messages, the mirror states, resync, and the paired commit's
exchange. -/

namespace Sys2Proof.Machine

/-! ### Losing the link, or the partner (R359, R370, R376) -/

/-- Link-layer state as training finds it (R347, R359). -/
def Yoke.cleared (y : Yoke) : Yoke :=
  { y with width := 0, half := false, op := 0, opOwn := false, opLost := [], seqTx := 0, acked := 4095, expect := 0, rxTop := 0, window := [],
           replayBuf := [], naks := [], credits := [], rxHeld := [], open0 := 0, open3 := 0, turn3 := false, txRec0 := 0, txRec3 := 0, inst0 := 0, inst3 := 0, rxq0 := [],
           rxq3 := [], recs0 := [], recs3 := [], txWait := [], part0 := [], part3 := [], vecWant := false, vec := [], peerArm := none }

/-- A request whose completion waited for the partner completes. -/
def Mach.ackRelease (m : Mach) (r : Req) : Mach := m.endWrite r r.kind.oldVal r.late

/-- Requests that wait for a record. -/
def Mach.ackWaits (m : Mach) (p : Nat → Nat → Bool) : List Req := m.home.trk.filter (fun r => match r.phase with
  | .ackWait vc n => p vc n
  | _ => false)

/-- The partner's help is lost (R370): the units of unacknowledged records and of COPYING units are marked, the waits released. -/
def mirrorFail (L : Image) (m : Mach) (cause : Nat) : Mach :=
  let y := m.yoke
  let us := (y.recs0 ++ y.recs3).map (·.2.1) ++ y.copying
  let m := us.foldl Mach.markUnit m
  let keep := m.yoke.txWait.filter (fun p => p.1 == 1 || p.1 == 2)
  let m : Mach := { m with yoke := { m.yoke with recs0 := [], recs3 := [], copying := [], copyAt := none, txWait := keep } }
  let m := (m.ackWaits (fun _ _ => true)).foldl Mach.ackRelease m
  mirrorTo L m .degraded cause

/-- The link goes: its state is discarded, and records being installed answer nobody. -/
def linkGone (L : Image) (m : Mach) (st : YkLink) (cause : Nat) : Mach :=
  let m := agentForget L (agentForget L (mirrorFail L m cause) whoYoke) whoYoke3
  { m with yoke := { m.yoke.cleared with link := st } }

/-- A fatal fault of the link layer (R359). -/
def ykFatal (L : Image) (m : Mach) (c : Nat) : Mach :=
  if !m.yoke.up then m
  else
    let n := min 0xFFFF (m.rfld oYkFatal 31 16 + 1)
    linkGone L (((m.setReg oYkFatal (put c 0 ||| put n 16)).evb oYkEvt 1).raiseD 137 0 c) .training 1

/-- A paired APPLY ends unapplied on this part. -/
def pairEnd (s : State) : State :=
  { s with commit := { s.commit with op := .idle, code := 0x31#8 },
           m := { s.m with yoke := { s.m.yoke with phase := 4, goAcked := false, peerArm := none }, tally := { s.m.tally with direct := [] } } }

/-- A paired APPLY whose link is lost before GO_ACK was sent, or before it came (R376), or before it was armed. -/
def pairLost (s : State) : State :=
  if (s.commit.op = .armed ∧ !s.m.yoke.up ∧ !s.m.yoke.goAcked) ∨ (s.commit.op = .arming ∧ !s.m.yoke.up) then pairEnd s else s

/-- A change of the machinery by the yoke: its detections settle, a paired APPLY sees a lost link. -/
def State.yk (s : State) (f : Mach → Mach) : State := pairLost (settle { s with m := f s.m })

/-! ### Mirror vectors and STATUS (R355, R369, R374) -/

/-- A chunk of a mirror vector. -/
def vecChunk (I : Image) (c : Nat) : BitVec 256 :=
  (mirroredExtents I).foldl (fun b e => if e / 256 = c then b ||| (1#256 <<< (e % 256)) else b) 0#256

/-- A mirror vector's bytes. -/
def vecBytes (I : Image) : List Byte := (List.range 512).flatMap (fun c => bytesOf (vecChunk I c) 32)

/-- DIGEST of a mirror vector. -/
def digest (I : Image) : Word := Codec.crc32c 0#32 (vecBytes I)

/-- SELF_ID and the remembered PEER_ID. -/
def Mach.selfId (m : Mach) : BitVec 64 := m.reg oSelfIdHi ++ m.reg oSelfIdLo
def Mach.peerId (m : Mach) : BitVec 64 := m.reg oPeerIdHi ++ m.reg oPeerIdLo

/-- Send STATUS. -/
def sendStatus (L : Image) (m : Mach) : Mach :=
  let y := m.yoke
  m.ykMsg 2 2 [m.selfId.toNat, m.peerId.toNat, y.trust.toNat, (!y.map.isEmpty).toNat, (digest L).toNat, y.pairSeq]

/-- The frame number counted from the end of training: 256 slots of 8/7 ns (R345). -/
def Mach.ykFrame (m : Mach) : Nat := (m.core - m.yoke.upAt) * 35 / 16384 % 2 ^ 32

/-! ### Resync (R371) -/

/-- The agents of the yoke unit: they install the records of a VC, and read what is copied (R363, R371). -/
def yokeAgent (vc mst head : Nat) (cls : Cls) : Agent := { who := if vc = 0 then whoYoke else whoYoke3, src := 12, mst, head, cls }

/-- The reads of a page that is copied: each leaves as a record when its slice answers it. -/
def copyReads (page : Nat) : List Req :=
  (List.range 64).map (fun i => { (yokeAgent 3 mResync 0 .engine).ask i (64 * page + i) .agRead with quiet := true })

/-- Resync reads that have not been answered. -/
def Mach.copyReading (m : Mach) : List Req := m.requests.filter (fun r => r.src == 12 && r.kind == .agRead)

/-- A page has never been written: no lines of it wait anywhere. -/
def Mach.neverWritten (m : Mach) (page : Nat) (e : LEnt) : Bool :=
  e.st == 0 && (m.pageDirty page).isEmpty && !m.led.held.any (fun p => p.1 / 64 == page)
    && !m.tally.coal.any (fun (p : Nat × Coal) => p.1 / 64 == page)

/-- Send one page of a unit being copied: false while its ledger entry cannot be had. -/
def copyPage (L : Image) (m : Mach) (page : Nat) : Bool × Mach :=
  let x := if flatPage L page then (some { st := 1 : LEnt }, m) else ledGet L m mResync page
  match x.1 with
  | none => (false, x.2)
  | some e => (true, if x.2.neverWritten page e then (x.2.sendRec 3 3 (64 * page) 0 0 false 0#2 none).2 else agentGo L x.2 whoYoke3 (copyReads page))

/-- Copy marked units in ascending order, page by page, at most 64 units COPYING and at most 64 reads outstanding beside a page's own. -/
def copyUnits (L : Image) : Nat → Mach → Mach
  | 0, m => m
  | n + 1, m =>
    if m.yoke.st ≠ .resyncSrc then m
    else match m.yoke.copyAt with
      | some (u, i) =>
        if i = 512 then copyUnits L n { m with yoke := { m.yoke with copyAt := none } }
        else if 64 < m.copyReading.length then m
        else
          let r := copyPage L m (512 * u + i)
          if r.1 then copyUnits L n { r.2 with yoke := { r.2.yoke with copyAt := some (u, i + 1) } } else r.2
      | none =>
        match m.yoke.map.find? (fun u => !m.yoke.copying.contains u) with
        | some u =>
          if 64 ≤ m.yoke.copying.length then m
          else copyUnits L n { m with yoke := { m.yoke with map := m.yoke.map.erase u, copying := insNat u m.yoke.copying, copyAt := some (u, 0) } }
        | none => m

/-- MIRRORED: TRUST, and the partner remembered (R367). -/
def mirroredNow (L : Image) (m : Mach) : Mach :=
  let m : Mach := { m with yoke := { m.yoke with trust := true } }
  let m := (m.setReg oPeerIdLo (m.yoke.peerSelf.extractLsb' 0 32)).setReg oPeerIdHi (m.yoke.peerSelf.extractLsb' 32 32)
  mirrorTo L m .mirrored 0

/-- The source goes on: units that are copied leave COPYING, others start, and an empty map with everything acknowledged ends the
resync (R368, R371). -/
def resyncGo (L : Image) (m : Mach) : Mach :=
  if m.yoke.st ≠ .resyncSrc then m
  else
    let busy := fun (u : Nat) => m.yoke.copyAt.any (·.1 == u) || m.copyReading.any (fun r => unitOf r.line == u) || m.yoke.recs3.any (fun r => r.2.1 == u)
    let m : Mach := { m with yoke := { m.yoke with copying := m.yoke.copying.filter busy } }
    let m := copyUnits L (64 * 514) m
    let y := m.yoke
    if y.map.isEmpty ∧ y.copying.isEmpty ∧ y.recs3.isEmpty then mirroredNow L (m.ykMsg 2 0x0C [y.txRec3]) else m

/-- Enter RESYNC_SRC. -/
def enterSrc (L : Image) (m : Mach) : Mach := resyncGo L (mirrorTo L m .resyncSrc 0)

/-- Enter RESYNC_TGT: TGT_INCOMPLETE (R369). -/
def enterTgt (L : Image) (m : Mach) : Mach := mirrorTo L { m with yoke := { m.yoke with tgtIncomplete := true } } .resyncTgt 0

/-! ### Training and link operations (R346-R349, R360) -/

/-- YOKE_TRAINING_DONE. -/
def ykTrained (L : Image) (m : Mach) (peerRole : Bool) (width : Nat) (half : Bool) : Mach :=
  let y := m.yoke
  if !m.rbit oYkCtl 0 ∨ y.up ∨ y.link = .held then m
  else if peerRole = m.straps.yokeRole then { m with yoke := { y with link := .held, roleConflict := true } }.raise 136 0
  else
    let creds : Tbl Nat := [(0, vcRoom 0), (1, vcRoom 1), (2, vcRoom 2), (3, vcRoom 3)]
    let m : Mach := { m with yoke := { y.cleared with link := .up, width, half := half && width == 8, roleConflict := false, peerA := false,
                                                      credits := creds, upAt := m.core, peerState := 0 } }
    let m := m.evb oYkEvt 0
    sendStatus L (if m.yoke.st = .degraded then mirrorTo L m .pairing 0 else m)

/-- YOKE_PARTNER_TRAINING: the link trains here too, and a yoke self-test stops (R347, R501). -/
def ykPartnerTrains (m : Mach) : Mach :=
  let m := m.sstStop 3
  if m.rbit oYkCtl 0 ∧ m.yoke.link = .down then { m with yoke := { m.yoke with link := .training } } else m

/-- YOKE_ROLE_RETRY. -/
def ykRetry (m : Mach) : Mach :=
  if m.yoke.link = .held ∧ m.yoke.roleConflict ∧ m.rbit oYkCtl 0 then { m with yoke := { m.yoke with link := .training } } else m

/-- A request of the part's own was withdrawn, and the time to issue it again has not come (R349). -/
def Mach.ykHeldOff (m : Mach) (r : Nat × Nat × Bool) : Bool :=
  m.yoke.opLost.any (fun x => x.1 == r && (match x.2 with
    | some t => decide (m.core < t)
    | none => true))

/-- This part withdraws a request of its own, for a change that runs (R349). -/
def Mach.ykWithdraw (m : Mach) (r : Nat × Nat × Bool) : Mach :=
  { m with yoke := { m.yoke with opLost := (r, none) :: m.yoke.opLost.filter (fun x => x.1 != r) } }

/-- A retrain (1) or a width change (2) is requested by this part. While it follows the partner's, the PRIMARY part's own request is carried out
instead, and the SECONDARY part's is withdrawn (R349); while its own runs, another of its own is passed over (DESIGN CHOICE, log entry 100). -/
def ykOpStart (m : Mach) (op : Nat) (width : Nat) (half : Bool) : Mach :=
  let ask := (op, width, half)
  let go := { m with yoke := { m.yoke with link := .retrain, op, opOwn := true, opAsk := ask,
                                           opLost := m.yoke.opLost.filter (fun x => x.1 != ask) } }.send (.yokeOp width half)
  match m.yoke.link with
  | .up => if m.ykHeldOff ask then m else go
  | .retrain => if m.yoke.opOwn then m else if m.straps.yokeRole then (if m.ykHeldOff ask then m else go) else m.ykWithdraw ask
  | _ => m

/-- WIDTH_REQ (R348). -/
def ykWidth (m : Mach) (req : Nat) : Mach :=
  if req = 1 then ykOpStart m 2 16 false
  else if req = 2 then ykOpStart m 2 8 false
  else if req = 3 then ykOpStart m 2 8 true
  else m

/-- PARTNER_RETRAIN_REQUEST (R349): followed; when both have asked, the PRIMARY part's request is carried out, and the
SECONDARY part withdraws its own. -/
def ykPartnerOp (m : Mach) (w : Option (Nat × Bool)) : Mach :=
  let op := if w.isSome then 2 else 1
  match m.yoke.link with
  | .up => { m with yoke := { m.yoke with link := .retrain, op, opOwn := false } }
  | .retrain =>
    if m.yoke.opOwn && !m.straps.yokeRole then
      let m := m.ykWithdraw m.yoke.opAsk
      { m with yoke := { m.yoke with op, opOwn := false } }
    else m
  | _ => m

/-- YOKE_RETRAIN_DONE: the flits held resume; a request withdrawn for it waits 100 µs more (R349). -/
def ykOpDone (m : Mach) (width : Nat) (half : Bool) : Mach :=
  let y := m.yoke
  if y.link ≠ .retrain then m
  else
    let lost := y.opLost.map (fun x => (x.1, some (x.2.getD (m.core + holdOff))))
    let m : Mach := { m with yoke := { y with link := .up, op := 0, opOwn := false, opLost := lost } }
    let m := if y.op = 2 then { m with yoke := { m.yoke with width, half := half && width == 8 } }.evb oYkEvt 7 else m
    Mach.ykDrain (m.yoke.txWait.length) m

/-- LANE_ERROR_CHECK (R360). -/
def laneCheck (m : Mach) : Mach :=
  let cnt := fun (l : Nat) => (m.reg (oLaneCnt l)).toNat
  let bad := (List.range 16).filter (fun l => decide (m.rfld oLaneTh 15 0 < cnt l - m.yoke.laneSeen.get 0 l))
  let seen : Tbl Nat := (List.range 16).map (fun l => (l, cnt l))
  let m : Mach := { m with yoke := { m.yoke with laneSeen := seen } }
  let low := bad.any (· < 8)
  let high := bad.any (8 ≤ ·)
  if !m.rbit oYkCtl 1 ∨ low = high then m
  else if m.yoke.width = 8 ∧ m.yoke.half = low then m
  else ykWidth m (if low then 3 else 2)

/-- YK_CTL written: EN, AUTO_NARROW, WIDTH_REQ, RETRAIN. EN = 0 holds the link down (R368). -/
def ykCtlWrite (L : Image) (m : Mach) (v : Word) : Mach :=
  let m := m.setReg oYkCtl (v &&& 3#32)
  if !v.getLsbD 0 then
    if m.yoke.link = .held ∧ !m.yoke.roleConflict then m
    else
      let m := linkGone L m .held 3
      { m with yoke := { m.yoke with roleConflict := false } }
  else
    let m := if m.yoke.link = .held ∧ !m.yoke.roleConflict then ({ m with yoke := { m.yoke with link := .training } }).sstStop 3 else m
    let m := if v.getLsbD 4 then ykOpStart m 1 0 false else m
    ykWidth m (fld v 3 2)

/-! ### Records in (R354, R363) -/

/-- A record's fields. -/
def hKind (h : BitVec 64) : Nat := fld h 2 0
def hLine (h : BitVec 64) : Nat := fld h 41 3

/-- A record that is not installed: REJECT with its number (R363). A rejection in MIRRORED sends the partner to RESYNC_SRC and this
part to RESYNC_TGT (R368). -/
def recReject (L : Image) (m : Mach) (vc n : Nat) : Mach :=
  let m := ((m.bump (oYkCnt 4)).evb oYkEvt 6).ykMsg 1 (if vc = 0 then 3 else 4) [n]
  if m.yoke.st = .mirrored then enterTgt L m else m

/-- A record that is not installed: its extent is not mirrored here, or it is none of the four kinds (R354, R363). -/
def recBad (L : Image) (h : BitVec 64) : Bool :=
  !eMirror (L.extent (hLine h / 64 / 65536)) || hKind h == 0 || decide (5 ≤ hKind h) || fld h 63 50 != 0

/-- The agent of a record: a mirrored change is charged to the head and class that it carries, a copied line to resync (R298, R371). -/
def recAgent (vc : Nat) (h : BitVec 64) : Agent :=
  if hKind h = 4 then yokeAgent vc mResync 0 .engine
  else
    let head := fld h 44 42
    let cls := clsOf (fld h 46 45)
    yokeAgent vc (headMaster head cls) head cls

/-- Install a record at the line's slice as source 12 (R363): data as a non-caching write, a POISON record as one that writes no byte and
sets P, a FORGET_PAGE as LDG_CMD does. False when it waits. -/
def recInstall (L : Image) (vc : Nat) (h : BitVec 64) (data : Option Line) (m : Mach) : Attempt Bool :=
  let a := recAgent vc h
  if hKind h = 3 then forgetPage L a (hLine h / 64) m
  else
    let kind := if hKind h = 2 then ReqKind.agWrite 0#512 0#64 true 0#2 false
      else .agWrite (data.getD 0#512) (BitVec.allOnes 64) (h.getLsbD 47) (h.extractLsb' 48 2) false
    match m.askAll a 0 [(hLine h, kind)] with
    | .wait new => .wait new
    | .got _ => .ok true m

/-- Return the credits of flits of a VC that have left its receive buffer, in the header of an IDLE flit (R351, R356). -/
def Mach.ykCredit (m : Mach) (vc n : Nat) : Mach :=
  if n = 0 then m
  else { m with yoke := { m.yoke with rxHeld := m.yoke.rxHeld.set 0 vc (m.yoke.rxHeld.get 0 vc - n) } }.ykIdle none (vc, n)

/-- Install the records received on a VC, in order, acknowledging each; the flits that end with one leave the receive buffer (R356). -/
def recDrain (L : Image) (vc : Nat) : Nat → Mach → Mach
  | 0, m => m
  | n + 1, m =>
    let y := m.yoke
    match if vc = 0 then y.rxq0 else y.rxq3 with
    | [] => m
    | r :: _ =>
      let num := if vc = 0 then y.inst0 else y.inst3
      let next := (num + 1) % 2 ^ 32
      let pop := fun (m : Mach) => { m with yoke := if vc = 0 then { m.yoke with rxq0 := m.yoke.rxq0.drop 1, inst0 := next }
        else { m.yoke with rxq3 := m.yoke.rxq3.drop 1, inst3 := next } }.ykCredit vc r.2.2
      if recBad L r.1 then recDrain L vc n (recReject L (pop m) vc num)
      else
        let m := if hKind r.1 = 3 then (ledGet L m (recAgent vc r.1).mst (hLine r.1 / 64)).2 else m
        match runWork L (recAgent vc r.1).who (recInstall L vc r.1 r.2.1) askRounds m with
        | (some true, m) => recDrain L vc n (((pop m).pumpAll L).ykMsg 1 (if vc = 0 then 1 else 2) [next])
        | (_, m) => m

/-- Install what waits on both VCs; in DROWSE it waits in its buffer (R486). -/
def recDrains (L : Image) (m : Mach) : Mach :=
  if m.pwr.st ≠ .active ∧ m.pwr.st ≠ .entering then m else
  let m := recDrain L 0 (m.yoke.rxq0.length + 1) m
  recDrain L 3 (m.yoke.rxq3.length + 1) m

/-- A record is received on a VC; `n` flits leave the receive buffer with it. -/
def recRx (L : Image) (m : Mach) (vc : Nat) (h : BitVec 64) (data : Option Line) (n : Nat := 0) : Mach :=
  let m := touchYoke L m
  let y := m.yoke
  recDrains L { m with yoke := if vc = 0 then { y with rxq0 := y.rxq0 ++ [(h, data, n)] } else { y with rxq3 := y.rxq3 ++ [(h, data, n)] } }

/-- A header with the kind of its row. -/
def withKind (h : BitVec 64) (k : Nat) : BitVec 64 := (h &&& ~~~ 7#64) ||| BitVec.ofNat 64 k

/-! ### Acknowledgements (R355, R363, R364, R371) -/

/-- `n` lies below COUNT, modulo 2^32. -/
def belowCount (count n : Nat) : Bool := decide ((count + 2 ^ 32 - 1 - n % 2 ^ 32) % 2 ^ 32 < 2 ^ 31)

/-- Records of a VC leave the list of those not acknowledged; completions that waited for them are released. -/
def recsDone (m : Mach) (vc : Nat) (p : Nat → Bool) : Mach :=
  let y := m.yoke
  let m : Mach := { m with yoke := if vc = 0 then { y with recs0 := y.recs0.filter (fun r => !p r.1) }
    else { y with recs3 := y.recs3.filter (fun r => !p r.1) } }
  (m.ackWaits (fun v n => v == vc && p n)).foldl Mach.ackRelease m

/-- ACK0 and ACK3. -/
def ackRx (L : Image) (m : Mach) (vc count : Nat) : Mach := resyncGo L (recsDone m vc (belowCount count))

/-- REJECT0 and REJECT3: the unit is marked; from MIRRORED a resync starts (R368). -/
def rejectRx (L : Image) (m : Mach) (vc num : Nat) : Mach :=
  let y := m.yoke
  match (if vc = 0 then y.recs0 else y.recs3).find? (fun r => r.1 == num) with
  | none => m
  | some r =>
    let m := recsDone (m.markUnit r.2.1) vc (· == num)
    if m.yoke.st = .mirrored then enterSrc L m else resyncGo L m

/-! ### Management messages (R368, R369) -/

/-- HEARTBEAT: the partner's state. A partner that has become the source makes this part the target (R368). -/
def heartbeatRx (L : Image) (m : Mach) (state : Nat) : Mach :=
  let old := m.yoke.peerState
  let m : Mach := { m with yoke := { m.yoke with peerState := state % 8 } }
  let follows : Bool := match m.yoke.st with
    | .mirrored | .split | .resyncSrc | .pairing => true
    | _ => false
  if state = 3 ∧ old ≠ 3 ∧ follows then enterTgt L m else m

/-- The judgement of PAIRING (R369, R376). -/
def judgeStatus (L : Image) (m : Mach) (selfId peerId : BitVec 64) (trust nonempty : Bool) (dig : Word) (pairseq : Nat) : Mach :=
  let m := if pairseq = m.yoke.pairSeq then m
    else (({ m with yoke := { m.yoke with doubt := true } }).evb oYkEvt 8).raise 141 0
  if dig ≠ digest L then mirrorTo L m .split 5
  else
    let mine := m.yoke.trust && m.peerId == selfId
    let theirs := trust && peerId == m.selfId
    match mine, theirs with
    | true, true =>
      if m.yoke.map.isEmpty then (if nonempty then enterTgt L m else mirroredNow L m)
      else if nonempty then mirrorTo L m .split 4 else enterSrc L m
    | true, false => enterSrc L (markAll L m)
    | false, true => enterTgt L m
    | false, false => if m.straps.yokeRole then enterSrc L (markAll L m) else enterTgt L m

/-- STATUS: judged in PAIRING; elsewhere it tells of a change of the partner's mirror vector (R368). -/
def statusRx (L : Image) (m : Mach) (selfId peerId : BitVec 64) (trust nonempty : Bool) (dig : Word) (pairseq : Nat) : Mach :=
  let m : Mach := { m with yoke := { m.yoke with peerSelf := selfId, peerDigest := dig } }
  let same := dig == digest L
  match m.yoke.st with
  | .pairing => judgeStatus L m selfId peerId trust nonempty dig pairseq
  | .split =>
    if m.yoke.cause = 5 ∧ same then judgeStatus L (sendStatus L (mirrorTo L m .pairing 0)) selfId peerId trust nonempty dig pairseq else m
  | .mirrored | .resyncSrc | .resyncTgt => if same then m else mirrorTo L m .split 5
  | .degraded => m

/-- Chunks of the sync map that hold a set bit. -/
def mapChunks (m : Mach) : List Nat := (m.yoke.map.map (· / 256)).eraseDups

/-- Send the whole sync map in MAP messages. -/
def sendMap (m : Mach) : Mach :=
  let bits := fun (c : Nat) => m.yoke.map.foldl (fun (b : BitVec 256) u => if u / 256 = c then b ||| (1#256 <<< (u % 256)) else b) 0#256
  (mapChunks m).foldl (fun m c => m.ykMsg 2 5 [c, (bits c).toNat]) m

/-- MAP: ORed into this part's map. -/
def mapRx (m : Mach) (c : Nat) (bits : BitVec 256) : Mach :=
  (List.range 256).foldl (fun m i => if bits.getLsbD i then m.markUnit (256 * c + i) else m) m

/-- TAKE_SOURCE from the partner (R368). -/
def takeSourceRx (L : Image) (m : Mach) : Mach :=
  if m.yoke.st = .split ∧ m.yoke.cause = 4 then
    let m := sendMap m
    enterTgt L { m with yoke := { m.yoke with map := [] } }
  else m

/-- RESYNC_DONE (R368). -/
def resyncDoneRx (L : Image) (m : Mach) : Mach :=
  if m.yoke.st ≠ .resyncTgt then m
  else if m.yoke.map.isEmpty then mirroredNow L { m with yoke := { m.yoke with tgtIncomplete := false } }
  else mirrorTo L m .split 4

/-- CLASS_A or FATAL_A from the partner (R368, R377). -/
def peerClassA (L : Image) (m : Mach) : Mach :=
  if m.yoke.peerA then m
  else mirrorFail L (({ m with yoke := { m.yoke with peerA := true } }).evb oYkEvt 5) 2

/-- YK_CMD TAKE_SOURCE. -/
def takeSource (L : Image) (m : Mach) : Mach :=
  if m.yoke.st = .split ∧ m.yoke.cause = 4 then
    enterSrc L { m.ykMsg 2 0x0B [] with yoke := { (m.ykMsg 2 0x0B []).yoke with cmdResult := 1 } }
  else { m with yoke := { m.yoke with cmdResult := 2 } }

/-- YK_CMD FULL_RESYNC. -/
def fullResync (L : Image) (m : Mach) : Mach :=
  if m.yoke.st = .degraded then { m with yoke := { m.yoke with cmdResult := 2 } }
  else
    let m := markAll L { m with yoke := { m.yoke with cmdResult := 1, trust := false } }
    enterSrc L m

/-! ### The paired commit's exchange (R374-R376) -/

/-- A table of an image covers an extent by its positions. -/
def tallyCovers (I : Image) (p e : Nat) : Bool :=
  let l := I.reg (oTlyLoc p)
  (List.range (fld l 31 17)).any (fun i => (I.mapIdx p (fld l 16 0 + i)).any (fun k => I.mapEnt k == e))

/-- The extents whose coalescer entries APPLY merges (R413). -/
def mergedExt (old new : Image) (e : Nat) : Bool :=
  let a := old.extent e
  let b := new.extent e
  eRole a != eRole b || eOwner a != eOwner b ||
    (List.range 64).any (fun p =>
      (old.reg (oTlyCfg p) != new.reg (oTlyCfg p) || old.reg (oTlyLoc p) != new.reg (oTlyLoc p))
        && (tallyCovers old p e || tallyCovers new p e))

/-- The extents of live tally tables that an APPLY merges: their records go straight to media until its instant (R98). -/
def directExts (old new : Image) : List Nat :=
  (((List.range 64).filterMap (fun p => (tallyTab old p).map (fun t => (p, t)))).flatMap (fun x =>
    (List.range x.2.next).filterMap (fun i => (old.mapIdx x.1 (x.2.first + i)).map old.mapEnt))).eraseDups.filter (mergedExt old new)

/-- The PRIMARY part, armed and holding the partner's ARM, names the frame; a wrong CRC aborts (R375). -/
def pairMatch (s : State) : State :=
  match s.commit.op, s.m.yoke.peerArm with
  | .armed, some c =>
    if c ≠ digest s.stage then pairAbort s
    else if s.m.straps.yokeRole && s.m.yoke.phase == 1 then
      let f := (s.m.ykFrame + 32) % 2 ^ 32
      let m : Mach := { s.m with yoke := { s.m.yoke with phase := 2, frame := f } }
      { s with m := m.ykMsg 2 7 [f] }
    else s
  | _, _ => s

/-- The merge of step 2 of R97 before an APPLY (R413): true when no entry is left waiting. -/
def applyMerge (old new : Image) (m : Mach) : Bool × Mach := mergeWhere old m (fun line => mergedExt old new (line / 2 ^ 22))

/-- A paired APPLY arms once its merge is done (R375): ARM goes to the partner. -/
def pairArm (s : State) : State :=
  if s.commit.op ≠ .arming then s
  else match applyMerge s.live s.stage s.m with
    | (false, m) => settle { s with m }
    | (true, m) =>
      let m : Mach := { m with yoke := { m.yoke with phase := 1, goAcked := false } }
      let s := settle { s with m := m.ykMsg 2 6 [(digest s.stage).toNat] }
      if s.commit.op = .arming then pairMatch { s with commit := { s.commit with op := .armed } } else s

/-- ARM. -/
def armRx (s : State) (c : Word) : State := pairMatch (pairArm { s with m := { s.m with yoke := { s.m.yoke with peerArm := some c } } })

/-- The present frame lies before `f`. -/
def Mach.beforeFrame (m : Mach) (f : Nat) : Bool :=
  let d := (f + 2 ^ 32 - m.ykFrame) % 2 ^ 32
  decide (0 < d ∧ d < 2 ^ 31)

/-- GO, at the SECONDARY part. -/
def goRx (s : State) (f : Nat) : State :=
  if s.commit.op = .armed ∧ !s.m.straps.yokeRole ∧ s.m.yoke.phase = 1 ∧ s.m.beforeFrame ((f + 2 ^ 32 - 8) % 2 ^ 32) then
    let m : Mach := { s.m with yoke := { s.m.yoke with phase := 2, frame := f, goAcked := true } }
    { s with m := m.ykMsg 2 8 [f] }
  else s

/-- GO_ACK, at the PRIMARY part. -/
def goAckRx (s : State) (f : Nat) : State :=
  if s.commit.op = .armed ∧ s.m.straps.yokeRole ∧ s.m.yoke.phase = 2 ∧ f = s.m.yoke.frame ∧ s.m.beforeFrame f then
    { s with m := { s.m with yoke := { s.m.yoke with goAcked := true } } }
  else s

/-- ABORT. -/
def abortRx (s : State) : State :=
  if s.commit.op = .armed ∨ s.commit.op = .arming then pairEnd s
  else { s with m := { s.m with yoke := { s.m.yoke with peerArm := none } } }

/-- VEC: a chunk of the partner's staged vector, asked for by a paired CHECK. -/
def vecRx (m : Mach) (c : Nat) (b : BitVec 256) : Mach :=
  if m.yoke.vecWant then { m with yoke := { m.yoke with vec := m.yoke.vec.insert c b } } else m

/-- VEC_REQ: the whole vector in VEC messages. -/
def vecReqRx (s : State) (staged : Bool) : State :=
  let I := if staged then s.stage else s.live
  { s with m := (List.range 512).foldl (fun m c => m.ykMsg 2 3 [c, (vecChunk I c).toNat]) s.m }

/-! ### Flits in (R350-R359) -/

/-- A good flit (R353). -/
def flitGood (y : Yoke) (f : BitVec 2048) : Bool :=
  flitCrc f == f.extractLsb' 2016 32 && lpar y f == f.extractLsb' 2000 16 && fld f 63 52 == 0

/-- A bad flit: lanes whose parity disagrees are counted; a bad replay on VC1 or VC2 is fatal (R353, R359). -/
def flitBad (L : Image) (m : Mach) (f : BitVec 2048) : Mach :=
  let d := lpar m.yoke f ^^^ f.extractLsb' 2000 16
  let m := (List.range 16).foldl (fun m l => if d.getLsbD l then m.bump (oLaneCnt l) else m) m
  if f.getLsbD 3 && !f.getLsbD 2 && (fld f 1 0 == 1 || fld f 1 0 == 2) then ykFatal L m 4 else m

/-- ACK of a header: every flit up to it leaves the replay buffer; a SEQ that is not there is fatal. -/
def flitAck (L : Image) (m : Mach) (a : Nat) : Mach :=
  let y := m.yoke
  if a = y.acked then m
  else if !y.replayBuf.any (fun p => p.1 == a) then ykFatal L m 2
  else
    let gone := (y.replayBuf.takeWhile (fun p => p.1 != a)).map (·.1) ++ [a]
    { m with yoke := { y with acked := a, replayBuf := y.replayBuf.drop gone.length, naks := y.naks.filter (fun e => !gone.contains e.1) } }

/-- NAK of a header: the flit named is sent again, with REPLAY = 1; the third NAK of one SEQ is fatal. -/
def flitNak (L : Image) (m : Mach) (a : Nat) : Mach :=
  let y := m.yoke
  match y.replayBuf.find? (fun p => p.1 == a) with
  | none => ykFatal L m 2
  | some p =>
    let n := y.naks.get 0 a + 1
    if 3 ≤ n then ykFatal L m 1
    else ({ m with yoke := { y with naks := y.naks.insert a n } }.ykResend p.2.1 a p.2.2).bump (oYkCnt 2)

/-- Send a NAK, in the header of a flit, for each of `n` SEQs from `a` that has not come. -/
def nakFrom (a n : Nat) (m : Mach) : Mach :=
  (List.range n).foldl (fun (m : Mach) i =>
    let q := (a + i) % 4096
    if (m.yoke.window.find? q).isSome then m else ((m.ykIdle (some q) (0, 0)).bump (oYkCnt 1)).pmuEvent 0x602 0 1) m

/-- The flits of a VC that its receive buffer and the window hold. -/
def Yoke.heldOn (y : Yoke) (vc : Nat) : Nat :=
  y.rxHeld.get 0 vc + (y.window.filter (fun (p : Nat × BitVec 2048) => fld p.2 1 0 == vc)).length

/-- Records in a payload, after what the last flit left (R354): the records, and what is left over. -/
def parseRecs : Nat → List Byte → List Byte → List (BitVec 64 × Option Line) × List Byte
  | 0, part, _ => ([], part)
  | n + 1, part, bs =>
    if part.isEmpty then
      if bs.length < 8 then ([], [])
      else
        let h := ofBytes 64 (bs.take 8)
        let bs := bs.drop 8
        if hKind h = 0 then ([], [])
        else if hKind h = 1 ∨ hKind h = 4 then parseRecs n (bytesOf h 8) bs
        else
          let r := parseRecs n [] bs
          ((h, none) :: r.1, r.2)
    else
      let need := 72 - part.length
      if bs.length < need then ([], part ++ bs)
      else
        let b := part ++ bs.take need
        let r := parseRecs n [] (bs.drop need)
        ((ofBytes 64 (b.take 8), some (ofBytes 512 (b.drop 8))) :: r.1, r.2)

/-- A VC1 message (R355). -/
def vc1Msg (L : Image) (m : Mach) (v : BitVec 64) : Mach :=
  let ty := fld v 3 0
  if ty = 0 then m
  else
    let m := touchYoke L m
    let c := fld v 39 8
    if 4 < ty ∨ fld v 7 4 ≠ 0 ∨ fld v 63 40 ≠ 0 then (m.bump (oYkCnt 6)).raise 142 0
    else if ty = 1 then ackRx L m 0 c
    else if ty = 2 then ackRx L m 3 c
    else if ty = 3 then rejectRx L m 0 c
    else rejectRx L m 3 c

/-- A message of VC2 that the machinery alone answers. -/
def State.ykOn (s : State) (f : Mach → Mach) : State := { s with m := f s.m }

/-- A VC2 message (R355): the safe state answers none but HEARTBEAT (R377). -/
def vc2Msg (s : State) (b : List Byte) : State :=
  let n := fun (lo k : Nat) => natOfBytes ((b.drop lo).take k)
  let L := s.live
  let ty := n 0 1
  if ty = 0 then s
  else if 12 < ty ∨ n 1 7 ≠ 0 then s.ykOn (fun m => ((touchYoke L m).bump (oYkCnt 6)).raise 142 0)
  else if ty = 1 then s.ykOn (fun m => heartbeatRx L m (n 8 1))
  else if s.latch then s
  else
    let s := s.ykOn (touchYoke L)
    match ty with
    | 2 => s.ykOn (fun m => statusRx L m (BitVec.ofNat 64 (n 8 8)) (BitVec.ofNat 64 (n 16 8)) (n 24 1 % 2 == 1) (n 24 1 / 2 % 2 == 1)
        (BitVec.ofNat 32 (n 28 4)) (n 32 4))
    | 3 => s.ykOn (fun m => vecRx m (n 8 2 % 512) (BitVec.ofNat 256 (n 32 32)))
    | 4 => vecReqRx s (n 8 1 == 1)
    | 5 => s.ykOn (fun m => mapRx m (n 8 4 % 65536) (BitVec.ofNat 256 (n 32 32)))
    | 6 => armRx s (BitVec.ofNat 32 (n 8 4))
    | 7 => goRx s (n 8 4)
    | 8 => goAckRx s (n 8 4)
    | 9 => abortRx s
    | 10 => s.ykOn (peerClassA L)
    | 11 => s.ykOn (takeSourceRx L)
    | _ => s.ykOn (resyncDoneRx L)

/-- A flit is delivered to its VC. -/
def flitDeliver (s : State) (f : BitVec 2048) : State :=
  let vc := fld f 1 0
  let bs := bytesOf f 250
  let msg := fun (i k : Nat) => (bs.drop (8 + i * k)).take k
  let hold := fun (m : Mach) => { m with yoke := { m.yoke with rxHeld := m.yoke.rxHeld.insert vc (m.yoke.rxHeld.get 0 vc + 1) } }
  let s := s.ykOn hold
  if vc = 1 then
    (if s.latch then s else (List.range 30).foldl (fun s i => s.ykOn (fun m => vc1Msg s.live m (ofBytes 64 (msg i 8)))) s).ykOn (·.ykCredit 1 1)
  else if vc = 2 then ((List.range 3).foldl (fun s i => vc2Msg s (msg i 64)) s).ykOn (·.ykCredit 2 1)
  else if s.latch then s
  else s.ykOn (fun m =>
    let y := m.yoke
    let r := parseRecs 64 (if vc = 0 then y.part0 else y.part3) ((bs.drop 8).take 242)
    -- a flit leaves its buffer with the last record that ends in it; one that ends none leaves with the next that does
    let n := (if vc = 0 then y.open0 else y.open3) + 1
    let left := if r.1.isEmpty && !r.2.isEmpty then n else 0
    let m : Mach := { m with yoke := if vc = 0 then { y with part0 := r.2, open0 := left } else { y with part3 := r.2, open3 := left } }
    let k := r.1.length
    let m := r.1.zipIdx.foldl (fun m x => recRx s.live m vc x.1.1 x.1.2 (if x.2 + 1 = k then n else 0)) m
    recDrains s.live (if k = 0 ∧ r.2.isEmpty then m.ykCredit vc n else m))

/-- Deliver the flits that are next in SEQ order (R357). -/
def flitDeliverAll : Nat → State → State
  | 0, s => s
  | n + 1, s =>
    let y := s.m.yoke
    match y.window.find? y.expect with
    | none => s
    | some f =>
      let s := s.ykOn (fun m => { m with yoke := { m.yoke with window := m.yoke.window.erase y.expect, expect := (y.expect + 1) % 4096 } })
      flitDeliverAll n (flitDeliver s f)

/-- YOKE_FLIT_RX. Flits are held while the link retrains (R348). -/
def flitRx (s : State) (f : BitVec 2048) : State :=
  let L := s.live
  if s.m.yoke.link ≠ .up then s
  else if !flitGood s.m.yoke f then s.ykOn (fun m => flitBad L m f)
  else
    let s := s.ykOn (fun m => flitAck L m (fld f 27 16))
    let s := s.ykOn (fun m => if f.getLsbD 28 && m.yoke.up then flitNak L m (fld f 40 29) else m)
    if !s.m.yoke.up then s
    else
      let s := s.ykOn (fun m =>
        let vc := fld f 42 41
        let m : Mach := { m with yoke := { m.yoke with credits := m.yoke.credits.insert vc (m.yoke.credits.get 0 vc + fld f 50 43) } }
        Mach.ykDrain m.yoke.txWait.length m)
      let s := if f.getLsbD 51 && !s.latch then s.ykOn (peerClassA L) else s
      let y := s.m.yoke
      let q := fld f 15 4
      let ahead := (q + 4096 - y.expect) % 4096
      let top := (y.rxTop + 4096 - y.expect) % 4096
      if f.getLsbD 2 then
        if 2048 ≤ ahead then s
        else if 512 < ahead then s.ykOn (fun m => ykFatal L m 2)
        else s.ykOn (fun m => nakFrom y.expect ahead { m with yoke := { m.yoke with rxTop := if top < ahead then q else m.yoke.rxTop } })
      else if 2048 ≤ ahead ∨ (y.window.find? q).isSome then s
      else if 512 ≤ ahead then s.ykOn (fun m => ykFatal L m 2)
      else if vcRoom (fld f 1 0) ≤ y.heldOn (fld f 1 0) then s.ykOn (fun m => ykFatal L m 3)
      else
        let s := s.ykOn (fun m =>
          let m := nakFrom ((y.expect + top) % 4096) (ahead - top) m
          { m with yoke := { m.yoke with window := m.yoke.window.insert q f, rxTop := if top ≤ ahead then (q + 1) % 4096 else m.yoke.rxTop } })
        let t := flitDeliverAll 512 s
        -- what has been received good is told at once (R351; when a header says so is timing, log entry 101)
        if t.m.yoke.up ∧ t.m.yoke.expect ≠ y.expect then t.ykOn (·.ykIdle none (0, 0)) else t

/-! ### Meanings -/

/-- A meaning of a yoke command on the machinery, whatever the latch. -/
def ykOp (s : State) (f : Mach → Mach) : Host.Outcome State Fault Refusal := .next (s.yk f)

/-- A message or record is taken only over a link that carries flits, and not in the safe state (R377). -/
def ykTake (s : State) (f : State → State) : Host.Outcome State Fault Refusal :=
  if s.latch ∨ s.m.yoke.link ≠ .up then .next s else .next ((f s).yk id)

/-- A message other than HEARTBEAT: it ends a power state's entry or wakes the part (R480). -/
def ykMgmt (s : State) (f : State → State) : Host.Outcome State Fault Refusal := ykTake s (fun s => f (s.ykOn (touchYoke s.live)))

/-- YOKE_TRAINING_DONE. -/
def execYokeTrainingDone (peerRole : Bool) (width : Nat) (half : Bool) (s : State) : Host.Outcome State Fault Refusal :=
  ykOp s (fun m => ykTrained s.live m peerRole width half)

/-- YOKE_ROLE_RETRY. -/
def execYokeRoleRetry (s : State) : Host.Outcome State Fault Refusal := ykOp s ykRetry

/-- YK_EN_WRITE. -/
def execYkEnWrite (v : Word) (s : State) : Host.Outcome State Fault Refusal := ykOp s (fun m => ykCtlWrite s.live m v)

/-- YK_RETRAIN. -/
def execYkRetrain (s : State) : Host.Outcome State Fault Refusal := ykOp s (fun m => ykOpStart m 1 0 false)

/-- YK_WIDTH_REQ. -/
def execYkWidthReq (req : Fin 4) (s : State) : Host.Outcome State Fault Refusal := ykOp s (fun m => ykWidth m req)

/-- YOKE_RETRAIN_DONE. -/
def execYokeRetrainDone (width : Nat) (half : Bool) (s : State) : Host.Outcome State Fault Refusal := ykOp s (fun m => ykOpDone m width half)

/-- EYE_MARGIN_LOW. -/
def execEyeMarginLow (s : State) : Host.Outcome State Fault Refusal := ykOp s (fun m => ykOpStart m 1 0 false)

/-- PARTNER_RETRAIN_REQUEST. -/
def execPartnerRetrainRequest (width : Option (Nat × Bool)) (s : State) : Host.Outcome State Fault Refusal := ykOp s (fun m => ykPartnerOp m width)

/-- YOKE_PARTNER_TRAINING. -/
def execYokePartnerTraining (s : State) : Host.Outcome State Fault Refusal := ykOp s ykPartnerTrains

/-- LANE_ERROR_CHECK. -/
def execLaneErrorCheck (s : State) : Host.Outcome State Fault Refusal := ykOp s laneCheck

/-- YOKE_FLIT_RX. -/
def execYokeFlitRx (flit : BitVec 2048) (s : State) : Host.Outcome State Fault Refusal := .next ((flitRx s flit).yk id)

/-- YOKE_HB_TIMEOUT: suspended while a retrain or width change runs (R348). -/
def execYokeHbTimeout (s : State) : Host.Outcome State Fault Refusal :=
  ykOp s (fun m => if m.yoke.link = .up then ykFatal s.live m 5 else m)

/-- YOKE_LANE_LOSS: on a lane of the active width. -/
def execYokeLaneLoss (lane : Fin 16) (s : State) : Host.Outcome State Fault Refusal :=
  ykOp s (fun m => if m.yoke.width = 8 ∧ (decide (8 ≤ lane.val) != m.yoke.half) then m else ykFatal s.live m 6)

/-- The part's side of a heartbeat: what waited for its turn at the home is tried again. -/
def heartbeatTx (L : Image) (latch : Bool) (m : Mach) : Mach :=
  if !m.yoke.up then m
  else
    let m := m.ykMsg 2 1 [m.yoke.st.code, m.ykFrame]
    if latch then m else resyncGo L (recDrains L m)

/-- HEARTBEAT_SEND: a paired APPLY that waits for its merge is tried again too (R375). -/
def execHeartbeatSend (s : State) : Host.Outcome State Fault Refusal := .next (pairArm (s.yk (heartbeatTx s.live s.latch)))

/-- WRITE_RECORD: a record of VC0. -/
def execWriteRecord (hdr : BitVec 64) (data : Line) (s : State) : Host.Outcome State Fault Refusal :=
  ykTake s (fun s => s.ykOn (fun m => recRx s.live m 0 (withKind hdr 1) (some data)))

/-- POISON_RECORD. -/
def execPoisonRecord (hdr : BitVec 64) (s : State) : Host.Outcome State Fault Refusal :=
  ykTake s (fun s => s.ykOn (fun m => recRx s.live m 0 (withKind hdr 2) none))

/-- FORGET_PAGE_RECORD. -/
def execForgetPageRecord (hdr : BitVec 64) (s : State) : Host.Outcome State Fault Refusal :=
  ykTake s (fun s => s.ykOn (fun m => recRx s.live m 0 (withKind hdr 3) none))

/-- RESYNC_LINE_RECORD: a record of VC3. -/
def execResyncLineRecord (hdr : BitVec 64) (data : Line) (s : State) : Host.Outcome State Fault Refusal :=
  ykTake s (fun s => s.ykOn (fun m => recRx s.live m 3 (withKind hdr 4) (some data)))

/-- ACK0. -/
def execAck0 (count : BitVec 32) (s : State) : Host.Outcome State Fault Refusal :=
  ykMgmt s (fun s => s.ykOn (fun m => ackRx s.live m 0 count.toNat))

/-- ACK3. -/
def execAck3 (count : BitVec 32) (s : State) : Host.Outcome State Fault Refusal :=
  ykMgmt s (fun s => s.ykOn (fun m => ackRx s.live m 3 count.toNat))

/-- REJECT0. -/
def execReject0 (num : BitVec 32) (s : State) : Host.Outcome State Fault Refusal :=
  ykMgmt s (fun s => s.ykOn (fun m => rejectRx s.live m 0 num.toNat))

/-- REJECT3. -/
def execReject3 (num : BitVec 32) (s : State) : Host.Outcome State Fault Refusal :=
  ykMgmt s (fun s => s.ykOn (fun m => rejectRx s.live m 3 num.toNat))

/-- HEARTBEAT: the link is kept in the safe state too (R377). -/
def execHeartbeat (state : Byte) (_frame : Word) (s : State) : Host.Outcome State Fault Refusal :=
  ykOp s (fun m => if m.yoke.link = .up then heartbeatRx s.live m state.toNat else m)

/-- STATUS. -/
def execStatus (selfId peerId : BitVec 64) (trust nonempty : Bool) (digest pairseq : Word) (s : State) : Host.Outcome State Fault Refusal :=
  ykMgmt s (fun s => s.ykOn (fun m => statusRx s.live m selfId peerId trust nonempty digest pairseq.toNat))

/-- VEC. -/
def execVec (chunk : Fin 512) (bits : BitVec 256) (s : State) : Host.Outcome State Fault Refusal :=
  ykMgmt s (fun s => s.ykOn (fun m => vecRx m chunk bits))

/-- VEC_REQ. -/
def execVecReq (staged : Bool) (s : State) : Host.Outcome State Fault Refusal := ykMgmt s (fun s => vecReqRx s staged)

/-- MAP. -/
def execMap (chunk : Fin 65536) (bits : BitVec 256) (s : State) : Host.Outcome State Fault Refusal :=
  ykMgmt s (fun s => s.ykOn (fun m => mapRx m chunk bits))

/-- ARM. -/
def execArm (crc : Word) (s : State) : Host.Outcome State Fault Refusal := ykMgmt s (fun s => armRx s crc)

/-- GO. -/
def execGo (frame : Word) (s : State) : Host.Outcome State Fault Refusal := ykMgmt s (fun s => goRx s frame.toNat)

/-- GO_ACK. -/
def execGoAck (frame : Word) (s : State) : Host.Outcome State Fault Refusal := ykMgmt s (fun s => goAckRx s frame.toNat)

/-- ABORT. -/
def execAbort (s : State) : Host.Outcome State Fault Refusal := ykMgmt s abortRx

/-- PAIRED_ARM_TIMEOUT: the ARM was not matched. -/
def execPairedArmTimeout (s : State) : Host.Outcome State Fault Refusal :=
  .next ((if s.m.yoke.phase = 1 then pairAbort s else s).yk id)

/-- CLASS_A. -/
def execClassA (s : State) : Host.Outcome State Fault Refusal := ykMgmt s (fun s => s.ykOn (peerClassA s.live))

/-- TAKE_SOURCE. -/
def execTakeSource (s : State) : Host.Outcome State Fault Refusal := ykMgmt s (fun s => s.ykOn (takeSourceRx s.live))

/-- RESYNC_DONE: the count of records sent is the source's; the target has installed them all before it is sent. -/
def execResyncDone (_sent : Word) (s : State) : Host.Outcome State Fault Refusal := ykMgmt s (fun s => s.ykOn (resyncDoneRx s.live))

/-- YK_CMD_TAKE_SOURCE. Writes of YK_CMD are ignored in the safe state (R465). -/
def execYkCmdTakeSource (s : State) : Host.Outcome State Fault Refusal := if s.latch then .next s else ykOp s (takeSource s.live)

/-- FULL_RESYNC. -/
def execFullResync (s : State) : Host.Outcome State Fault Refusal := if s.latch then .next s else ykOp s (fullResync s.live)

/-- UNIT_COPY_DONE: a unit with no VC3 record left leaves COPYING, and the source goes on. -/
def execUnitCopyDone (_unit : Nat) (s : State) : Host.Outcome State Fault Refusal := if s.latch then .next s else ykOp s (resyncGo s.live)

end Sys2Proof.Machine
end

