-- ==== Sys2Proof/Machine/Links.lean ====
section
/-! DEFINITION. What happens on the heads' pins and links and on the management port (R54-R73): the functions of `Ports`, and the rings
that fall with a link. -/

namespace Sys2Proof.Machine

/-- A change of a head's link: when the link is lost, the rings that the head carries fall (R66, R404). -/
def withFall (L : Image) (h : Nat) (f : Mach → Mach) (m : Mach) : Mach :=
  let was := (m.head h).st.linked
  let m := f m
  if was && !(m.head h).st.linked then ringsFall L m h else m

/-- The management link goes down, with the rings it carries (R73, R404). -/
def mgmtFall (L : Image) (m : Mach) : Mach := if m.mgmt.up then ringsFall L (mgmtDown m) mgmtFn else m

/-- The management link comes up; a self-test of its lanes stops (R501). -/
def mgmtRise (m : Mach) (width speed : Nat) : Mach :=
  ({ m with mgmt := { m.mgmt with up := true, width := min width 4, speed } }).sstStop 4

/-- PERST_DEASSERT. -/
def execPerstDeassert (h : Fin 8) (s : State) : Host.Outcome State Fault Refusal := s.op (fun m => perstOff m h)

/-- HEAD_DISABLE. -/
def execHeadDisable (h : Fin 8) (d : DropEnv) (s : State) : Host.Outcome State Fault Refusal :=
  s.op (fun m => withFall s.live h (fun m => disable s.live m h d) m)

/-- HEAD_ENABLE. -/
def execHeadEnable (h : Fin 8) (s : State) : Host.Outcome State Fault Refusal := s.op (fun m => enable m h)

/-- LINK_L0_REACHED. -/
def execLinkL0Reached (h : Fin 8) (width : Nat) (speed : Fin 6) (mld : Bool) (bi : Option Nat) (ide : Bool) (s : State) : Host.Outcome State Fault Refusal :=
  s.op (fun m => linkUp s.live s.latch m h width speed mld bi ide)

/-- LTSSM_RECOVERY_ENTER. -/
def execLtssmRecoveryEnter (h : Fin 8) (replays : Nat) (s : State) (fec : Nat := 0) (own : Bool := false) : Host.Outcome State Fault Refusal :=
  s.op (fun m => recoveryIn m h replays fec own)

/-- LINK_DOWN. -/
def execLinkDown (h : Fin 8) (d : DropEnv) (s : State) : Host.Outcome State Fault Refusal :=
  s.op (fun m => if (m.head h).st.linked then withFall s.live h (fun m => linkLost s.live m h .down d) m else m)

/-- DROP_FILTER_WALK_DONE. -/
def execDropFilterWalkDone (h : Fin 8) (s : State) : Host.Outcome State Fault Refusal := s.op (fun m => (dropWalk s.live m h).pumpAll s.live)

/-- DROP_ENTRIES_FREED. -/
def execDropEntriesFreed (h : Fin 8) (s : State) : Host.Outcome State Fault Refusal := s.op (fun m => dropRecord m h)

/-- IDE_INTEGRITY_FAIL. -/
def execIdeIntegrityFail (h : Fin 8) (s : State) : Host.Outcome State Fault Refusal :=
  s.op (fun m => if (m.head h).st = .ioOnly ∨ (m.head h).st = .active then insecure m h else m)

/-- IDE_STREAM_REENABLE. -/
def execIdeStreamReenable (h : Fin 8) (s : State) : Host.Outcome State Fault Refusal := s.op (fun m => reenable m h)

/-- VIRAL_RX. -/
def execViralRx (h : Fin 8) (s : State) : Host.Outcome State Fault Refusal :=
  received s h (.viralRx h) fun s => s.op (fun m => viralIn m h)

/-- L0P_IDLE_REQUEST. -/
def execL0pIdleRequest (h : Fin 8) (s : State) : Host.Outcome State Fault Refusal := s.op (fun m => l0pRequest m h)

/-- L0P_CHANGE_DONE. -/
def execL0pChangeDone (h : Fin 8) (width : Nat) (s : State) : Host.Outcome State Fault Refusal := s.op (fun m => l0pDone m h width)

/-- MP_PERST_N_ASSERT: the management port alone, its link and its function (R73, R489). -/
def execMpPerstNAssert (s : State) : Host.Outcome State Fault Refusal :=
  s.op (fun m => let m := mgmtFall s.live m; { m with pci := m.pci.gone mgmtFn })

/-- MGMT_LINK_DOWN. -/
def execMgmtLinkDown (s : State) : Host.Outcome State Fault Refusal := s.op (mgmtFall s.live)

/-- MGMT_LINK_UP. -/
def execMgmtLinkUp (width : Nat) (speed : Fin 5) (s : State) : Host.Outcome State Fault Refusal := s.op (fun m => mgmtRise m width speed)

end Sys2Proof.Machine
end

