-- ==== Sys2Proof/Machine/Flush.lean ====
section
/-! DEFINITION. The caches flushed and the channels put into self-refresh, for the stops that keep the DRAM (R142, R484, R491, R492, R498): the
home, the ledger and the controllers run on until nothing of what stood there is left. -/

namespace Sys2Proof.Machine

/-! ### The home runs on until it is idle (R66, R491) -/

/-- Requests that have not reached the home. -/
def Mach.outside (m : Mach) : Nat :=
  ((List.range 8).map (fun h => let x := m.head h; x.qRt.length + x.qTable.length + x.qBulk.length + x.rxReq.length + x.rxRwd.length)).sum
    + m.home.intq.length + m.home.fab.length

/-- Something stands at the home or on its way to it, or waits for memory. -/
def Mach.homeBusy (m : Mach) : Bool :=
  decide (0 < m.outside) || !m.home.trk.isEmpty || !m.home.fills.isEmpty || !m.led.fetching.isEmpty || !m.chn.decodes.isEmpty

/-- CORE cycles until every request that can has entered; each is a window's first, since what a flush does takes longer than a window.
`n` bounds them. -/
def cyclesOn (L : Image) : Nat → Mach → Mach
  | 0, m => m
  | n + 1, m => if m.outside = 0 then m else cyclesOn L n (coreCycle L (windowBegin L m))

/-- A subchannel in self-refresh that a request has reached leaves it (R290). -/
def Mach.rouse (m : Mach) (k : Nat) : Mach :=
  let s := m.sub k
  if (s.rq ++ s.wq ++ s.fabric).isEmpty then m else m.exitSr k

/-- A subchannel does all its commands, and its reads come back. -/
def subRun (L : Image) (m : Mach) (k : Nat) : Mach :=
  let m := m.rouse k
  let s := m.sub k
  if (s.rq ++ s.wq ++ s.fabric ++ s.flight).isEmpty then m
  else
    let m := drainQueues L m k
    takeNews L newsRounds ((List.range (m.sub k).flight.length).foldl (fun m _ => readDone L m (k / 2) (k % 2) [] none) m)

/-- One round: what is on its way enters, ledger lines come, the controllers do what they hold, decodes end, and what waited is tried again. -/
def homeRound (L : Image) (m : Mach) : Mach :=
  let m := cyclesOn L (2 * m.outside + 4) (lagRelease L m)
  let m := m.led.fetching.foldl (fun m j => ((ledInstall L m j [] []).getD m).pumpAll L) m
  let m := allSubs.foldl (subRun L) m
  let m := m.chn.decodes.foldl (fun m d => wedgeEnd L m d.page d.wedge d) m
  let m := (m.home.trk.filter (fun r => r.phase == .stall)).foldl (turn L) m
  (retryFills L m).pumpAll L

/-- Rounds until the home is idle. `n` bounds them. -/
def homeRounds (L : Image) : Nat → Mach → Mach
  | 0, m => m
  | n + 1, m => if m.homeBusy then homeRounds L n (homeRound L m) else m

/-- Everything that stands at the home or is on its way to it completes. -/
def quiesce (L : Image) (m : Mach) : Mach := homeRounds L (2 * (m.outside + m.home.trk.length) + m.chn.decodes.length + 8) m

/-- What the tally unit holds is merged through its slices (R413, R414), until none is left of it or of the records that wait. `n` bounds the
rounds. -/
def mergeRounds (L : Image) : Nat → Mach → Mach
  | 0, m => m
  | n + 1, m =>
    let m := quiesce L (m.drainTally L)
    if m.tally.coal.isEmpty && m.tally.inq.isEmpty then m else mergeRounds L n (quiesce L (mergeWhere L m (fun _ => true)).2)

/-- See `mergeRounds`. -/
def mergeOut (L : Image) (m : Mach) : Mach := mergeRounds L (m.tally.inq.length + 2) m

/-! ### The caches (R30, R149, R151, R484 step 2) -/

/-- A move that a dirty line waits for ends now (R30, R158, R163, R337), and is charged as it is on a churn (R214). -/
def finishMove (L : Image) (m : Mach) (v : Move) (e : LEnt) : Mach :=
  match v.kind, v.dst with
  | .promote, some f =>
    let m := if v.got.isEmpty then promotionRead L (m.chargeNow mDesc (v.promoSpan e).2) v e else m
    let v := (m.led.moveOf v.page).getD v
    (promotionEnd L (m.chargeNow mDesc (8 * (m.promoOut v e).length)) v f e).unrunMove v.page
  | .demote, _ => (if v.stop then demotionEnd L m v e else undoMove L m v.page).unrunMove v.page
  | .relocate, some d => (relocationEnd L (m.chargeNow mDesc (if 1 ≤ e.k then 8 * e.k else 128)) v d e).unrunMove v.page
  | _, none => m

/-- A flush that needs a frame while none is cleared has one cleared (R153). -/
def Mach.needFrame (m : Mach) : Mach :=
  if ivLen m.led.pool = 0 ∧ m.rfld oClrCtl 15 0 ≠ 0 then (m.chargeNow mDesc (if m.led.uncleared.isEmpty then 0 else 64)).clearFrame else m

/-- A page with a dirty line is given a frame: its move ends, or an Unwritten page takes one (R30, R151). A promotion that a write stops goes on
in a second attempt (R158). `n` bounds the attempts. -/
def pageFrame (L : Image) : Nat → Mach → Nat → Mach
  | 0, m, _ => m
  | n + 1, m, page => match ledGet L m mDesc page with
    | (none, m) => m
    | (some e, m) =>
      let m := m.needFrame
      if e.st = 0 then allocateFrame L m page
      else if e.st = 2 ∨ e.st = 3 then
        let m : Mach := if (m.led.moveOf page).isSome then m else m.queueMove page .promote 2 false
        let m : Mach := match m.led.moveOf page, m.ent? page with
          | some v, some e => if v.kind = MoveKind.promote ∧ !v.started then startPromotion L m v e else m
          | _, _ => m
        match m.led.moveOf page, m.ent? page with
        | some v, some e => if v.started then pageFrame L n (finishMove L m v e) page else m
        | _, _ => m
      else m

/-- Attempts that a page's move may need: one for each wedge, and one more. -/
abbrev moveTries := 9

/-- A dirty line is written back to its frame; a page without one keeps the line (the pool is empty). -/
def flushLine (L : Image) (m : Mach) (line : Nat) : Mach :=
  match m.lcGet line with
  | none => m
  | some c => if !c.dirty then m else
    let m := if flatPage L (line / 64) then m else pageFrame L moveTries m (line / 64)
    (writeBack L m line {}).getD m

/-- The line cache is written back and emptied. -/
def flushLines (L : Image) (m : Mach) : Mach :=
  let m := (m.led.held.map (fun p => p.1 / 64)).eraseDups.foldl (pageFrame L moveTries) m
  let m := (m.home.lc.map (·.1)).foldl (flushLine L) m
  let m := allSubs.foldl (subRun L) m
  { m with home := { m.home with lc := m.home.lc.filter (fun p => p.2.dirty) } }

/-- The ledger cache is written back and emptied (R149); a line with a page in a move stays. -/
def flushLedger (m : Mach) : Mach :=
  let m := m.led.lines.foldl (fun m p =>
    if p.2.changed then (m.ledWriteLine p.1 p.2.ents).chargeNow mDesc (m.copies (lineSpot p.1).1).length else m) m
  { m with led := { m.led with lines := m.led.lines.filter (fun p => p.2.ents.any (fun e => e.st == 3)), fetching := [] } }

/-- Poison that is still owed goes into its lines (R124). -/
def settlePoisons (L : Image) (m : Mach) : Mach := quiesce L (m.home.poisons.foldl (fun m l => poisonHere L m 0 l) m)

/-- The moves that have started are undone: what they hold returns, and their pages are in their source states again (R151). -/
def movesUndone (L : Image) (m : Mach) : Mach := (m.led.moves.filter (·.started)).foldl (fun m v => undoMove L m v.page) m

/-- Every used channel enters self-refresh: the ways of the write-backs that enter its queues on the way are free (R30, R288). -/
def restAll (L : Image) (m : Mach) : Mach :=
  let m := allSubs.foldl (fun m k => ((m.sub k).fabric.foldl Mach.entered m).rouse k) m
  enterSrAll L m true

/-- The caches flushed, the culture counts recorded (R484 step 2, R491 step 4); `stop` says that the moves end here. While a recount runs there are no
counts to record (R142). -/
def flushCaches (L : Image) (stop : Bool) (m : Mach) : Mach :=
  let m := flushLines L m
  let m := flushLedger (if stop then movesUndone L m else m)
  if m.led.formatted ∧ !m.led.recount then m.writeCounts true else m

/-- Steps 3-5 of R491 (R498 step 1): the coalescer merged, both caches flushed, self-refresh entered. -/
def flushAll (L : Image) (stop : Bool) (m : Mach) : Mach := restAll L (flushCaches L stop (settlePoisons L (mergeOut L m)))

end Sys2Proof.Machine
end

