-- ==== Sys2Proof/Machine/Power.lean ====
section
/-! DEFINITION. The power states (R479-R487): arming, the entry conditions, entry, the instant E, wake and the exit from DROWSE. -/

namespace Sys2Proof.Machine

/-! ### The entry conditions (R481) -/

/-- A head satisfies condition 2 for a state. -/
def headQuiet (deep : Bool) (x : Head) : Bool :=
  x.st == .absent || x.st == .down || x.st == .disabled || x.lpwr == (if deep then .l2 else .l1)

/-- Condition 2. -/
def Mach.linksOk (m : Mach) (deep : Bool) : Bool :=
  (List.range 8).all (fun h => headQuiet deep (m.head h)) && (!m.mgmt.up || m.mgmt.lpwr == (if deep then .l2 else .l1))

/-- Churns with work (CHN_STAT BUSY). -/
def Mach.churnsBusy (m : Mach) : Nat := m.chn.run.length

/-- Condition 3, as DROWSE and the shutdown self-test need it. -/
def Mach.quietOk (m : Mach) : Bool :=
  (List.range 8).all (fun h => let x := m.head h; x.qRt.isEmpty && x.qTable.isEmpty && x.qBulk.isEmpty) && m.tally.inq.isEmpty
    && m.home.trk.isEmpty && m.churnsBusy == 0 && m.dqu.rings.all (fun r => r.2.st != .active || r.2.sqHead == r.2.sqTail)

/-- Condition 4. -/
def State.notBusy (s : State) : Bool :=
  !s.commit.busy && !s.m.led.fmtBusy && !s.m.led.cmdBusy && s.m.scb.rep == .none && s.m.cry.busy.isNone && !s.m.wld.tokenBusy

/-- Condition 9: no enabled level wake is asserted; a yoke record that waits is one for DROWSE (R486). -/
def Mach.wakeHeld (m : Mach) (deep : Bool) : Bool :=
  (m.pwr.wakeN && m.rbit oWakeEn 2) || (!deep && !(m.yoke.rxq0.isEmpty && m.yoke.rxq3.isEmpty))

/-- The code of the first condition that fails. -/
def firstFail (s : State) (deep : Bool) : Option Nat :=
  let m := s.m
  if !m.linksOk deep then some 2
  else if !m.quietOk || (deep && m.chn.slots != 0) then some 3
  else if !s.notBusy then some 4
  else if !deep && m.yoke.resync then some 5
  else if deep && m.wld.keeper != .up then some 6
  else if deep && !m.home.sf.isEmpty then some 7
  else if deep && decide (ivLen m.led.pool < 2560) then some 8
  else if m.wakeHeld deep then some 9
  else if s.latch then some 10
  else none

/-- A power state is armed. -/
def Pwr.armed (p : Pwr) : Bool := p.target != 0

/-! ### Arming (R480) -/

/-- TARGET is written: 1 DROWSE, 2 DEEP, 0 disarms; the access undoes an entry and wakes a sleeping part. -/
def setTarget (L : Image) (m : Mach) (t : Nat) : Mach :=
  let m := touch L m
  if t = 0 then if m.pwr.armed then { m with pwr := { m.pwr with target := 0, result := 11 } } else m
  else { m with pwr := { m.pwr with target := t } }

/-- A warm reset or a class A detection cancels an armed state. -/
def Mach.cancelTarget (m : Mach) : Mach := if m.pwr.armed then { m with pwr := { m.pwr with target := 0, result := 11 } } else m

/-- ARM_TO expires. -/
def armExpire (s : State) : Mach :=
  let p := s.m.pwr
  if p.armed && p.st == .active then { s.m with pwr := { p with target := 0, result := (firstFail s (p.target == 2)).getD p.result } } else s.m

/-! ### Entry (R482-R484) -/

/-- Self-refresh entry begins on every subchannel in use (R288). -/
def beginSr (m : Mach) : Mach :=
  allSubs.foldl (fun m k => if m.pop.used.contains (k / 2) && (m.sub k).sr == .out then m.setSub k { m.sub k with sr := .entering } else m) m

/-- The numbers of the key slots that are sealed. -/
def Cry.sealNums (c : Cry) : List Nat := c.slots.flatMap (fun p => [p.1, p.2.key1.toNat, p.2.key2.toNat, p.2.owner, p.2.kid.toNat])

/-- The 2,048 lines of the sealed key area (R249): in the part's reserved row of the lowest-numbered LIVE channel (R331), subchannel 0, bank
by bank from rank 0, die 0 on (DESIGN CHOICE, log entry 82). -/
def Mach.sealPlaces (m : Mach) : List MAddr :=
  match (m.pop.used.filter (fun c => m.scb.chSt.get 0 c == 1)).min? with
  | none => []
  | some ch => (List.range 2048).map (fun i =>
      { ch, sub := 0, bg := i / 128 / 4, bank := i / 128 % 4, col := i % 128, rank := 0, die := 0, row := devRows m.pop.dens - 64 })

/-- The Keeper seals the key slots into the reserved area (R249), by way of the write queues (R272). -/
def sealKeys (m : Mach) (nonce : Nat) : Mach :=
  m.sealPlaces.zipIdx.foldl (fun m p =>
    m.writeSpot .keeper p.1 (Codec.rsEncode (Config.sealLine nonce m.cry.sealNums p.2) (mkRind true false 0#2 false false (atag p.1.val)))) m

/-- Frames of runs, one by one. -/
def ivFrames (l : List Iv) : List Nat := l.flatMap (fun p => (List.range p.2).map (p.1 + ·))

/-- Step 3 of R484: the key slots sealed under a nonce whose value is free, and the retention image into 2,560 frames of the cleared
pool, whose last frames may go so (R154). -/
def sealAll (L : Image) (m : Mach) : Mach :=
  let n := Config.freeNat m.fresh
  let t := ivTakeN 2560 m.led.pool
  let m := m.tick
  let m := sealKeys { m with led := { m.led with pool := t.2, retention := ivFrames t.1 }, pwr := { m.pwr with nonce := some n } } n
  let m := freeMarks L m
  if ivLen m.led.pool = 0 then m.poolEmpty else m

/-- An armed part may enter its power state. -/
def mayEnter (s : State) : Bool :=
  s.m.pwr.armed && s.m.pwr.st == .active && s.m.pwr.warm.isNone && (firstFail s (s.m.pwr.target == 2)).isNone

/-- POWER_CONDITION_CHECK: with every condition met while armed, entry begins. Its first step merges the coalescer through the slices (R413, R414):
the part counts as ENTERING once that is done, so that a merge that has to wait for a head's snoop answer does not undo the entry; the services
pause then. The requests of the other steps do not undo it either: self-refresh entry comes after them (R484, R289). -/
def conditionCheck (s : State) : Mach :=
  let m := s.m
  if !mayEnter s then m
  else
    let (merged, m) := mergeWhere s.live m (fun _ => true)
    if !merged || !mayEnter { s with m } then m
    else
      let deep := m.pwr.target == 2
      let m : Mach := { m with pwr := { m.pwr with st := .entering, toDeep := deep }, scb := { m.scb with paused := true } }
      beginSr (if deep then sealAll s.live (flushCaches s.live false m) else m)

/-- The log as an entry to DEEP leaves it: uncleared class B records, which AON holds; the others not spilled are lost and counted (R459). -/
def Mach.logToAon (m : Mach) : Mach :=
  let keep := fun (r : FRec) => r.cls == 1 && !r.cleared
  let lost := (m.flt.log.filter (fun p => !keep p.2 && !p.2.spilled)).length
  let m := m.bumpBy oCntLost lost
  { m with flt := { m.flt with log := m.flt.log.filter (fun p => keep p.2), toSpill := m.flt.toSpill.filter (fun p => keep p.2) } }

/-- What DEEP does beyond DROWSE at the instant E (R249, R459, R484, R488). -/
def deepAt (L : Image) (m : Mach) : Mach :=
  let m := linkGone L m.logToAon .down 1
  let m := movesUndone L m
  { m with yoke := { m.yoke with map := [], trust := false }, pmu := {}, cry := { m.cry with sealedSlots := some m.cry.slots, slots := [] },
           home := { m.home with lc := [] }, led := { m.led with lines := [], fetching := [], heatQ := [] },
           pwr := { m.pwr with memReady := false } }

/-- POWER_INSTANT_E. -/
def instantE (L : Image) (m : Mach) : Mach :=
  if m.pwr.st ≠ .entering then m
  else
    let m := if m.pwr.toDeep then deepAt L m else m
    let m := (restAll L m).bump oCntEntry
    { m with pwr := { m.pwr with st := if m.pwr.toDeep then .deep else .drowse, target := 0, result := 1 } }

/-! ### Wake and exit (R485, R486) -/

/-- The sources of a wake that act: enabled, not an edge in AON cycles E to E + 3, the timer only where it is set, a yoke record only in
DROWSE. -/
def wakeSources (m : Mach) (srcs : Byte) (cycle : Nat) : Byte :=
  let en := BitVec.ofNat 8 (m.rfld oWakeEn 7 0)
  let edges := if cycle < 4 then 0x8F#8 else 0xFF#8
  let timer := if m.reg oPwrTimer = 0#32 then 0xF7#8 else 0xFF#8
  let yoke := if m.pwr.st = .deep then 0xFD#8 else 0xFF#8
  srcs &&& (en ||| 0x83#8) &&& edges &&& timer &&& yoke

/-- WAKE: the level of WAKE_N is noted; in ENTERING a level source undoes the entry, in DROWSE and DEEP any that acts begins the exit. -/
def wake (L : Image) (m : Mach) (srcs : Byte) (cycle : Nat) : Mach :=
  let m : Mach := { m with pwr := { m.pwr with wakeN := srcs.getLsbD 2 } }
  let act := wakeSources m srcs cycle
  match m.pwr.st with
  | .entering => if act &&& 0x87#8 = 0#8 then m else undoEntry L m
  | .drowse | .deep => if act = 0#8 then m else beginWake m act
  | _ => m

/-- The exit from DROWSE: ZQ calibration and DQS recentring on every rank, queues reopened, paused services resumed, WAKE_CAUSE recorded; what waited is served. -/
def drowseExit (L : Image) (m : Mach) : Mach :=
  if m.pwr.st = .waking ∧ !m.pwr.toDeep then
    let m := m.wakeDram
    let m : Mach := { m with pwr := { m.pwr with st := .active }, scb := { m.scb with paused := false } }
    recDrains L (coreCycle L (m.setReg oWakeCause (put m.pwr.cause.toNat 0)))
  else m

/-! ### Links (R481) -/

/-- A link enters a power state below L0; only one that is up can. -/
def linkPower (m : Mach) (l : LinkId) (p : LinkPwr) : Mach :=
  match l with
  | .mgmt => if m.mgmt.up then { m with mgmt := { m.mgmt with lpwr := p } } else m
  | .head h =>
    let x := m.head h
    if x.st = .ioOnly ∨ x.st = .active ∨ x.st = .insecure then m.setHead h { x with lpwr := p } else m

/-- A link leaves L1: the activity undoes an entry, or wakes the part. -/
def linkBack (L : Image) (m : Mach) (l : LinkId) : Mach := touch L (linkPower m l .l0)

/-- With L1_REQ = 1 an armed part asks an idle link into L1 on which the host has enabled ASPM L1. -/
def askL1 (m : Mach) (l : LinkId) : Mach :=
  if m.rbit oPwrCfg 10 && m.pwr.armed && m.pwr.st == .active then
    match l with
    | .mgmt => if m.mgmt.up && m.mgmt.lpwr == .l0 && m.aspmL1 mgmtFn then m.send (.linkReq 8 1) else m
    | .head h => if (m.head h).st.linked && (m.head h).lpwr == .l0 && m.aspmL1 h then m.send (.linkReq h 1) else m
  else m

/-! ### Clock gates (R479) -/

/-- A block's queues are empty. -/
def Mach.blockIdle (m : Mach) : Block → Bool
  | .port h => let x := m.head h; (x.qRt ++ x.qTable ++ x.qBulk ++ x.rxReq ++ x.rxRwd).isEmpty
  | .regulator => m.waitingMasters.isEmpty
  | .slice n => !m.home.trk.any (fun r => sliceOf r.line == n.val) && !m.home.fab.any (fun r => sliceOf r.line == n.val)
  | .ledger => m.led.fetching.isEmpty && m.led.moves.isEmpty && m.led.heatQ.isEmpty && !m.led.cmdBusy && !m.led.fmtBusy
  | .churn n => (m.chn.run.find? n.toNat).isNone
  | .cipher | .core _ => true
  | .strainer => m.dqu.jobs.all (fun j => !(m.chn.run.any (fun p => p.2 == .job j.id) && decide (0x14 ≤ j.op ∧ j.op ≤ 0x16)))
  | .sub n => let s := m.sub n; (s.rq ++ s.wq ++ s.fabric ++ s.flight).isEmpty
  | .tally => m.tally.inq.isEmpty
  | .dqu => m.dqu.jobs.isEmpty
  | .scrubber => !m.scrubs && m.scb.rep == .none

/-- A block's clock is gated: it gated itself and has had no work since; work ungates a block before it arrives. -/
def Mach.isGated (m : Mach) (b : Block) : Bool := m.pwr.gated.contains b && m.blockIdle b

/-- BLOCK_CLOCK_GATE: an idle block gates its own clock; blocks with work have been ungated. -/
def gateBlock (m : Mach) (b : Block) : Mach :=
  let now := m.pwr.gated.filter (fun x => m.blockIdle x && x != b)
  { m with pwr := { m.pwr with gated := if m.blockIdle b then now ++ [b] else now } }

/-! ### The commands -/

/-- PWR_TARGET_DROWSE. -/
def execPwrTargetDrowse (s : State) : Host.Outcome State Fault Refusal := s.op (fun m => setTarget s.live m 1)

/-- PWR_TARGET_DEEP. -/
def execPwrTargetDeep (s : State) : Host.Outcome State Fault Refusal := s.op (fun m => setTarget s.live m 2)

/-- PWR_DISARM. -/
def execPwrDisarm (s : State) : Host.Outcome State Fault Refusal := s.op (fun m => setTarget s.live m 0)

/-- POWER_CONDITION_CHECK. -/
def execPowerConditionCheck (s : State) : Host.Outcome State Fault Refusal := s.op (fun _ => conditionCheck s)

/-- ARM_TO_EXPIRE. -/
def execArmToExpire (s : State) : Host.Outcome State Fault Refusal := s.op (fun _ => armExpire s)

/-- L1_IDLE_REQUEST. -/
def execL1IdleRequest (l : LinkId) (s : State) : Host.Outcome State Fault Refusal := s.op (fun m => askL1 m l)

/-- POWER_INSTANT_E. -/
def execPowerInstantE (s : State) : Host.Outcome State Fault Refusal := s.op (instantE s.live)

/-- WAKE. -/
def execWake (srcs : Byte) (cycle : Nat) (s : State) : Host.Outcome State Fault Refusal := s.op (fun m => wake s.live m srcs cycle)

/-- BLOCK_CLOCK_GATE. -/
def execBlockClockGate (block : Block) (s : State) : Host.Outcome State Fault Refusal := s.op (fun m => gateBlock m block)

/-- LINK_L1_ENTRY. -/
def execLinkL1Entry (l : LinkId) (s : State) : Host.Outcome State Fault Refusal := s.op (fun m => linkPower m l .l1)

/-- LINK_L1_EXIT. -/
def execLinkL1Exit (l : LinkId) (s : State) : Host.Outcome State Fault Refusal := s.op (fun m => linkBack s.live m l)

/-- PME_TURN_OFF. -/
def execPmeTurnOff (l : LinkId) (s : State) : Host.Outcome State Fault Refusal := s.op (fun m => linkPower m l .l2)

end Sys2Proof.Machine
end

