-- ==== Sys2Proof/Machine/SelfTest.lean ====
section
/-! DEFINITION. The shutdown self-test (R496-R505) and the test access port (R506, R507). -/

namespace Sys2Proof.Machine

/-! ### The run (R497, R498, R500-R502) -/

/-- The key of TST_SST_CTL. -/
abbrev sstKey : BitVec 24 := 0x5E1F7E#24

/-- A self-test run is in progress. -/
def Tst.running (t : Tst) : Bool := t.st == 2

/-- The code of the first condition of R497 that fails. -/
def runRefusal (s : State) : Option Nat :=
  let m := s.m
  if s.latch then some 8
  else if !(List.range 8).all (fun h => let st := (m.head h).st; st == .absent || st == .down || st == .disabled) then some 5
  else if !m.quietOk then some 6
  else if !s.notBusy || m.pwr.armed || m.tst.running then some 7
  else none

/-- The lane groups that are quiet at acceptance: both ports, the yoke when DOWN or HELD, the management port when down. -/
def Mach.quietGroups (m : Mach) : List Nat :=
  [1, 2] ++ (if m.yoke.link == .down || m.yoke.link == .held then [3] else []) ++ (if m.mgmt.up then [] else [4])

/-- OP = RUN. -/
def runTest (s : State) (key : BitVec 24) : Mach :=
  if key ≠ sstKey then s.m
  else match runRefusal s with
    | some c => { s.m with tst := { s.m.tst with st := 5, result := c } }
    | none =>
      let m := flushAll s.live false s.m
      { m with tst := { m.tst with st := 2, result := 0, aonOk := false, qspiOk := false, res := 0#32, ch := 0#32, cond := 0#32,
                                   eyes := [0#32, 0#32, 0#32, 0#32], time := 0, groups := m.quietGroups, stopped := [] } }

/-- The mark of an ABORT among the stopped tests. -/
abbrev abortMark := 200

/-- OP = ABORT stops every test in progress (R501). -/
def Mach.sstAbort (m : Mach) : Mach :=
  if m.tst.running && !m.tst.stopped.contains abortMark then { m with tst := { m.tst with stopped := m.tst.stopped ++ [abortMark] } } else m

/-- A reference that no present head uses is not measured (R499); the management port is always there. -/
def Mach.measured (m : Mach) (item : Nat) : Bool :=
  if item = 1 then (List.range 4).any (fun h => (m.head h).st != .absent)
  else if item = 2 then (List.range 4).any (fun h => (m.head (h + 4)).st != .absent)
  else decide (item ≠ 0 ∧ item ≤ 12)

/-- A condition fails: the first one stops all tests and is recorded (R500). -/
def conditionFail (m : Mach) (item dev : Nat) : Mach :=
  if m.tst.running && m.measured item && m.tst.cond == 0#32 && !m.tst.stopped.contains abortMark then
    { m with tst := { m.tst with cond := put item 0 ||| put dev 16 } }
  else m

/-! ### The record (R498, R502, R503) -/

/-- A test of the run: an item 0-7 or channel 100 + c. -/
abbrev TestId := Nat

/-- The stage at which a test runs: PLLs; lanes and channels in parallel; thermal; voltage; fuses. -/
def stageOf (t : TestId) : Nat := if t = 0 then 0 else if t ≤ 4 ∨ 100 ≤ t then 1 else t - 3

/-- The tests that the run makes. -/
def testsOf (m : Mach) : List TestId := [0] ++ m.tst.groups ++ [5, 6, 7] ++ m.pop.used.map (100 + ·)

/-- A PLL passes: lock within 50 µs, where it is relocked, and an RMS period jitter of at most 1.5 % (R496). -/
def PllMeas.ok (p : PllMeas) : Bool := p.lockUs.all (fun t => decide (t ≤ 50)) && decide (p.jitter ≤ 150)

/-- The least eye of a lane group: 1/100 UI and mV (R496): the yoke's is 0.15 UI and 6 mV, the others' 0.20 UI and 12 mV. -/
def eyeLimit (g : Nat) : Nat × Nat := if g = 3 then (15, 6) else (20, 12)

/-- The lanes of a group, and the eyes of each: one for each rate, six for the CXL lanes and five for the management port's, three for PAM4. -/
def groupShape (g : Nat) : Nat × Nat := if g = 3 then (16, 3) else if g = 4 then (4, 5) else (16, 6)

/-- A lane passes: no bit error, every eye open. -/
def LaneMeas.ok (g : Nat) (l : LaneMeas) : Bool :=
  l.errs == 0 && l.eyes.length == (groupShape g).2
    && l.eyes.all (fun e => decide ((eyeLimit g).1 * 256 ≤ 100 * e.1 ∧ (eyeLimit g).2 ≤ e.2))

/-- Every lane of a group passes. -/
def lanesOk (g : Nat) (ls : List LaneMeas) : Bool :=
  (List.range (groupShape g).1).all (fun i => ls.any (fun l => l.lane.val == i)) && ls.all (LaneMeas.ok g)

/-- A bit of a DDR PHY passes: no error at the trained Vref, a window of 10 % of VDDQ_MC at least, centred within 2 %. -/
def PhyMeas.ok (p : PhyMeas) : Bool := p.errs == 0 && decide (100 ≤ p.window ∧ p.off.natAbs ≤ 20)

/-- Insert a reading into a rising list. -/
def insInt (x : Int) : List Int → List Int
  | [] => [x]
  | a :: t => if x ≤ a then x :: a :: t else a :: insInt x t

/-- Twice the median of readings: the sum of the two middle ones of an even number (DEDUCED, log entry 83). -/
def median2 (l : List Int) : Int :=
  let s := l.foldr insInt []
  s.getD ((s.length - 1) / 2) 0 + s.getD (s.length / 2) 0

/-- Every thermal sensor lies within 3 °C of the median of all and of the reference diode. -/
def thermalOk (x : List Int × Int) : Bool :=
  !x.1.isEmpty && x.1.all (fun t => decide ((2 * t - median2 x.1).natAbs ≤ 60 ∧ (t - x.2).natAbs ≤ 30))

/-- A voltage monitor's reference lies within 1 % of both independent ones. -/
def voltOk (v : Nat × Nat × Nat) : Bool := [v.2.1, v.2.2].all (fun a => decide (100 * v.1 ≤ 101 * a ∧ 99 * a ≤ 100 * v.1))

/-- The three reads of a fuse word agree. -/
def fuseOk (f : Word × Word × Word) : Bool := f.1 == f.2.1 && f.1 == f.2.2

/-- An item passes when there is something of it and every part of it passes (R496). -/
def allOk {α : Type} (f : α → Bool) (l : List α) : Bool := !l.isEmpty && l.all f

/-- What was measured of a test, when it completed: whether every lane, bit, sensor, monitor or word in it passes (R496). -/
def measured (r : SstRes) (t : TestId) : Option Bool :=
  if 100 ≤ t then (r.chans.getD (t - 100) none).map (allOk PhyMeas.ok)
  else if t = 0 then r.plls.map (allOk PllMeas.ok)
  else if t ≤ 4 then (r.lanes.getD (t - 1) none).map (lanesOk t)
  else if t = 5 then r.thermal.map thermalOk
  else if t = 6 then r.volts.map (allOk voltOk)
  else r.fuses.map (allOk fuseOk)

/-- The code of a test: 0 NOT_RUN, 1 PASS, 2 FAIL, 3 ABORTED. One that its block's traffic stopped reads ABORTED; after ABORT or a failed
condition the completed ones keep their results, those in progress at an ABORT read ABORTED and every other NOT_RUN. -/
def testCode (m : Mach) (r : SstRes) (t : TestId) : Nat :=
  let ts := testsOf m
  let ended := fun t => m.tst.stopped.contains t || (measured r t).isSome
  let now := ((ts.filter (fun t => !ended t)).map stageOf).min?
  if !ts.contains t then 0
  else match measured r t with
    | some ok => if ok then 1 else 2
    | none =>
      if m.tst.stopped.contains t then 3
      else if m.tst.cond ≠ 0#32 then 0
      else if m.tst.stopped.contains abortMark then (if now = some (stageOf t) then 3 else 0)
      else 2

/-- Two bits per test from bit 0. -/
def testWord (m : Mach) (r : SstRes) (ts : List TestId) : Word :=
  BitVec.ofNat 32 ((ts.zipIdx.map (fun p => testCode m r p.1 * 4 ^ p.2)).sum)

/-- RESULT of a run that ends: COND, INCOMPLETE, PASS or FAIL (R500, R502). -/
def runResult (m : Mach) (r : SstRes) : Nat :=
  let cs := (testsOf m).map (testCode m r)
  if m.tst.cond ≠ 0#32 then 4 else if cs.contains 3 then 3 else if cs.contains 2 then 2 else 1

/-- The mailbox clock in ns; 0 when it was never set (R503). -/
def Mach.timeNs (m : Mach) : Nat := if m.tsBase = 0 then 0 else (m.tsBase + (m.core - m.tsCore) * 5 / 8) % 2 ^ 64

/-- The worst eye of a lane group's measures: the least width with its lane, the least height (R496, R503). -/
def eyeWord (ls : List LaneMeas) : Word :=
  let hs := ls.flatMap (fun l => l.eyes.map (fun e => (e.1, l.lane.val)))
  let worst := hs.foldl (fun (acc : Option (Nat × Nat)) e => match acc with
    | none => some e
    | some w => if e.1 < w.1 then some e else acc) none
  match worst with
  | none => 0#32
  | some w => put (min 0xFF w.1) 0 ||| put w.2 8 ||| put (min 0xFFFF (((ls.flatMap (fun l => l.eyes.map (·.2))).min?).getD 0)) 16

/-- The four eye words: those of the groups whose test was made and has completed. -/
def eyes4 (groups : List Nat) (r : SstRes) : List Word :=
  (List.range 4).map (fun i => if groups.contains (i + 1) then (((r.lanes.getD i none).map eyeWord).getD 0#32) else 0#32)

/-- SST_DONE: step 8 of R498. -/
def testDone (m : Mach) (r : SstRes) : Mach :=
  if !m.tst.running then m
  else
    let res := testWord m r (List.range 8)
    let ch := testWord m r ((List.range 12).map (100 + ·))
    let result := runResult m r
    let rec' : SstRec := { res, ch, cond := m.tst.cond, eyes := eyes4 m.tst.groups r, result, time := m.timeNs, start := m.tst.startCnt }
    { m with tst := { m.tst with st := if m.tst.stopped.contains abortMark then 4 else 3, result, res, ch, eyes := eyes4 m.tst.groups r, time := m.timeNs,
                                 aonOk := true, qspiOk := m.stewardOn, aon := some rec', qspi := if m.stewardOn then some rec' else m.tst.qspi } }

/-! ### Test access (R506, R507) -/

/-- Every instruction is available: BLANK, TEST and RETURNED. -/
def tapFull (lc : Nat) : Bool := lc == 0 || lc == 1 || lc == 4

/-- Select an instruction; one that the life-cycle state does not offer selects BYPASS. -/
def tapSelect (lc op : Nat) (m : Mach) : Mach := { m with tst := { m.tst with ir := if tapFull lc || op == 1 || op == 0x20 then op else 0xFF } }

/-- The debug enables that a life-cycle state opens without a token (R448). -/
def openEnables (lc : Nat) : BitVec 4 := if lc = 0 ∨ lc = 1 then 0xF#4 else if lc = 4 then 0xC#4 else 0#4

/-- The debug enables in effect: bit 0 SHALT, 1 STRACE, 2 NHALT, 3 NTRACE. -/
def debugEnables (lc : Nat) (w : Worlds) : BitVec 4 := if lc = 5 then 0#4 else openEnables lc ||| w.dbg

/-- Scan is enabled through TCTL, after every secret is cleared (R507), the Keeper's SRAM share (the even cells) among them. -/
def scanOn (lc : Nat) (m : Mach) : Mach :=
  if tapFull lc ∧ m.tst.ir = 0x10 then
    let m := (List.range 8).foldl (fun m h => m.setHead h { m.head h with keys := [], keysNew := false, keyGo := none }) m
    { m with cry := { m.cry with slots := [], sealedSlots := none, data := [], kek := none },
             wld := { m.wld with sessions := [], token := [], sram := m.wld.sram.filter (fun p => p.1 % 2 != 0) },
             tst := { m.tst with scanEn := true, cleared := true } }
  else m

/-! ### The commands -/

/-- RUN. -/
def execRun (key : BitVec 24) (s : State) : Host.Outcome State Fault Refusal := s.op (fun _ => runTest s key)

/-- SST_ABORT. -/
def execSstAbort (key : BitVec 24) (s : State) : Host.Outcome State Fault Refusal := s.op (fun m => if key = sstKey then m.sstAbort else m)

/-- SST_CONDITION_FAIL. -/
def execSstConditionFail (item : Fin 13) (dev : BitVec 16) (s : State) : Host.Outcome State Fault Refusal :=
  s.op (fun m => conditionFail m item dev.toNat)

/-- SST_DONE. -/
def execSstDone (r : SstRes) (s : State) : Host.Outcome State Fault Refusal := s.op (fun m => testDone m r)

/-- BYPASS. -/
def execBypass (s : State) : Host.Outcome State Fault Refusal := s.op (tapSelect s.lcCur 0xFF)

/-- IDCODE: the device identifier is shifted out. -/
def execIdcode (s : State) : Host.Outcome State Fault Refusal := s.op (fun m => (tapSelect s.lcCur 1 m).send (.tap 1 0x0816098B))

/-- DBG: the port opens to a world's halt or trace access when its enable is granted (`world` is the secure one). -/
def execDbg (world halt : Bool) (s : State) : Host.Outcome State Fault Refusal :=
  s.op (fun m =>
    let b := (if world then 0 else 2) + (if halt then 0 else 1)
    (tapSelect s.lcCur 0x20 m).send (.tap 0x20 ((debugEnables s.lcCur m.wld).getLsbD b).toNat))

/-- SAMPLE/PRELOAD. -/
def execSamplePreload (s : State) : Host.Outcome State Fault Refusal := s.op (tapSelect s.lcCur 2)

/-- EXTEST. -/
def execExtest (s : State) : Host.Outcome State Fault Refusal := s.op (tapSelect s.lcCur 3)

/-- CLAMP. -/
def execClamp (s : State) : Host.Outcome State Fault Refusal := s.op (tapSelect s.lcCur 4)

/-- HIGHZ. -/
def execHighz (s : State) : Host.Outcome State Fault Refusal := s.op (tapSelect s.lcCur 5)

/-- TCTL. -/
def execTctl (s : State) : Host.Outcome State Fault Refusal := s.op (tapSelect s.lcCur 0x10)

/-- SCAN_ENABLE. -/
def execScanEnable (s : State) : Host.Outcome State Fault Refusal := s.op (scanOn s.lcCur)

end Sys2Proof.Machine
end

