-- ==== Sys2Proof/Machine/Reset.lean ====
section
/-! DEFINITION. The resets that do not start the part anew (R489-R493), the registers that a warm reset keeps (R525), lost clocks and rails
(R478, R542) and the die sensors (R549). -/

namespace Sys2Proof.Machine

/-- The key of GLB_RST_CTL (R490). -/
abbrev rstKey : BitVec 24 := 0x3E5E7A#24

/-! ### Registers across a warm reset (R525) -/

/-- A block whose registers a warm reset leaves (GLB, PWR, FLT, MPT, WLD, TST). -/
def keptBlock (off : Nat) : Bool :=
  decide (off < 0x30000) || decide (0x120000 ≤ off ∧ off < 0x130000) || decide (0xC00000 ≤ off)

/-- The bits of a register that a warm reset keeps: fields with -S, fields whose reset is a rule, counters that a cold reset clears. -/
def keptBits (off : Nat) : Word :=
  let all := 0xFFFFFFFF#32
  if off = oScratch then 0#32
  else if keptBlock off then all
  else if off = oToLo ∨ off = oToHi ∨ off = oCntTo ∨ off = oLostLo ∨ off = oLostHi ∨ off = oVoteLast ∨ off = oYkFatal then all
  else if inRun off 0x700300 4 6 ∨ inRun off 0x800040 4 4 ∨ inRun off 0x800200 4 7 ∨ inRun off 0x900100 4 6 ∨ inRun off 0xA00100 4 5
    ∨ inRun off 0xB00100 4 6 then all
  else if off = oYkCtl then 1#32
  else match headReg off with
    | some (_, 0) => 1#32
    | some (_, 0x18) | some (_, 0x1C) => all
    | _ => match mcReg off with
      | some (_, 0x34) => all
      | some (_, r) => if inRun r 0x100 4 32 ∨ inRun r 0x200 4 7 then all else 0#32
      | none => 0#32

/-- The register words after a warm reset. -/
def warmRegs (m : Mach) : Mach :=
  m.regs.foldl (fun m p => m.setReg p.1 ((resetWord p.1 &&& ~~~ keptBits p.1) ||| (p.2 &&& keptBits p.1))) m

/-! ### The warm reset (R491) -/

/-- A repair command in progress completes before its channel is reset. -/
def repairEnds (L : Image) (m : Mach) : Mach :=
  let m := match m.scb.rep with
    | .remap => remapDone L m []
    | .sppr => spprDone L m true []
    | .hppr => hpprDone m true
    | _ => m
  { m with scb := { m.scb with rep := .none, repResult := 0, repSpare := 0, sticky := [], chist := [], passes := 0, paused := false } }

/-- A page move that has not ended is undone. -/
def movesEnd (L : Image) (m : Mach) : Mach :=
  let m := m.led.moves.foldl (fun m v => undoMove L m v.page) m
  { m with led := { m.led with moves := [], ended := [], locked := [], cmdBusy := false, cmdResult := 0 } }

/-- Step 1: every head that is not DOWN goes to Detect and is dropped; its function resets. A head held in DISABLED stays there. What
the drop finds in the link's own buffers is the first linked head's. -/
def warmHead (L : Image) (d : DropEnv) (first : Option Nat) (m : Mach) (h : Nat) : Mach :=
  let st := (m.head h).st
  if st = .absent then m
  else
    let empty : DropEnv := { partialWrites := 0, partialRecords := 0, skid := [] }
    let m := if st = .disabled then m else linkLost L m h .down (if first = some h then d else empty)
    dropRecord (dropWalk L (funcReset m h) h) h

/-- Step 2: rings DOWN; jobs that still ran stop at their checkpoint. -/
def warmRings (L : Image) (m : Mach) : Mach :=
  let m := (m.dqu.rings.map (·.1)).foldl (ringFall L) m
  let m := (m.dqu.jobs.map (·.id)).foldl (fun m id => stopJob L m id 10) m
  { m with dqu := { m.dqu with jobs := [] }, chn := { m.chn with run := [], lent := [], queues := [], wait := [], avoid := [], decodes := [], slots := 0,
                                                                 preempt := [], priBlocked := [] } }

/-- A subchannel in reset: its queues empty, its cells in self-refresh. -/
def warmSub (m : Mach) (k : Nat) : Mach := m.setSub k { sr := (m.sub k).sr, canaries := (m.sub k).canaries }

/-- A part in DROWSE is awake for what reaches it; one in DEEP is not. -/
def awake (m : Mach) : Mach :=
  if m.pwr.st = .drowse ∨ (m.pwr.st = .waking ∧ !m.pwr.toDeep) then
    { m.exitSrAll with pwr := { m.pwr with st := .active }, scb := { m.scb with paused := false } }
  else m

/-- The part is in DEEP, or on its way out of it. -/
def Pwr.inDeep (p : Pwr) : Bool := p.st == .deep || (p.st == .waking && p.toDeep)

/-- Steps 1-6 of R491 on the machinery; `kind` is 2 by command and 3 by PERST_N. A key request that runs is dropped: RESULT 0, and no KREQ_DONE, since
the rules do not say what becomes of it (DESIGN CHOICE, log entry 102). -/
def warmGo (L : Image) (kind : Nat) (d : DropEnv) (m : Mach) : Mach :=
  let m := ((undoEntry L (awake m)).sstAbort).cancelTarget
  let first := (List.range 8).find? (fun h => (m.head h).st.linked)
  let m := (List.range 8).foldl (warmHead L d first) m
  let m := linkGone L (warmRings L m) (if m.yoke.link = .held then .held else .down) 1
  let m := quiesce L (agentForget L m whoLedger)
  let m := (List.range 8).foldl dropRecord m
  let m := movesEnd L (flushAll L true (repairEnds L m))
  let m := allSubs.foldl warmSub (warmRegs m)
  settleFreed L { m with led := { m.led with sweep := 0 }, mcs := { m.mcs with hot := [] }, yoke := { m.yoke with laneSeen := [] }, home := { poisons := m.home.poisons }, tally := {}, bwg := {}, pmu := {}, hev := [], mgmt := { m.mgmt with held := [] }, cry := { m.cry with result := 0, data := [], busy := none },
                         pwr := { m.pwr with memReady := false, warm := some kind, gated := [] } }

/-- What a warm reset does to the stage: stage := live; a CHECK or APPLY in progress ends. -/
def warmStage (s : State) : State :=
  let s := pairLost s
  { s with stage := s.live, commit := { s.commit.halt with op := .idle, checked := false, pairedPass := false } }

/-- A warm reset starts, unless one runs or the part is in DEEP. -/
def warmStart (s : State) (kind : Nat) (d : DropEnv) : State :=
  if s.m.pwr.warm.isSome ∨ s.m.pwr.inDeep then s else warmStage (settle { s with m := warmGo s.live kind d s.m })

/-- A head trains as its pins allow. -/
def Mach.headGo (m : Mach) (h : Nat) : Mach :=
  let x := m.head h
  if (x.st = .down ∨ x.st = .disabled) ∧ !x.perst ∧ m.headEn h then m.train h else m

/-- The yoke trains while EN = 1. -/
def Mach.yokeGo (m : Mach) : Mach := if m.rbit oYkCtl 0 then { m with yoke := { m.yoke with link := .training } } else m

/-- LAST of GLB_RST_STAT, and WARMS where a warm reset ends. -/
def Mach.lastReset (m : Mach) (last : Nat) : Mach :=
  let warms := if last = 2 ∨ last = 3 then min 0xFFFF (m.rfld oRstStat 31 16 + 1) else m.rfld oRstStat 31 16
  m.setReg oRstStat (put last 0 ||| put warms 16)

/-- Memory can be ready: a channel set found, every channel trained, the ledger formatted and no format running (R58, R260, R269). -/
def Mach.canReady (m : Mach) : Bool :=
  m.led.formatted && !m.led.fmtBusy && !m.pop.used.isEmpty
    && m.pop.used.all (fun c => let t := m.mcs.trained.get 0 c % 256; t != 0 && t != 4)

/-- Step 7 (WARM_RESET_DONE): blocks released, self-refresh left, memory ready, links train. -/
def warmDone (L : Image) (latch : Bool) (m : Mach) : Mach :=
  match m.pwr.warm with
  | none => m
  | some kind =>
    let m : Mach := { m with pwr := { m.pwr with warm := none } }
    let m := floorUpdate L ((if latch then m else m.exitSrAll).lastReset kind)
    let m := (List.range 8).foldl Mach.headGo m.yokeGo
    if m.canReady && !latch then memReady m else m

/-! ### Partition reset (R493) -/

/-- Reset partitions: their rings, and their tally tables' coalescer entries. -/
def partsReset (L : Image) (m : Mach) (ps : List Nat) : Mach :=
  let rings := (List.range 256).filter (fun n => L.rEn n && ps.contains (L.rOwner n))
  let m := rings.foldl (ringReset L) m
  let m := (mergeWhere L m (fun l => (m.tally.coal.find? l).any (fun c => ps.contains c.part))).2
  { m with pwr := { m.pwr with pbusy := true, pparts := (m.pwr.pparts ++ ps).eraseDups } }

/-- PARTITION_RESET_DONE: once its rings are reset and its entries merged. -/
def partsDone (L : Image) (m : Mach) : Mach :=
  if !m.pwr.pbusy then m
  else
    let ps := m.pwr.pparts
    let m := (mergeWhere L m (fun l => (m.tally.coal.find? l).any (fun c => ps.contains c.part))).2
    let waits := (List.range 256).any (fun n => ps.contains (L.rOwner n) && (m.ring n).st == .resetting)
      || m.tally.coal.any (fun c => ps.contains c.2.part)
    if waits then m else { m with pwr := { m.pwr with pbusy := false, pparts := [] } }

/-! ### Clocks, rails, sensors -/

/-- A reference clock is lost (R478): the heads of its port leave L0; those that cannot return are dropped. -/
def refclkLoss (L : Image) (m : Mach) (which : RefClk) (back : List (Fin 8)) (d : DropEnv) : Mach :=
  let one := fun (m : Mach) (h : Nat) =>
    if !(m.head h).st.linked then (if (m.head h).st = .training then m.setHead h { m.head h with st := .down } else m)
    else if back.any (fun b => b.toNat == h) then recoveryIn m h 0 0 false
    else withFall L h (fun m => linkLost L m h .down d) m
  match which with
  | .a => [0, 1, 2, 3].foldl one m
  | .b => [4, 5, 6, 7].foldl one m
  | .mp => mgmtFall L m

/-- XTAL_IN (domain 0) or a data-path PLL is lost: class A source 187. -/
def clockLoss (m : Mach) (domain : Nat) : Mach :=
  (if domain = 0 then { m with pwr := { m.pwr with xtalLost := true } } else m).raise 187 domain

/-- Tj: the hottest reading (R549); 0 before the first. -/
def Mach.tj (m : Mach) : Int := (m.pwr.temps.max?).getD 0

/-- One sensor: TEMP_WARN once per crossing of 100 °C, rearmed below 98 °C; THERMTRIP at 120 °C (R549). -/
def sensor (m : Mach) (u : Nat) (t : Int) : Mach :=
  let warned := m.pwr.tempWarn.contains u
  let m : Mach := if t < 98 then { m with pwr := { m.pwr with tempWarn := m.pwr.tempWarn.filter (· != u) } } else m
  let m : Mach := if 100 ≤ t ∧ !warned then { m with pwr := { m.pwr with tempWarn := m.pwr.tempWarn ++ [u] } }.raise 184 u else m
  if 120 ≤ t then { m with pwr := { m.pwr with thermtrip := true } }.raise 185 u else m

/-- A threshold in °C of an alert configuration (two's complement). -/
def alertTemp (a : BitVec 96) (lo : Nat) : Int := (a.extractLsb' lo 16).toInt

/-- The temperature alerts of each head as Tj crosses its thresholds, over and under (R44, R549). -/
def tjAlerts (was : Int) (m : Mach) : Mach :=
  (List.range 8).foldl (fun m h =>
    let a := (m.mb h).alert
    let m := if a.getLsbD 9 && decide (was < alertTemp a 32 ∧ alertTemp a 32 ≤ m.tj) then m.cxlEvent h 1 (Config.mboxBytes 0x4201 h [1]) else m
    if a.getLsbD 10 && decide (alertTemp a 48 < was ∧ m.tj ≤ alertTemp a 48) then m.cxlEvent h 1 (Config.mboxBytes 0x4201 h [2]) else m) m

/-- THERMAL_SAMPLE: the 16 die sensors are read together. -/
def thermalSample (m : Mach) (temps : List Int) : Mach :=
  let ts := temps.take 16
  tjAlerts m.tj (ts.zipIdx.foldl (fun m p => sensor m p.2 p.1) { m with pwr := { m.pwr with temps := ts } })

/-- The Drausk complex stops (R478). -/
def mgmtPllLoss (m : Mach) : Mach := { m with wld := { m.wld with mgmtStopped := true, cores := m.coresStopped } }

/-! ### The commands -/

/-- PERST_ASSERT; with PERST_WARM = 1, a warm reset once the PERST_N of every present head is asserted (R489). -/
def execPerstAssert (h : Fin 8) (d : DropEnv) (s : State) : Host.Outcome State Fault Refusal :=
  let edge := !(s.m.head h).perst && (s.m.head h).st != .absent
  let s := settle { s with m := withFall s.live h (fun m => perstOn s.live m h d) s.m }
  let all := (List.range 8).all (fun k => (s.m.head k).st == .absent || (s.m.head k).perst)
  .next (if edge && all && s.m.rbit oPwrCfg 11 && !s.latch then warmStart s 3 d else s)

/-- WARM: ignored with another key, while PBUSY = 1 or under the class A latch (R490). -/
def execWarm (key : BitVec 24) (d : DropEnv) (s : State) : Host.Outcome State Fault Refusal :=
  .next (if key = rstKey ∧ !s.latch ∧ !s.m.pwr.pbusy then warmStart s 2 d else s)

/-- WARM_RESET_DONE. -/
def execWarmResetDone (s : State) : Host.Outcome State Fault Refusal := s.op (warmDone s.live s.latch)

/-- PARTITION: the partition that GLB_RST_ARG names. -/
def execPartition (key : BitVec 24) (s : State) : Host.Outcome State Fault Refusal :=
  s.work (fun m => if key = rstKey ∧ !m.pwr.pbusy then partsReset s.live m [m.rfld oRstArg 5 0] else m)

/-- FLR of a head's function: every partition bound to the head. -/
def execFlr (h : Fin 8) (s : State) : Host.Outcome State Fault Refusal :=
  received s h (.flr h) fun s => s.work (fun m => if (m.head h).st = .absent then m else partsReset s.live m (s.live.boundTo h))

/-- PARTITION_RESET_DONE. -/
def execPartitionResetDone (s : State) : Host.Outcome State Fault Refusal := s.work (partsDone s.live)

/-- REFCLK_LOSS. -/
def execRefclkLoss (which : RefClk) (back : List (Fin 8)) (d : DropEnv) (s : State) : Host.Outcome State Fault Refusal :=
  s.op (fun m => refclkLoss s.live m which back d)

/-- CLOCK_LOSS. -/
def execClockLoss (domain : Fin 5) (s : State) : Host.Outcome State Fault Refusal := s.op (fun m => clockLoss m domain)

/-- RAIL_OUT: class A source 186. -/
def execRailOut (rail : Fin 9) (s : State) : Host.Outcome State Fault Refusal := s.op (fun m => m.raise 186 rail)

/-- THERMAL_SAMPLE. -/
def execThermalSample (temps : List Int) (s : State) : Host.Outcome State Fault Refusal := s.op (fun m => thermalSample m temps)

/-- MGMT_PLL_LOSS. -/
def execMgmtPllLoss (s : State) : Host.Outcome State Fault Refusal := s.op mgmtPllLoss

end Sys2Proof.Machine
end

