-- ==== Sys2Proof/Machine/Saves.lean ====
section
/-! DEFINITION. The culture save slots of the ledger's header area (R142, R190, R242). -/

namespace Sys2Proof.Machine

/-- The first header line of a save slot, and the lines its content takes. -/
def saveLine (n : Nat) : Nat := 1024 + 576 * n
abbrev saveLines : Nat := 517

/-- What a save slot holds for a culture: the image, its load count, the CRC-32C of both. -/
def saveBytes (img : List Byte) (loads : Nat) : List Byte :=
  let b := img ++ bytesOfNat loads 2
  b ++ bytesOf (Codec.crc32c 0#32 b) 4

/-- Write bytes into a save slot of both copies, under the save key. -/
def Mach.savePut (m : Mach) (n : Nat) (bytes : List Byte) : Mach :=
  (List.range saveLines).foldl (fun m t =>
    let i := saveLine n + t
    let d : Line := ofBytes 512 ((bytes.drop (64 * t)).take 64)
    (m.copies (i / 64)).foldl (fun m c =>
      let p := m.hdrFrame c i
      let x := Codec.xtsEnc Config.saveKey1 Config.saveKey2 (tweakSave p.1 p.2) d
      m.writeNow p.1 p.2 (m.formCw p.1 p.2 x true false 0#2 true false)) m) m

/-- Read the bytes of a save slot in one copy; none when a line of it is not good, behind which no more are read. -/
def saveGet (L : Image) (m : Mach) (c n : Nat) : Option (List Byte) × Mach :=
  let r := (List.range saveLines).foldl (fun (acc : Option (List Byte) × Mach) t =>
    match acc.1 with
    | none => acc
    | some l =>
      let p := acc.2.hdrFrame c (saveLine n + t)
      let (j, m) := readNow L acc.2 p.1 p.2 false false 97 none []
      let d := j.stored.1
      let d := if j.v = .data ∧ rX j.rind then Codec.xtsDec Config.saveKey1 Config.saveKey2 (tweakSave p.1 p.2) d else d
      (if j.ledGood false then some (l ++ bytesOf d 64) else none, m)) (some [], m)
  (r.1.map (·.take 33030), r.2)

/-- What a save slot says: nothing for an empty one, the image and load count of a good one, or that it is bad. -/
inductive Saved where
  | empty
  | good (img : List Byte) (loads : Nat)
  | bad

/-- Judge the bytes of a save slot (R190). -/
def savedOf (b : Option (List Byte)) : Saved :=
  match b with
  | none => .bad
  | some b =>
    if b.all (fun x => x == 0#8) then .empty
    else
      let img := b.take 33024
      if ofBytes 32 ((b.drop 33026).take 4) = Codec.crc32c 0#32 (b.take 33026) ∧ Yelrin.imgOk img then
        .good img (natOfBytes ((b.drop 33024).take 2))
      else .bad

/-- What the save slot of a culture says: the first of its copies in use that is not bad (R142, R190). -/
def savedSlot (L : Image) (m : Mach) (n : Nat) : Saved × Mach :=
  (m.copies (saveLine n / 64)).foldl (fun x c => match x.1 with
    | .bad => let r := saveGet L x.2 c n; (savedOf r.1, r.2)
    | _ => x) (.bad, m)

/-- Reload one culture slot at a cold start: a slot bad in both copies stays empty with CULT_LOST (R190). -/
def reloadSlot (L : Image) (m : Mach) (n : Nat) : Mach :=
  match savedSlot L m n with
  | (.empty, m) => m
  | (.good img loads, m) => { m with chn := { m.chn with images := m.chn.images.insert n img, loadCnt := m.chn.loadCnt.set 0 n loads } }
  | (.bad, m) => (m.evb oLdgEvt 9).raise 42 n

end Sys2Proof.Machine
end

