-- ==== Sys2Proof/Machine/Start.lean ====
section
/-! DEFINITION. The cold start (R492-R495): the population (R257-R261), what survives it (R488), the boot (R447, R494), training, the
ledger found or formatted (R139, R142), memory ready; and the exit from DEEP (R487). -/

namespace Sys2Proof.Machine

/-! ### The population (R257-R261) -/

/-- The highest speed code that R259 permits. -/
def speedCap (mr : Bool) (dpc : Nat) : Nat := if mr then (if dpc ≤ 1 then 5 else 2) else (if dpc ≤ 1 then 2 else 1)

/-- log2 of 1, 2 or 4. -/
def log2of (n : Nat) : Nat := if 4 ≤ n then 2 else if 2 ≤ n then 1 else 0

/-- A DIMM is an MRDIMM; the codes of its density and of its dies per package in MCn_CFG. -/
def dimmMr (d : Dimm) : Bool := d.kind == .mrdimm
def dimmDens (d : Dimm) : Nat := if d.gbit = 16 then 0 else if d.gbit = 24 then 1 else 2
def dimmLd (d : Dimm) : Nat := log2of d.dies

/-- A DIMM meets R257 in a channel that holds `n`: module, device width and density, dies, ranks, refresh timing, speed. -/
def dimmOk (n : Nat) (d : Dimm) : Bool :=
  d.hub && (d.kind == .rdimm || d.kind == .mrdimm) && d.width == 4 && [16, 24, 32].contains d.gbit && [1, 2, 4].contains d.dies
    && (d.ranks == 1 || d.ranks == 2) && decide (d.tRfc1 ≤ 410 ∧ d.tRfc2 ≤ 220 ∧ d.tRfcSb ≤ 130 ∧ d.tRfmSb ≤ 130)
    && (d.dies == 1 || decide (d.tRfcDlr ≤ 130)) && d.speeds.any (fun s => decide (s.toNat ≤ speedCap (dimmMr d) n))

/-- A channel as its SPD hubs describe it: the DIMMs accepted, and those that are not. A channel with one of each counts as a channel of the one
accepted DIMM, whose speeds were judged for two (R257 and R260 do not say; DESIGN CHOICE, log entry 103). -/
def chanOf (ds : List Dimm) : List Dimm × List Dimm :=
  let two := ds.take 2
  two.partition (dimmOk two.length)

/-- What the DIMMs of a set must share (R260). -/
def dimmKey (n : Nat) (d : Dimm) : List Nat := [(dimmMr d).toNat, dimmDens d, dimmLd d, d.ranks, n]

/-- The sets of R260, in order. -/
def channelSets : List (List Nat) := [List.range 12, [0, 1, 2, 3, 6, 7, 8, 9], [0, 1, 2, 6, 7, 8], [0, 1, 6, 7]]

/-- The speed of a set: the highest that every DIMM declares and R259 permits. -/
def setSpeed (mr : Bool) (dpc : Nat) (ds : List Dimm) : Option Nat :=
  ((List.range (speedCap mr dpc + 1)).filter (fun s => ds.all (fun d => d.speeds.any (fun x => x.toNat == s)))).max?

/-- A set's speed when it qualifies: every channel populated with accepted DIMMs, all alike, with a speed in common. -/
def setOk (chans : List (List Dimm)) (set : List Nat) : Option Nat :=
  let ds := set.flatMap (fun c => (chans.getD c []))
  let keys := set.flatMap (fun c => let l := chans.getD c []; l.map (dimmKey l.length))
  match ds, keys with
  | d :: _, k :: ks =>
    if set.all (fun c => !(chans.getD c []).isEmpty) && ks.all (fun x => x == k) then
      setSpeed (dimmMr d) (chans.getD (set.headD 0) []).length ds
    else none
  | _, _ => none

/-- The population that SPD describes: UNUSED_DIMM where a DIMM is not accepted, or stands outside the chosen set (R257, R260). -/
def population (dimms : List (List Dimm)) : Pop :=
  let cs := (List.range 12).map (fun c => chanOf (dimms.getD c []))
  let chans := cs.map (·.1)
  let chan := fun (used : List Nat) => cs.zipIdx.map (fun p =>
    ({ used := used.contains p.2, dimms := p.1.1, rejected := p.1.2,
       unusedDimm := !p.1.2.isEmpty || (!used.contains p.2 && !p.1.1.isEmpty) } : Chan))
  match channelSets.find? (fun s => (setOk chans s).isSome) with
  | none => { chans := chan [] }
  | some set =>
    let l := chans.getD (set.headD 0) []
    match l with
    | [] => { chans := chan [] }
    | d :: _ => { chans := chan set, used := set, rb := log2of (d.ranks * l.length), ld := dimmLd d, dens := dimmDens d,
                  speed := (setOk chans set).getD 0, dpc2 := l.length == 2, mrdimm := dimmMr d }

/-- The events of the population: a DIMM not accepted, no set (R257, R260). -/
def popEvents (dimms : List (List Dimm)) (m : Mach) : Mach :=
  let m := (List.range 12).foldl (fun m c => (chanOf (dimms.getD c [])).2.foldl (fun m _ => m.raise 64 c) m) m
  if m.pop.used.isEmpty then m.raise 65 0 else m

/-! ### What survives (R330, R488) -/

/-- A DIMM of a channel's rank has the serial number that the repair record was made under. -/
def sameDimm (old new : Mach) (ch rank : Nat) : Bool :=
  match old.rankDimm ch rank, new.rankDimm ch rank with
  | some a, some b => a.serial == b.serial
  | _, _ => false

/-- The rank of a bank key. -/
def bankRank (b : Nat) : Nat := b / 128 % 4

/-- The repair record under a new population: entries of DIMMs that changed are dropped, with REPAIR_DROP and a record per channel. -/
def repairReload (old m : Mach) : Mach :=
  let s := m.scb
  let keep := fun (ch b : Nat) => sameDimm old m ch (bankRank b)
  let keepM := fun (p : Nat × Nat) => sameDimm old m (p.1 / 8) (p.1 % 4)
  let goneR : List Nat := (s.remaps.filter (fun (r : Remap) => !keep r.ch r.bank)).map (fun (r : Remap) => r.ch)
  let goneS : List Nat := (s.spprs.filter (fun (r : Nat × Nat × Nat) => !keep r.1 r.2.1)).map (fun (r : Nat × Nat × Nat) => r.1)
  let goneM : List Nat := (List.filter (fun (p : Nat × Nat) => !keepM p) s.marks).map (fun (p : Nat × Nat) => p.1 / 8)
  let gone := (goneR ++ goneS ++ goneM).eraseDups
  let m : Mach := { m with scb := { s with remaps := s.remaps.filter (fun r => keep r.ch r.bank), spprs := s.spprs.filter (fun r => keep r.1 r.2.1),
                                           marks := s.marks.filter keepM,
                                           oldSpares := s.oldSpares.filter (fun o => keep (o.1 / 1024) (o.1 % 1024)) } }
  gone.foldl (fun m c => (m.evb oScbEvt 10).raise 102 c) m

/-- The self-test record that a start takes: AON, then QSPI; valid when it was made under the count before this start (R504). -/
def sstChoice (t : Tst) : Nat × Option SstRec :=
  let valid := fun (r : Option SstRec) => r.any (fun x => x.start == t.startCnt)
  if valid t.aon then (1, t.aon) else if valid t.qspi then (2, t.qspi) else (3, none)

/-- The start-up test's record (R505): PLLs, thermal, voltage, fuses and the channels. -/
def startupRec (m : Mach) (r : SstRes) : SstRec :=
  let m : Mach := { m with tst := { m.tst with groups := [], stopped := [], cond := 0#32 } }
  { res := testWord m r (List.range 8), ch := testWord m r ((List.range 12).map (100 + ·)), cond := 0#32, eyes := eyes4 [] r, result := runResult m r,
    time := 0, start := m.tst.startCnt }

/-- The self-test state after a start: the record loaded, or the start-up test made; START_CNT advanced. -/
def tstStart (m : Mach) (old : Tst) (r : SstRes) : Tst :=
  let c := sstChoice old
  let base : Tst := { aon := old.aon, qspi := old.qspi, startCnt := (old.startCnt + 1) % 2 ^ 32, src := c.1 }
  match c.2 with
  | some x => { base with res := x.res, ch := x.ch, cond := x.cond, eyes := x.eyes, result := x.result, time := x.time }
  | none =>
    let x := startupRec { m with tst := { startCnt := old.startCnt } } r
    { base with res := x.res, ch := x.ch, result := x.result, aonOk := true, aon := some x }

/-- A life-cycle transition that takes effect erases or fuses what R447 says. -/
def lcApply (old new : Nat) (w : Worlds) (c : Cry) : Worlds × Cry :=
  if old = new then (w, c)
  else if new = 2 then ({ w with root := w.rootNext.or w.root, rootNext := none }, c)
  else if new = 4 ∨ new = 5 then ({ w with rootRevoked := true }, { c with sealedKek := none })
  else (w, c)

/-- The owner entries after boot: the QSPI controller is handed to the Steward at its end (R435). -/
def ownDefault (n : Nat) : Own := { keeper := [0, 1, 2, 3, 9, 10, 11].contains n }

/-- Both worlds start from verified images (R452, R495 step 2); in SCRAPPED the Keeper does not. -/
def worldsUp (lc : Nat) (version : BitVec 24) (m : Mach) : Mach :=
  let meas := [1, 2, 3, 5].foldl (fun (t : Tbl (BitVec 384)) i => t.insert i (Config.digest i version.toNat)) m.wld.meas
  let up := lc != 5
  { m with wld := { m.wld with keeper := if up then .up else .down, steward := .up, waitImage := false, version, meas },
           cry := { m.cry with kek := if up then m.cry.sealedKek else none } }

/-! ### The cold start -/

/-- Heads after a cold reset: those whose PERST_N is high train. -/
def coldHeads (old m : Mach) : Mach :=
  (List.range 8).foldl (fun m h =>
    let perst := (old.heads.get {} h).perst
    (m.setHead h { perst }).headGo h) { m with heads := [] }

/-- The machinery at a cold start: `aon` keeps the AON retained SRAM; `lc` is the life-cycle state
applied, `was` the one before. -/
def coldMach (old : Mach) (env : ColdEnv) (aon : Bool) (last was lc : Nat) : Mach :=
  let pop := population env.dimms
  let wc := lcApply was lc { root := old.wld.root, rootNext := old.wld.rootNext, rootRevoked := old.wld.rootRevoked }
    { sealedKek := old.cry.sealedKek }
  let moved := old.mcs.saved.any (fun p => p != (pop.place, pop.dens))
  let sub : Sub := { sr := .inSr }
  let m : Mach :=
    { fresh := old.fresh, outbox := old.outbox, hostMem := old.hostMem,
      regs := old.regs.filter (fun p => p.1 == oSelfIdLo || p.1 == oSelfIdHi),
      straps := { paBif := env.paBif, pbBif := env.pbBif, bootSrc := env.bootSrc, yokeRole := env.yokeRole },
      led := { extents := old.led.extents, dup := old.led.dup, cellarUnits := old.led.cellarUnits, fwFmt := env.fmtDpa,
               quarFrames := old.led.quarFrames, quarCellar := old.led.quarCellar,
               leakFrames := old.led.leakFrames, leakUnits := old.led.leakUnits },
      pop, media := if env.dramHeld && aon then old.media else {},
      mcs := { subs := pop.used.foldl (fun t c => (t.insert (2 * c) sub).insert (2 * c + 1) sub) [], nextId := old.mcs.nextId,
               canaryCnt := if aon then old.mcs.canaryCnt else [], saved := old.mcs.saved, allFull := moved,
               trainRec := if moved then [] else old.mcs.trainRec },
      scb := { pos := if aon then old.scb.pos else 0, remaps := old.scb.remaps, oldSpares := old.scb.oldSpares, marks := old.scb.marks,
               spprs := old.scb.spprs, chSt := pop.used.foldl (fun t c => t.insert c 1) [], chgKept := if old.scb.chg.isEmpty then old.scb.chgKept else old.scb.chg },
      wld := { wc.1 with own := [], nonce := Config.free 32 old.fresh }, cry := wc.2,
      flt := { qspiA := old.flt.qspiA, prevA := if aon then old.flt.prevA else old.flt.qspiA },
      pwr := { wakeN := old.pwr.wakeN, thermtrip := aon && old.pwr.thermtrip },
      pci := { subsys := env.subsys.getD 0#32 }
      tst := old.tst }
  let m := repairReload old m
  let m : Mach := { m.tick with tst := tstStart m (if aon then old.tst else { old.tst with aon := none }) env.startup }
  let m := coldHeads old (m.lastReset last).yokeGo
  let m := if env.paBif = 3 then m.raise 0 0 else m
  let m := if env.pbBif = 3 then m.raise 0 1 else m
  let m := popEvents env.dimms m
  if env.bootSrc.toNat % 2 = 1 then { m with wld := { m.wld with waitImage := true } }
  else if env.imagesOk then worldsUp lc env.version m else m

/-- A cold start: every state at its reset value but what R488 and R489 keep. Waiting commands stay in their queue. -/
def coldStart (s : State) (env : ColdEnv) (aon : Bool) (last : Nat) : State :=
  let latch := aon && s.latch
  settle { pending := s.pending, latch, lcCur := s.lcPend, lcPend := s.lcPend,
           m := coldMach s.m env aon last s.lcCur s.lcPend }

/-- COLD (R492): the warm sequence, then the start; under the latch the sequence's services are stopped already. -/
def coldReset (s : State) (env : ColdEnv) : State :=
  let empty : DropEnv := { partialWrites := 0, partialRecords := 0, skid := [] }
  let s := if s.latch then s else warmStart s 2 empty
  coldStart s env true 1

/-! ### Training and the ledger (R139, R142, R190, R266, R495) -/

/-- The gaps that sorted numbers leave in an interval. -/
def gaps : Nat → Nat → List Nat → List Iv
  | s, e, [] => if s < e then [(s, e - s)] else []
  | s, e, u :: us => if u < s then gaps s e us else (if s < u ∧ u < e then [(s, u - s)] else []) ++ gaps (u + 1) e us

/-- The free lists and page counts that the entries of a kept ledger imply: free frames uncleared, cellar units by runs. Media in quarantine
and the media of lost entries are on no list (R150, R174); what is free on a channel that is not LIVE stays off the lists (R336). -/
def rebuildLists (L : Image) (m : Mach) : Mach :=
  let es := m.knownPages.map (fun p => (p, m.peekEnt p))
  let sort := fun (l : List Nat) => l.mergeSort (fun a b => decide (a ≤ b))
  let frames := (es.filter (fun e => decide (e.2.st = 1 ∨ e.2.st = 4))).map (·.2.ma) ++ m.led.quarFrames ++ ivFrames m.led.leakFrames
  let units := (es.filter (fun e => decide (1 ≤ e.2.k))).flatMap (fun e => (List.range e.2.k).map (e.2.ma + ·))
    ++ m.led.quarCellar.flatMap (fun q => (List.range q.2).map (q.1 + ·)) ++ ivFrames m.led.leakUnits
  let cfs := sort (units.map (· / 16)).eraseDups
  let all := m.pop.used.all (fun c => m.scb.chSt.get 0 c == 1)
  let onLive := fun (base : Nat) (want : Bool) (l : List Iv) => if all then (if want then l else []) else ivKeep (fun f => (m.frameCh (base + f) == 1) == want) l
  let hot := gaps (hotBase L) m.cellBase (sort frames)
  let cel := gaps 0 (m.led.cellarUnits * 65536) cfs
  let led := { m.led with uncleared := onLive 0 true hot, pool := [], away := onLive 0 false hot, fresh := onLive m.cellBase true cel,
                          awayUnits := (onLive m.cellBase false cel).map (fun r => (16 * r.1, 16 * r.2)) }
  let led := cfs.foldl (fun (l : Ledger) cf => (gaps (16 * cf) (16 * cf + 16) (sort (units.filter (fun u => u / 16 == cf)))).foldl
    (fun (l : Ledger) (g : Iv) => if m.frameCh (m.cellBase + cf) = 1 then l.putUnits g.1 g.2 else { l with awayUnits := ivAdd l.awayUnits g.1 g.2 }) l) led
  let non := es.foldl (fun (t : Tbl Nat) e => if e.2.st = 0 then t else t.set 0 (e.1 / 65536) (t.get 0 (e.1 / 65536) + 1)) []
  freeMarks L { m with led := { led with nonUnw := non, pinned := (es.filter (fun e => e.2.st == 4)).length } }

/-- The culture counts at a start: a record with VALID = 1 and a good CRC, copy 0 first, of the copies in use; else the recount (R142, R336). -/
def loadCounts (L : Image) (m : Mach) : Mach :=
  let good := fun (b : List Byte) => (b.drop 512).take 1 == [1#8] && ofBytes 32 ((b.drop 516).take 4) == Codec.crc32c 0#32 (b.take 516)
  let r := (m.copies 1).foldl (fun (x : Option (List Byte) × Mach) c =>
    if x.1.isSome then x else let r := hdrGet L x.2 c 64 520; (r.1.filter good, r.2)) (none, m)
  match r.1 with
  | some b => { r.2 with led := { r.2.led with counts := (List.range 64).foldl (fun (t : Tbl Nat) n => t.set 0 n (natOfBytes ((b.drop (8 * n)).take 8))) [] } }
  | none => { r.2 with led := { r.2.led with counts := [], recount := true } }

/-- The format record read from one copy, when it is valid and fits the media found. -/
def fmtFound (L : Image) (m : Mach) (c : Nat) : Option FmtRec × Mach :=
  let r := hdrGet L m c 0 20
  ((r.1.bind FmtRec.ofBytes).filter (fun r => fmtFits L m r.extents r.cellar r.dup), r.2)

/-- Take the ledger as a record says it is; `fix` says that the other copy's record differs and is rewritten. -/
def keepLedger (L : Image) (m : Mach) (r : FmtRec) (fix : Option Nat) : Mach :=
  let st := m.pop.used.foldl (fun (t : Tbl Nat) c => t.insert c (let x := r.chans / 4 ^ c % 4; if x = 0 then 1 else x)) []
  let m : Mach := { m with led := { m.led with formatted := true, extents := r.extents, dup := r.dup, cellarUnits := r.cellar, fseq := r.fseq },
                           scb := { m.scb with chSt := st, chg := m.scb.chgKept.filter (fun p => st.get 0 p.1 == 2), chgKept := [] } }
  let m := match fix with
    | some c =>
      let j := m.lineJudge (m.ledFrame c 0) 0 false false
      ((m.writeFormatRecord.evb oLdgEvt 3).raiseRs 35 (place m.pop.place (m.ledFrame c 0) 0) none (m.ueSyn j)).tick
    | none => m
  let m := loadCounts L (rebuildLists L m)
  (List.range 64).foldl (reloadSlot L) m

/-- The settings of a format at a start: those of the firmware image where they fit, else the defaults of R139. -/
def autoFormat (L : Image) (m : Mach) : Mach :=
  let u := m.mediaUnits
  let dflt := (min 131072 (2 * u), true, min 16384 (u / 4))
  let f := match m.led.fwFmt with
    | some f => if fmtFits L m f.1 f.2.2 f.2.1 then f else dflt
    | none => dflt
  fmtStart L { m with led := { m.led with quarFrames := [], quarCellar := [] } } f.1 f.2.2 f.2.1 true

/-- Step 4 of R495 when the channels are trained: the format records read. -/
def ledgerStart (L : Image) (m : Mach) : Mach :=
  let (a, m) := fmtFound L m 0
  let (b, m) := if m.led.dup then fmtFound L m 1 else (none, m)
  match a, b with
  | some x, some y =>
    if x = y then keepLedger L m x none
    else if (x.fseq + 2 ^ 32 - y.fseq) % 2 ^ 32 < 2 ^ 31 then keepLedger L m x (some 1) else keepLedger L m y (some 0)
  | some x, none => keepLedger L m x (if x.dup then some 1 else none)
  | none, some y => keepLedger L m y (some 0)
  | none, none => autoFormat L m

/-- CHANNEL_TRAINING_DONE; with the last one, the ledger is found. Under the latch the channel goes back to self-refresh and the start
goes no further (R466). -/
def channelTrained (L : Image) (latch : Bool) (m : Mach) (ch : Nat) (r : TrainRes) : Mach :=
  if m.wld.waitImage ∨ m.wld.steward = .booting ∨ m.mcs.trained.get 0 ch % 256 ≠ 0 ∨ !m.pop.used.contains ch then m
  else
    let m := trainDone m ch r
    if latch then [2 * ch, 2 * ch + 1].foldl (fun m k => m.setSub k { m.sub k with sr := .inSr }) m
    else if m.pop.used.all (fun c => let t := m.mcs.trained.get 0 c % 256; t != 0 && t != 4) then ledgerStart L m
    else m

/-- MEMORY_READY (R58): when nothing stands against it. -/
def memoryReady (L : Image) (latch : Bool) (m : Mach) : Mach :=
  if m.canReady && !latch && !m.pwr.memReady && m.pwr.warm.isNone && !m.pwr.inDeep then memReady (floorUpdate L m) else m

/-! ### Exit from DEEP (R487) -/

/-- The environment of the cold reset that a failed exit makes: nothing outside has changed, and a start-up test would find what is free. -/
def sameEnv (m : Mach) : ColdEnv :=
  let at' := fun (i : Nat) => 2 ^ 96 + 256 * m.fresh + i
  let n := fun (i : Nat) => Config.freeNat (at' i)
  let w := fun (i : Nat) => Config.free 32 (at' i)
  { paBif := m.straps.paBif, pbBif := m.straps.pbBif, bootSrc := m.straps.bootSrc, yokeRole := m.straps.yokeRole, dramHeld := true,
    dimms := m.pop.chans.map (fun c => c.dimms ++ c.rejected), imagesOk := true, version := m.wld.version, subsys := some m.pci.subsys, fmtDpa := m.led.fwFmt,
    startup := { plls := some [{ lockUs := some (n 0), jitter := n 1 }], lanes := [], thermal := some ((List.range 16).map (fun i => (n (2 + i) : Int)), n 18),
                 volts := some [(n 19, n 20, n 21)], fuses := some [(w 22, w 23, w 24)],
                 chans := (List.range 12).map (fun i => some [{ errs := n (25 + 3 * i), window := n (26 + 3 * i), off := n (27 + 3 * i) }]) } }

/-- The sealed key area, read by the controllers (R272), is as it was sealed under the nonce that AON holds (R249): none of its lines is uncorrectable or changed. -/
def sealIntact (L : Image) (m : Mach) : Bool × Mach :=
  match m.pwr.nonce with
  | none => (false, m)
  | some n =>
    let nums := ({ m.cry with slots := m.cry.sealedSlots.getD [] } : Cry).sealNums
    m.sealPlaces.zipIdx.foldl (fun x p =>
      if !x.1 then x
      else
        let (j, m) := readEnt L x.2 { id := 0, frame := 0, ln := 0, spot := some p.1, purpose := .keeper } false false 97 none []
        (j.v == .data && j.line == Config.sealLine n nums p.2, m)) (true, m)

/-- DEEP_EXIT_DONE: what was put away comes back, heads pass through DOWN with their rings, memory is ready; or the cold reset. The channels leave
self-refresh, and the sealed area is read. -/
def deepExit (s : State) (ok : Bool) : State :=
  if !(s.m.pwr.st == .waking && s.m.pwr.toDeep) then s
  else
    let L := s.live
    let (good, m) := if ok then sealIntact L s.m.wakeDram else (false, s.m)
    if good then
      let empty : DropEnv := { partialWrites := 0, partialRecords := 0, skid := [] }
      let m := deepBack L m
      let m := (List.range 8).foldl (fun m h => if (m.head h).st.linked then linkLost L m h .down empty else m) m
      let m := (m.dqu.rings.map (·.1)).foldl (ringFall L) m
      let m : Mach := { m with pwr := { m.pwr with st := .active }, led := { m.led with sweep := 0 }, scb := { m.scb with paused := false } }
      let m := (m.setReg oWakeCause (put m.pwr.cause.toNat 0)).yokeGo
      settle { s with stage := s.live, commit := { s.commit with checked := false, pairedPass := false }, m := if m.canReady && !s.latch then memReady m else m }
    else
      let s := coldStart s (sameEnv m) true 4
      settle { s with m := s.m.raise 190 0 }

/-! ### The commands -/

/-- POWER_ON_RESET. -/
def execPowerOnReset (env : ColdEnv) (s : State) : Host.Outcome State Fault Refusal := .next (coldStart s env false 0)

/-- COLD: ignored with another key or while PBUSY = 1 (R490). -/
def execCold (key : BitVec 24) (env : ColdEnv) (s : State) : Host.Outcome State Fault Refusal :=
  .next (if key = rstKey ∧ !s.m.pwr.pbusy ∧ !s.m.pwr.inDeep then coldReset s env else s)

/-- CHANNEL_TRAINING_DONE. -/
def execChannelTrainingDone (ch : Fin 12) (r : TrainRes) (s : State) : Host.Outcome State Fault Refusal :=
  s.op (fun m => channelTrained s.live s.latch m ch r)

/-- MEMORY_READY. -/
def execMemoryReady (s : State) : Host.Outcome State Fault Refusal := s.op (memoryReady s.live s.latch)

/-- DEEP_EXIT_DONE. -/
def execDeepExitDone (sealOk : Bool) (s : State) : Host.Outcome State Fault Refusal := .next (deepExit s sealOk)

/-- RECOVERY_IMAGE_DELIVERY: images that do not verify leave the boot ROM waiting. -/
def execRecoveryImageDelivery (ok : Bool) (version : BitVec 24) (s : State) : Host.Outcome State Fault Refusal :=
  s.op (fun m => if m.wld.waitImage ∧ ok then worldsUp s.lcCur version m else m)

end Sys2Proof.Machine
end

