-- ==== Sys2Proof/Machine/Check.lean ====
section
/-! DEFINITION. CHECK (R95, R550): the conditions on the staged image, each answering the KIND and INDEX of its first failure. -/

namespace Sys2Proof.Machine

/-- The lowest of some indices. -/
def lowest : List Nat → Option Nat
  | [] => none
  | x :: t => some ((lowest t).elim x (min x))

/-- The lowest of some indices, with a KIND. -/
def failAt (kind : Nat) (l : List Nat) : Option (Nat × Nat) := (lowest l).map (fun i => (kind, i))

/-- The partitions with VALID = 1. -/
def Image.valids (I : Image) : List Nat := (List.range 64).filter I.pValid

/-- The map entries of a partition's run. -/
def Image.run (I : Image) (p : Nat) : List Nat := (List.range (min (I.pLen p) (131072 - I.pBase p))).map (I.pBase p + ·)

/-- The map entries of the runs of valid partitions, with their partition. -/
def Image.entries (I : Image) : List (Nat × Nat) := I.valids.flatMap (fun p => (I.run p).map (fun k => (p, k)))

/-- The extents whose entries an image lists, with their attributes: every other entry holds its reset value. -/
def Image.exts (I : Image) : List (Nat × BitVec 64) := I.ext

/-! ### BAD_ENCODING (R550) -/

/-- The settings of KIND 0 that hold a reserved encoding. -/
def badGlobal (I : Image) : Bool :=
  let win := fld (I.reg oBwgCtl) 6 0
  let sweep := fld (I.reg oSkimInt) 11 0
  let lag := fld (I.reg oMirCfg) 15 2
  let us := fld (I.reg oMirCfg) 25 16
  decide (win = 0 ∨ 64 < win) || decide (16 < skimFld I 5 1 ∨ skimFld I 7 6 = 0) || decide (sweep = 0 ∨ 3600 < sweep)
    || decide ((I.reg oWmHigh).toNat ≤ (I.reg oWmLow).toNat) || decide (lag = 0 ∨ 8192 < lag) || decide (us = 0 ∨ 1000 < us)

/-- A ring's fields other than LOG2SIZE and PLACE (R400, R550). -/
def badRing (I : Image) (n : Nat) : Bool :=
  I.rCls n == 3 || decide (I.rInflight n = 0 ∨ 64 < I.rInflight n)

/-- A channel's refresh fields (R283). -/
def badRefresh (I : Image) (c : Nat) : Bool := refMode I c == 3 || decide (4 < refPostpone I c) || refRfm I c == 3

/-- A strainer table's fields (ch 14). -/
def badStrainer (I : Image) (t : Nat) : Bool :=
  let c := I.reg (oStnCfg t)
  let b := fld c 22 18
  let e := fld c 27 23
  fld c 17 15 == 7 || (c.getLsbD 0 && decide (b = 0 ∨ b = 31 ∨ e < 10 ∨ e = 31 ∨ fld (I.reg (oStnLoc t)) 31 17 = 0))

/-- BAD_ENCODING: the lowest KIND, and in it the lowest INDEX. -/
def badEncoding (I : Image) : Option (Nat × Nat) :=
  let ext := (I.exts.filter (fun p => eTier p.2 == 3 || eCls p.2 == 3 || eRole p.2 == 3)).map (·.1)
  let part := (List.range 64).filter (fun p => decide (131072 < I.pLen p)
    || ((I.reg (oTlyCfg p)).getLsbD 0 && fld (I.reg (oTlyLoc p)) 31 17 == 0))
  let head := (List.range 8).filter (fun h => decide (4 < fld (I.reg oHeadCfg) (4 * h + 2) (4 * h)))
  let mst := ((List.range 8).filter (fun h => decide (capOf I h < guarOf I (4 * h)))).map (4 * ·)
  let cult := (List.range 64).filter (fun n => fld (I.reg (oCultLo n)) 1 0 == 3)
  if badGlobal I then some (0, 0)
  else (failAt 1 ext).or ((failAt 2 part).or ((failAt 3 head).or ((failAt 5 mst).or ((failAt 7 cult).or
    ((failAt 8 ((List.range 256).filter (badRing I))).or ((failAt 9 ((List.range 12).filter (badRefresh I))).or
      (failAt 10 ((List.range 256).filter (badStrainer I)))))))))

/-! ### Partitions, the map, extents (R77, R80-R91, R138, R167) -/

/-- DPA_RANGE. -/
def dpaRange (I : Image) (m : Mach) : Option (Nat × Nat) :=
  failAt 4 ((I.entries.filter (fun p => decide (m.led.extents ≤ I.mapEnt p.2))).map (·.2))

/-- BAD_HEAD (R37, R42, R81): an absent head; a further partition on a head judged as a single logical device; a shared LD. -/
def badHead (I : Image) (m : Mach) : Option (Nat × Nat) :=
  let bound := (List.range 64).filter I.pBound
  failAt 2 (bound.filter (fun p =>
    let h := I.pHead p
    m.straps.lanes h == 0 || (!(m.head h).mld && bound.any (fun q => decide (q < p) && I.pHead q == h))
      || bound.any (fun q => q != p && I.pHead q == h && I.pLd q == I.pLd p)))

/-- DECODER_BUDGET (R84). -/
def decoderBudget (I : Image) : Option (Nat × Nat) :=
  failAt 3 ((List.range 8).filter (fun h => decide (16 < dplOf I h * (I.boundTo h).length)))

/-- MAP_RANGE. -/
def mapRange (I : Image) : Option (Nat × Nat) :=
  let ps := I.valids
  let meets := fun p q => decide (0 < I.pLen p ∧ 0 < I.pLen q ∧ I.pBase p < I.pBase q + I.pLen q ∧ I.pBase q < I.pBase p + I.pLen p)
  failAt 2 (ps.filter (fun p => decide (131072 < I.pBase p + I.pLen p) || ps.any (fun q => q != p && meets p q)))

/-- EXTENT_CONFLICT (R76, R77). -/
def extentConflict (I : Image) : Option (Nat × Nat) :=
  failAt 4 ((I.entries.filter (fun p =>
    let x := I.extent (I.mapEnt p.2)
    !eOwned x || (!eShared x && eOwner x != p.1))).map (·.2))

/-- DC_ORDER (R86): a DC = 0 extent after a DC = 1 extent of its run. -/
def dcOrder (I : Image) : Option (Nat × Nat) :=
  failAt 4 (I.valids.flatMap (fun p => ((I.run p).dropWhile (fun k => !eDc (I.extent (I.mapEnt k)))).filter (fun k => !eDc (I.extent (I.mapEnt k)))))

/-- Flat area units of an image. -/
def flatUnits (I : Image) : Nat := fld (I.reg oFlatArea) 15 0

/-- FLAT (R90, R91). -/
def flatFail (I L : Image) (m : Mach) : Option (Nat × Nat) :=
  let flats := I.exts.filter (fun p => eFlat p.2)
  let bad := flats.filter (fun p => eShared p.2 || eRole p.2 != 0 || decide (flatUnits I ≤ eFlatSlot p.2)
    || flats.any (fun q => q.1 != p.1 && eFlatSlot q.2 == eFlatSlot p.2))
  let turned := (I.exts ++ L.exts).filter (fun p => eFlat (I.extent p.1) != eFlat (L.extent p.1) && m.led.nonUnw.get 0 p.1 != 0)
  failAt 1 ((bad ++ turned).map (·.1))

/-- Numbers of a list of runs within [lo, hi). -/
def ivIn (l : List Iv) (lo hi : Nat) : Nat := (l.map (fun p => min (p.1 + p.2) hi - max p.1 lo)).sum

/-- FLAT_AREA_BUSY (R91): an added unit holds a frame that is neither in the pool nor on the uncleared list. -/
def flatBusy (I L : Image) (m : Mach) : Option (Nat × Nat) :=
  let lo := flatUnits L * 65536
  let hi := flatUnits I * 65536
  if ivIn m.led.pool lo hi + ivIn m.led.uncleared lo hi < hi - lo then some (0, 0) else none

/-- TIER_CAPACITY (R167). -/
def tierCapacity (I : Image) (m : Mach) : Option (Nat × Nat) :=
  let pinned := (I.exts.filter (fun p => eTier p.2 == 1 && !eFlat p.2)).map (·.1)
  if m.cellBase - flatUnits I * 65536 < 65536 * pinned.length + (I.reg oPinMax).toNat then some ((failAt 1 pinned).getD (0, 0)) else none

/-! ### Tables (R429) -/

/-- A position of an enabled table: the table (tally tables 0-63, strainer tables from 64), its ROLE, its owner, its map entry. -/
structure TabUse where
  tab : Nat
  role : Nat
  owner : Nat
  entry : Option Nat

/-- The positions of the enabled tables of an image. -/
def tabUses (I : Image) : List TabUse :=
  let span := fun (tab role owner first next : Nat) =>
    (List.range next).map (fun i => { tab, role, owner, entry := I.mapIdx owner (first + i) : TabUse })
  (List.range 64).flatMap (fun p => match tallyTab I p with
    | some t => span p 1 p t.first t.next
    | none => []) ++
  (List.range 256).flatMap (fun t => match stnTab I t with
    | some x => span (64 + t) 2 x.owner x.first x.next
    | none => [])

/-- The extent of a table's first position, or 0. -/
def StnTab.firstExt (I : Image) (x : StnTab) : Nat := ((I.mapIdx x.owner x.first).map I.mapEnt).getD 0

/-- ROLE (R429). A position beyond the run names no extent: INDEX 0. -/
def roleFail (I : Image) (m : Mach) : Option (Nat × Nat) :=
  let us := tabUses I
  let ext := fun (u : TabUse) => u.entry.map I.mapEnt
  let badUse := (us.filter (fun u => match u.entry with
    | none => true
    | some k =>
      let x := I.extent (I.mapEnt k)
      eRole x != u.role || eFlat x || (eDc x && m.dc.get 0 k != 2)
        || us.any (fun v => v.tab != u.tab && ext v == ext u))).map (fun u => (ext u).getD 0)
  let unused := (I.exts.filter (fun p => eRole p.2 != 0 && !us.any (fun u => ext u == some p.1 && u.owner == eOwner p.2))).map (·.1)
  let stns := (List.range 256).filterMap (stnTab I)
  let loc := fun (x : StnTab) => fld (I.reg (oStnCfg x.t)) 11 8
  let badTab := (stns.filter (fun x => decide (x.next * 2 ^ 28 < x.size)
    || stns.any (fun y => y.t != x.t && y.owner == x.owner && loc y == loc x))).map (StnTab.firstExt I)
  failAt 1 (badUse ++ unused ++ badTab)

/-! ### Keys, cultures, rings, refresh, guarantees, mirrors -/

/-- KEY_SLOT (R247). -/
def keySlotFail (I : Image) (m : Mach) : Option (Nat × Nat) :=
  failAt 6 ((I.exts.filter (fun p => eKeyed p.2 && (match m.cry.slots.find? (eSlot p.2) with
    | none => true
    | some k => k.owner != eOwner p.2))).map (fun p => eSlot p.2))

/-- ACT of a culture slot, and the address of its image. -/
def cultAct (I : Image) (n : Nat) : Nat := fld (I.reg (oCultLo n)) 1 0
def cultAddr (I : Image) (n : Nat) : Nat := fld (I.reg (oCultHi n)) 12 0 * 2 ^ 32 + fld (I.reg (oCultLo n)) 31 12 * 4096

/-- The active culture of a set, when the set has one. -/
def csetActive (I : Image) (k : Nat) : Option Nat :=
  let c := I.reg (oCset k)
  if c.getLsbD 6 then some (fld c 5 0) else none

/-- The slot holds a culture. -/
def Mach.holdsCult (m : Mach) (n : Nat) : Bool := (m.chn.images.find? n).isSome || m.chn.copying.contains n

/-- A slot that may not be replaced (R142, R170). -/
def cultHeld (L : Image) (m : Mach) (n : Nat) : Bool :=
  m.holdsCult n && (m.led.recount || m.led.counts.get 0 n != 0 || (List.range 16).any (fun k => csetActive L k == some n))

/-- The agent that CHECK and APPLY read culture images as: the Drausk complex (R105, R240, R298). -/
def imageAgent (who : Nat) : Agent := { who, src := 15, mst := mDesc }

/-- Read an image as a non-caching agent (R240), from access number `n` on: its bytes, or none when a line is poisoned. An address at or
beyond the configured DPA size names no line and reads as poisoned. -/
def readImage (m : Mach) (a : Agent) (n addr : Nat) : Attempt (Option (List Byte)) :=
  if m.led.extents * 2 ^ 28 < addr + 33024 then .ok none m
  else match m.askAll a n ((List.range 516).map (fun i => (addr / 64 + i, .agRead))) with
    | .wait new => .wait new
    | .got ds => .ok (if ds.any (·.p) then none else some (ds.flatMap (fun d => bytesOf d.data 64))) m

/-- Read the images of slots, each with its own access numbers. -/
def readSlots (I : Image) (m : Mach) : List Nat → Attempt (List (Nat × Bool))
  | [] => .ok [] m
  | n :: t => match readImage m (imageAgent whoImage) (516 * n) (cultAddr I n) with
    | .wait new => .wait new
    | .ok b m => match readSlots I m t with
      | .wait new => .wait new
      | .ok l m => .ok ((n, b.any Yelrin.imgOk) :: l) m

/-- Read every image staged with ACT = 1; none while one waits. True for the slots whose image is good (R187); in the safe state the
home answers reads poisoned (R464). -/
def readImages (I L : Image) (latch : Bool) (m : Mach) : Option (List (Nat × Bool)) × Mach :=
  let slots := (List.range 64).filter (fun n => cultAct I n == 1)
  if latch then (some (slots.map (fun n => (n, false))), m) else runWork L whoImage (fun m => readSlots I m slots) (64 * askRounds) m

/-- CULTURE (R170, R240). -/
def cultureFail (I L : Image) (m : Mach) (good : List (Nat × Bool)) : Option (Nat × Nat) :=
  let acts := (List.range 64).filter (fun n => cultAct I n == 1 || cultAct I n == 2)
  let held := acts.filter (cultHeld L m)
  let bad := (good.filter (fun p => !p.2)).map (·.1)
  let absent := ((List.range 16).filterMap (csetActive I)).filter (fun a => !(cultAct I a == 1 || (cultAct I a != 2 && m.holdsCult a)))
  failAt 7 (held ++ bad ++ absent)

/-- A range lies in one extent that a partition's run lists. -/
def inOneExtent (I : Image) (p base n : Nat) : Bool :=
  decide (base + n ≤ 2 ^ 45) && base / 2 ^ 28 == (base + n - 1) / 2 ^ 28 && I.lists p (base / 2 ^ 28)

/-- RING (R381). -/
def ringFail (I : Image) : Option (Nat × Nat) :=
  failAt 8 ((List.range 256).filter (fun n =>
    let c := I.rCfg n
    let place := I.rPlace n
    let p := I.rOwner n
    let sqN := 64 * 2 ^ I.rLog n
    let cqN := 16 * 2 ^ I.rLog n
    I.rEn n && (decide (I.rLog n < 4 ∨ 16 < I.rLog n) || !I.pValid p || (place != 1 && place != 3 && !I.pBound p) || place == 3
      || (place != 1 && decide (63 < c.vector)) || decide (2 ^ 64 < c.sq + sqN ∨ 2 ^ 64 < c.cq + cqN) || overlaps c.sq sqN c.cq cqN
      || (place == 2 && !(inOneExtent I p c.sq sqN && inOneExtent I p c.cq cqN)))))

/-- REFRESH (R283). -/
def refreshFail (I : Image) (m : Mach) : Option (Nat × Nat) :=
  failAt 9 (m.pop.used.filter (fun c =>
    let ds := (m.pop.chans.getD c {}).dimms
    (refMode I c == 2 && ds.any (fun d => !d.sameBank)) || (refRfm I c == 0 && ds.any (·.rfmReq))))

/-- ADMISSION (R307). -/
def admissionFail (I : Image) (m : Mach) : Option (Nat × Nat) :=
  (cutAt I (10 * floorOf I m (fun _ => false)) (walked I) 0).map (fun p => (5, p.1))

/-- MIRROR (R374): the link is not up, or the lowest extent whose bits differ. -/
def mirrorFailAt (I : Image) (m : Mach) : Option (Nat × Nat) :=
  if !m.yoke.up then some (0, 0)
  else failAt 1 ((List.range 512).flatMap (fun c =>
    let x := m.yoke.vec.get 0#256 c ^^^ vecChunk I c
    if x = 0#256 then [] else ((List.range 256).filter x.getLsbD).map (256 * c + ·)))

/-- The first failure of a list of conditions with their codes. -/
def firstFailure : List (Nat × Option (Nat × Nat)) → Option (Nat × Nat × Nat)
  | [] => none
  | (code, some d) :: _ => some (code, d)
  | (_, none) :: t => firstFailure t

/-- The conditions below CULTURE, in ascending code order. -/
def checkLow (I L : Image) (m : Mach) (lost : Bool) : Option (Nat × Nat × Nat) :=
  firstFailure [(0x05, if lost then some (0, 0) else none), (0x10, badEncoding I), (0x11, dpaRange I m), (0x12, badHead I m),
    (0x13, decoderBudget I), (0x14, mapRange I), (0x15, extentConflict I), (0x16, dcOrder I), (0x17, flatFail I L m),
    (0x18, flatBusy I L m), (0x19, tierCapacity I m), (0x1A, roleFail I m), (0x1B, keySlotFail I m)]

/-- The conditions from CULTURE on. -/
def checkHigh (I L : Image) (m : Mach) (good : List (Nat × Bool)) (paired : Bool) : Option (Nat × Nat × Nat) :=
  firstFailure [(0x1C, cultureFail I L m good), (0x1D, ringFail I), (0x1E, refreshFail I m), (0x1F, admissionFail I m),
    (0x20, if paired then mirrorFailAt I m else none)]

/-- CHECK ends with a result. -/
def checkEnd (s : State) (paired : Bool) (r : Option (Nat × Nat × Nat)) : State :=
  let m : Mach := { s.m with yoke := { s.m.yoke with vecWant := false } }
  match r with
  | some (code, kind, index) =>
    { s with m, commit := { s.commit with op := .idle, checked := false, pairedPass := false, code := BitVec.ofNat 8 code, kind, index } }
  | none => { s with m, commit := { s.commit with op := .idle, checked := true, pairedPass := paired, code := 1#8, kind := 0, index := 0 } }

/-- The partner's vector is still to come. -/
def Mach.vecWaits (m : Mach) : Bool := m.yoke.up && (List.range 512).any (fun c => (m.yoke.vec.find? c).isNone)

/-- CHECK_DONE: judged once every image is read and, with PAIRED, the partner's vector is whole. A staged write ignored while this CHECK
ran fails it as it would the next one (DESIGN CHOICE, log entry 84). -/
def checkDone (s : State) : State :=
  match s.commit.op with
  | .check paired =>
    match checkLow s.stage s.live s.m s.commit.lost with
    | some r => checkEnd s paired (some r)
    | none => match readImages s.stage s.live s.latch s.m with
      | (none, m) => settle { s with m }
      | (some good, m) =>
        let s := settle { s with m }
        match s.commit.op with
        | .check _ => if paired && s.m.vecWaits then s else checkEnd s paired (checkHigh s.stage s.live s.m good paired)
        | _ => s
  | _ => s

/-- A write of GLB_STAGE_CTL: ignored while BUSY = 1 and under the latch (R94, R465). -/
def stageCtl (s : State) (f : State → State) : State := if s.commit.busy || s.latch then s else f s

/-- CHECK starts (R93, R374). -/
def checkStart (paired : Bool) (s : State) : State :=
  let s := { s with commit := { s.commit with op := .check paired } }
  if paired then { s with m := ({ s.m with yoke := { s.m.yoke with vec := [], vecWant := true } } : Mach).ykMsg 2 4 [1] } else s

/-- CHECK. -/
def execCheck (s : State) : Host.Outcome State Fault Refusal := .next (stageCtl s (checkStart false))

/-- PAIRED_CHECK. -/
def execPairedCheck (s : State) : Host.Outcome State Fault Refusal := .next (stageCtl s (checkStart true))

/-- CHECK_DONE. -/
def execCheckDone (s : State) : Host.Outcome State Fault Refusal := .next (checkDone s)

end Sys2Proof.Machine
end

