-- ==== Sys2Proof/Machine/Commit.lean ====
section
/-! DEFINITION. APPLY and its instant (R78, R82-R100, R170, R240, R375, R376, R382, R413), DISCARD, and the copy of applied cultures. -/

namespace Sys2Proof.Machine

/-! ### Dynamic Capacity (R87, R551) -/

/-- A DC entry of a bound partition's run: entry, extent, head, logical device, partition. -/
structure DcEnt where
  k : Nat
  ext : Nat
  h : Nat
  ld : Nat
  part : Nat
  deriving DecidableEq, Repr

/-- The DC entries of the bound partitions' runs in an image. An extent whose DC is set while its map entry stands in a bound run is thereby an added
entry, which is offered (R87 names an entry added and a partition bound only; DESIGN CHOICE, log entry 104). -/
def dcEntries (I : Image) : List DcEnt :=
  ((List.range 64).filter I.pBound).flatMap (fun p =>
    ((I.run p).filter (fun k => eDc (I.extent (I.mapEnt k)))).map (fun k => { k, ext := I.mapEnt k, h := I.pHead p, ld := I.pLd p, part := p }))

/-- A Dynamic Capacity event record: kind 0 Add Capacity, 3 Forced Release; the extent, the logical device, the More flag. -/
def dcRecord (h kind e ld : Nat) (more : Bool) : List Byte := Config.mboxBytes 0x4800 h [kind, e, ld, more.toNat]

/-- An entry leaves its logical device. -/
def dcLeave (m : Mach) (x : DcEnt) : Mach :=
  let st := m.dc.get 0 x.k
  let b := m.mb x.h
  let offered := (b.offered.map (fun o => if o.1 = x.ld then (o.1, o.2.filter (· != x.k)) else o)).filter (fun o => !o.2.isEmpty)
  let m : Mach := { m with dc := m.dc.erase x.k }.setMb x.h { b with offered }
  if st = 1 ∨ st = 2 then ((m.cxlEvent x.h 4 (dcRecord x.h 3 x.ext x.ld false)).raiseA 7 x.h 1 (x.ext * 2 ^ 28)) else m

/-- Offer the entries that one APPLY adds to one logical device, as one set. -/
def dcOffer (m : Mach) (xs : List DcEnt) : Mach :=
  match xs.head? with
  | none => m
  | some { h, ld, .. } =>
    let m : Mach := { m with dc := xs.foldl (fun t x => t.insert x.k 1) m.dc }
    let m := m.setMb h { m.mb h with offered := (m.mb h).offered ++ [(ld, xs.map (·.k))] }
    xs.zipIdx.foldl (fun m x => m.cxlEvent h 4 (dcRecord h 0 x.1.ext ld (decide (x.2 + 1 < xs.length)))) m

/-- Every DC entry at the instant. -/
def dcApply (old new : Image) (m : Mach) : Mach :=
  let was := dcEntries old
  let now := dcEntries new
  let m := (was.filter (fun x => !now.contains x)).foldl dcLeave m
  let added := now.filter (fun x => !was.contains x)
  (List.range 8).foldl (fun m h => (List.range 16).foldl (fun m ld =>
    dcOffer m (added.filter (fun x => x.h == h && x.ld == ld))) m) m

/-! ### What the instant changes (R78, R84, R91, R189, R366, R368) -/

/-- A binding or attribute of a partition changes: its registers, an entry of its run, an extent that its run lists. -/
def partChanged (old new : Image) (p : Nat) : Bool :=
  [oPartCfg p, oPartMap p, oPartLen p].any (fun o => old.reg o != new.reg o) ||
    (new.run p).any (fun k => old.mapEnt k != new.mapEnt k || old.extent (new.mapEnt k) != new.extent (new.mapEnt k))

/-- The heads on which the APPLY raises COMMIT. -/
def commitHeads (old new : Image) : List Nat :=
  let ps := (List.range 64).filter (fun p => (old.pValid p || new.pValid p) && partChanged old new p)
  (List.range 8).filter (fun h => dplOf old h != dplOf new h
    || ps.any (fun p => (old.pBound p && old.pHead p == h) || (new.pBound p && new.pHead p == h)))

/-- Decoders go with a change of DPL; COMMIT is raised. -/
def headsApply (old new : Image) (m : Mach) : Mach :=
  let m := ((List.range 8).filter (fun h => dplOf old h != dplOf new h)).foldl uncommit m
  (commitHeads old new).foldl (fun m h => m.hevEvt h 2) m

/-- Take the numbers of [lo, hi) off a list of runs. -/
def ivCut (l : List Iv) (lo hi : Nat) : List Iv :=
  (l.flatMap (fun p => [(p.1, min (p.1 + p.2) lo - p.1), (max p.1 hi, p.1 + p.2 - max p.1 hi)])).filter (fun p => decide (0 < p.2))

/-- The flat area's change: added units leave the free lists, removed units go to the uncleared list (R91),
and off the lists on a channel that is not LIVE (R336). -/
def flatApply (old new : Image) (m : Mach) : Mach :=
  let a := flatUnits old * 65536
  let b := flatUnits new * 65536
  if a < b then
    let m' := freeMarks new { m with led := { m.led with pool := ivCut m.led.pool a b, uncleared := ivCut m.led.uncleared a b,
                                                         away := ivCut m.led.away a b } }
    if ivLen m'.led.pool = 0 ∧ ivLen m.led.pool ≠ 0 then m'.poolEmpty else m'
  else if b < a then
    let all := m.pop.used.all (fun c => m.scb.chSt.get 0 c == 1)
    let part := fun (live : Bool) => if all then (if live then [(b, a - b)] else []) else ivKeep (fun f => (m.frameCh f == 1) == live) [(b, a - b)]
    freeMarks new { m with led := { m.led with uncleared := m.led.uncleared ++ part true, away := part false ++ m.led.away } }
  else m

/-- Extents whose MIRROR turns on, and off. -/
def mirrorOn (old new : Image) : List Nat := (mirroredExtents new).filter (fun e => !eMirror (old.extent e))

/-- The sync map at the instant (R78, R366). -/
def mapApply (old new : Image) (m : Mach) : Mach :=
  let m := ((mirrorOn old new).flatMap extentUnits).foldl Mach.markUnit m
  let off := mirrorOn new old
  { m with yoke := { m.yoke with map := m.yoke.map.filter (fun u => !off.contains (u / 128)) } }

/-- The mirror state at the instant (R368). -/
def mirrorApply (old new : Image) (paired : Bool) (m : Mach) : Mach :=
  let changed := digest old != digest new || mirrorOn old new != [] || mirrorOn new old != []
  match m.yoke.st with
  | .mirrored | .resyncSrc | .resyncTgt =>
    if !changed then m
    else if !paired then sendStatus new (mirrorTo new m .split 5)
    else if m.yoke.st = .mirrored ∧ mirrorOn old new ≠ [] then
      if m.straps.yokeRole then enterSrc new m
      else
        let ons := mirrorOn old new
        enterTgt new { m with yoke := { m.yoke with map := m.yoke.map.filter (fun u => !ons.contains (u / 128)) } }
    else m
  | .split =>
    if m.yoke.cause ≠ 5 ∨ !changed then m
    else if digest new = m.yoke.peerDigest then sendStatus new (mirrorTo new m .pairing 0)
    else sendStatus new m
  | _ => m

/-- A culture slot at the instant (R189, R240): its load count advances; a culture removed goes at once, one replaced when the new image is
copied, and what names the slot waits until then. -/
def cultApply (new : Image) (m : Mach) (n : Nat) : Mach :=
  let act := cultAct new n
  if act ≠ 1 ∧ act ≠ 2 then m
  else
    let c := m.chn
    let m : Mach := { m with chn := { c with images := if act = 2 then c.images.erase n else c.images, loadCnt := c.loadCnt.set 0 n ((c.loadCnt.get 0 n + 1) % 65536),
                                             copying := if act = 1 then c.copying.filter (· != n) ++ [n] else c.copying.filter (· != n) } }
    if act = 2 ∧ m.led.formatted then m.savePut n [] else m

/-- The live image after APPLY: the staged one, with each culture slot's live address (ch 07 Registers): the image loaded now, 0 for a slot
removed, and otherwise the address of the last. -/
def appliedImage (old stage : Image) : Image :=
  (List.range 64).foldl (fun I n =>
    if cultAct stage n = 1 then I.setReg (oCultLo n) (stage.reg (oCultLo n) &&& 0xFFFFF000#32)
    else if cultAct stage n = 2 then (I.setReg (oCultLo n) 0#32).setReg (oCultHi n) 0#32
    else (I.setReg (oCultLo n) (old.reg (oCultLo n))).setReg (oCultHi n) (old.reg (oCultHi n))) stage

/-- A change of WIN starts a new window, and the one cut short is not judged (R299). The new window uses the live floor of the instant (R308). -/
def windowApply (old new : Image) (m : Mach) : Mach := if winOf old = winOf new then m else windowBegin new m

/-- A strainer table that this APPLY sets up starts empty: software has zeroed it (R423), so no entry is in use, and its allocation pointer starts
at 0 (DESIGN CHOICE, log entry 105). One whose EN is cleared keeps its contents. -/
def strainApply (old new : Image) (m : Mach) : Mach :=
  let fresh := (List.range 256).filter (fun t => (stnTab new t).isSome && stnTab old t != stnTab new t)
  fresh.foldl (fun m t => { m with strn := { used := m.strn.used.erase t, ptr := m.strn.ptr.erase t, kept := m.strn.kept.filter (·.1 != t) } }) m

/-- A change of a partition's VALID, BOUND, HEAD or LD clears its counters (R519). -/
def countersApply (old new : Image) (m : Mach) : Mach :=
  let place := fun (L : Image) (p : Nat) => (L.pValid p, (L.reg (oPartCfg p)).getLsbD 1, L.pHead p, L.pLd p)
  { m with pmu := { m.pmu with part := m.pmu.part.filter (fun x => place old (x.1 / 512) == place new (x.1 / 512)) } }

/-- The machinery at the instant. -/
def machApply (old stage new : Image) (paired : Bool) (m : Mach) : Mach :=
  let m := headsApply old new (dcApply old new m)
  let m := (List.range 8).foldl (fun m h => m.setHead h ((m.head h).age old new)) m
  let m := strainApply old new (freeMarks new (flatApply old new m))
  let m := (List.range 64).foldl (cultApply stage) m
  let m := ringsApply old new m
  let m := mirrorApply old new paired (mapApply old new m)
  windowApply old new (floorUpdate new { countersApply old new m with tally := { m.tally with direct := [] } })

/-- The instant (R97 steps 4-6): live := stage, the epoch advances. While a culture image is being copied CODE waits (R142). -/
def instant (s : State) (paired : Bool) : State :=
  let new := appliedImage s.live s.stage
  let m := machApply s.live s.stage new paired s.m
  let code := if paired then 0x32#8 else 2#8
  let c := s.commit
  settle { s with live := new, stage := new, epoch := s.epoch + 1, m,
                  commit := if m.chn.copying.isEmpty then c.applied code else { c with op := .copy code, checked := false, pairedPass := false } }

/-! ### APPLY and DISCARD (R93, R94, R96, R97, R375) -/

/-- The key of APPLY. -/
abbrev applyKey : BitVec 24 := 0xC07717#24

/-- Judge an APPLY: BAD_KEY before NOT_CHECKED. -/
def applyJudge (s : State) (key : BitVec 24) (pass : Bool) (go : State → State) : State :=
  if key ≠ applyKey then { s with commit := { s.commit with code := 3#8 } }
  else if !pass then { s with commit := { s.commit with code := 4#8 } }
  else go s

/-- An APPLY is accepted: BUSY, no staged write lost since it, and the records of merged extents go straight to media (R94, R95, R98). -/
def applyBegin (s : State) (op : StageOp) : State :=
  { s with commit := { s.commit with op, lost := false }, m := { s.m with tally := { s.m.tally with direct := directExts s.live s.stage } } }

/-- An unpaired APPLY starts: BUSY, then the merge. -/
def applyGo (s : State) : State :=
  let s := applyBegin s .apply
  settle { s with m := (applyMerge s.live s.stage s.m).2 }

/-- A paired APPLY: the link must be up, which is judged after the KEY and CHECKED (DESIGN CHOICE, log entry 84); armed once the merge is
done. -/
def pairedGo (s : State) : State :=
  if !s.m.yoke.up then { s with commit := { s.commit with code := 0x30#8 } } else pairArm (applyBegin s .arming)

/-- APPLY_INSTANT: once no entry of step 2 waits. -/
def applyInstant (s : State) : State :=
  let s := pairArm s
  if s.commit.op ≠ .apply then s
  else match applyMerge s.live s.stage s.m with
    | (false, m) => settle { s with m }
    | (true, m) =>
      let s := settle { s with m }
      if s.commit.op = .apply then instant s false else s

/-- PAIRED_FRAME_F: a part that has exchanged GO and GO_ACK applies; any other armed part does not (R375, R376). -/
def pairedFrame (s : State) : State :=
  if s.commit.op ≠ .armed then s
  else if !s.m.yoke.goAcked then pairAbort s
  else
    let s := settle { s with m := (applyMerge s.live s.stage s.m).2 }
    if s.commit.op ≠ .armed then s
    else
      let y := s.m.yoke
      instant { s with m := { s.m with yoke := { y with pairSeq := (y.pairSeq + 1) % 2 ^ 32, doubt := false, phase := 3, goAcked := false, peerArm := none } } } true

/-- DISCARD (R92, R96). -/
def discard (s : State) : State :=
  { s with stage := s.live, commit := { s.commit with checked := false, pairedPass := false, code := 0#8, lost := false } }

/-- CULTURE_COPY_DONE: the image is copied into the store and its save slot written; with the last one the APPLY ends (R142, R240). An image
that is no longer good changes neither (R187). -/
def cultureCopied (s : State) (n : Nat) : State :=
  if !s.m.chn.copying.contains n then s
  else match runWork s.live whoCopy (fun m => readImage m (imageAgent whoCopy) 0 (cultAddr s.live n)) askRounds s.m with
    | (none, m) => settle { s with m }
    | (some b, m) =>
      let m : Mach := { m with chn := { m.chn with copying := m.chn.copying.filter (· != n) } }
      let m := match b.filter Yelrin.imgOk with
        | none => m
        | some img =>
          let m : Mach := { m with chn := { m.chn with images := m.chn.images.insert n img } }
          if m.led.formatted then m.savePut n (saveBytes img (m.chn.loadCnt.get 0 n)) else m
      let s := settle { s with m }
      match s.commit.op with
      | .copy code => if s.m.chn.copying.isEmpty then { s with commit := s.commit.applied code } else s
      | _ => s

/-! ### Meanings -/

/-- APPLY. -/
def execApply (key : BitVec 24) (s : State) : Host.Outcome State Fault Refusal :=
  .next (stageCtl s (fun s => applyJudge s key s.commit.checked applyGo))

/-- PAIRED_APPLY. -/
def execPairedApply (key : BitVec 24) (s : State) : Host.Outcome State Fault Refusal :=
  .next (stageCtl s (fun s => applyJudge s key (s.commit.checked && s.commit.pairedPass) pairedGo))

/-- APPLY_INSTANT. -/
def execApplyInstant (s : State) : Host.Outcome State Fault Refusal := if s.latch then .next s else .next (applyInstant s)

/-- PAIRED_FRAME_F. -/
def execPairedFrameF (s : State) : Host.Outcome State Fault Refusal := if s.latch then .next s else .next (pairedFrame s)

/-- DISCARD. -/
def execDiscard (s : State) : Host.Outcome State Fault Refusal := .next (stageCtl s discard)

/-- CULTURE_COPY_DONE. -/
def execCultureCopyDone (slot : Fin 64) (s : State) : Host.Outcome State Fault Refusal :=
  if s.latch then .next s else .next (cultureCopied s slot)

end Sys2Proof.Machine
end

