-- ==== Sys2Proof/Machine/Keys.lean ====
section
/-! DEFINITION. Key requests (R247-R253). -/

namespace Sys2Proof.Machine

/-- An extent of an image names the slot with KEYED = 1 (R248). -/
def Image.binds (I : Image) (slot : Nat) : Bool := I.exts.any (fun p => eKeyed p.2 && eSlot p.2 == slot)

/-- BOUND of a slot. -/
def State.slotBound (s : State) (slot : Nat) : Bool := s.live.binds slot || s.stage.binds slot

/-- Words of a wrapped key. -/
abbrev keyWords : Nat := 22

/-- The wrapped blob that CRY_KREQ_DATA holds. -/
def Cry.blob (c : Cry) : List Byte := (List.range keyWords).flatMap (fun i => bytesOf (c.data.get 0#32 i) 4)

/-- The header of the unwrapped plaintext is right for the request (R251, R253). -/
def keyHeader (p : List Byte) (slot owner : Nat) : Bool :=
  p.length == 80 && p.take 4 == [0x4B#8, 0x53#8, 1#8, 0#8] && natOfBytes ((p.drop 4).take 2) == slot && natOfBytes ((p.drop 6).take 1) == owner
    && p.getD 7 0#8 == 0#8 && (p.drop 12).take 4 == [0#8, 0#8, 0#8, 0#8]

/-- The Keeper runs. -/
def Mach.keeperOn (m : Mach) : Bool := m.wld.keeper == .up && !m.wld.mgmtStopped

/-- The slot is LOADED for another owner: it changes owner only through CLEAR (R248), and a LOAD is refused as R248 refuses it (DEDUCED, log
entry 85). -/
def Cry.otherOwner (c : Cry) (slot owner : Nat) : Bool := (c.slots.find? slot).any (fun k => k.owner != owner)

/-- Judge a LOAD in the order of R253: a result other than DONE, or the slot's new content. -/
def loadJudge (s : State) (slot owner : Nat) : Nat ⊕ KeySlot :=
  if !s.m.keeperOn then .inl 7
  else match s.m.cry.kek with
    | none => .inl 6
    | some kek => match Codec.unwrap kek s.m.cry.blob with
      | none => .inl 2
      | some p =>
        let key1 : BitVec 256 := ofBytes 256 ((p.drop 16).take 32)
        let key2 : BitVec 256 := ofBytes 256 ((p.drop 48).take 32)
        if !keyHeader p slot owner then .inl 3
        else if key1 = key2 then .inl 5
        else if s.slotBound slot || s.m.cry.otherOwner slot owner then .inl 4
        else .inr { key1, key2, owner, kid := ofBytes 32 ((p.drop 8).take 4) }

/-- Judge a CLEAR. -/
def clearJudge (s : State) (slot : Nat) : Nat := if !s.m.keeperOn then 7 else if s.slotBound slot then 4 else 1

/-- A key request ends with a result and the slots it leaves. -/
def keyEnd (m : Mach) (result : Nat) (slots : Tbl KeySlot) : Mach :=
  let m : Mach := { m with cry := { m.cry with busy := none, result, data := [], slots } }
  let m := m.evb oCryEvt 0
  if result = 1 then m else m.evb oCryEvt 1

/-- A key request starts: GO with OP LOAD (1) or CLEAR (2). Ignored while BUSY = 1 and under the latch (R252, R465). -/
def keyStart (s : State) (op slot owner : Nat) : State :=
  if s.latch || s.m.cry.busy.isSome then s else { s with m := { s.m with cry := { s.m.cry with busy := some (op, slot, owner) } } }

/-- The Keeper ends the request. -/
def keyDone (s : State) : State :=
  match s.m.cry.busy with
  | none => s
  | some (op, slot, owner) =>
    let slots := s.m.cry.slots
    if op = 1 then
      match loadJudge s slot owner with
      | .inl r => { s with m := keyEnd s.m r slots }
      | .inr k => { s with m := keyEnd s.m 1 (slots.insert slot k) }
    else
      let r := clearJudge s slot
      { s with m := keyEnd s.m r (if r = 1 then slots.erase slot else slots) }

/-- KEY_LOAD. -/
def execKeyLoad (slot : Fin 1024) (owner : Fin 64) (s : State) : Host.Outcome State Fault Refusal := .next (keyStart s 1 slot owner)

/-- KEY_CLEAR. -/
def execKeyClear (slot : Fin 1024) (s : State) : Host.Outcome State Fault Refusal := .next (keyStart s 2 slot 0)

/-- KEY_REQUEST_DONE. -/
def execKeyRequestDone (s : State) : Host.Outcome State Fault Refusal := .next (keyDone s)

end Sys2Proof.Machine
end

