-- ==== Sys2Proof/Machine/Faults.lean ====
section
/-! DEFINITION. The fault collector's commands (R458-R472): detections, the spill ring, clears, injections. -/

namespace Sys2Proof.Machine

/-! ### The spill ring (R460) -/

/-- Entries of the spill ring. -/
def Mach.spillSize (m : Mach) : Nat := 2 ^ m.rfld oSpillCfg 5 1

/-- Base of the spill ring in control-CPU memory. -/
def Mach.spillBase (m : Mach) : Nat := (m.reg oSpillHi).toNat * 2 ^ 32 + (m.reg oSpillLo).toNat

/-- The ring is full: PROD + 1 = CONS modulo its size. -/
def Mach.spillFull (m : Mach) : Bool := (m.flt.prod + 1) % m.spillSize == m.rfld oSpillCons 15 0 % m.spillSize

/-- The record in an entry of the log is the one that was to be spilled: mark it. -/
def Mach.markSpilled (m : Mach) (k : Nat) (r : FRec) : Mach :=
  match m.flt.log.find? k with
  | some x => if x.seq = r.seq ∧ x.src = r.src then { m with flt := { m.flt with log := m.flt.log.insert k { x with spilled := true } } } else m
  | none => m

/-- FAULT_SPILL: the Steward takes the next new record. -/
def spillNext (m : Mach) : Mach :=
  match m.flt.toSpill with
  | [] => m
  | (k, r) :: rest =>
    let m : Mach := { m with flt := { m.flt with toSpill := rest } }
    if !m.rbit oSpillCfg 0 then m
    else if m.spillFull || !m.mgmt.up || !m.stewardOn then (m.bump oCntSpillLost).evb oFltEvt 5
    else
      let m := m.setHost mgmtFn (Memory.putAll hostBg (m.host mgmtFn) (m.spillBase + 32 * (m.flt.prod % m.spillSize)) r.bytes)
      let m : Mach := { m with flt := { m.flt with prod := (m.flt.prod + 1) % m.spillSize } }
      m.markSpilled k r

/-- A write of the spill registers: 0 CFG, 1 LO, 2 HI. LOG2SIZE and the base keep their values while EN = 1, and LOG2SIZE outside 6-16 is
ignored; PROD is 0 when EN goes to 1. -/
def spillWrite (m : Mach) (i : Nat) (v : Word) : Mach :=
  let was := m.rbit oSpillCfg 0
  if i = 0 then
    let n := fld v 5 1
    let n := if was ∨ n < 6 ∨ 16 < n then m.rfld oSpillCfg 5 1 else n
    let m := m.setReg oSpillCfg (put (fld v 0 0) 0 ||| put n 1)
    if v.getLsbD 0 && !was then { m with flt := { m.flt with prod := 0 } } else m
  else if was then m
  else if i = 1 then m.setReg oSpillLo (v &&& 0xFFFFF000#32)
  else m.setReg oSpillHi v

/-! ### Clears (R463) -/

/-- A write of FLT_CLR. -/
def fltClear (m : Mach) (v : Word) : Mach :=
  let k := fld v 8 0
  match m.flt.log.find? k with
  | none => m
  | some r =>
    if r.cls ≠ 1 ∨ r.cleared then m
    else if r.count = fld v 31 16 then { m with flt := { m.flt with log := m.flt.log.insert k { r with cleared := true } } }
    else m.evb oFltEvt 6

/-! ### Injection (R469-R472) -/

/-- A write of 1 to one force bit. -/
def forceBit (lc : Nat) (m : Mach) (src : Nat) : Mach :=
  match srcClass src with
  | none => m
  | some cls =>
    if cls = 0 ∧ lc ≠ 1 then m.evb oFltEvt 7
    else if m.flt.pend.any (fun p => p.1 == src) then m
    else
      let m := m.setReg (oForce (src / 32)) (m.reg (oForce (src / 32)) ||| put 1 (src % 32))
      { m with flt := { m.flt with pend := m.flt.pend ++ [(src, m.reg oInjSyn, m.rfld oInjUnit 15 0)] } }

/-- A write of FLT_FORCEn. -/
def forceWrite (lc : Nat) (m : Mach) (n : Nat) (v : Word) : Mach :=
  ((List.range 32).filter v.getLsbD).foldl (fun m b => forceBit lc m (32 * n + b)) m

/-- The occurrence of an injection, merged with a real one of its source in the same cycle (R471). -/
def injected (src : Nat) (syn : Word) (unit : Nat) (real : Option Occ) : Occ :=
  match real with
  | some o => if o.src = src then { o with syn := o.syn ||| syn } else { src, unit, detail := 0, addr := 0, addrk := 0, syn }
  | none => { src, unit, detail := 0, addr := 0, addrk := 0, syn }

/-- FORCE_PRESENT: a pending injection is presented. -/
def forcePresent (s : State) (src : Nat) (real : Option Occ) : State :=
  match s.m.flt.pend.find? (fun p => p.1 == src) with
  | none => s
  | some (_, syn, unit) =>
    let m := s.m.setReg (oForce (src / 32)) (s.m.reg (oForce (src / 32)) &&& ~~~ put 1 (src % 32))
    let m : Mach := { m with flt := { m.flt with pend := m.flt.pend.filter (fun p => p.1 != src) } }
    let o := injected src syn unit real
    ({ s with m } : State).take o true (o.syn != syn)

/-! ### Meanings -/

/-- FAULT_OCCURRENCE: a detection of class B, C or D. -/
def execFaultOccurrence (o : Occ) (s : State) : Host.Outcome State Fault Refusal :=
  if srcClass o.src = some 0 then .next s else s.op (fun m => m.raiseOcc o)

/-- CLASS_A_DETECT. -/
def execClassADetect (o : Occ) (s : State) : Host.Outcome State Fault Refusal :=
  if srcClass o.src = some 0 then s.op (fun m => m.raiseOcc o) else .next s

/-- FAULT_SPILL. -/
def execFaultSpill (s : State) : Host.Outcome State Fault Refusal := s.op spillNext

/-- FLT_CLR. -/
def execFltClr (v : Word) (s : State) : Host.Outcome State Fault Refusal := s.op (fun m => fltClear m v)

/-- FLT_FORCE_WRITE. -/
def execFltForceWrite (n : Fin 8) (v : Word) (s : State) : Host.Outcome State Fault Refusal := s.op (fun m => forceWrite s.lcCur m n v)

/-- FORCE_PRESENT. -/
def execForcePresent (src : Fin 256) (real : Option Occ) (s : State) : Host.Outcome State Fault Refusal := .next (settle (forcePresent s src real))

/-- FLT_SPILL_CFG_WRITE. -/
def execFltSpillCfgWrite (i : Fin 3) (v : Word) (s : State) : Host.Outcome State Fault Refusal := s.op (fun m => spillWrite m i v)

end Sys2Proof.Machine
end

