-- ==== Sys2Proof/Machine/Worlds.lean ====
section
/-! DEFINITION. The management complex and the two worlds (R431-R453): the internal bus, the ownership table, hand-overs, the worlds'
stops and restarts, tokens, SPDM and IDE keys. -/

namespace Sys2Proof.Machine

/-! ### The ownership table (R435-R440) -/

/-- An entry of the ownership table. -/
def Mach.own (m : Mach) (n : Nat) : Own := (m.wld.own.find? n).getD (ownDefault n)

/-- Set an entry; the reserved entries never change. -/
def Mach.setOwn (m : Mach) (n : Nat) (o : Own) : Mach := if n < 18 then { m with wld := { m.wld with own := m.wld.own.insert n o } } else m

/-- Error responses of the internal bus. -/
abbrev busOk := 0
abbrev busDenied := 1
abbrev busOffline := 2
abbrev busHandover := 3
abbrev busGateDenied := 4

/-- WLD_DENY_LOG. -/
def denyWord (entry : Nat) (s gate : Bool) (addr : BitVec 24) : Word := put entry 0 ||| putB s 5 ||| putB gate 6 ||| put addr.toNat 8

/-- A core may be in secure state: from R441's withdrawal until the Keeper is back none is. -/
def WorldSt.secureEntry (w : WorldSt) : Bool := w != .down && w != .failed

/-- The S attribute that an issuer gives an access for which it asks for S: only a core in secure state issues S = 1 (R431). -/
def busAttr (m : Mach) : BusIssuer → Bool → Bool
  | .core _ secure, s => s && secure && m.wld.keeper.secureEntry
  | .dma, _ | .peripheral, _ => false

/-- What an SRAM share nothing has written reads as: zeros (log entry 107). -/
def sramBg : Byte := 0#8

/-- The size of a world's SRAM share (R33). -/
def sramSize (keeper : Bool) : Nat := if keeper then 3 * 2 ^ 19 else 5 * 2 ^ 19

/-- Where byte `a` of a share stands in `Worlds.sram`; an address past the share's end meets it again from its start (DESIGN CHOICE, log entry
107). -/
def sramKey (keeper : Bool) (a : Nat) : Nat := 2 * (a % sramSize keeper) + (!keeper).toNat

/-- A 32-bit word of a share, its bytes lowest first. -/
def Worlds.sramWord (w : Worlds) (keeper : Bool) (a : Nat) : Word :=
  ofBytes 32 ((List.range 4).map (fun i => Memory.byte sramBg w.sram (sramKey keeper (a + i))))

/-- A word written to a share. -/
def Worlds.sramPut (w : Worlds) (keeper : Bool) (a : Nat) (v : Word) : Worlds :=
  { w with sram := (bytesOf v 4).zipIdx.foldl (fun c p => Memory.put sramBg c (sramKey keeper (a + p.2)) p.1) w.sram }

/-- A share cleared. -/
def Worlds.sramClear (w : Worlds) (keeper : Bool) : Worlds := { w with sram := w.sram.filter (fun p => p.1 % 2 != (!keeper).toNat) }

/-- Where a device's word stands in `Worlds.dev`. -/
def blockKey (dev : Nat) (addr : BitVec 24) : Nat := 2 ^ 24 * dev + addr.toNat

/-- The targets of `Worlds.dev` behind the blocks of the ownership table. -/
abbrev devSecureWatchdog := 32
abbrev devNormalWatchdog := 33

/-- An access that a world's SRAM share accepts: a write changes it, a read returns its word. -/
def Mach.busSram (m : Mach) (keeper : Bool) (addr : BitVec 24) (wr : Option Word) : Mach :=
  match wr with
  | some v => { m with wld := m.wld.sramPut keeper addr.toNat v }.send (.busRsp busOk 0#32)
  | none => m.send (.busRsp busOk (m.wld.sramWord keeper addr.toNat))

/-- An access that a block or a watchdog accepts: its registers are not described, so that a read's value is free (log entry 107). -/
def Mach.busDev (m : Mach) (dev : Nat) (addr : BitVec 24) (wr : Option Word) : Mach :=
  match wr with
  | some v => { m with wld := { m.wld with dev := m.wld.dev.insert (blockKey dev addr) v } }.send (.busRsp busOk 0#32)
  | none => m.send (.busRsp busOk (Config.devRead dev addr.toNat (m.wld.dev.find? (blockKey dev addr))))

/-- An access answered with an error: a read returns zero, a write has no effect. -/
def Mach.busError (m : Mach) (code : Nat) : Mach := m.send (.busRsp code 0#32)

/-- A denied transaction (R432). -/
def Mach.busDeny (m : Mach) (entry : Nat) (s : Bool) (addr : BitVec 24) : Mach :=
  let m : Mach := { m with wld := { m.wld with denyLog := denyWord entry s false addr } }
  ((m.evb oWldEvt 3).raiseA 168 entry 6 addr.toNat).busError busDenied

/-- An access whose attribute is `s` to a target (R432, R433, R438, R440): `wr` is the word that it writes, none for a read. -/
def busAt (m : Mach) (t : BusTarget) (s : Bool) (addr : BitVec 24) (wr : Option Word) : Mach :=
  match t with
  | .keeperSram => if s then m.busSram true addr wr else m.busDeny 31 s addr
  | .stewardSram => if s then m.busDeny 31 s addr else m.busSram false addr wr
  | .secureWatchdog => if s then m.busDev devSecureWatchdog addr wr else m.busDeny 31 s addr
  | .normalWatchdog => if s then m.busDeny 31 s addr else m.busDev devNormalWatchdog addr wr
  | .entry n =>
    let o := m.own n
    if o.st = 2 then m.busError busHandover
    else if s ≠ o.keeper then m.busDeny n s addr
    else if o.gated then (m.evb oWldEvt 5).busError busOffline
    else m.busDev n addr wr

/-- An access shows in which state its core is; no core enters secure state while the Keeper is DOWN or FAILED (R431, R441, R446). The monitor calls
by which a core changes its state are not commands: its state is taken from its accesses (DESIGN CHOICE, log entry 110). -/
def Mach.noted (m : Mach) : BusIssuer → Mach
  | .core n secure => m.setCore n (secure && m.wld.keeper.secureEntry)
  | .dma | .peripheral => m

/-- INTERNAL_BUS_ACCESS: `s` is the attribute asked for, `by'` the issuer. -/
def busAccess (m : Mach) (t : BusTarget) (s : Bool) (addr : BitVec 24) (by' : BusIssuer) (wr : Option Word) : Mach :=
  if m.wld.mgmtStopped then m else busAt (m.noted by') t (busAttr m by' s) addr wr

/-- A world runs. -/
def Mach.worldOn (m : Mach) (keeper : Bool) : Bool := if keeper then m.keeperOn else m.stewardOn

/-- What a hand-over reset clears of a block (R437): its registers, the staging registers of the key-load port and of the IDE key port. A key
request in flight is aborted, with RESULT KEEPER_DOWN (DESIGN CHOICE, log entry 106). -/
def Mach.blockReset (m : Mach) (n : Nat) : Mach :=
  let m : Mach := { m with wld := { m.wld with dev := m.wld.dev.filter (fun p => p.1 / 2 ^ 24 != n) } }
  if n = 0 then (if m.cry.busy.isSome then keyEnd m 7 m.cry.slots else { m with cry := { m.cry with data := [] } })
  else if n = 1 then
    (List.range 8).foldl (fun m h =>
      let x := m.head h
      let keys := x.keys.filter (fun k => x.keyGo.any (fun g => g.val == k.1))
      m.setHead h { x with keys, keysNew := x.keysNew && keys.length == x.keys.length }) m
  else m

/-- The hand-over reset begins: the block is ungated. -/
def Mach.ownReset (m : Mach) (n : Nat) : Mach := (m.setOwn n { m.own n with st := 2, gated := false }).blockReset n

/-- BLOCK_RELEASE: the owner releases a block to the other world. -/
def ownRelease (m : Mach) (n : Nat) : Mach :=
  let o := m.own n
  if o.st = 0 ∧ m.worldOn o.keeper then m.setOwn n { o with st := 1, target := !o.keeper, claim := false, cyc := m.mgmtCycle } else m

/-- The Keeper claims the flash controller from the Steward, at once when the Steward is down (R444). -/
def Mach.flashClaim (m : Mach) : Mach :=
  let o := m.own 5
  if o.st ≠ 0 ∨ o.keeper then m
  else
    let m := m.setOwn 5 { o with st := 1, target := true, claim := true }
    if m.wld.steward = .up then m.send (.worldIrq false 5) else m.ownReset 5

/-- KEEPER_CLAIM: the Steward is interrupted; the flash controller of a Steward that is down needs no quiesce (R444). A claim in the MGMT cycle in
which the Steward releases the block is taken in place of the release (R438). -/
def ownClaim (m : Mach) (n : Nat) : Mach :=
  let o := m.own n
  if o.st = 1 ∧ !o.keeper ∧ !o.claim ∧ o.cyc = m.mgmtCycle ∧ m.keeperOn then (m.setOwn n { o with claim := true }).send (.worldIrq false n)
  else if o.st ≠ 0 ∨ o.keeper ∨ 18 ≤ n ∨ !m.keeperOn then m
  else if n = 5 then m.flashClaim
  else (m.setOwn n { o with st := 1, target := true, claim := true }).send (.worldIrq false n)

/-- STEWARD_ASK: the Keeper is interrupted, and may release the block. -/
def ownAsk (m : Mach) (n : Nat) (grant : Bool) : Mach :=
  let o := m.own n
  if o.st ≠ 0 ∨ !o.keeper ∨ !m.stewardOn then m
  else
    let m := m.send (.worldIrq true n)
    if grant then ownRelease m n else m

/-- QUIESCE_REPORT of the owner. -/
def ownQuiesced (m : Mach) (n : Nat) : Mach :=
  let o := m.own n
  if o.st = 1 ∧ m.worldOn o.keeper then m.ownReset n else m

/-- QUIESCE_TIMER_EXPIRE: of a Keeper claim. -/
def ownTimer (m : Mach) (n : Nat) : Mach :=
  let o := m.own n
  if o.st = 1 ∧ o.claim then m.ownReset n else m

/-- HANDOVER_RESET_DONE. -/
def ownDone (m : Mach) (n : Nat) : Mach :=
  let o := m.own n
  if o.st ≠ 2 then m else ((m.setOwn n { keeper := o.target }).evb oWldEvt 6).raise 170 n

/-- GATE_REQUEST (R439): from the secure world only while it can run (R431, R441). -/
def ownGate (m : Mach) (n : Nat) (sec gate : Bool) (addr : BitVec 24) : Mach :=
  if m.wld.mgmtStopped then m
  else
    let o := m.own n
    let s := sec && m.wld.keeper.secureEntry
    if s = o.keeper ∧ o.st = 0 then (m.setOwn n { o with gated := gate }).send (.busRsp busOk 0#32)
    else
      let m : Mach := { m with wld := { m.wld with denyLog := denyWord n s true addr } }
      ((m.evb oWldEvt 4).raiseA 169 n 6 addr.toNat).busError busGateDenied

/-- The flash controller passes to a world by hand-over, with its reset (R437, R444). -/
def Mach.flashTo (m : Mach) (keeper : Bool) : Mach := (((m.blockReset 5).setOwn 5 { keeper }).evb oWldEvt 6).raise 170 5

/-- The Keeper holds the flash controller, uses it, and releases it back by hand-over (R444). -/
def Mach.flashUse (m : Mach) : Mach :=
  (if (m.own 5).keeper ∧ (m.own 5).st = 0 then m else m.flashTo true).flashTo false

/-! ### When a world stops (R441-R445) -/

/-- A core in secure state resumes the Steward at its monitor call, which returns KEEPER_DOWN (R441). -/
def Mach.withdrawCore (m : Mach) (c : Nat) : Mach := if (m.coreSt c).secure then (m.setCore c false).send (.monitorRet c 7) else m

/-- SECURE_WATCHDOG_EXPIRE: every core leaves secure state (R441). -/
def keeperFails (m : Mach) : Mach :=
  if m.wld.keeper ≠ .up then m
  else
    let m := (List.range 4).foldl Mach.withdrawCore m
    (({ m with wld := { m.wld with keeper := .down, sessions := [] } }).evb oWldEvt 0).raise 171 0

/-- Background commands in progress end with the Steward; a transfer under way leaves no package. -/
def Mbox.abandon (b : Mbox) : Mbox := { b with scan := none, fwXfer := false, fwAct := false, fwReady := if b.fwXfer then none else b.fwReady }

/-- NORMAL_WATCHDOG_EXPIRE: mailbox commands in progress are not answered. -/
def stewardFails (m : Mach) : Mach :=
  if m.wld.steward ≠ .up then m
  else
    let m := (List.range 8).foldl (fun m h => m.setMb h (m.mb h).abandon) m
    (({ m with wld := { m.wld with steward := .down } }).evb oWldEvt 2).raise 174 0

/-- The key of WLD_WORLD_CTL. -/
abbrev worldKey : BitVec 24 := 0x4B9E57#24

/-- Hand-over resets of every block a world owns, with no quiesce and no change of owner; a hand-over that is in its reset or that the Keeper has
claimed goes on (R436). -/
def Mach.resetOwned (m : Mach) (keeper : Bool) : Mach :=
  ((List.range 18).filter (fun n => let o := m.own n; o.keeper == keeper && o.st != 2 && !(o.st == 1 && o.claim))).foldl (fun m n => (m.setOwn n { keeper }).blockReset n) m

/-- RESTART_KEEPER: the blocks of the Keeper are reset, its SRAM share is cleared, and the flash controller is claimed (R443). -/
def keeperRestart (m : Mach) (key : BitVec 24) : Mach :=
  if key = worldKey ∧ (m.wld.keeper = .down ∨ m.wld.keeper = .failed) ∧ !m.wld.mgmtStopped then
    ({ m with wld := { m.wld.sramClear true with keeper := .restarting } }.resetOwned true).flashClaim
  else m

/-- KEEPER_RESTART_DONE: the flash controller has been used and is the Steward's again. In SCRAPPED the Keeper no longer starts. -/
def keeperBack (lc : Nat) (m : Mach) (ok : Bool) : Mach :=
  if m.wld.keeper ≠ .restarting ∨ m.wld.mgmtStopped then m
  else
    let m := m.flashUse
    if ok ∧ lc ≠ 5 then
      let w := m.wld
      let m : Mach := { m with wld := { w with keeper := .up, kRestarts := min 0xFFFF (w.kRestarts + 1),
                                               meas := w.meas.insert 2 (Config.digest 2 w.version.toNat) },
                               cry := { m.cry with kek := m.cry.sealedKek } }
      (m.evb oWldEvt 1).raise 172 0
    else ({ m with wld := { m.wld with keeper := .failed } }).raise 173 0

/-- RESTART_STEWARD. -/
def stewardRestart (m : Mach) (key : BitVec 24) : Mach :=
  if key = worldKey ∧ m.wld.steward = .down ∧ !m.wld.mgmtStopped then { m with wld := { m.wld with steward := .restarting } }.resetOwned false else m

/-- STEWARD_RESTART_DONE. -/
def stewardBack (m : Mach) (version : BitVec 24) : Mach :=
  if m.wld.steward ≠ .restarting ∨ m.wld.mgmtStopped then m
  else { m with wld := { m.wld with steward := .up, sRestarts := min 0xFFFF (m.wld.sRestarts + 1), version } }

/-! ### Tokens (R447-R450) -/

/-- The 112 bytes of a token. -/
def Worlds.tokenBytes (w : Worlds) : List Byte := (List.range 28).flatMap (fun i => bytesOf (w.token.get 0#32 i) 4)

/-- Who signed a token. -/
structure Signers where
  hitrum : Bool
  owner : Bool
  deriving DecidableEq, Repr

/-- The signers a token verifies under. -/
def Worlds.signers (w : Worlds) (d : List Byte) : Signers :=
  { hitrum := Config.sigHitrum d, owner := !w.rootRevoked && w.root.any (fun r => Config.sigOwner r d) }

/-- A debug token may be granted in a state to these signers (R448). -/
def debugAllowed (lc : Nat) (en : BitVec 4) (g : Signers) : Bool :=
  let secure := en.getLsbD 0 || en.getLsbD 1
  let normal := en.getLsbD 2 || en.getLsbD 3
  if lc ≤ 1 then true
  else if lc ≤ 3 then (!secure || g.hitrum) && (!normal || g.owner || g.hitrum)
  else if lc = 4 then !secure || g.hitrum
  else false

/-- A life-cycle transition that a token may make (R447). -/
def lcAllowed (cur pend target : Nat) (g : Signers) : Bool :=
  decide (pend < target) &&
    ((cur == 0 && target == 1 && g.hitrum) || (cur == 2 && target == 3 && g.owner) || ((cur == 2 || cur == 3) && target == 4 && g.hitrum)
      || (decide (cur ≤ 4) && target == 5 && (g.hitrum || g.owner)))

/-- A token's format: its magic, version, reserved bits; a halt bit needs its trace bit (R448, R450). True for a debug token. -/
def tokenFormat (d : List Byte) : Option Bool :=
  let x := (d.getD 3 0#8).toNat
  if d.getD 2 0#8 ≠ 1#8 then none
  else if d.take 2 = [0x44#8, 0x54#8] then
    if 16 ≤ x ∨ (x % 2 = 1 ∧ x / 2 % 2 = 0) ∨ (x / 4 % 2 = 1 ∧ x / 8 % 2 = 0) then none else some true
  else if d.take 2 = [0x4C#8, 0x43#8] then (if x = 0 ∨ 5 < x then none else some false)
  else none

/-- The RESULT of a token, in the order of R450's codes after KEEPER_DOWN; with 1 the kind and the value that take effect. -/
def tokenJudge (s : State) : Nat × Bool × Nat :=
  let d := s.m.wld.tokenBytes
  let x := (d.getD 3 0#8).toNat
  if !s.m.keeperOn then (7, false, 0)
  else match tokenFormat d with
    | none => (2, false, 0)
    | some debug =>
      let g := s.m.wld.signers d
      if (d.drop 4).take 8 ≠ bytesOf s.m.selfId 8 then (3, false, 0)
      else if (d.drop 12).take 4 ≠ bytesOf s.m.wld.nonce 4 then (4, false, 0)
      else if !g.hitrum && !g.owner then (5, false, 0)
      else if debug then (if debugAllowed s.lcCur (BitVec.ofNat 4 x) g then (1, true, x) else (6, false, 0))
      else if lcAllowed s.lcCur s.lcPend x g then (1, false, x) else (6, false, 0)

/-- TOKEN_SUBMIT. -/
def tokenStart (m : Mach) : Mach := if m.wld.tokenBusy then m else { m with wld := { m.wld with tokenBusy := true } }

/-- TOKEN_DONE: a new nonce, the data cleared by the Keeper while it runs, and what the token grants. -/
def tokenEnd (s : State) : State :=
  if !s.m.wld.tokenBusy then s
  else
    let (r, debug, x) := tokenJudge s
    let w := s.m.wld
    let m : Mach := { s.m with wld := { w with tokenBusy := false, tokenResult := r, token := if s.m.keeperOn then [] else w.token, nonce := Config.free 32 s.m.fresh,
                                               dbg := if debug then w.dbg ||| BitVec.ofNat 4 x else w.dbg } }
    { s with m := m.tick.evb oWldEvt 7, lcPend := if r = 1 ∧ !debug then x else s.lcPend }

/-- TOKEN_CLEAR: by hardware. -/
def tokenDrop (m : Mach) : Mach := if m.wld.tokenBusy then m else { m with wld := { m.wld with dbg := 0#4 } }

/-! ### SPDM and IDE keys (R41, R442, R451-R453) -/

/-- The measurements by index 1-5; index 4 is the life-cycle code and the byte of granted enables (R452). -/
def measurements (s : State) : List (BitVec 384) :=
  (List.range 5).map (fun i =>
    if i = 3 then BitVec.ofNat 384 (s.lcCur + 256 * (debugEnables s.lcCur s.m.wld).toNat) else s.m.wld.meas.get 0#384 (i + 1))

/-- SPDM ERROR with ErrorCode Busy (DSP0274; PRESUMED). -/
def spdmBusy : List Byte := [0x12#8, 0x7F#8, 0x03#8, 0x00#8]

/-- SPDM ERROR with ErrorCode SessionLimitExceeded (DSP0274; PRESUMED). -/
def spdmLimit : List Byte := [0x12#8, 0x7F#8, 0x0A#8, 0x00#8]

/-- A head's function can carry DOE. -/
def Mach.doeOn (m : Mach) (h : Nat) : Bool := (m.head h).st.linked && !m.wld.mgmtStopped

/-- SPDM_REQUEST: at most 16 secured sessions in all, four on a head (R451). -/
def spdmTake (s : State) (h : Nat) (req : SpdmReq) : Mach :=
  let m := s.m
  if !m.doeOn h then m
  else if !m.keeperOn then m.send (.spdm h spdmBusy)
  else
    let w := m.wld
    let rest := fun (n : Nat) => w.sessions.filter (fun x => !(x.1 == h && x.2.1 == n))
    match req with
    | .openSession n mutualOwner =>
      let both := mutualOwner && !w.rootRevoked && w.root.isSome
      if 16 ≤ (rest n).length then m.send (.spdm h spdmLimit)
      else { m with wld := { w with sessions := rest n ++ [(h, n.val, both)] } }.send (.spdm h (Config.spdmAnswer h (measurements s) []))
    | .endSession n => { m with wld := { w with sessions := rest n } }.send (.spdm h (Config.spdmAnswer h (measurements s) []))
    | .other bytes => m.send (.spdm h (Config.spdmAnswer h (measurements s) bytes))

/-- A secured session of a head, and whether it has the mutual authentication of R453. -/
def Mach.session (m : Mach) (h n : Nat) : Option Bool := (m.wld.sessions.find? (fun x => x.1 == h && x.2.1 == n)).map (·.2.2)

/-- KEK_INSTALL. -/
def kekTake (m : Mach) (h n : Nat) (kek : BitVec 256) : Mach :=
  if m.doeOn h && m.keeperOn && m.session h n == some true then
    { m with cry := { m.cry with kek := some kek, sealedKek := some kek } }.flashUse
  else m

/-- PROVISIONING_REQUEST: TEST to PROVISIONED. -/
def provision (s : State) (h n : Nat) (root : BitVec 384) : State :=
  if s.m.doeOn h && s.m.keeperOn && (s.m.session h n).isSome && s.lcCur == 1 && decide (s.lcPend < 2) then
    { s with lcPend := 2, m := { s.m with wld := { s.m.wld with rootNext := some root } } }
  else s

/-- The head's IDE_KM service answers. -/
def Mach.ideKmOn (m : Mach) (h : Nat) : Bool := m.doeOn h && m.keeperOn

/-- QUERY: answered with the stream's state (code 0). -/
def ideQuery (m : Mach) (h : Nat) : Mach := if m.ideKmOn h then m.send (.ideKm h 0) else m

/-- KEY_PROG: a key into a set's staging (code 1); the head's SKID takes effect with it (PTA_Hn_CTL). -/
def ideProg (m : Mach) (h set : Nat) (key : BitVec 256) : Mach :=
  if m.ideKmOn h then
    let x := m.head h
    (m.setHead h { x with keys := x.keys.filter (fun k => k.1 != set) ++ [(set, key)], keysNew := true, skid := m.rbit (oHeadCtl h) 2 }).send (.ideKm h 1)
  else m

/-- K_SET_GO: a programmed set is taken into use (code 2), and the stream is secured with it, but for that of an INSECURE head, which is re-enabled
first (R55). -/
def ideGo (m : Mach) (h : Nat) (set : Fin 2) : Mach :=
  let x := m.head h
  if m.ideKmOn h && x.keys.any (fun k => k.1 == set.val) then (m.setHead h { x with keyGo := some set, ideOn := x.ideOn || x.st != .insecure }).send (.ideKm h 2) else m

/-- K_SET_STOP: a set goes out of use (code 3); without a set in use the stream is not secured. -/
def ideStop (m : Mach) (h : Nat) (set : Fin 2) : Mach :=
  let x := m.head h
  if !m.ideKmOn h then m
  else (m.setHead h (if x.keyGo = some set then { x with keyGo := none, ideOn := false } else x)).send (.ideKm h 3)

/-! ### Meanings -/

/-- INTERNAL_BUS_ACCESS. -/
def execInternalBusAccess (target : BusTarget) (sec : Bool) (addr : BitVec 24) (s : State) (by' : BusIssuer := .core 0 true) (wr : Option Word := none) :
    Host.Outcome State Fault Refusal :=
  s.op (fun m => busAccess m target sec addr by' wr)

/-- BLOCK_RELEASE. -/
def execBlockRelease (n : Fin 32) (s : State) : Host.Outcome State Fault Refusal := s.op (fun m => ownRelease m n)

/-- KEEPER_CLAIM. -/
def execKeeperClaim (n : Fin 32) (s : State) : Host.Outcome State Fault Refusal := s.op (fun m => ownClaim m n)

/-- STEWARD_ASK. -/
def execStewardAsk (n : Fin 32) (grant : Bool) (s : State) : Host.Outcome State Fault Refusal := s.op (fun m => ownAsk m n grant)

/-- QUIESCE_REPORT. -/
def execQuiesceReport (n : Fin 32) (s : State) : Host.Outcome State Fault Refusal := s.op (fun m => ownQuiesced m n)

/-- QUIESCE_TIMER_EXPIRE. -/
def execQuiesceTimerExpire (n : Fin 32) (s : State) : Host.Outcome State Fault Refusal := s.op (fun m => ownTimer m n)

/-- HANDOVER_RESET_DONE. -/
def execHandoverResetDone (n : Fin 32) (s : State) : Host.Outcome State Fault Refusal := s.op (fun m => ownDone m n)

/-- GATE_REQUEST. -/
def execGateRequest (n : Fin 32) (sec gate : Bool) (addr : BitVec 24) (s : State) : Host.Outcome State Fault Refusal :=
  s.op (fun m => ownGate m n sec gate addr)

/-- SECURE_WATCHDOG_EXPIRE. -/
def execSecureWatchdogExpire (s : State) : Host.Outcome State Fault Refusal := s.op keeperFails

/-- NORMAL_WATCHDOG_EXPIRE. -/
def execNormalWatchdogExpire (s : State) : Host.Outcome State Fault Refusal := s.op stewardFails

/-- RESTART_KEEPER. -/
def execRestartKeeper (key : BitVec 24) (s : State) : Host.Outcome State Fault Refusal := s.op (fun m => keeperRestart m key)

/-- KEEPER_RESTART_DONE. -/
def execKeeperRestartDone (ok : Bool) (s : State) : Host.Outcome State Fault Refusal := s.op (fun m => keeperBack s.lcCur m ok)

/-- RESTART_STEWARD. -/
def execRestartSteward (key : BitVec 24) (s : State) : Host.Outcome State Fault Refusal := s.op (fun m => stewardRestart m key)

/-- STEWARD_RESTART_DONE. -/
def execStewardRestartDone (version : BitVec 24) (s : State) : Host.Outcome State Fault Refusal := s.op (fun m => stewardBack m version)

/-- TOKEN_SUBMIT. -/
def execTokenSubmit (s : State) : Host.Outcome State Fault Refusal := s.op tokenStart

/-- TOKEN_DONE. -/
def execTokenDone (s : State) : Host.Outcome State Fault Refusal := .next (tokenEnd s)

/-- TOKEN_CLEAR. -/
def execTokenClear (s : State) : Host.Outcome State Fault Refusal := s.op tokenDrop

/-- SPDM_REQUEST. -/
def execSpdmRequest (h : Fin 8) (req : SpdmReq) (s : State) : Host.Outcome State Fault Refusal := 
  received s h (.spdmRequest h req) fun s => s.op (fun _ => spdmTake s h req)

/-- KEK_INSTALL. -/
def execKekInstall (h : Fin 8) (session : Fin 4) (kek : BitVec 256) (s : State) : Host.Outcome State Fault Refusal :=
  received s h (.kekInstall h session kek) fun s => s.op (fun m => kekTake m h session kek)

/-- PROVISIONING_REQUEST. -/
def execProvisioningRequest (h : Fin 8) (session : Fin 4) (root : BitVec 384) (s : State) : Host.Outcome State Fault Refusal :=
  received s h (.provisioningRequest h session root) fun s => .next (provision s h session root)

/-- QUERY. -/
def execQuery (h : Fin 8) (s : State) : Host.Outcome State Fault Refusal :=
  received s h (.query h) fun s => s.op (fun m => ideQuery m h)

/-- KEY_PROG. -/
def execKeyProg (h : Fin 8) (set : Fin 2) (key : BitVec 256) (s : State) : Host.Outcome State Fault Refusal :=
  received s h (.keyProg h set key) fun s => s.op (fun m => ideProg m h set key)

/-- K_SET_GO. -/
def execKSetGo (h : Fin 8) (set : Fin 2) (s : State) : Host.Outcome State Fault Refusal :=
  received s h (.kSetGo h set) fun s => s.op (fun m => ideGo m h set)

/-- K_SET_STOP. -/
def execKSetStop (h : Fin 8) (set : Fin 2) (s : State) : Host.Outcome State Fault Refusal :=
  received s h (.kSetStop h set) fun s => s.op (fun m => ideStop m h set)

end Sys2Proof.Machine
end

