-- ==== Sys2Proof/Machine/Mailbox.lean ====
section
/-! DEFINITION. The CXL mailbox of each head (R44, R45, R342, R442, R445, R551), executed by the Steward. Payloads are the CXL standard's:
`Config.mboxBytes` of the fields reported (log entry 18). -/

namespace Sys2Proof.Machine

/-! ### Return codes of CXL 3.1 (PRESUMED, log entry 18) -/

abbrev mbOk := 0
abbrev mbBackground := 1
abbrev mbInvalidInput := 2
abbrev mbUnsupported := 3
abbrev mbBusy := 6
abbrev mbMediaDisabled := 7
abbrev mbInvalidSlot := 0xB
abbrev mbActivationFailed := 0xC
abbrev mbInvalidHandle := 0xE

/-- The place of the mailbox's registers in BAR2/3, by double word: capabilities, control, command, status, background status, payload (CXL 3.1;
PRESUMED, log entry 108). -/
abbrev mboxAt := 0x2040

/-- Bytes of the mailbox's payload registers. -/
abbrev mboxBytes := 2048

/-- Where a double word of BAR2/3 stands in `Pci.comp`. -/
def compKey (fn k : Nat) : Nat := 16384 * fn + k

/-- The mailbox registers after a command: its length, its return code, its payload. -/
def Pci.mbAnswer (p : Pci) (h code : Nat) (payload : List Byte) : Pci :=
  let out := payload.take mboxBytes
  let cmd := (p.comp.get 0#32 (compKey h (mboxAt + 2)) &&& 0xFFFF#32) ||| put (out.length % 2 ^ 16) 16
  let t := (p.comp.insert (compKey h (mboxAt + 2)) cmd).insert (compKey h (mboxAt + 5)) (put code 0)
  { p with comp := (List.range ((out.length + 3) / 4)).foldl (fun t i =>
      t.insert (compKey h (mboxAt + 8 + i)) (ofBytes 32 ((out.drop (4 * i)).take 4))) t }

/-- Answer a command. -/
def Mach.mbRet (m : Mach) (h code : Nat) (payload : List Byte) : Mach :=
  ({ m with pci := m.pci.mbAnswer h code payload }).send (.mbox h code payload)

/-- The part answers register accesses: ACTIVE, once an access has undone an entry or ended DROWSE (R480, R527). -/
def Mach.answers (m : Mach) : Bool := m.pwr.st == .active

/-- A command over a head's mailbox: its registers answer while the head is linked, behind the head's tally writes (R410); in Recovery its write
is held (R54). The Steward executes it; in the safe state only commands that read are served (R465). -/
def mbCmd (s : State) (h : Fin 8) (i : Instr) (reads : Bool) (f : Mach → Mach) : Host.Outcome State Fault Refusal :=
  received s h i fun s => s.op (fun m =>
    if !(m.head h).st.linked || !m.stewardOn || !(m.head h).post.isEmpty then m
    else
      let m := touch s.live m
      if !m.answers then m
      else if s.latch && !reads then m.mbRet h mbMediaDisabled [] else f m)

/-- A command that reports fields. -/
def mbReport (s : State) (h : Fin 8) (i : Instr) (op : Nat) (fields : Mach → List Nat) : Host.Outcome State Fault Refusal :=
  mbCmd s h i true (fun m => m.mbRet h mbOk (Config.mboxBytes op h (fields m)))

/-! ### What a head's partitions hold -/

/-- The capacities of the logical devices that a head presents, in extents (R42, R43, R82), volatile only (R44). -/
def capacities (L : Image) (m : Mach) (h : Nat) : List Nat := (presented L m h).map L.pLen

/-- An extent lies in a partition bound to the head (R76, R77). -/
def headHolds (L : Image) (h e : Nat) : Bool :=
  let x := L.extent e
  eOwned x && (L.boundTo h).any (fun p => L.lists p e && (eShared x || eOwner x == p))

/-- A line is poisoned: P in the line cache or the hold queue, in its frame's rind otherwise, or in that of a line of its wedge. The part knows
its poisoned lines without reading them (DESIGN CHOICE, log entry 109). -/
def linePoisoned (L : Image) (m : Mach) (line : Nat) : Bool :=
  let page := line / 64
  let inFrame := fun (f l : Nat) (c flat : Bool) => (m.lineJudge f l c flat).v == .poisoned
  match m.lcGet line with
  | some c => c.p
  | none => match m.heldLine line with
    | some c => c.p
    | none =>
      if flatPage L page then inFrame (flatFrame L page) (line % 64) false true
      else
        let e := m.peekEnt page
        if 1 ≤ e.k then 
          let a := e.wedgeAt (line % 64 / 8)
          (List.range a.2).any (fun i => let s := m.cellSpot e.ma (a.1 + i); inFrame s.1 s.2 true false)
        else (e.st = 1 ∨ e.st = 4) && inFrame e.ma (line % 64) false false

/-- The poisoned lines of a range within the head's partitions. -/
def poisonedIn (L : Image) (m : Mach) (h line n : Nat) : List Nat :=
  ((List.range n).map (line + ·)).filter (fun l => headHolds L h (l / 64 / 65536) && linePoisoned L m l)

/-! ### Poison (R45) -/

/-- INJECT_POISON and CLEAR_POISON: a request of the Drausk complex (R105) through the line's slice. It stands in its source's queue until the
regulator and the slice take it (R134, R298). -/
def mbPoison (L : Image) (m : Mach) (h dpa : Nat) (kind : ReqKind) : Mach :=
  let line := dpa / 64
  if !headHolds L h (dpa / 2 ^ 28) then m.mbRet h mbInvalidInput []
  else if !m.pwr.memReady then m.mbRet h mbMediaDisabled []
  else
    let r : Req := { src := 15, head := h, line, kind, tag := whoMailbox, mst := mDesc, cls := .engine, quiet := true }
    (coreCycle L (coreCycle L (m.issueAll [r]))).mbRet h mbOk []

/-! ### Background commands -/

/-- A background command runs on the head. -/
def Mbox.busy (b : Mbox) : Bool := b.scan.isSome || b.fwXfer || b.fwAct

/-- Start a background command. -/
def mbStart (m : Mach) (h : Nat) (f : Mbox → Mbox) : Mach :=
  if (m.mb h).busy then m.mbRet h mbBusy [] else (m.setMb h (f (m.mb h))).mbRet h mbBackground []

/-- SCAN_MEDIA: a range of the head's partitions. -/
def scanStart (L : Image) (m : Mach) (h dpa n : Nat) : Mach :=
  if !headHolds L h (dpa / 2 ^ 28) then m.mbRet h mbInvalidInput []
  else if !m.pwr.memReady then m.mbRet h mbMediaDisabled []
  else mbStart m h (fun b => { b with scan := some (dpa / 64, n), scanRes := [] })

/-- The scan goes on, page by page, as the regulator lets the scrubber's reads in and the ledger's entries come: the lines backing the range are
scrubbed through the ledger (R302, R342), and the poisoned ones are the results. `n` bounds the pages. -/
def scanPages (L : Image) (h : Nat) : Nat → Mach → Mach
  | 0, m => m
  | n + 1, m => match (m.mb h).scan with
    | none => m
    | some (_, 0) => m.setMb h { m.mb h with scan := none }
    | some (line, left) =>
      let page := line / 64
      let k := min left (64 - line % 64)
      let onward := fun (m : Mach) (res : List Nat) =>
        scanPages L h n (m.setMb h { m.mb h with scan := some (line + k, left - k), scanRes := (m.mb h).scanRes ++ res })
      let inRange := fun (l : Nat) => decide (line ≤ l ∧ l < line + k)
      let got := if flatPage L page then (some {}, m) else ledGet L m mScrub page
      if !headHolds L h (page / 65536) then onward m []
      else match got with
        | (none, m) => m
        | (some e, m) => match grant L m (scrubAgent (whoScan h)) page (m.backing L page e inRange).length with
          | (false, m) => m
          | (true, m) =>
            let m := scrubPage L m page inRange
            onward (m.agentClear (whoScan h)) (poisonedIn L m h line k)

/-- SCAN_MEDIA_DONE, where the reads named in `errs` meet symbol errors. The scrubber's pauses hold it. -/
def scanDone (L : Image) (m : Mach) (h : Nat) (errs : List (Nat × SymErr)) : Mach :=
  match (m.mb h).scan with
  | none => m
  | some (line, n) =>
    if m.scb.paused || !m.pwr.memReady then m else m.withErrs errs (scanPages L h ((line + n + 63) / 64 - line / 64 + 1))

/-- ACTIVATE_FW (R1, R442): the Keeper verifies the image, and none but Hitrum's own is activated. Without the Keeper no image can be
verified. -/
def fwStart (m : Mach) (h : Nat) : Mach :=
  if !m.keeperOn then m.mbRet h mbActivationFailed []
  else if (m.mb h).busy then m.mbRet h mbBusy []
  else match (m.mb h).fwReady with
    | none => m.mbRet h mbInvalidSlot []
    | some (_, true) => mbStart m h (fun b => { b with fwAct := true })
    | some (_, false) => m.mbRet h mbActivationFailed []

/-- ACTIVATE_FW_DONE (R452, R530): the version changes, and measurements 3 and 5 are retaken; the Keeper has used the flash controller to
verify the package's Keeper image (R444; DESIGN CHOICE, log entry 86: every package has one). Without the Keeper it fails. -/
def fwDone (m : Mach) (h : Nat) : Mach :=
  let b := m.mb h
  if !b.fwAct then m
  else
    let m := m.setMb h { b with fwAct := false, fwReady := none }
    match b.fwReady with
    | some (v, true) =>
      if m.keeperOn then
        let meas := (m.wld.meas.insert 3 (Config.digest 3 v.toNat)).insert 5 (Config.digest 5 v.toNat)
        { m with wld := { m.wld with version := v, meas } }.flashUse
      else m
    | _ => m

/-! ### Events and alerts -/

/-- CLEAR_EVENT_RECORDS: all of a log, or the handles named; an unknown handle refuses the whole. -/
def eventsClear (m : Mach) (h log : Nat) (all : Bool) (handles : List Nat) : Mach :=
  let b := m.mb h
  let known := fun (n : Nat) => b.logs.any (fun r => r.1 == log && r.2.1 == n)
  if !all && !handles.all known then m.mbRet h mbInvalidHandle []
  else
    let keep := b.logs.filter (fun r => !(r.1 == log && (all || handles.contains r.2.1)))
    (m.setMb h { b with logs := keep }).mbRet h mbOk []

/-- The records of a log: each its handle and its bytes. -/
def eventBytes (b : Mbox) (log : Nat) : List Byte :=
  (b.logs.filter (fun r => r.1 == log)).flatMap (fun r => bytesOfNat r.2.1 2 ++ r.2.2)

/-- Bytes [hi:lo] of the alert configuration as a mask of its bits. -/
def alertMask (lo hi : Nat) : BitVec 96 := BitVec.ofNat 96 (2 ^ (8 * (hi + 1)) - 2 ^ (8 * lo))

/-- SET_ALERT_CONFIGURATION: of each alert that byte 0 names, the enable bit of byte 1 and its threshold (CXL 3.1; PRESUMED). -/
def alertMerge (old new : BitVec 96) : BitVec 96 :=
  let take := fun (b : Nat) (fieldMask : BitVec 96) => if new.getLsbD b then BitVec.ofNat 96 (2 ^ (8 + b)) ||| fieldMask else 0#96
  let mask := take 0 (alertMask 2 2) ||| take 1 (alertMask 4 5) ||| take 2 (alertMask 6 7) ||| take 3 (alertMask 8 9) ||| take 4 (alertMask 10 11)
  (old &&& ~~~ mask) ||| (new &&& mask)

/-! ### Dynamic Capacity (R87, R551) -/

/-- The DC entries of a logical device, with their states. -/
def dcOf (L : Image) (m : Mach) (h ld : Nat) : List (Nat × Nat × Nat) :=
  match ldPart L m h ld with
  | none => []
  | some p => ((L.run p).filter (fun k => eDc (L.extent (L.mapEnt k)))).map (fun k => (k, L.mapEnt k, m.dc.get 0 k))

/-- ADD_DYNAMIC_CAPACITY_RESPONSE: the oldest unanswered set of the logical device (R551). -/
def dcAnswer (L : Image) (m : Mach) (h ld : Nat) (entries : List Nat) : Mach :=
  let b := m.mb h
  match (ldPart L m h ld).bind (fun p => b.offered.find? (fun o => o.1 == L.pLd p)) with
  | none => m.mbRet h mbInvalidInput []
  | some o =>
    if !entries.all o.2.contains then m.mbRet h mbInvalidInput []
    else
      let dc := o.2.foldl (fun t k => t.insert k (if entries.contains k then 2 else 3)) m.dc
      ({ m with dc }.setMb h { b with offered := b.offered.erase o }).mbRet h mbOk []

/-- RELEASE_DYNAMIC_CAPACITY: ACCEPTED entries of the logical device (R87). -/
def dcRelease (L : Image) (m : Mach) (h ld : Nat) (entries : List Nat) : Mach :=
  let own := (dcOf L m h ld).filter (fun x => x.2.2 == 2)
  if !entries.all (fun k => own.any (fun x => x.1 == k)) then m.mbRet h mbInvalidInput []
  else { m with dc := entries.foldl (fun t k => t.insert k 3) m.dc }.mbRet h mbOk []

/-! ### Meanings -/

/-- IDENTIFY_MEMORY_DEVICE: no persistent capacity, and each logical device's own. -/
def execIdentifyMemoryDevice (h : Fin 8) (s : State) : Host.Outcome State Fault Refusal :=
  mbReport s h (.identifyMemoryDevice h) 0x4000 (fun m => [0, m.wld.version.toNat] ++ capacities s.live m h)

/-- GET_PARTITION_INFO: no persistent capacity, and each logical device's own. -/
def execGetPartitionInfo (h : Fin 8) (s : State) : Host.Outcome State Fault Refusal :=
  mbReport s h (.getPartitionInfo h) 0x4100 (fun m => 0 :: capacities s.live m h)

/-- GET_HEALTH_INFO: Tj, the hottest reading (R549), counted from −256 °C, and the error counts. -/
def execGetHealthInfo (h : Fin 8) (s : State) : Host.Outcome State Fault Refusal :=
  mbReport s h (.getHealthInfo h) 0x4200 (fun m => [(m.tj + 256).toNat, (m.reg oCntCe).toNat, (m.reg oCntUe).toNat])

/-- GET_SUPPORTED_LOGS. -/
def execGetSupportedLogs (h : Fin 8) (s : State) : Host.Outcome State Fault Refusal := mbReport s h (.getSupportedLogs h) 0x0400 (fun _ => [])

/-- GET_LOG: a part of a log. -/
def execGetLog (h : Fin 8) (log off len : Nat) (s : State) : Host.Outcome State Fault Refusal :=
  mbCmd s h (.getLog h log off len) true (fun m => m.mbRet h mbOk (((Config.mboxBytes 0x0401 h [log]).drop off).take len))

/-- GET_EVENT_RECORDS. -/
def execGetEventRecords (h : Fin 8) (log : Fin 5) (s : State) : Host.Outcome State Fault Refusal :=
  mbCmd s h (.getEventRecords h log) true (fun m => m.mbRet h mbOk (eventBytes (m.mb h) log))

/-- CLEAR_EVENT_RECORDS. -/
def execClearEventRecords (h : Fin 8) (log : Fin 5) (all : Bool) (handles : List Nat) (s : State) : Host.Outcome State Fault Refusal :=
  mbCmd s h (.clearEventRecords h log all handles) false (fun m => eventsClear m h log all handles)

/-- GET_EVENT_INTERRUPT_POLICY. -/
def execGetEventInterruptPolicy (h : Fin 8) (s : State) : Host.Outcome State Fault Refusal :=
  mbCmd s h (.getEventInterruptPolicy h) true (fun m => m.mbRet h mbOk (bytesOf (m.mb h).policy 5))

/-- SET_EVENT_INTERRUPT_POLICY. -/
def execSetEventInterruptPolicy (h : Fin 8) (policy : BitVec 40) (s : State) : Host.Outcome State Fault Refusal :=
  mbCmd s h (.setEventInterruptPolicy h policy) false (fun m => (m.setMb h { m.mb h with policy }).mbRet h mbOk [])

/-- GET_ALERT_CONFIGURATION. -/
def execGetAlertConfiguration (h : Fin 8) (s : State) : Host.Outcome State Fault Refusal :=
  mbCmd s h (.getAlertConfiguration h) true (fun m => m.mbRet h mbOk (bytesOf (m.mb h).alert 12))

/-- SET_ALERT_CONFIGURATION. -/
def execSetAlertConfiguration (h : Fin 8) (cfg : BitVec 96) (s : State) : Host.Outcome State Fault Refusal :=
  mbCmd s h (.setAlertConfiguration h cfg) false (fun m => (m.setMb h { m.mb h with alert := alertMerge (m.mb h).alert cfg }).mbRet h mbOk [])

/-- GET_POISON_LIST. -/
def execGetPoisonList (h : Fin 8) (dpa : BitVec 45) (lines : Nat) (s : State) : Host.Outcome State Fault Refusal :=
  mbCmd s h (.getPoisonList h dpa lines) true (fun m =>
    if !m.pwr.memReady then m.mbRet h mbMediaDisabled []
    else m.mbRet h mbOk (Config.mboxBytes 0x4300 h (poisonedIn s.live m h (dpa.toNat / 64) lines)))

/-- INJECT_POISON. -/
def execInjectPoison (h : Fin 8) (dpa : BitVec 45) (s : State) : Host.Outcome State Fault Refusal :=
  mbCmd s h (.injectPoison h dpa) false (fun m => mbPoison s.live m h dpa.toNat .setPoison)

/-- CLEAR_POISON. -/
def execClearPoison (h : Fin 8) (dpa : BitVec 45) (data : Line) (s : State) : Host.Outcome State Fault Refusal :=
  mbCmd s h (.clearPoison h dpa data) false (fun m => mbPoison s.live m h dpa.toNat (.ioWrite data (BitVec.allOnes 64)))

/-- GET_SCAN_MEDIA_CAPABILITIES. -/
def execGetScanMediaCapabilities (h : Fin 8) (dpa : BitVec 45) (lines : Nat) (s : State) : Host.Outcome State Fault Refusal :=
  mbReport s h (.getScanMediaCapabilities h dpa lines) 0x4303 (fun _ => [dpa.toNat, lines])

/-- SCAN_MEDIA. -/
def execScanMedia (h : Fin 8) (dpa : BitVec 45) (lines : Nat) (s : State) : Host.Outcome State Fault Refusal :=
  mbCmd s h (.scanMedia h dpa lines) false (fun m => scanStart s.live m h dpa.toNat lines)

/-- SCAN_MEDIA_DONE. -/
def execScanMediaDone (h : Fin 8) (s : State) (errs : List (Nat × SymErr) := []) : Host.Outcome State Fault Refusal :=
  s.work (fun m => scanDone s.live m h errs)

/-- GET_SCAN_MEDIA_RESULTS: none before the scan ends. -/
def execGetScanMediaResults (h : Fin 8) (s : State) : Host.Outcome State Fault Refusal := mbReport s h (.getScanMediaResults h) 0x4305 (fun m => if (m.mb h).scan.isSome then [] else (m.mb h).scanRes)

/-- GET_FW_INFO: the active version. -/
def execGetFwInfo (h : Fin 8) (s : State) : Host.Outcome State Fault Refusal := mbReport s h (.getFwInfo h) 0x0200 (fun m => [m.wld.version.toNat])

/-- TRANSFER_FW: accepted without the Keeper too (R442); `genuine` says that the image will verify. -/
def execTransferFw (h : Fin 8) (version : BitVec 24) (last : Bool) (s : State) (genuine : Bool := true) : Host.Outcome State Fault Refusal :=
  mbCmd s h (.transferFw h version last genuine) false (fun m => mbStart m h (fun b => { b with fwXfer := true, fwReady := if last then some (version, genuine) else none }))

/-- TRANSFER_FW_DONE. -/
def execTransferFwDone (h : Fin 8) (s : State) : Host.Outcome State Fault Refusal :=
  s.op (fun m => if m.stewardOn then m.setMb h { m.mb h with fwXfer := false } else m)

/-- ACTIVATE_FW. -/
def execActivateFw (h : Fin 8) (s : State) : Host.Outcome State Fault Refusal := mbCmd s h (.activateFw h) false (fun m => fwStart m h)

/-- ACTIVATE_FW_DONE. -/
def execActivateFwDone (h : Fin 8) (s : State) : Host.Outcome State Fault Refusal := s.op (fun m => if m.stewardOn then fwDone m h else m)

/-- GET_TIMESTAMP. -/
def execGetTimestamp (h : Fin 8) (s : State) : Host.Outcome State Fault Refusal :=
  mbCmd s h (.getTimestamp h) true (fun m => m.mbRet h mbOk (bytesOfNat m.timeNs 8))

/-- SET_TIMESTAMP. -/
def execSetTimestamp (h : Fin 8) (ns : BitVec 64) (s : State) : Host.Outcome State Fault Refusal :=
  mbCmd s h (.setTimestamp h ns) false (fun m => { m with tsBase := ns.toNat, tsCore := m.core }.mbRet h mbOk [])

/-- GET_DYNAMIC_CAPACITY_CONFIGURATION: region 0, from the first DC entry of the run to its end (R86). -/
def execGetDynamicCapacityConfiguration (h : Fin 8) (ld : Fin 16) (s : State) : Host.Outcome State Fault Refusal :=
  mbReport s h (.getDynamicCapacityConfiguration h ld) 0x4800 (fun m =>
    match ldPart s.live m h ld with
    | some p =>
      let n := (dcOf s.live m h ld).length
      [s.live.pLen p - n, n]
    | none => [0, 0])

/-- GET_DYNAMIC_CAPACITY_EXTENT_LIST: the accepted entries. -/
def execGetDynamicCapacityExtentList (h : Fin 8) (ld : Fin 16) (s : State) : Host.Outcome State Fault Refusal :=
  mbReport s h (.getDynamicCapacityExtentList h ld) 0x4801 (fun m => ((dcOf s.live m h ld).filter (fun x => x.2.2 == 2)).map (·.2.1))

/-- ADD_DYNAMIC_CAPACITY_RESPONSE. -/
def execAddDynamicCapacityResponse (h : Fin 8) (ld : Fin 16) (entries : List Nat) (s : State) : Host.Outcome State Fault Refusal :=
  mbCmd s h (.addDynamicCapacityResponse h ld entries) false (fun m => dcAnswer s.live m h ld entries)

/-- RELEASE_DYNAMIC_CAPACITY. -/
def execReleaseDynamicCapacity (h : Fin 8) (ld : Fin 16) (entries : List Nat) (s : State) : Host.Outcome State Fault Refusal :=
  mbCmd s h (.releaseDynamicCapacity h ld entries) false (fun m => dcRelease s.live m h ld entries)

/-- MAILBOX_UNSUPPORTED. -/
def execMailboxUnsupported (h : Fin 8) (op : BitVec 16) (s : State) : Host.Outcome State Fault Refusal :=
  mbCmd s h (.mailboxUnsupported h op) true (fun m => m.mbRet h mbUnsupported [])

end Sys2Proof.Machine
end

