-- ==== Sys2Proof/Machine/Regs.lean ====
section
/-! DEFINITION. What registers read (R13, R37, R520-R530): the words that report typed state, stored words, staged and live values, the
Head BAR (R47, R48), the partition windows (R518) and the MSI-X tables (R47, R72). -/

namespace Sys2Proof.Machine

/-- A Boolean as a number. -/
def bit (b : Bool) : Nat := b.toNat

/-- A word of a list of bytes. -/
def wordAt (l : List Byte) (i : Nat) : Word := ofBytes 32 ((l.drop (4 * i)).take 4)

/-! ### GLB, PWR, FLT -/

/-- GLB_REVID: A0 silicon (R7). -/
def revId : Word := 0x0A00#32

/-- GLB registers that report state. -/
def rdGlb (s : State) (off : Nat) : Option Word :=
  let c := s.commit
  if off = 0 then some 0x8160#32
  else if off = 4 then some revId
  else if off = 8 then some (put s.m.wld.version.toNat 0)
  else if off = 0x44 then some (putB c.busy 0 ||| putB c.checked 1 ||| put c.code.toNat 8)
  else if off = 0x48 then some (put (c.index % 2 ^ 18) 0 ||| put (c.kind % 16) 24)
  else if off = 0x4C then some s.epoch
  else if off = oExtLo then some ((extRead s).extractLsb' 0 32)
  else if off = oExtHi then some ((extRead s).extractLsb' 32 32)
  else if off = oMapData then some (mapRead s)
  else if off = oRstStat then some (s.m.reg oRstStat ||| putB s.m.pwr.pbusy 4)
  else none

/-- The code of a power state (R480). -/
def PwrSt.code : PwrSt → Nat
  | .active => 0 | .entering => 1 | .drowse => 2 | .deep => 3 | .waking => 4

/-- PWR registers that report state. -/
def rdPwr (m : Mach) (off : Nat) : Option Word :=
  if off = oPwrCtl then some (put m.pwr.target 0)
  else if off = oPwrStat then some (put m.pwr.st.code 0 ||| put m.pwr.result 4)
  else if off = oWakeCause then some (put m.pwr.cause.toNat 0)
  else none

/-- FLT registers that report state (R456, R458, R460, R462, R467). -/
def rdFlt (latch : Bool) (m : Mach) (off : Nat) : Option Word :=
  let ent := m.flt.log.find? (m.rfld oLogIndex 8 0)
  if off = 0x20000 then some (putB latch 0 ||| putB (faultN latch m) 1 ||| put (min 256 m.flt.unclr) 2)
  else if off = 0x20008 then some (BitVec.ofNat 32 m.flt.seq)
  else if off = 0x20024 then some (match ent with
    | some r => 1#32 ||| putB r.uncleared 1 ||| putB r.spilled 2
    | none => 0#32)
  else if off = 0x2020C then some (put (m.flt.prod % 65536) 0)
  else match runIdx off 0x20040 4 8, runIdx off 0x20060 4 8 with
    | some i, _ => some (match ent with
      | some r => wordAt r.bytes i
      | none => 0#32)
    | _, some i => some (match m.flt.prevA with
      | some r => wordAt r.bytes i
      | none => 0#32)
    | _, _ => none

/-! ### PMU (R514, R517) -/

/-- A counter word: the counter's number and whether the word is its LO. -/
def pmuWord (off : Nat) : Option (Nat × Bool) :=
  if 0x31000 ≤ off ∧ off < 0x32000 then
    let k := (off - 0x31000) / 0x10
    if off % 0x10 = 4 then some (k, true) else if off % 0x10 = 8 then some (k, false) else none
  else if 0x32000 ≤ off ∧ off < 0x32600 then
    let r := off % 0x40
    if r < 0x28 ∧ off % 4 = 0 then some (256 + 5 * ((off - 0x32000) / 0x40) + r / 8, r % 8 = 0) else none
  else none

/-- What a counter shows: its shadow with VIEW = 1 (R513). -/
def Mach.cntShown (m : Mach) (k : Nat) : Nat := if m.rbit oPmuCtl 3 then m.pmu.shadow.get 0 k else m.pmu.cnt.get 0 k

/-- The record at RD of the sample ring. -/
def Pmu.front (p : Pmu) : List Byte := if p.fill = 0 then [] else p.ring.get [] p.rd

/-- PMU registers that report state. -/
def rdPmu (m : Mach) (off : Nat) : Option Word :=
  let p := m.pmu
  match pmuWord off with
  | some (k, lo) => some (if lo then BitVec.ofNat 32 (m.cntShown k) else put (p.latch.get 0 k % 65536) 0)
  | none =>
    if off = 0x33008 then some (put p.wr 0 ||| put p.rd 16 ||| putB p.full 31)
    else if off = 0x3300C then some (BitVec.ofNat 32 p.lost)
    else match runIdx off 0x33020 4 8 with
      | some i => some (if i = 0 then wordAt p.front 0 else if p.fill = 0 then 0#32 else wordAt p.buf i)
      | none => none

/-! ### BWG, heads, management port, home -/

/-- BWG registers that report state (R308-R310). -/
def rdBwg (L : Image) (m : Mach) (off : Nat) : Option Word :=
  if off = 0x40300 then some (put (m.bwg.live / 10 % 1024) 0 ||| put (floorOf L m (fun _ => false) % 1024) 16)
  else if off = 0x40304 then some (put (guarSum L % 65536) 0)
  else if off = 0x40308 then some (match m.bwg.cut with
    | some (k, part) => put k 0 ||| put 1 6 ||| put part 16
    | none => 0#32)
  else match runIdx off 0x40500 4 38 with
    | some k => some (put (m.bwg.use.get 0 k % 2 ^ 24) 0)
    | none => none

/-- The code of a head's state (R54). -/
def HeadSt.code : HeadSt → Nat
  | .absent => 0 | .down => 1 | .training => 2 | .ioOnly => 3 | .active => 4 | .recovery => 5 | .insecure => 6 | .disabled => 7

/-- MEM_ACTIVE: CXL.mem requests are served. -/
def Head.memServed (x : Head) : Bool := x.memActive

/-- R64 or R65 applies to the head. -/
def Head.anyViral (x : Head) : Bool := x.viral || x.viralRx

/-- The head status register. The trained width and speed stand while the link is in L0 or a link power state below it. -/
def headStat (m : Mach) (h : Nat) : Word :=
  let x := m.head h
  if x.st = .absent then 0#32
  else
    let up := x.st.linked
    put x.st.code 0 ||| put (if up then x.width else 0) 4 ||| put (if up then x.speed else 0) 9 ||| putB (up && x.speed == 5) 12
      ||| putB x.memServed 13 ||| putB x.ideOn 14 ||| putB (m.unresp h) 15 ||| putB x.anyViral 16 ||| putB x.mld 17

/-- PTA, PTB and MPT registers that report state; an absent head's registers read zero (R37, its STATE code is 0). -/
def rdPort (m : Mach) (off : Nat) : Option Word :=
  let s := m.straps
  if off = 0x100000 then some (put s.paBif.val 0 ||| putB (s.paBif == 3) 2 ||| putB (s.bootSrc.val / 2 == 1 && s.paBif != 3) 3)
  else if off = 0x110000 then some (put s.pbBif.val 0 ||| putB (s.pbBif == 3) 2)
  else if off = 0x120000 then
    some (if m.mgmt.up then put m.mgmt.speed 0 ||| put m.mgmt.width 3 ||| put 1 8 else 0#32)
  else match headReg off with
    | none => none
    | some (h, r) =>
      let x := m.head h
      if x.st = .absent then some 0#32
      else if r = 4 then some (headStat m h)
      else if r = 0x10 then some (put x.qRt.length 0 ||| put x.qTable.length 10 ||| put x.qBulk.length 21)
      else none

/-- HOM registers that report state. -/
def rdHom (m : Mach) (off : Nat) : Option Word :=
  if off = 0x20000C then some (put m.trackers.length 0 ||| put m.home.peak 16) else none

/-! ### LDG, CHN, CRY -/

/-- LDG registers that report state. -/
def rdLdg (m : Mach) (off : Nat) : Option Word :=
  let l := m.led
  if off = 0x30000C then
    some (putB l.formatted 0 ||| putB l.fmtBusy 1 ||| putB l.fmtAuto 2 ||| put l.fmtResult 3 ||| putB l.recount 5)
  else if off = 0x300010 then some (put l.extents 0 ||| putB l.dup 31)
  else if off = 0x300014 then some (put l.cellarUnits 0)
  else if off = 0x300304 then some (BitVec.ofNat 32 (ivLen l.pool))
  else if off = 0x300308 then some (BitVec.ofNat 32 (ivLen l.uncleared))
  else if off = 0x30030C then some (BitVec.ofNat 32 (l.freeUnits / 16))
  else if off = 0x30040C then some (putB l.cmdBusy 0 ||| put l.cmdResult 1)
  else match runIdx off 0x300200 4 64 with
    | some n => some (BitVec.ofNat 32 (min 0xFFFFFFFF (l.counts.get 0 n)))
    | none => none

/-- CHN registers that report state. The live image register of an empty slot reads 0 (R189). -/
def rdChn (L : Image) (m : Mach) (off : Nat) : Option Word :=
  if off = 0x400014 then
    some (put m.churnsBusy 0 ||| put (min 256 m.chn.slots) 7 ||| put (min 0xFFFF (m.dqu.jobs.filter (fun j => j.slot != 0)).length) 16)
  else match runIdx off 0x400100 4 12 with
    | some c =>
      let n := fun (k : Nat) => (m.chq (4 * c + k)).length
      some (put (min 255 (n 0)) 0 ||| put (min 255 (n 1)) 8 ||| put (min 255 (n 2)) 16 ||| put (min 255 (n 3)) 24)
    | none => match runIdx off 0x401C00 4 64 with
      | some n => some (putB (m.chn.images.find? n).isSome 0 ||| put (m.chn.loadCnt.get 0 n % 65536) 8)
      | none => match runIdx off 0x401800 4 128 with
        | some i => some (if m.holdsCult (i / 2) then L.reg (0x401000 + 4 * i) else 0#32)
        | none => none

/-- CRY registers that report state (R248, R252). -/
def rdCry (s : State) (off : Nat) : Option Word :=
  let c := s.m.cry
  let slot := s.m.rfld oSlotIndex 9 0
  if off = 0x500004 then some (putB c.busy.isSome 0 ||| put c.result 8)
  else if off = 0x50000C then some (match c.slots.find? slot with
    | some k => 1#32 ||| putB (s.slotBound slot) 1 ||| put k.owner 8
    | none => putB (s.slotBound slot) 1)
  else if off = 0x500010 then some (match c.slots.find? slot with
    | some k => k.kid
    | none => 0#32)
  else none

/-! ### MC, SCB -/

/-- The code of the used set. -/
def setCode (n : Nat) : Nat := if n = 4 then 1 else if n = 6 then 2 else if n = 8 then 3 else if n = 12 then 4 else 0

/-- MCn_CFG (R257-R261). -/
def mcCfg (m : Mach) (c : Nat) : Word :=
  let p := m.pop
  let ch := p.chans.getD c {}
  let used := p.used.contains c
  let base := putB used 0 ||| putB (!(ch.dimms ++ ch.rejected).isEmpty) 1 ||| putB ch.unusedDimm 14 ||| put (setCode p.used.length) 9
  if used then base ||| putB p.mrdimm 2 ||| putB p.dpc2 3 ||| put p.rb 4 ||| put p.speed 6 ||| put p.dens 12 ||| put p.ld 15 else base

/-- The highest debt over the ranks of a subchannel. -/
def debtMax (m : Mach) (k : Nat) : Nat := ((m.sub k).debt.map (·.2)).foldl max 0

/-- MC registers that report state. -/
def rdMc (m : Mach) (off : Nat) : Option Word :=
  match mcReg off with
  | none => none
  | some (c, r) =>
    let sr := fun (x : SrSt) => m.mcs.trained.get 0 c != 0 && ((m.sub (2 * c)).sr == x || (m.sub (2 * c + 1)).sr == x)
    if r = 0 then some (mcCfg m c)
    else if r = 4 then some (put (m.mcs.trained.get 0 c % 256) 0 ||| put (m.mcs.trained.get 0 c / 256) 8)
    else if r = 0x28 then
      some (putB (m.mcs.hot.get false c) 0 ||| put (debtMax m (2 * c)) 1 ||| put (debtMax m (2 * c + 1)) 4 ||| putB (sr .entering) 7
        ||| putB (sr .inSr) 8)
    else none

/-- The head of the sticky queue (R326). -/
def stickyWords (m : Mach) : Word × Word :=
  match m.scb.sticky.head? with
  | none => (0#32, 0#32)
  | some (v, mask) =>
    let a := MAddr.ofVal v
    (put a.ch 0 ||| put a.sub 4 ||| put a.rank 5 ||| put a.bg 7 ||| put a.bank 10 ||| put a.col 12 ||| put (mask % 1024) 19 ||| put a.die 29
      ||| put 1 31, put a.row 0)

/-- SCB_CH_STATE. -/
def chStates (m : Mach) : Word :=
  let sts := (List.range 12).foldl (fun w c => w ||| put (m.chState c) (2 * c)) 0#32
  match m.scb.chg.head? with
  | some (c, back) => sts ||| put c 24 ||| putB back 28
  | none => sts

/-- SCB_MARK: the marks of a subchannel's ranks (R334). -/
def markWord (m : Mach) (c sub : Nat) : Word :=
  (List.range 4).foldl (fun w r =>
    match m.scb.marks.find? (8 * c + 4 * sub + r) with
    | some d => w ||| put d (5 * r) ||| put 1 (5 * r + 4)
    | none => w) 0#32

/-- SCB registers that report state. -/
def rdScb (m : Mach) (off : Nat) : Option Word :=
  let b := m.scb
  if off = 0x700008 then
    some (putB (m.scrubs && b.suspects.isEmpty) 0 ||| putB (m.scrubs && !b.suspects.isEmpty) 1 ||| putB b.paused 2 ||| put b.passes 16)
  else if off = 0x70000C then some (BitVec.ofNat 32 (b.pos / 64))
  else if off = 0x700020 then some (stickyWords m).1
  else if off = 0x700024 then some (stickyWords m).2
  else if off = 0x70004C then some (putB (b.rep != .none) 0 ||| put b.repResult 4 ||| put b.repSpare 8)
  else if off = 0x700050 then some (chStates m)
  else if off = 0x700244 then some (BitVec.ofNat 32 (b.devCnt.get 0 (m.rfld oDevIndex 10 0)))
  else match runIdx off 0x700100 4 12, runIdx off 0x700180 4 24 with
    | some c, _ => some (put (m.remapCount c) 0)
    | _, some i => some (markWord m (i / 2) (i % 2))
    | _, _ => none

/-! ### YK, DQU, TLY, STN -/

/-- The code of a yoke link state. -/
def YkLink.code : YkLink → Nat
  | .down => 0 | .training => 1 | .up => 2 | .retrain => 3 | .held => 4

/-- YK registers that report state. -/
def rdYk (m : Mach) (off : Nat) : Option Word :=
  let y := m.yoke
  let w := if y.up then y.width else 0
  if off = 0x800004 then
    some (put y.link.code 0 ||| putB m.straps.yokeRole 3 ||| put w 4 ||| putB (w == 8 && y.half) 9 ||| putB y.peerA 10 ||| putB y.roleConflict 11)
  else if off = 0x800018 then
    some (put y.st.code 0 ||| put y.cause 3 ||| putB y.trust 7 ||| putB (!y.map.isEmpty) 8 ||| putB y.tgtIncomplete 9 ||| put y.peerState 10
      ||| put y.copying.length 16)
  else if off = 0x800020 then some (put y.cmdResult 0)
  else if off = 0x800024 then some (put y.map.length 0)
  else if off = 0x800028 then some (put y.phase 0 ||| putB y.doubt 3 ||| put (y.frame % 2 ^ 24) 8)
  else none

/-- The code of a ring state (R402). -/
def RingSt.code : RingSt → Nat
  | .disabled => 0 | .active => 1 | .resetting => 2 | .down => 3 | .error => 4

/-- A doorbell's words: TAIL, CQ_HEAD, status. -/
def dbWord (m : Mach) (n i : Nat) : Word :=
  let r := m.ring n
  if i = 0 then put r.sqTail 0
  else if i = 1 then put r.cqHead 0
  else if i = 2 then put r.st.code 0 ||| putB r.retiring 3 ||| put (r.epoch % 256) 8 ||| put r.sqHead 16
  else 0#32

/-- DQU registers that report state. -/
def rdDqu (m : Mach) (off : Nat) : Option Word :=
  if 0x906000 ≤ off ∧ off < 0x907000 then
    let n := (off - 0x906000) / 0x10
    let r := m.ring n
    let i := off % 0x10
    some (if i = 0 then
        put r.st.code 0 ||| putB r.retiring 3 ||| putB r.phase 4 ||| put (r.epoch % 256) 8 ||| put (m.ringBusy n) 16
      else if i = 4 then put r.sqHead 0 ||| put r.cqTail 16
      else if i = 8 then put r.sqTail 0 ||| put r.cqHead 16
      else 0#32)
  else if 0x908000 ≤ off ∧ off < 0x909000 then some (dbWord m ((off - 0x908000) / 0x10) (off % 0x10 / 4))
  else none

/-- TLY and STN registers that report state. -/
def rdTally (m : Mach) (off : Nat) : Option Word :=
  if off = 0xA00004 then some (put m.tally.coal.length 0 ||| put (max (m.inqLen 0) (m.inqLen 1)) 18)
  else match runIdx off 0xB09000 4 256 with
    | some t => some (BitVec.ofNat 32 (m.strn.used.get 0 t))
    | none => none

/-! ### WLD, TST -/

/-- The code of a world's state. -/
def WorldSt.code : WorldSt → Nat
  | .booting => 0 | .up => 1 | .down => 2 | .restarting => 3 | .failed => 4

/-- WLD registers that report state. What a core counts in normal state is a free value (R446; log entry 1). -/
def rdWld (s : State) (off : Nat) : Option Word :=
  let w := s.m.wld
  if off = 0xC00000 then some (put s.lcCur 0 ||| put s.lcPend 4)
  else if off = 0xC00004 then some (put w.keeper.code 0 ||| put w.kRestarts 16)
  else if off = 0xC00008 then some (put w.steward.code 0 ||| put w.sRestarts 16)
  else if off = 0xC00014 then some w.denyLog
  else if off = 0xC00018 then some (put (debugEnables s.lcCur w).toNat 0)
  else if off = 0xC0001C then some w.nonce
  else if off = 0xC00024 then some (putB w.tokenBusy 0 ||| put w.tokenResult 1)
  else match runIdx off 0xC00200 4 32, runIdx off 0xC00300 4 4 with
    | some n, _ => let o := s.m.own n; some (putB o.keeper 0 ||| put o.st 1 ||| putB o.gated 3)
    | _, some c => some (BitVec.ofNat 32 (s.m.ncyc c))
    | _, _ => none

/-- TST registers that report state. -/
def rdTst (lc : Nat) (t : Tst) (off : Nat) : Option Word :=
  if off = 0xD00004 then some (put t.st 0 ||| put t.result 4 ||| putB t.aonOk 8 ||| putB t.qspiOk 9 ||| put t.src 10)
  else if off = 0xD00008 then some t.res
  else if off = 0xD0000C then some t.ch
  else if off = 0xD00010 then some t.cond
  else if off = 0xD00030 then some (BitVec.ofNat 32 t.time)
  else if off = 0xD00034 then some (BitVec.ofNat 32 (t.time / 2 ^ 32))
  else if off = 0xD00040 then some (putB (tapFull lc) 0 ||| putB t.scanEn 1 ||| putB t.cleared 2)
  else match runIdx off 0xD00020 4 4 with
    | some p => some (t.eyes.getD p 0#32)
    | none => none

/-! ### MSI-X tables (R47, R72) -/

/-- A DW of a function's MSI-X table; a vector is masked at reset. -/
def msixWord (m : Mach) (fn i : Nat) : Word := m.msix.table.get (if i % 4 = 3 then 1#32 else 0#32) (fn * 0x1000 + i)

/-- A DW of a function's pending-bit array. -/
def pbaWord (m : Mach) (fn i : Nat) : Word :=
  m.msix.pend.foldl (fun w p => if p.1 = fn ∧ p.2 / 32 = i then w ||| put 1 (p.2 % 32) else w) 0#32

/-! ### The Control BAR -/

/-- The word at a Control BAR offset that reports state, by its block. -/
def rdState (s : State) (off : Nat) : Option Word :=
  let m := s.m
  if off < 0x10000 then rdGlb s off
  else if off < 0x20000 then rdPwr m off
  else if off < 0x30000 then rdFlt s.latch m off
  else if off < 0x40000 then rdPmu m off
  else if off < 0x50000 then rdBwg s.live m off
  else if 0x128000 ≤ off ∧ off < 0x129000 then some (msixWord m mgmtFn ((off - 0x128000) / 4))
  else if 0x129000 ≤ off ∧ off < 0x129020 then some (pbaWord m mgmtFn ((off - 0x129000) / 4))
  else if off < 0x200000 then rdPort m off
  else if off < 0x300000 then rdHom m off
  else if off < 0x400000 then rdLdg m off
  else if off < 0x500000 then rdChn s.live m off
  else if off < 0x600000 then rdCry s off
  else if off < 0x6C0000 then rdMc m off
  else if off < 0x800000 then rdScb m off
  else if off < 0x900000 then rdYk m off
  else if off < 0xA00000 then rdDqu m off
  else if off < 0xC00000 then rdTally m off
  else if off < 0xD00000 then rdWld s off
  else rdTst s.lcCur m.tst off

/-- The block of the offset is held in warm reset (R527). -/
def State.held (s : State) (off : Nat) : Bool := s.m.pwr.warm.isSome && !keptBlock off

/-- What a Control BAR register reads: zero in a block held in reset; the state it reports; the staged or the live value (R528); a
stored word; zero at a reserved offset (R521). -/
def readReg (s : State) (off : Nat) : Word :=
  if s.held off then 0#32
  else match rdState s off with
    | some w => w
    | none =>
      if stMask off ≠ 0#32 then s.stage.reg off
      else match liveOf off with
        | some o => s.live.reg o
        | none => s.m.reg off

/-! ### Side effects of reads (R75, R514, R517) -/

/-- A read of DATA0: the record at RD into the read buffer. -/
def smpFirst (m : Mach) : Mach := { m with pmu := { m.pmu with buf := m.pmu.front } }

/-- A read of DATA7: RD moves on. -/
def smpLast (m : Mach) : Mach :=
  if m.pmu.fill = 0 then m else { m with pmu := { m.pmu with rd := (m.pmu.rd + 1) % 32768, full := false } }

/-- A read of a counter's LO word latches its upper bits. -/
def cntLatch (m : Mach) (k : Nat) : Mach := { m with pmu := { m.pmu with latch := m.pmu.latch.set 0 k (m.cntShown k / 2 ^ 32) } }

/-- What reading a register does. -/
def readEffect (m : Mach) (off : Nat) : Mach :=
  if off = oExtHi then m.ixAuto oExtIndex
  else if off = oMapData then m.ixAuto oMapIndex
  else if off = 0x33020 then smpFirst m
  else if off = 0x3303C then smpLast m
  else match pmuWord off with
    | some (k, true) => cntLatch m k
    | _ => m

/-- A read of a Control BAR register. -/
def readOne (s : State) (off : Nat) : Word × State :=
  (readReg s off, if s.held off then s else { s with m := readEffect s.m off })

/-! ### The Head BAR (R47, R48, R518) -/

/-- A fault record names the head or one of its partitions. -/
def namesHead (L : Image) (m : Mach) (h : Nat) (r : FRec) : Bool := r.uncleared && (presentHeads L m r.cls r).contains h

/-- HEV_STATUS. -/
def hevStatus (s : State) (h : Nat) : Word :=
  let x := s.m.head h
  put x.st.code 0 ||| putB x.memServed 4 ||| putB x.anyViral 5 ||| putB (s.m.flt.log.any (fun p => namesHead s.live s.m h p.2)) 6
    ||| put (s.epoch.toNat % 65536) 16

/-- The partition that a counter window shows. -/
def windowPart (L : Image) (m : Mach) (h l : Nat) : Option Nat :=
  if (m.head h).mld || l = 0 then ldPart L m h l else none

/-- The user copy of a partition's window may be read. -/
def Mach.userEn (m : Mach) (p : Nat) : Bool := if p < 32 then m.rbit oUser0 p else m.rbit oUser1 (p - 32)

/-- A word of a partition window. -/
def windowRead (L : Image) (m : Mach) (h off : Nat) : Word × Mach :=
  let d := off - 0x400000
  match windowPart L m h (d / 0x20000) with
  | none => (0#32, m.outOfPart h 5 off)
  | some p =>
    let r := d % 0x10000
    let k := r / 8
    if 512 ≤ k ∨ (d / 0x10000 % 2 = 1 ∧ !m.userEn p) then (0#32, m)
    else if r % 8 = 0 then
      let v := m.pmu.part.get 0 (512 * p + k)
      (BitVec.ofNat 32 v, { m with pmu := { m.pmu with platch := m.pmu.platch.set 0 (512 * p + k) (v / 2 ^ 32) } })
    else (put (m.pmu.platch.get 0 (512 * p + k) % 65536) 0, m)

/-- Reserved ranges of the Head BAR. -/
def headReserved (off : Nat) : Bool :=
  decide ((0x100000 ≤ off ∧ off < 0x400000) ∨ (0x60A000 ≤ off ∧ off < 0x800000) ∨ 0x1000000 ≤ off ∨ (off < 0x100000 ∧ 0xC ≤ off % 0x1000))

/-- A read of a Head BAR word; the tally window reads zeros (R409). -/
def headRead (s : State) (h off : Nat) : Word × State :=
  let m := s.m
  let out := (0#32, { s with m := m.outOfPart h 5 off })
  if headReserved off then out
  else if off < 0x100000 then
    let n := off / 0x1000
    if (presented s.live m h).contains (s.live.rOwner n) then (dbWord m n (off % 0x1000 / 4), s) else out
  else if 0x400000 ≤ off ∧ off < 0x600000 then
    let r := windowRead s.live m h off
    (r.1, { s with m := r.2 })
  else if off = 0x600000 then (hevStatus s h, s)
  else if off = 0x600004 then (m.hev.get 0#32 h, s)
  else if 0x608000 ≤ off ∧ off < 0x608400 then (msixWord m h ((off - 0x608000) / 4), s)
  else if 0x609000 ≤ off ∧ off < 0x609008 then (pbaWord m h ((off - 0x609000) / 4), s)
  else (0#32, s)

end Sys2Proof.Machine
end

