-- ==== Sys2Proof/Machine/Bars.lean ====
section
/-! DEFINITION. Configuration space and the registers of BAR2/3 (R46, R58, R59, R83, R84, R529). The PCIe and CXL standards lay them out: the model
takes the HDM decoder capability, the mailbox and the CXL DVSEC at fixed places (PRESUMED, log entry 108), and leaves the rest open
(`Config.pciWord`, `Config.compWord`). -/

namespace Sys2Proof.Machine

/-- The state that a meaning answers. -/
def done (s : State) : Host.Outcome State Fault Refusal → State
  | .next t => t
  | _ => s

/-! ### Words that software writes -/

/-- A double word with the bytes that a write enables. -/
def mergeWord (old v : Word) (be : BitVec 4) : Word :=
  let mask := ofBytes 32 ((List.range 4).map (fun i => if be.getLsbD i then 0xFF#8 else 0#8))
  (old &&& ~~~mask) ||| (v &&& mask)

/-- A double word as a read finds it: what software has written over its writable bits. -/
def softWord (t : Tbl Word) (key : Nat) (given mask : Word) : Word := (given &&& ~~~mask) ||| (t.get given key &&& mask)

/-! ### Configuration space -/

/-- The size of a BAR as a power of two, by function and BAR number, when it is implemented (R46, R72). -/
def barBits (m : Mach) (fn b : Nat) : Option Nat :=
  if fn = mgmtFn then (if b = 0 then some 26 else none)
  else if b = 0 then some 25
  else if b = 2 then some 16
  else if b = 4 ∧ fn = 0 ∧ m.straps.bootSrc.val / 2 = 1 then some 26
  else none

/-- The CXL DVSEC of a head's function: the first extended capability (PRESUMED, log entry 108). Memory_Active is bit 1 of its Range 1 Size Low. -/
abbrev dvsecAt := 0x40

/-- The double word is the one that holds Memory_Active (R59). -/
def isMemActive (fn k : Nat) : Bool := k == dvsecAt + 7 && fn != mgmtFn

/-- The writable bits of a configuration double word: of a BAR, its address bits; Memory_Active is the part's. -/
def cfgMask (m : Mach) (fn k : Nat) : Word :=
  if k = 0 ∨ k = 2 ∨ k = 11 then 0#32
  else if 4 ≤ k ∧ k < 10 then
    match barBits m fn ((k - 4) / 2 * 2) with
    | none => 0#32
    | some n => if k % 2 = 0 then BitVec.ofNat 32 (2 ^ 32 - 2 ^ n) else BitVec.allOnes 32
  else if isMemActive fn k then Config.pciMask fn k &&& ~~~2#32
  else if k = linkCtlWord then Config.pciMask fn k ||| 3#32
  else Config.pciMask fn k

/-- The bits of a configuration double word that the part itself gives (R59, R529); a BAR's type bits say 64-bit, non-prefetchable. -/
def cfgWord (m : Mach) (fn k : Nat) : Word :=
  if k = 0 then put (if fn = mgmtFn then 0x8161 else 0x8160) 16 ||| put Config.vendorId.toNat 0
  else if k = 2 then put (if fn = mgmtFn then 0x058000 else 0x050210) 8 ||| put ((fld revId 15 8 - 0x0A) * 16 + fld revId 7 0) 0
  else if k = 11 then m.pci.subsys
  else if 4 ≤ k ∧ k < 10 then (if k % 2 = 0 ∧ (barBits m fn (k - 4)).isSome then 4#32 else 0#32)
  else if isMemActive fn k then (Config.pciWord fn k &&& ~~~2#32) ||| putB (m.head fn).memActive 1
  else if k = linkCtlWord then Config.pciWord fn k &&& ~~~3#32
  else Config.pciWord fn k

/-- A configuration double word. -/
def cfgRead (m : Mach) (fn k : Nat) : Word := softWord m.pci.cfg (1024 * fn + k) (cfgWord m fn k) (cfgMask m fn k)

/-- A write of a configuration double word. -/
def cfgWrite (m : Mach) (fn k : Nat) (v : Word) (be : BitVec 4) : Mach :=
  { m with pci := { m.pci with cfg := m.pci.cfg.insert (1024 * fn + k) (mergeWord (cfgRead m fn k) v be) } }

/-- A function is ready once the Steward has started, and stays so until it resets (R58, R495; DEDUCED, log entry 86). -/
def cfgReady (m : Mach) (fn : Nat) : Mach :=
  if m.stewardOn then { m with pci := { m.pci with ready := insNat fn m.pci.ready } } else m

/-! ### The HDM decoder registers (R83, R84) -/

/-- The HDM decoder capability in BAR2/3, by double word: capability, global control, and from the fifth on eight for each decoder. -/
abbrev hdmAt := 0x480

/-- The double words of the capability: sixteen decoders at most (R41). -/
abbrev hdmWords := 4 + 8 * 16

/-- Interleave ways and granularity by their codes. -/
def waysOf (code : Nat) : Nat := [1, 2, 4, 8, 16, 0, 0, 0, 3, 6, 12].getD code 0
def granOf (code : Nat) : Nat := if code ≤ 6 then 256 * 2 ^ code else 0

/-- The codes of a decoder's ways and granularity. -/
def waysCode (ways : Nat) : Nat := ([1, 2, 4, 8, 16, 0, 0, 0, 3, 6, 12].findIdx? (· == ways)).getD 0
def granCode (gran : Nat) : Nat := Nat.log2 (gran / 256)

/-- The decoders that the registers show: those of the head's first logical device. -/
def Mach.hdmDecoders (m : Mach) (h : Nat) : List Decoder := ((m.head h).decoders.filter (fun e => e.1 == ldKey m h 0)).map (·.2)

/-- A committed decoder's register `i`. -/
def decWord (d : Decoder) (i : Nat) : Word :=
  if i = 0 then BitVec.ofNat 32 d.base &&& 0xF0000000#32
  else if i = 1 then BitVec.ofNat 32 (d.base / 2 ^ 32)
  else if i = 2 then BitVec.ofNat 32 d.size &&& 0xF0000000#32
  else if i = 3 then BitVec.ofNat 32 (d.size / 2 ^ 32)
  else if i = 4 then put (granCode d.gran) 0 ||| put (waysCode d.ways) 4 ||| putB d.lock 8 ||| 0x600#32
  else if i = 5 then BitVec.ofNat 32 d.skip &&& 0xF0000000#32
  else if i = 6 then BitVec.ofNat 32 (d.skip / 2 ^ 32)
  else 0#32

/-- What a decoder register of a decoder that is not committed lets software write. -/
def openMask (i : Nat) : Word :=
  if i = 0 ∨ i = 2 ∨ i = 5 then 0xF0000000#32 else if i = 4 then 0x3FF#32 else if i < 7 then BitVec.allOnes 32 else 0#32

/-- A register of the capability: the bits that the part gives, and those that software writes. COMMIT stays set on a decoder that could not be
committed, with ERROR NOT COMMITTED. -/
def hdmWord (L : Image) (m : Mach) (h r : Nat) : Word × Word :=
  let n := dplOf L h
  if r = 0 then (put (n / 2) 0 ||| 0x1B10#32, 0#32)
  else if r = 1 then (0#32, 3#32)
  else if r < 4 ∨ n ≤ (r - 4) / 8 then (0#32, 0#32)
  else
    let i := (r - 4) % 8
    match (m.hdmDecoders h)[(r - 4) / 8]? with
    | some d => (decWord d i, if i = 4 ∧ !d.lock then 0x200#32 else 0#32)
    | none => (if i = 4 ∧ (m.pci.comp.get 0#32 (compKey h (hdmAt + r))).getLsbD 9 then 0x800#32 else 0#32, openMask i)

/-! ### The mailbox registers (R44) -/

/-- The double words of the mailbox. -/
abbrev mboxWords := 8 + mboxBytes / 4

/-- A register of the mailbox: the bits that the part gives, and those that software writes. A command ends within the write that starts it, so
the doorbell reads 0. -/
def mboxWord (m : Mach) (h r : Nat) : Word × Word :=
  if r = 0 then (11#32, 0#32)
  else if r = 1 then (0#32, 6#32)
  else if r = 2 ∨ 8 ≤ r then (0#32, BitVec.allOnes 32)
  else if r = 3 then (0#32, 0x1F#32)
  else if r = 4 then (putB (m.mb h).busy 0, 0#32)
  else if r = 5 then (m.pci.comp.get 0#32 (compKey h (mboxAt + 5)), 0#32)
  else (0#32, 0#32)

/-- The bytes that software has put into the payload registers. -/
def mboxIn (m : Mach) (h n : Nat) : List Byte :=
  ((List.range ((n + 3) / 4)).flatMap (fun i => bytesOf (m.pci.comp.get 0#32 (compKey h (mboxAt + 8 + i))) 4)).take n

/-- The part's address of an address within the head's first logical device; one outside it where there is none. -/
def ldDpa (L : Image) (m : Mach) (h a : Nat) : Nat := ((ldPart L m h 0).bind (fun p => mapDpa L p a)).getD (2 ^ 45 - 1)

/-- The map entry that an extent of a Dynamic Capacity command names. -/
def ldEntry (L : Image) (m : Mach) (h a : Nat) : Nat := ((ldPart L m h 0).bind (fun p => L.mapIdx p (a / 2 ^ 28))).getD (2 ^ 18)

/-- A little-endian number in a payload. -/
def numAt (b : List Byte) (i n : Nat) : Nat := natOfBytes ((b.drop i).take n)

/-- The command that an opcode and an input payload spell (CXL 3.1; PRESUMED, log entry 108). The firmware package of TRANSFER_FW is not judged by its
bytes: its version and whether it is genuine are free values. -/
def mboxInstr (L : Image) (m : Mach) (h : Fin 8) (op : Nat) (b : List Byte) : Instr :=
  let dpa := BitVec.ofNat 45 (ldDpa L m h (numAt b 0 8))
  let entries := (List.range (numAt b 0 4)).map (fun i => ldEntry L m h (numAt b (8 + 24 * i) 8))
  if op = 0x0100 then .getEventRecords h (Fin.ofNat 5 (numAt b 0 1))
  else if op = 0x0101 then .clearEventRecords h (Fin.ofNat 5 (numAt b 0 1)) (numAt b 1 1 % 2 == 1) ((List.range (numAt b 2 1)).map (fun i => numAt b (6 + 2 * i) 2))
  else if op = 0x0102 then .getEventInterruptPolicy h
  else if op = 0x0103 then .setEventInterruptPolicy h (BitVec.ofNat 40 (numAt b 0 5))
  else if op = 0x0200 then .getFwInfo h
  else if op = 0x0201 then .transferFw h (Config.free 24 m.fresh) (numAt b 0 1 == 0 || numAt b 0 1 == 3) (Config.freeBool m.fresh)
  else if op = 0x0202 then .activateFw h
  else if op = 0x0300 then .getTimestamp h
  else if op = 0x0301 then .setTimestamp h (BitVec.ofNat 64 (numAt b 0 8))
  else if op = 0x0400 then .getSupportedLogs h
  else if op = 0x0401 then .getLog h (numAt b 0 16) (numAt b 16 4) (numAt b 20 4)
  else if op = 0x4000 then .identifyMemoryDevice h
  else if op = 0x4100 then .getPartitionInfo h
  else if op = 0x4200 then .getHealthInfo h
  else if op = 0x4201 then .getAlertConfiguration h
  else if op = 0x4202 then .setAlertConfiguration h (BitVec.ofNat 96 (numAt b 0 12))
  else if op = 0x4300 then .getPoisonList h dpa (numAt b 8 8)
  else if op = 0x4301 then .injectPoison h dpa
  else if op = 0x4302 then .clearPoison h dpa (ofBytes 512 ((b.drop 8).take 64))
  else if op = 0x4303 then .getScanMediaCapabilities h dpa (numAt b 8 8)
  else if op = 0x4304 then .scanMedia h dpa (numAt b 8 8)
  else if op = 0x4305 then .getScanMediaResults h
  else if op = 0x4800 then .getDynamicCapacityConfiguration h 0
  else if op = 0x4801 then .getDynamicCapacityExtentList h 0
  else if op = 0x4802 then .addDynamicCapacityResponse h 0 entries
  else if op = 0x4803 then .releaseDynamicCapacity h 0 entries
  else .mailboxUnsupported h (BitVec.ofNat 16 op)

/-- Run a mailbox command. -/
def mboxRun (s : State) (i : Instr) : State :=
  match i with
  | .identifyMemoryDevice h => done s (execIdentifyMemoryDevice h s)
  | .getPartitionInfo h => done s (execGetPartitionInfo h s)
  | .getHealthInfo h => done s (execGetHealthInfo h s)
  | .getSupportedLogs h => done s (execGetSupportedLogs h s)
  | .getLog h log off len => done s (execGetLog h log off len s)
  | .getEventRecords h log => done s (execGetEventRecords h log s)
  | .clearEventRecords h log all handles => done s (execClearEventRecords h log all handles s)
  | .getEventInterruptPolicy h => done s (execGetEventInterruptPolicy h s)
  | .setEventInterruptPolicy h p => done s (execSetEventInterruptPolicy h p s)
  | .getAlertConfiguration h => done s (execGetAlertConfiguration h s)
  | .setAlertConfiguration h c => done s (execSetAlertConfiguration h c s)
  | .getPoisonList h dpa n => done s (execGetPoisonList h dpa n s)
  | .injectPoison h dpa => done s (execInjectPoison h dpa s)
  | .clearPoison h dpa data => done s (execClearPoison h dpa data s)
  | .getScanMediaCapabilities h dpa n => done s (execGetScanMediaCapabilities h dpa n s)
  | .scanMedia h dpa n => done s (execScanMedia h dpa n s)
  | .getScanMediaResults h => done s (execGetScanMediaResults h s)
  | .getFwInfo h => done s (execGetFwInfo h s)
  | .transferFw h v last genuine => done s (execTransferFw h v last s genuine)
  | .activateFw h => done s (execActivateFw h s)
  | .getTimestamp h => done s (execGetTimestamp h s)
  | .setTimestamp h ns => done s (execSetTimestamp h ns s)
  | .getDynamicCapacityConfiguration h ld => done s (execGetDynamicCapacityConfiguration h ld s)
  | .getDynamicCapacityExtentList h ld => done s (execGetDynamicCapacityExtentList h ld s)
  | .addDynamicCapacityResponse h ld es => done s (execAddDynamicCapacityResponse h ld es s)
  | .releaseDynamicCapacity h ld es => done s (execReleaseDynamicCapacity h ld es s)
  | .mailboxUnsupported h op => done s (execMailboxUnsupported h op s)
  | _ => s

/-! ### BAR2/3 -/

/-- A component or device register of BAR2/3: the bits that the part gives, and those that software writes. -/
def compParts (L : Image) (m : Mach) (h k : Nat) : Word × Word :=
  if hdmAt ≤ k ∧ k < hdmAt + hdmWords then hdmWord L m h (k - hdmAt)
  else if mboxAt ≤ k ∧ k < mboxAt + mboxWords then mboxWord m h (k - mboxAt)
  else (Config.compWord h k, Config.compMask h k)

/-- A component or device register. -/
def compRead (L : Image) (m : Mach) (h k : Nat) : Word := let x := compParts L m h k; softWord m.pci.comp (compKey h k) x.1 x.2

/-- The registers of a decoder that software has set up, as a commit takes them. -/
def softDecoder (L : Image) (m : Mach) (h n : Nat) : Decoder :=
  let w := fun (i : Nat) => (compRead L m h (hdmAt + 4 + 8 * n + i)).toNat
  let c := w 4
  { idx := Fin.ofNat 16 n, base := w 0 + 2 ^ 32 * w 1, size := w 2 + 2 ^ 32 * w 3, ways := waysOf (c / 16 % 16), gran := granOf (c % 16),
    skip := w 5 + 2 ^ 32 * w 6, lock := c / 256 % 2 == 1 }

/-- A write of a decoder's control register: COMMIT commits what software has set up, where its ways and granularity are supported; COMMIT cleared
uncommits the last decoder when it is not locked. -/
def hdmControl (L : Image) (m : Mach) (h : Fin 8) (n : Nat) : Mach :=
  let ds := m.hdmDecoders h
  let commit := (m.pci.comp.get 0#32 (compKey h (hdmAt + 8 + 8 * n))).getLsbD 9
  let d := softDecoder L m h n
  if commit ∧ ds[n]? = none ∧ d.ways ≠ 0 ∧ d.gran ≠ 0 then decCommit L m h 0 d
  else if !commit ∧ n + 1 = ds.length ∧ !(ds[n]?).any (·.lock) then
    let x := m.head h
    m.setHead h { x with decoders := x.decoders.filter (fun e => !(e.1 == ldKey m h 0 && e.2.idx.val == n)) }
  else m

/-- A write of a component or device register; what it starts follows (R44, R83). -/
def compWrite (s : State) (h : Fin 8) (k : Nat) (v : Word) (be : BitVec 4) : State :=
  let m := s.m
  let w := mergeWord (compRead s.live m h k) v be
  let m : Mach := { m with pci := { m.pci with comp := m.pci.comp.insert (compKey h k) w } }
  let s : State := { s with m }
  if hdmAt + 4 ≤ k ∧ k < hdmAt + hdmWords ∧ (k - hdmAt) % 8 = 0 then { s with m := hdmControl s.live m h ((k - hdmAt - 4) / 8) }
  else if k = mboxAt + 1 ∧ v.getLsbD 0 ∧ be.getLsbD 0 then
    let c := m.pci.comp.get 0#32 (compKey h (mboxAt + 2))
    let n := fld c 31 16 + 2 ^ 16 * fld (m.pci.comp.get 0#32 (compKey h (mboxAt + 3))) 4 0
    mboxRun s (mboxInstr s.live m h (fld c 15 0) (mboxIn m h (min n mboxBytes)))
  else s

end Sys2Proof.Machine
end

