-- ==== Sys2Proof/Machine/Access.lean ====
section
/-! DEFINITION. Register writes by their access types (R12, R521-R527), the registers with checks of their own, the monitor's
registers (R512-R517), and PCIe requests to the register BARs (R74, R522, R523). -/

namespace Sys2Proof.Machine

/-! ### RW registers -/

/-- A value that an RW register takes: the range rules of R71, R123, R135, R234, R295, R296, R325, R340, R359, R413, R426. -/
def rangeOk (off : Nat) (w : Word) : Bool :=
  let within := fun (hi lo a b : Nat) => decide (a ≤ fld w hi lo ∧ fld w hi lo ≤ b)
  if off = oTrkCfg then within 9 0 0 512 && within 26 16 16 1024
  else if off = oSnpTo then within 19 0 10 1000000
  else if off = oScbCtl then within 10 1 1 720 && within 13 11 1 7
  else if off = oStickyCfg then within 23 0 1 0xFFFFFF
  else if off = oPriTo then within 13 0 1 10000
  else if off = oHbTo then within 13 0 5 10000
  else if off = oTlyCtl then within 16 0 10 100000
  else if off = oStnCtl then within 5 0 1 63
  else match headReg off, mcReg off with
    | some (_, 0xC), _ => decide (fld w 25 16 < fld w 9 0)
    | _, some (_, 0x8) => within 6 0 2 64 && within 14 8 0 63 && decide (fld w 14 8 < fld w 6 0)
    | _, some (_, 0xC) | _, some (_, 0x10) => within 15 0 20 65535 && within 31 16 20 65535
    | _, _ => true

/-- What an RW register holds after a write: the writable bits. ARM_TO of PWR_CFG out of its range keeps its value. -/
def rwValue (m : Mach) (off : Nat) (v : Word) : Word :=
  let k := rwMask off
  let w := (m.reg off &&& ~~~k) ||| (v &&& k)
  if off = oPwrCfg ∧ (fld w 9 0 = 0 ∨ 1000 < fld w 9 0) then (w &&& ~~~0x3FF#32) ||| (m.reg off &&& 0x3FF#32) else w

/-- An accepted write of MCn_QCFG acts from the next MC cycle: a subchannel whose write queue stands at the new mark begins to drain, one that drains
goes on to the new low mark (R295). -/
def Mach.qcfgActs (m : Mach) (off : Nat) : Mach :=
  match mcReg off with
  | some (c, 8) => (m.drain (2 * c)).drain (2 * c + 1)
  | _ => m

/-- A write to an RW register: ignored as a whole when a range rule refuses the value. -/
def Mach.rw (m : Mach) (off : Nat) (v : Word) : Mach :=
  if rangeOk off (rwValue m off v) then (m.setReg off (rwValue m off v)).qcfgActs off else m

/-- The head that owns a register is absent (R37). -/
def Mach.absentReg (m : Mach) (off : Nat) : Bool :=
  match headReg off with
  | some (h, _) => (m.head h).st == .absent
  | none => false

/-- A register that cannot take a write (R37, R295, R296, R527). -/
def State.deaf (s : State) (off : Nat) : Bool := s.held off || s.m.absentReg off || s.m.unusedReg off

/-- A write to an RW register that can answer. -/
def State.rw (s : State) (off : Nat) (v : Word) : State := if s.deaf off then s else { s with m := s.m.rw off v }

/-- A write to a W1C register (R12). -/
def Mach.w1c (m : Mach) (off : Nat) (v : Word) : Mach := m.setReg off (m.reg off &&& ~~~(v &&& w1cMask off))

/-! ### The monitor (R509-R517) -/

/-- SNAP: every programmable and slot counter into its shadow. -/
def snapAll (m : Mach) : Mach := { m with pmu := { m.pmu with shadow := m.pmu.cnt } }

/-- FREEZE. -/
def freezeTo (m : Mach) (on : Bool) : Mach := m.setReg oPmuCtl ((m.reg oPmuCtl &&& ~~~2#32) ||| putB on 1)

/-- PMU_CTL. -/
def pmuCtlWrite (m : Mach) (v : Word) : Mach :=
  let m := m.rw oPmuCtl v
  if v.getLsbD 2 then snapAll m else m

/-- A write to a counter's LO or HI: only frozen, or with its EN = 0; the slot counters are read-only. -/
def cntWrite (m : Mach) (off : Nat) (v : Word) : Mach :=
  match pmuWord off with
  | some (k, lo) =>
    if 256 ≤ k ∨ !(m.frozen || !(m.reg (oSel k)).getLsbD 21) then m
    else
      let c := m.pmu.cnt.get 0 k
      let n := if lo then c / 2 ^ 32 * 2 ^ 32 + v.toNat else fld v 15 0 * 2 ^ 32 + c % 2 ^ 32
      { m with pmu := { m.pmu with cnt := m.pmu.cnt.set 0 k n } }
  | none => m

/-- The number of a counter. -/
def ctrNo : CtrId → Nat
  | .prog n => n
  | .slot s k => 256 + 5 * s.val + k.val

/-- The counter may count now (R509); slot counters need no set-up (R511). -/
def Mach.counts (m : Mach) (k : Nat) : Bool :=
  !m.frozen && (decide (256 ≤ k) || (m.rbit oPmuCtl 0 && m.rbit oPmuGrp (k / 16) && (m.reg (oSel k)).getLsbD 21))

/-- COUNTER_WRAP: one more occurrence on a counter that stands at 2^48 − 1. -/
def cntWrap (m : Mach) (k : Nat) : Mach := if m.counts k && m.pmu.cnt.get 0 k == 2 ^ 48 - 1 then m.cntAdd k 1 else m

/-- PMU_SMP_CFG: EN from 0 to 1 resets the pointers and the count. -/
def smpCfgWrite (m : Mach) (v : Word) : Mach :=
  let m := if !m.rbit oSmpCfg 0 && v.getLsbD 0 then { m with pmu := { m.pmu with wr := 0, rd := 0, full := false, left := 0, jit := 0 } } else m
  m.rw oSmpCfg v

/-! ### MSI-X tables -/

/-- A write to a DW of a function's table; a vector unmasked with its pending bit set is sent. -/
def msixWrite (m : Mach) (fn i : Nat) (v : Word) : Mach :=
  let w := if i % 4 = 3 then v &&& 1#32 else if i % 4 = 0 then v &&& 0xFFFFFFFC#32 else v
  let m : Mach := { m with msix := { m.msix with table := m.msix.table.set (if i % 4 = 3 then 1#32 else 0#32) (fn * 0x1000 + i) w } }
  if i % 4 = 3 ∧ !w.getLsbD 0 ∧ m.msix.pend.contains (fn, i / 4) then
    { m with msix := { m.msix with pend := m.msix.pend.erase (fn, i / 4) } }.send (.msix fn (i / 4))
  else m

/-! ### Registers whose writes are commands -/

/-- A drop that finds nothing in the link's own buffers: a reset or a disabling written over a register names none. -/
def noDrop : DropEnv := { partialWrites := 0, partialRecords := 0, skid := [] }

/-- GLB_STAGE_CTL (R95, R97, R100). -/
def stageCmd (s : State) (v : Word) : State :=
  let c := fld v 3 0
  let key := v.extractLsb' 8 24
  if c = 1 then done s (if v.getLsbD 4 then execPairedCheck s else execCheck s)
  else if c = 2 then done s (if v.getLsbD 4 then execPairedApply key s else execApply key s)
  else if c = 3 then done s (execDiscard s)
  else s

/-- GLB_RST_CTL (R490); what stands outside is as it was. -/
def resetCmd (s : State) (v : Word) : State :=
  let c := fld v 3 0
  let key := v.extractLsb' 8 24
  if c = 1 then done s (execWarm key noDrop s)
  else if c = 2 then done s (execCold key (sameEnv s.m) s)
  else if c = 3 then done s (execPartition key s)
  else s

/-- PWR_CTL (R480). -/
def powerCmd (s : State) (v : Word) : State :=
  let t := fld v 1 0
  if t = 0 then done s (execPwrDisarm s)
  else if t = 1 then done s (execPwrTargetDrowse s)
  else if t = 2 then done s (execPwrTargetDeep s)
  else s

/-- A head control register (R55): ENABLE written 0 disables the head, a DOWN one whose ENABLE is 0 too. -/
def headCtlWrite (s : State) (h : Fin 8) (v : Word) : State :=
  let was := s.m.rbit (oHeadCtl h) 0
  let s : State := { s with m := s.m.setReg (oHeadCtl h) ((s.m.reg (oHeadCtl h) &&& 1#32) ||| (v &&& 6#32)) }
  if v.getLsbD 0 then (if was then s else done s (execHeadEnable h s))
  else done s (execHeadDisable h noDrop s)

/-- LDG_CMD (R174). -/
def ledgerCmd (s : State) (v : Word) : State :=
  let c := fld v 3 0
  if c = 1 then done s (execRetire s) else if c = 2 then done s (execReleaseFrame s) else if c = 3 then done s (execReleaseCellar s) else s

/-- SCB_REP_CMD (R328): what the DIMM reports is a free value here. -/
def repairCmd (s : State) (v : Word) : State :=
  let c := fld v 3 0
  let b := Config.freeBool s.m.fresh
  let t : State := { s with m := s.m.tick }
  if c = 1 then done s (execRemap s)
  else if c = 2 then done s (execSppr b t)
  else if c = 3 then done s (execHppr b t)
  else if c = 4 then done s (execMark s)
  else if c = 5 then done s (execUnmark s)
  else if c = 6 then done s (execRetireCh s)
  else if c = 7 then done s (execUnretireCh s)
  else s

/-- CRY_KREQ_CTL (R252). -/
def keyCmd (s : State) (v : Word) : State :=
  let slot := Fin.ofNat 1024 (fld v 13 4)
  if !v.getLsbD 0 then s
  else if fld v 3 1 = 1 then done s (execKeyLoad slot (Fin.ofNat 64 (fld v 19 14)) s)
  else if fld v 3 1 = 2 then done s (execKeyClear slot s)
  else s

/-- WLD_WORLD_CTL (R443, R445). -/
def worldCmd (s : State) (v : Word) : State :=
  let key := v.extractLsb' 8 24
  if fld v 3 0 = 1 then done s (execRestartKeeper key s) else if fld v 3 0 = 2 then done s (execRestartSteward key s) else s

/-- WLD_TOKEN_CTL (R450). -/
def tokenCmd (s : State) (v : Word) : State :=
  if fld v 1 0 = 1 then done s (execTokenSubmit s) else if fld v 1 0 = 2 then done s (execTokenClear s) else s

/-- TST_SST_CTL (R497, R501). -/
def testCmd (s : State) (v : Word) : State :=
  let key := v.extractLsb' 8 24
  if fld v 3 0 = 1 then done s (execRun key s) else if fld v 3 0 = 2 then done s (execSstAbort key s) else s

/-- YK_CMD (R368). -/
def mirrorCmd (s : State) (v : Word) : State :=
  if fld v 3 0 = 1 then done s (execYkCmdTakeSource s) else if fld v 3 0 = 2 then done s (execFullResync s) else s

/-- HOM_CTL, with PEAK_CLR. -/
def homCtlWrite (m : Mach) (v : Word) : Mach :=
  let m := m.rw oHomCtl v
  if v.getLsbD 8 then { m with home := { m.home with peak := m.trackers.length } } else m

/-- Wrapped key words: ignored while a request runs (R252). -/
def keyData (m : Mach) (i : Nat) (v : Word) : Mach :=
  if m.cry.busy.isSome then m else { m with cry := { m.cry with data := m.cry.data.set 0#32 i v } }

/-- Token words: those of the request being judged stand (DESIGN CHOICE, log entry 19). -/
def tokenData (m : Mach) (i : Nat) (v : Word) : Mach :=
  if m.wld.tokenBusy then m else { m with wld := { m.wld with token := m.wld.token.set 0#32 i v } }

/-- Registers of GLB to PMU whose writes do more than store. -/
def lowCmd (s : State) (off : Nat) (v : Word) : Option State :=
  if off = oStageCtl then some (stageCmd s v)
  else if off = oRstCtl then some (resetCmd s v)
  else if off = oPwrCtl then some (powerCmd s v)
  else if off = oFltClr then some (done s (execFltClr v s))
  else if off = oSpillCfg then some (done s (execFltSpillCfgWrite 0 v s))
  else if off = oSpillLo then some (done s (execFltSpillCfgWrite 1 v s))
  else if off = oSpillHi then some (done s (execFltSpillCfgWrite 2 v s))
  else if off = oPmuCtl then some { s with m := pmuCtlWrite s.m v }
  else if off = oSmpCfg then some { s with m := smpCfgWrite s.m v }
  else match runIdx off 0x20140 4 8 with
    | some n => some (done s (execFltForceWrite (Fin.ofNat 8 n) v s))
    | none => if (pmuWord off).isSome then some { s with m := cntWrite s.m off v } else none

/-- Registers of the ports to the ciphers whose writes do more than store. -/
def midCmd (s : State) (off : Nat) (v : Word) : Option State :=
  if off = oHomCtl then some { s with m := homCtlWrite s.m v }
  else if off = oFmtCtl then some (if fld v 3 0 = 1 then done s (execFormat (v.extractLsb' 8 24) s) else s)
  else if off = oLdgCmd then some (ledgerCmd s v)
  else if off = oKreqCtl then some (keyCmd s v)
  else if 0x128000 ≤ off ∧ off < 0x129000 then some { s with m := msixWrite s.m mgmtFn ((off - 0x128000) / 4) v }
  else match runIdx off 0x400000 4 3, runIdx off 0x500100 4 22, headReg off with
    | some i, _, _ => some (done s (execChnEnWrite (Fin.ofNat 3 i) v s))
    | _, some i, _ => some { s with m := keyData s.m i v }
    | _, _, some (h, 0) => some (headCtlWrite s (Fin.ofNat 8 h) v)
    | _, _, _ => none

/-- Registers of the scrubber to the test block whose writes do more than store. -/
def highCmd (s : State) (off : Nat) (v : Word) : Option State :=
  if off = oStickyPop then some (done s (execScbStickyPop v s))
  else if off = oRepCmd then some (repairCmd s v)
  else if off = oYkCtl then some (done s (execYkEnWrite v s))
  else if off = oYkCmd then some (mirrorCmd s v)
  else if 0x906000 ≤ off ∧ off < 0x907000 ∧ off % 0x10 = 0xC then
    some (if v.getLsbD 0 then done s (execRingReset (Fin.ofNat 256 ((off - 0x906000) / 0x10)) s) else s)
  else if 0x908000 ≤ off ∧ off < 0x909000 then
    let n := Fin.ofNat 256 ((off - 0x908000) / 0x10)
    some (if off % 0x10 = 0 then done s (execDoorbellTail none n v s) else if off % 0x10 = 4 then done s (execDoorbellCqHead none n v s) else s)
  else if off = oWorldCtl then some (worldCmd s v)
  else if off = oTokenCtl then some (tokenCmd s v)
  else if off = oSstCtl then some (testCmd s v)
  else match runIdx off 0xC00100 4 28 with
    | some i => some { s with m := tokenData s.m i v }
    | none => none

/-- A register whose write does more than store. -/
def cmdWrite (s : State) (off : Nat) (v : Word) : Option State :=
  if off < 0x100000 then lowCmd s off v else if off < 0x600000 then midCmd s off v else highCmd s off v

/-- An ST register or a window of the stage. -/
def stagedOff (off : Nat) : Bool := off == oExtLo || off == oExtHi || off == oExtFill || off == oMapData || stMask off != 0#32

/-- A write to a Control BAR register (R12): ignored in a block that cannot answer (R37, R527) and at an offset that names no writable
register (R521). -/
def writeReg (s : State) (off : Nat) (v : Word) : State :=
  if s.deaf off then s
  else match cmdWrite s off v with
    | some t => t
    | none =>
      if stagedOff off then stagedPut s off v
      else if w1cMask off ≠ 0#32 then { s with m := s.m.w1c off v }
      else if rwMask off ≠ 0#32 then s.rw off v
      else s

/-- A write to a Head BAR word (R47, R48). -/
def headWriteReg (s : State) (h : Fin 8) (off : Nat) (v : Word) : State :=
  let m := s.m
  if headReserved off then { s with m := m.outOfPart h 5 off }
  else if off < 0x100000 then
    let n := Fin.ofNat 256 (off / 0x1000)
    if off % 0x1000 = 0 then done s (execDoorbellTail (some h) n v s)
    else if off % 0x1000 = 4 then done s (execDoorbellCqHead (some h) n v s)
    else if (presented s.live m h).contains (s.live.rOwner n) then s else { s with m := m.outOfPart h 5 off }
  else if 0x400000 ≤ off ∧ off < 0x600000 then
    if (windowPart s.live m h ((off - 0x400000) / 0x20000)).isSome then s else { s with m := m.outOfPart h 5 off }
  else if off = 0x600004 then { s with m := { m with hev := m.hev.set 0#32 h (m.hev.get 0#32 h &&& ~~~(v &&& 7#32)) } }
  else if 0x608000 ≤ off ∧ off < 0x608400 then { s with m := msixWrite m h ((off - 0x608000) / 4) v }
  else s

/-! ### Paths (R40, R74, R522, R523) -/

/-- The path reaches what is addressed: its link is up; the Control BAR is exposed there, and the management port has no other BAR (R40, R46,
R72). -/
def pathOpen (m : Mach) (p : Path) (bar : Bar) : Bool :=
  match p with
  | .mgmt => m.mgmt.up && (bar == .control || bar == .config)
  | .head h => m.linkFor h == 2 && (bar != .control || (h == 0 && m.straps.bootSrc.val / 2 == 1))

/-- The function at the end of a path. -/
def pathFn : Path → Nat
  | .mgmt => mgmtFn
  | .head h => h

/-- The head whose link a path uses. -/
def pathHead : Path → Option (Fin 8)
  | .mgmt => none
  | .head h => some h

/-- GLB_ACC_ADDR of a request. -/
def accAddr (p : Path) (headBar : Bool) (off : Nat) : Word :=
  put (off % 2 ^ 26) 0 ||| putB headBar 26 ||| (match p with
    | .mgmt => put 1 30
    | .head h => put h.val 27)

/-- A request that sets bits of GLB_ACC_ERR is recorded once (R523). -/
def Mach.accErr (m : Mach) (p : Path) (bar : Bar) (off : Nat) (bits : Word) : Mach :=
  if bits = 0#32 then m else (m.evt oAccErr bits).setReg oAccAddr (accAddr p (bar == .head) off)

/-! ### Requests to configuration space and BAR2/3 (R46, R58) -/

/-- The double words of a request. -/
def dwNos (off n words : Nat) : List Nat := (List.range n).map (fun i => (off / 4 + i) % words)

/-- A configuration request: Request Retry Status until the function is ready. -/
def cfgRequest (m : Mach) (p : Path) (f : Mach → Mach) : Mach :=
  let m := cfgReady m (pathFn p)
  if m.pci.ready.contains (pathFn p) then f m else m.send (.cfgRetry p)

/-- A write of configuration space or BAR2/3; a poisoned one is discarded. -/
def wideWrite (s : State) (a : WriteReq) : State :=
  let each := fun {α : Type} (words : Nat) (f : α → Nat → Word → BitVec 4 → α) (x : α) =>
    if a.ep then x else ((dwNos a.off.toNat a.dws.length words).zip a.dws).foldl (fun x d => f x d.1 d.2.1 d.2.2) x
  match a.bar, a.path with
  | .config, p => { s with m := cfgRequest s.m p (each 1024 (fun m k v be => cfgWrite m (pathFn p) k v be)) }
  | _, .head h => each 16384 (fun s k v be => compWrite s h k v be) s
  | _, .mgmt => s

/-- A read of configuration space or BAR2/3. -/
def wideRead (L : Image) (m : Mach) (a : ReadReq) : Mach :=
  let words := fun (f : Mach → Nat → Nat → Word) (n : Nat) (m : Mach) =>
    m.send (.regData a.path ((dwNos a.off.toNat a.dws n).map (f m (pathFn a.path))))
  if a.bar = .config then cfgRequest m a.path (words cfgRead 1024) else words (compRead L) 16384 m

/-! ### Requests to the Control BAR and the Head BAR (R74, R522, R523) -/

/-- One DW of a write. -/
def writeDw (s : State) (p : Path) (bar : Bar) (off : Nat) (v : Word) : State :=
  match p, bar with
  | .head h, .head => headWriteReg s h off v
  | _, _ => writeReg s off v

/-- One DW of a read. -/
def readDw (s : State) (p : Path) (bar : Bar) (off : Nat) : Word × State :=
  match p, bar with
  | .head h, .head => headRead s h off
  | _, _ => readOne s off

/-- DWs of a write that are taken, the lower address first; a DW with byte enables clear is ignored. -/
def writeDws (s : State) (a : WriteReq) : State :=
  (a.dws.zipIdx).foldl (fun s d =>
    if d.1.2 = 0xF#4 then writeDw s a.path a.bar ((a.off.toNat / 4 + d.2) % 2 ^ 24 * 4) d.1.1 else s) s

/-- The bits of GLB_ACC_ERR that a write sets: those of every row that it fits (R522). -/
def writeErr (a : WriteReq) : Word :=
  putB (a.dws.any (fun d => d.2 != 0xF#4)) 0 ||| putB (decide (2 < a.dws.length)) 1 ||| putB a.ep 2

/-- What a request to the Control BAR or the Head BAR is: neither configuration space nor BAR2/3. -/
def isRegBar (b : Bar) : Bool := b == .control || b == .head

/-- A posted write of a head waits behind a tally write of it (R410). -/
def postHeld (m : Mach) (p : Path) (bar : Bar) : Bool :=
  match p with
  | .head h => bar != .config && !(m.head h).post.isEmpty
  | .mgmt => false

/-- A write request. -/
def writeRequest (s : State) (a : WriteReq) : State :=
  if !pathOpen s.m a.path a.bar || postHeld s.m a.path a.bar then s
  else
    let s : State := { s with m := touch s.live s.m }
    if !s.m.answers then s
    else if !isRegBar a.bar then wideWrite s a
    else if inTally a.bar a.off.toNat then
      match a.path with
      | .head h => { s with m := tallyPost s.live s.latch s.m h (a.off.toNat % 2 ^ 23) (4 * a.dws.length) (tallyRecs a.ep a.dws) }
      | .mgmt => s
    else
      let t := if a.dws.length ≤ 2 ∧ !a.ep then writeDws s a else s
      { t with m := t.m.accErr a.path a.bar a.off.toNat (writeErr a) }

/-- A read request: its words, or Completer Abort past two DWs. -/
def readRequest (s : State) (a : ReadReq) : State :=
  if !pathOpen s.m a.path a.bar then s
  else
    let s : State := { s with m := touch s.live s.m }
    if !s.m.answers then s
    else if !isRegBar a.bar then { s with m := wideRead s.live s.m a }
    else if inTally a.bar a.off.toNat then { s with m := s.m.send (.regData a.path (List.replicate a.dws 0#32)) }
    else if 2 < a.dws then { s with m := (s.m.accErr a.path a.bar a.off.toNat 2#32).send (.cplAbort a.path) }
    else
      let r := (List.range a.dws).foldl (fun (acc : List Word × State) i =>
        let x := readDw acc.2 a.path a.bar ((a.off.toNat / 4 + i) % 2 ^ 24 * 4)
        (acc.1 ++ [x.1], x.2)) ([], s)
      { r.2 with m := r.2.m.send (.regData a.path r.1) }

/-! ### Meanings -/

/-- REG_WRITE; one over the link of a head that is in Recovery is held (R54). -/
def execRegWrite (a : WriteReq) (s : State) : Host.Outcome State Fault Refusal :=
  receivedVia s (pathHead a.path) (.regWrite a) (fun s => .next (settle (writeRequest s a)))

/-- QCFG_WRITE (R71). -/
def execQcfgWrite (h : Fin 8) (v : Word) (s : State) : Host.Outcome State Fault Refusal := .next (s.rw (oHeadQcfg h) v)

/-- HOM_TRK_CFG_WRITE (R135). -/
def execHomTrkCfgWrite (v : Word) (s : State) : Host.Outcome State Fault Refusal := .next (s.rw oTrkCfg v)

/-- HOM_SNP_TO_WRITE (R123). -/
def execHomSnpToWrite (v : Word) (s : State) : Host.Outcome State Fault Refusal := .next (s.rw oSnpTo v)

/-- MC_QCFG_WRITE (R295). -/
def execMcQcfgWrite (ch : Fin 12) (v : Word) (s : State) : Host.Outcome State Fault Refusal := .next (s.rw (oMcQcfg ch) v)

/-- MC_LAT_WRITE (R296). -/
def execMcLatWrite (ch : Fin 12) (i : Fin 2) (v : Word) (s : State) : Host.Outcome State Fault Refusal := .next (s.rw (oMcLat ch i) v)

/-- SCB_CTL_WRITE (R340). -/
def execScbCtlWrite (v : Word) (s : State) : Host.Outcome State Fault Refusal := .next (s.rw oScbCtl v)

/-- SNAP. -/
def execSnap (s : State) : Host.Outcome State Fault Refusal := s.op snapAll

/-- FREEZE. -/
def execFreeze (on : Bool) (s : State) : Host.Outcome State Fault Refusal := s.op (fun m => freezeTo m on)

/-- COUNTER_LO_READ: a register read; one of a counter's LO word latches its HI. -/
def execCounterLoRead (a : ReadReq) (s : State) : Host.Outcome State Fault Refusal := 
  receivedVia s (pathHead a.path) (.counterLoRead a) (fun s => .next (settle (readRequest s a)))

/-- COUNTER_WRITE. -/
def execCounterWrite (off : BitVec 26) (v : Word) (s : State) : Host.Outcome State Fault Refusal := s.op (fun m => cntWrite m off.toNat v)

/-- COUNTER_WRAP. -/
def execCounterWrap (c : CtrId) (s : State) : Host.Outcome State Fault Refusal := s.op (fun m => cntWrap m (ctrNo c))

/-- SAMPLING_ENABLE: a write of PMU_SMP_CFG. -/
def execSamplingEnable (v : Word) (s : State) : Host.Outcome State Fault Refusal := s.op (fun m => smpCfgWrite m v)

/-- SMP_DATA0_READ. -/
def execSmpData0Read (s : State) : Host.Outcome State Fault Refusal :=
  .next { s with m := smpFirst (s.m.send (.regData .mgmt [readReg s 0x33020])) }

/-- SMP_DATA7_READ. -/
def execSmpData7Read (s : State) : Host.Outcome State Fault Refusal :=
  .next { s with m := smpLast (s.m.send (.regData .mgmt [readReg s 0x3303C])) }

/-- PLDM_REQUEST (R545, R549): sensor 0 is the die temperature; the readings of other sensors are free values (log entry 1). -/
def execPldmRequest (sensor : Nat) (s : State) : Host.Outcome State Fault Refusal :=
  s.op (fun m =>
    if !m.stewardOn then m
    else
      let v : Int := if sensor = 0 then m.tj else Config.freeNat m.fresh
      (m.send (.pldm (Config.pldmBytes sensor v))).tick)

end Sys2Proof.Machine
end

