-- ==== Sys2Proof/Machine/Replay.lean ====
section
/-! DEFINITION. What was held is processed, once and in order: a head leaves Recovery (R54, R55, R62), the part leaves DROWSE (R480, R527). -/

namespace Sys2Proof.Machine

/-- What a head sent in Recovery, or any link brought in DROWSE, is processed. -/
def replayOne (s : State) (i : Instr) : State :=
  match i with
  | .memRd h ld tag hpa m sram => done s (execMemRd h ld tag hpa m sram s)
  | .memWr h ld tag hpa m data poison sram => done s (execMemWr h ld tag hpa m data poison sram s)
  | .memClnEvct h ld tag hpa sram => done s (execMemClnEvct h ld tag hpa s sram)
  | .atomicOp h ld tag hpa op sram => done s (execAtomicOp h ld tag hpa op s sram)
  | .cxlIoMemoryRequest h ld tag hpa write be data sram => done s (execCxlIoMemoryRequest h ld tag hpa write be data s sram)
  | .birsp h line rsp => done s (execBirsp h line rsp s)
  | .biconflict h line => done s (execBiconflict h line s)
  | .tallyRecordPost h off bytes recs => done s (execTallyRecordPost h off bytes recs s)
  | .hdmDecoderCommit h ld d => done s (execHdmDecoderCommit h ld d s)
  | .doorbellTail via ring v => done s (execDoorbellTail via ring v s)
  | .doorbellCqHead via ring v => done s (execDoorbellCqHead via ring v s)
  | .prgResponse job code => done s (execPrgResponse job code s)
  | .regWrite a => done s (execRegWrite a s)
  | .counterLoRead a => done s (execCounterLoRead a s)
  | .viralRx h => done s (execViralRx h s)
  | .flr h => done s (execFlr h s)
  | .spdmRequest h req => done s (execSpdmRequest h req s)
  | .kekInstall h session kek => done s (execKekInstall h session kek s)
  | .provisioningRequest h session root => done s (execProvisioningRequest h session root s)
  | .query h => done s (execQuery h s)
  | .keyProg h set key => done s (execKeyProg h set key s)
  | .kSetGo h set => done s (execKSetGo h set s)
  | .kSetStop h set => done s (execKSetStop h set s)
  | i => mboxRun s i

/-- A head in Recovery reaches L0. What was replayed may end with a flit that fails its IDE check (R55). -/
def recoveryExit (s : State) (h width : Nat) (ideFail : Bool) : State :=
  let held := (s.m.head h).held
  let s := held.foldl replayOne (settle { s with m := recoveryOut s.latch s.m h width })
  settle { s with m := recoveryEnd s.live s.latch s.m h ideFail }

/-- LTSSM_RECOVERY_EXIT. -/
def execLtssmRecoveryExit (h : Fin 8) (width : Nat) (ideFail : Bool) (s : State) : Host.Outcome State Fault Refusal :=
  .next (if (s.m.head h).st = .recovery then recoveryExit s h width ideFail else s)

/-! ### DROWSE (R480, R485, R527) -/

/-- What the link of head `h` brought in DROWSE is processed. -/
def replayHead (s : State) (h : Nat) : State :=
  let x := s.m.head h
  if s.m.holdsFrom h || x.held.isEmpty then s else x.held.foldl replayOne { s with m := s.m.setHead h { x with held := [] } }

/-- What the management link brought in DROWSE is processed. -/
def replayMgmt (s : State) : State :=
  if s.m.dozing || s.m.mgmt.held.isEmpty then s
  else s.m.mgmt.held.foldl replayOne { s with m := { s.m with mgmt := { s.m.mgmt with held := [] } } }

/-- The accesses held in DROWSE are served, link by link: the heads in their order and then the management port; the rules give no order among
links (DESIGN CHOICE, log entry 25). -/
def replayAll (s : State) : State := replayMgmt ((List.range 8).foldl replayHead s)

/-- DROWSE_EXIT_DONE. -/
def execDrowseExitDone (s : State) : Host.Outcome State Fault Refusal :=
  .next (replayAll (settle { s with m := drowseExit s.live s.m }))

end Sys2Proof.Machine
end

