-- ==== Sys2Proof/Machine/Dispatch.lean ====
section
/-! DEFINITION. One arm per command: a direct call of its meaning. -/

namespace Sys2Proof.Machine

/-- The effect of a command on everything but the queue, by the rules of its row. -/
def exec (i : Instr) (s : State) : Host.Outcome State Fault Refusal :=
  match i with
  | .memRd h ld tag hpa m sram => Sys2Proof.Machine.execMemRd h ld tag hpa m sram s
  | .memWr h ld tag hpa m data poison sram => Sys2Proof.Machine.execMemWr h ld tag hpa m data poison sram s
  | .memClnEvct h ld tag hpa sram => Sys2Proof.Machine.execMemClnEvct h ld tag hpa s sram
  | .atomicOp h ld tag hpa op sram => Sys2Proof.Machine.execAtomicOp h ld tag hpa op s sram
  | .regulatorAdmit errs => Sys2Proof.Machine.execRegulatorAdmit s errs
  | .windowBoundary => Sys2Proof.Machine.execWindowBoundary s
  | .ledgerFetchDone lline e0 e1 => Sys2Proof.Machine.execLedgerFetchDone lline e0 e1 s
  | .wedgeDecodeDone page wedge => Sys2Proof.Machine.execWedgeDecodeDone page wedge s
  | .dramReadDone ch sub errs misroute => Sys2Proof.Machine.execDramReadDone ch sub errs misroute s
  | .writeBack line => Sys2Proof.Machine.execWriteBack line s
  | .fabricWaitRelease ch sub => Sys2Proof.Machine.execFabricWaitRelease ch sub s
  | .setStallRelease req => Sys2Proof.Machine.execSetStallRelease req s
  | .frameAllocate page => Sys2Proof.Machine.execFrameAllocate page s
  | .mediaSettled => Sys2Proof.Machine.execMediaSettled s
  | .birsp h line rsp => Sys2Proof.Machine.execBirsp h line rsp s
  | .biconflict h line => Sys2Proof.Machine.execBiconflict h line s
  | .snoopTimeout h line => Sys2Proof.Machine.execSnoopTimeout h line s
  | .perstAssert h d => Sys2Proof.Machine.execPerstAssert h d s
  | .perstDeassert h => Sys2Proof.Machine.execPerstDeassert h s
  | .headDisable h d => Sys2Proof.Machine.execHeadDisable h d s
  | .headEnable h => Sys2Proof.Machine.execHeadEnable h s
  | .linkL0Reached h width speed mld bi ide => Sys2Proof.Machine.execLinkL0Reached h width speed mld bi ide s
  | .memoryReady => Sys2Proof.Machine.execMemoryReady s
  | .ltssmRecoveryEnter h replays fec own => Sys2Proof.Machine.execLtssmRecoveryEnter h replays s fec own
  | .ltssmRecoveryExit h width ideFail => Sys2Proof.Machine.execLtssmRecoveryExit h width ideFail s
  | .linkDown h d => Sys2Proof.Machine.execLinkDown h d s
  | .dropFilterWalkDone h => Sys2Proof.Machine.execDropFilterWalkDone h s
  | .dropEntriesFreed h => Sys2Proof.Machine.execDropEntriesFreed h s
  | .ideIntegrityFail h => Sys2Proof.Machine.execIdeIntegrityFail h s
  | .ideStreamReenable h => Sys2Proof.Machine.execIdeStreamReenable h s
  | .viralRx h => Sys2Proof.Machine.execViralRx h s
  | .l0pIdleRequest h => Sys2Proof.Machine.execL0pIdleRequest h s
  | .l0pChangeDone h width => Sys2Proof.Machine.execL0pChangeDone h width s
  | .mpPerstNAssert => Sys2Proof.Machine.execMpPerstNAssert s
  | .mgmtLinkDown => Sys2Proof.Machine.execMgmtLinkDown s
  | .tallyRecordPost h off bytes recs => Sys2Proof.Machine.execTallyRecordPost h off bytes recs s
  | .coalescerAgeMerge line => Sys2Proof.Machine.execCoalescerAgeMerge line s
  | .tallyMerge line => Sys2Proof.Machine.execTallyMerge line s
  | .identifyMemoryDevice h => Sys2Proof.Machine.execIdentifyMemoryDevice h s
  | .getPartitionInfo h => Sys2Proof.Machine.execGetPartitionInfo h s
  | .getHealthInfo h => Sys2Proof.Machine.execGetHealthInfo h s
  | .getSupportedLogs h => Sys2Proof.Machine.execGetSupportedLogs h s
  | .getLog h log off len => Sys2Proof.Machine.execGetLog h log off len s
  | .getEventRecords h log => Sys2Proof.Machine.execGetEventRecords h log s
  | .clearEventRecords h log all handles => Sys2Proof.Machine.execClearEventRecords h log all handles s
  | .getEventInterruptPolicy h => Sys2Proof.Machine.execGetEventInterruptPolicy h s
  | .setEventInterruptPolicy h policy => Sys2Proof.Machine.execSetEventInterruptPolicy h policy s
  | .getAlertConfiguration h => Sys2Proof.Machine.execGetAlertConfiguration h s
  | .setAlertConfiguration h cfg => Sys2Proof.Machine.execSetAlertConfiguration h cfg s
  | .getPoisonList h dpa lines => Sys2Proof.Machine.execGetPoisonList h dpa lines s
  | .injectPoison h dpa => Sys2Proof.Machine.execInjectPoison h dpa s
  | .clearPoison h dpa data => Sys2Proof.Machine.execClearPoison h dpa data s
  | .getScanMediaCapabilities h dpa lines => Sys2Proof.Machine.execGetScanMediaCapabilities h dpa lines s
  | .scanMedia h dpa lines => Sys2Proof.Machine.execScanMedia h dpa lines s
  | .scanMediaDone h errs => Sys2Proof.Machine.execScanMediaDone h s errs
  | .getScanMediaResults h => Sys2Proof.Machine.execGetScanMediaResults h s
  | .getFwInfo h => Sys2Proof.Machine.execGetFwInfo h s
  | .transferFw h version last genuine => Sys2Proof.Machine.execTransferFw h version last s genuine
  | .transferFwDone h => Sys2Proof.Machine.execTransferFwDone h s
  | .activateFw h => Sys2Proof.Machine.execActivateFw h s
  | .activateFwDone h => Sys2Proof.Machine.execActivateFwDone h s
  | .getTimestamp h => Sys2Proof.Machine.execGetTimestamp h s
  | .setTimestamp h ns => Sys2Proof.Machine.execSetTimestamp h ns s
  | .getDynamicCapacityConfiguration h ld => Sys2Proof.Machine.execGetDynamicCapacityConfiguration h ld s
  | .getDynamicCapacityExtentList h ld => Sys2Proof.Machine.execGetDynamicCapacityExtentList h ld s
  | .addDynamicCapacityResponse h ld entries => Sys2Proof.Machine.execAddDynamicCapacityResponse h ld entries s
  | .releaseDynamicCapacity h ld entries => Sys2Proof.Machine.execReleaseDynamicCapacity h ld entries s
  | .mailboxUnsupported h opcode => Sys2Proof.Machine.execMailboxUnsupported h opcode s
  | .regWrite a => Sys2Proof.Machine.execRegWrite a s
  | .qcfgWrite h v => Sys2Proof.Machine.execQcfgWrite h v s
  | .homTrkCfgWrite v => Sys2Proof.Machine.execHomTrkCfgWrite v s
  | .homSnpToWrite v => Sys2Proof.Machine.execHomSnpToWrite v s
  | .mcQcfgWrite ch v => Sys2Proof.Machine.execMcQcfgWrite ch v s
  | .mcLatWrite ch idx v => Sys2Proof.Machine.execMcLatWrite ch idx v s
  | .chnEnWrite idx v => Sys2Proof.Machine.execChnEnWrite idx v s
  | .scbCtlWrite v => Sys2Proof.Machine.execScbCtlWrite v s
  | .stagedWrite off v => Sys2Proof.Machine.execStagedWrite off v s
  | .extDataHiWrite v => Sys2Proof.Machine.execExtDataHiWrite v s
  | .extDataHiRead => Sys2Proof.Machine.execExtDataHiRead s
  | .extFill v => Sys2Proof.Machine.execExtFill v s
  | .mapDataWrite v => Sys2Proof.Machine.execMapDataWrite v s
  | .mapDataRead => Sys2Proof.Machine.execMapDataRead s
  | .check => Sys2Proof.Machine.execCheck s
  | .pairedCheck => Sys2Proof.Machine.execPairedCheck s
  | .checkDone => Sys2Proof.Machine.execCheckDone s
  | .apply key => Sys2Proof.Machine.execApply key s
  | .pairedApply key => Sys2Proof.Machine.execPairedApply key s
  | .applyInstant => Sys2Proof.Machine.execApplyInstant s
  | .discard => Sys2Proof.Machine.execDiscard s
  | .format key => Sys2Proof.Machine.execFormat key s
  | .formatDone => Sys2Proof.Machine.execFormatDone s
  | .recountWalkDone => Sys2Proof.Machine.execRecountWalkDone s
  | .moveStart => Sys2Proof.Machine.execMoveStart s
  | .promotionDone page errs => Sys2Proof.Machine.execPromotionDone page s errs
  | .demotionDone page errs => Sys2Proof.Machine.execDemotionDone page s errs
  | .sweepVisit => Sys2Proof.Machine.execSweepVisit s
  | .frameClear => Sys2Proof.Machine.execFrameClear s
  | .retire => Sys2Proof.Machine.execRetire s
  | .releaseFrame => Sys2Proof.Machine.execReleaseFrame s
  | .releaseCellar => Sys2Proof.Machine.execReleaseCellar s
  | .doorbellTail via ring v => Sys2Proof.Machine.execDoorbellTail via ring v s
  | .doorbellCqHead via ring v => Sys2Proof.Machine.execDoorbellCqHead via ring v s
  | .ringReset ring => Sys2Proof.Machine.execRingReset ring s
  | .ringResetDone ring => Sys2Proof.Machine.execRingResetDone ring s
  | .descriptorFetch ring => Sys2Proof.Machine.execDescriptorFetch ring s
  | .retiringDone ring => Sys2Proof.Machine.execRetiringDone ring s
  | .copy job => Sys2Proof.Machine.execCopy job s
  | .fill job => Sys2Proof.Machine.execFill job s
  | .compress job => Sys2Proof.Machine.execCompress job s
  | .decompress job => Sys2Proof.Machine.execDecompress job s
  | .checksum job => Sys2Proof.Machine.execChecksum job s
  | .cultureTrain job => Sys2Proof.Machine.execCultureTrain job s
  | .promote job => Sys2Proof.Machine.execPromote job s
  | .demote job => Sys2Proof.Machine.execDemote job s
  | .pin job => Sys2Proof.Machine.execPin job s
  | .unpin job => Sys2Proof.Machine.execUnpin job s
  | .forget job => Sys2Proof.Machine.execForget job s
  | .tallyBatch job => Sys2Proof.Machine.execTallyBatch job s
  | .tallyRead job => Sys2Proof.Machine.execTallyRead job s
  | .strain job => Sys2Proof.Machine.execStrain job s
  | .strainInsert job => Sys2Proof.Machine.execStrainInsert job s
  | .strainDelete job => Sys2Proof.Machine.execStrainDelete job s
  | .scrubRange job errs => Sys2Proof.Machine.execScrubRange job s errs
  | .fence job => Sys2Proof.Machine.execFence job s
  | .nop job => Sys2Proof.Machine.execNop job s
  | .completionRecordWrite job => Sys2Proof.Machine.execCompletionRecordWrite job s
  | .ringItimeExpire ring => Sys2Proof.Machine.execRingItimeExpire ring s
  | .ringError ring job => Sys2Proof.Machine.execRingError ring job s
  | .workEnqueue w => Sys2Proof.Machine.execWorkEnqueue w s
  | .churnFree churn => Sys2Proof.Machine.execChurnFree churn s
  | .churnLend ready => Sys2Proof.Machine.execChurnLend ready s
  | .jobCheckpoint job => Sys2Proof.Machine.execJobCheckpoint job s
  | .localMemoryUe churn syn => Sys2Proof.Machine.execLocalMemoryUe churn syn s
  | .contextSlotFree => Sys2Proof.Machine.execContextSlotFree s
  | .translationFault job addr ats pri => Sys2Proof.Machine.execTranslationFault job addr ats pri s
  | .priPageRequest job room => Sys2Proof.Machine.execPriPageRequest job s room
  | .prgResponse job code => Sys2Proof.Machine.execPrgResponse job code s
  | .priTimeout job => Sys2Proof.Machine.execPriTimeout job s
  | .cultureCopyDone slot => Sys2Proof.Machine.execCultureCopyDone slot s
  | .keyLoad slot owner => Sys2Proof.Machine.execKeyLoad slot owner s
  | .keyClear slot => Sys2Proof.Machine.execKeyClear slot s
  | .keyRequestDone => Sys2Proof.Machine.execKeyRequestDone s
  | .dramCmdIssue ch sub blocked held why astray => Sys2Proof.Machine.execDramCmdIssue ch sub blocked held why s astray
  | .urgencyRaise ch sub entry waited => Sys2Proof.Machine.execUrgencyRaise ch sub entry waited s
  | .refreshDue ch sub lrank => Sys2Proof.Machine.execRefreshDue ch sub lrank s
  | .mr4Poll ch hot => Sys2Proof.Machine.execMr4Poll ch hot s
  | .zqCalibration ch => Sys2Proof.Machine.execZqCalibration ch s
  | .dqsOscRead ch drifted => Sys2Proof.Machine.execDqsOscRead ch drifted s
  | .spdTempPoll ch hot => Sys2Proof.Machine.execSpdTempPoll ch hot s
  | .caParityAlert ch sub rank die again => Sys2Proof.Machine.execCaParityAlert ch sub rank die again s
  | .selfRefreshExit ch sub => Sys2Proof.Machine.execSelfRefreshExit ch sub s
  | .canaryCheck ch sub errs => Sys2Proof.Machine.execCanaryCheck ch sub errs s
  | .channelTrainingDone ch r => Sys2Proof.Machine.execChannelTrainingDone ch r s
  | .scrubLine errs errs1 => Sys2Proof.Machine.execScrubLine errs errs1 s
  | .suspectScrub ch sub rank die bank errs => Sys2Proof.Machine.execSuspectScrub ch sub rank die bank errs s
  | .scbStickyPop v => Sys2Proof.Machine.execScbStickyPop v s
  | .remap => Sys2Proof.Machine.execRemap s
  | .remapDone errs => Sys2Proof.Machine.execRemapDone errs s
  | .sppr resource => Sys2Proof.Machine.execSppr resource s
  | .spprDone ok errs => Sys2Proof.Machine.execSpprDone ok errs s
  | .hppr resource => Sys2Proof.Machine.execHppr resource s
  | .hpprDone ok => Sys2Proof.Machine.execHpprDone ok s
  | .mark => Sys2Proof.Machine.execMark s
  | .unmark => Sys2Proof.Machine.execUnmark s
  | .retireCh => Sys2Proof.Machine.execRetireCh s
  | .retireChDone => Sys2Proof.Machine.execRetireChDone s
  | .relocationDone page errs => Sys2Proof.Machine.execRelocationDone page s errs
  | .unretireCh => Sys2Proof.Machine.execUnretireCh s
  | .unretireChDone => Sys2Proof.Machine.execUnretireChDone s
  | .voteAudit upsets audit => Sys2Proof.Machine.execVoteAudit upsets s audit
  | .yokeTrainingDone peerRole width half => Sys2Proof.Machine.execYokeTrainingDone peerRole width half s
  | .yokeRoleRetry => Sys2Proof.Machine.execYokeRoleRetry s
  | .ykEnWrite v => Sys2Proof.Machine.execYkEnWrite v s
  | .ykRetrain => Sys2Proof.Machine.execYkRetrain s
  | .ykWidthReq req => Sys2Proof.Machine.execYkWidthReq req s
  | .yokeRetrainDone width half => Sys2Proof.Machine.execYokeRetrainDone width half s
  | .laneErrorCheck => Sys2Proof.Machine.execLaneErrorCheck s
  | .yokeFlitRx flit => Sys2Proof.Machine.execYokeFlitRx flit s
  | .yokeHbTimeout => Sys2Proof.Machine.execYokeHbTimeout s
  | .yokeLaneLoss lane => Sys2Proof.Machine.execYokeLaneLoss lane s
  | .heartbeatSend => Sys2Proof.Machine.execHeartbeatSend s
  | .writeRecord hdr data => Sys2Proof.Machine.execWriteRecord hdr data s
  | .poisonRecord hdr => Sys2Proof.Machine.execPoisonRecord hdr s
  | .forgetPageRecord hdr => Sys2Proof.Machine.execForgetPageRecord hdr s
  | .resyncLineRecord hdr data => Sys2Proof.Machine.execResyncLineRecord hdr data s
  | .ack0 count => Sys2Proof.Machine.execAck0 count s
  | .ack3 count => Sys2Proof.Machine.execAck3 count s
  | .reject0 num => Sys2Proof.Machine.execReject0 num s
  | .reject3 num => Sys2Proof.Machine.execReject3 num s
  | .heartbeat state frame => Sys2Proof.Machine.execHeartbeat state frame s
  | .status selfId peerId trust nonempty digest pairseq => Sys2Proof.Machine.execStatus selfId peerId trust nonempty digest pairseq s
  | .vec chunk bits => Sys2Proof.Machine.execVec chunk bits s
  | .vecReq staged => Sys2Proof.Machine.execVecReq staged s
  | .map chunk bits => Sys2Proof.Machine.execMap chunk bits s
  | .arm crc => Sys2Proof.Machine.execArm crc s
  | .go frame => Sys2Proof.Machine.execGo frame s
  | .goAck frame => Sys2Proof.Machine.execGoAck frame s
  | .abort => Sys2Proof.Machine.execAbort s
  | .pairedArmTimeout => Sys2Proof.Machine.execPairedArmTimeout s
  | .pairedFrameF => Sys2Proof.Machine.execPairedFrameF s
  | .classA => Sys2Proof.Machine.execClassA s
  | .takeSource => Sys2Proof.Machine.execTakeSource s
  | .resyncDone sent => Sys2Proof.Machine.execResyncDone sent s
  | .ykCmdTakeSource => Sys2Proof.Machine.execYkCmdTakeSource s
  | .fullResync => Sys2Proof.Machine.execFullResync s
  | .unitCopyDone unit => Sys2Proof.Machine.execUnitCopyDone unit s
  | .lagWaitRelease => Sys2Proof.Machine.execLagWaitRelease s
  | .internalBusAccess target sec addr issuer wr => Sys2Proof.Machine.execInternalBusAccess target sec addr s issuer wr
  | .blockRelease n => Sys2Proof.Machine.execBlockRelease n s
  | .keeperClaim n => Sys2Proof.Machine.execKeeperClaim n s
  | .stewardAsk n grant => Sys2Proof.Machine.execStewardAsk n grant s
  | .quiesceReport n => Sys2Proof.Machine.execQuiesceReport n s
  | .quiesceTimerExpire n => Sys2Proof.Machine.execQuiesceTimerExpire n s
  | .handoverResetDone n => Sys2Proof.Machine.execHandoverResetDone n s
  | .gateRequest n sec gate addr => Sys2Proof.Machine.execGateRequest n sec gate addr s
  | .secureWatchdogExpire => Sys2Proof.Machine.execSecureWatchdogExpire s
  | .normalWatchdogExpire => Sys2Proof.Machine.execNormalWatchdogExpire s
  | .restartKeeper key => Sys2Proof.Machine.execRestartKeeper key s
  | .keeperRestartDone ok => Sys2Proof.Machine.execKeeperRestartDone ok s
  | .restartSteward key => Sys2Proof.Machine.execRestartSteward key s
  | .stewardRestartDone version => Sys2Proof.Machine.execStewardRestartDone version s
  | .tokenSubmit => Sys2Proof.Machine.execTokenSubmit s
  | .tokenDone => Sys2Proof.Machine.execTokenDone s
  | .tokenClear => Sys2Proof.Machine.execTokenClear s
  | .spdmRequest h req => Sys2Proof.Machine.execSpdmRequest h req s
  | .kekInstall h session kek => Sys2Proof.Machine.execKekInstall h session kek s
  | .provisioningRequest h session root => Sys2Proof.Machine.execProvisioningRequest h session root s
  | .query h => Sys2Proof.Machine.execQuery h s
  | .keyProg h set key => Sys2Proof.Machine.execKeyProg h set key s
  | .kSetGo h set => Sys2Proof.Machine.execKSetGo h set s
  | .kSetStop h set => Sys2Proof.Machine.execKSetStop h set s
  | .faultOccurrence o => Sys2Proof.Machine.execFaultOccurrence o s
  | .faultSpill => Sys2Proof.Machine.execFaultSpill s
  | .classADetect o => Sys2Proof.Machine.execClassADetect o s
  | .fltClr v => Sys2Proof.Machine.execFltClr v s
  | .fltForceWrite n v => Sys2Proof.Machine.execFltForceWrite n v s
  | .forcePresent src real => Sys2Proof.Machine.execForcePresent src real s
  | .fltSpillCfgWrite idx v => Sys2Proof.Machine.execFltSpillCfgWrite idx v s
  | .pwrTargetDrowse => Sys2Proof.Machine.execPwrTargetDrowse s
  | .pwrTargetDeep => Sys2Proof.Machine.execPwrTargetDeep s
  | .pwrDisarm => Sys2Proof.Machine.execPwrDisarm s
  | .powerConditionCheck => Sys2Proof.Machine.execPowerConditionCheck s
  | .armToExpire => Sys2Proof.Machine.execArmToExpire s
  | .l1IdleRequest l => Sys2Proof.Machine.execL1IdleRequest l s
  | .powerInstantE => Sys2Proof.Machine.execPowerInstantE s
  | .wake srcs cycle => Sys2Proof.Machine.execWake srcs cycle s
  | .drowseExitDone => Sys2Proof.Machine.execDrowseExitDone s
  | .deepExitDone sealOk => Sys2Proof.Machine.execDeepExitDone sealOk s
  | .blockClockGate block => Sys2Proof.Machine.execBlockClockGate block s
  | .powerOnReset env => Sys2Proof.Machine.execPowerOnReset env s
  | .warm key d => Sys2Proof.Machine.execWarm key d s
  | .cold key env => Sys2Proof.Machine.execCold key env s
  | .partition key => Sys2Proof.Machine.execPartition key s
  | .flr h => Sys2Proof.Machine.execFlr h s
  | .warmResetDone => Sys2Proof.Machine.execWarmResetDone s
  | .partitionResetDone => Sys2Proof.Machine.execPartitionResetDone s
  | .refclkLoss which back d => Sys2Proof.Machine.execRefclkLoss which back d s
  | .clockLoss domain => Sys2Proof.Machine.execClockLoss domain s
  | .railOut rail => Sys2Proof.Machine.execRailOut rail s
  | .thermalSample temps => Sys2Proof.Machine.execThermalSample temps s
  | .run key => Sys2Proof.Machine.execRun key s
  | .sstAbort key => Sys2Proof.Machine.execSstAbort key s
  | .sstConditionFail item dev => Sys2Proof.Machine.execSstConditionFail item dev s
  | .sstDone r => Sys2Proof.Machine.execSstDone r s
  | .bypass => Sys2Proof.Machine.execBypass s
  | .idcode => Sys2Proof.Machine.execIdcode s
  | .dbg world halt => Sys2Proof.Machine.execDbg world halt s
  | .samplePreload => Sys2Proof.Machine.execSamplePreload s
  | .extest => Sys2Proof.Machine.execExtest s
  | .clamp => Sys2Proof.Machine.execClamp s
  | .highz => Sys2Proof.Machine.execHighz s
  | .tctl => Sys2Proof.Machine.execTctl s
  | .scanEnable => Sys2Proof.Machine.execScanEnable s
  | .snap => Sys2Proof.Machine.execSnap s
  | .freeze on => Sys2Proof.Machine.execFreeze on s
  | .counterLoRead a => Sys2Proof.Machine.execCounterLoRead a s
  | .counterWrite off v => Sys2Proof.Machine.execCounterWrite off v s
  | .counterWrap c => Sys2Proof.Machine.execCounterWrap c s
  | .samplingEnable v => Sys2Proof.Machine.execSamplingEnable v s
  | .smpData0Read => Sys2Proof.Machine.execSmpData0Read s
  | .smpData7Read => Sys2Proof.Machine.execSmpData7Read s
  | .hdmDecoderCommit h ld d => Sys2Proof.Machine.execHdmDecoderCommit h ld d s
  | .cxlIoMemoryRequest h ld tag hpa write be data sram => Sys2Proof.Machine.execCxlIoMemoryRequest h ld tag hpa write be data s sram
  | .mgmtLinkUp width speed => Sys2Proof.Machine.execMgmtLinkUp width speed s
  | .linkL1Entry l => Sys2Proof.Machine.execLinkL1Entry l s
  | .linkL1Exit l => Sys2Proof.Machine.execLinkL1Exit l s
  | .pmeTurnOff l => Sys2Proof.Machine.execPmeTurnOff l s
  | .eyeMarginLow => Sys2Proof.Machine.execEyeMarginLow s
  | .partnerRetrainRequest width => Sys2Proof.Machine.execPartnerRetrainRequest width s
  | .yokePartnerTraining => Sys2Proof.Machine.execYokePartnerTraining s
  | .mgmtPllLoss => Sys2Proof.Machine.execMgmtPllLoss s
  | .pldmRequest sensor => Sys2Proof.Machine.execPldmRequest sensor s
  | .recoveryImageDelivery ok version => Sys2Proof.Machine.execRecoveryImageDelivery ok version s

end Sys2Proof.Machine
end

