-- ==== Sys2Proof/Safety.lean ====
section
/-! DEFINITION. What counts as a safe run: every step answers a next state, no fault and no refusal, and a command leaves the
rest of the queue as it stood. -/

namespace Sys2Proof

open Machine

/-- A step answers a next state. -/
def Completes (s : State) : Prop := ∃ t, step s = .next t

/-- A command run at a state answers a next state. -/
def Runs (i : Instr) (s : State) : Prop := ∃ t, exec i s = .next t

/-- Nothing waits to be settled, which is how the block stands between two steps: no detection, no struck word to vote, no entry to be
undone, nothing that entered a controller's queue unseen by the home. -/
abbrev Quiet (s : State) : Prop :=
  s.m.raised = [] ∧ s.m.scb.struck = [] ∧ s.m.pwr.undo = false ∧
    s.m.mcs.subs.all (fun p => p.2.news.writes.isEmpty && p.2.news.fwd.isEmpty) = true

/-- The commands that start the part anew: the power-on reset, COLD, a failed exit from DEEP, a register write, which reaches COLD
through GLB_RST_CTL, and the ends of Recovery and of DROWSE, which let a register write through that was held. -/
def Instr.mayColdStart : Instr → Bool
  | .powerOnReset _ | .cold _ _ | .deepExitDone _ | .regWrite _ | .drowseExitDone | .ltssmRecoveryExit _ _ _ => true
  | _ => false

/-- The commands at which an APPLY has its instant. -/
def Instr.isInstant : Instr → Bool
  | .applyInstant | .pairedFrameF => true
  | _ => false

/-- No request, snoop or line on its way stands at the part. -/
abbrev Calm (m : Mach) : Prop :=
  m.home.intq = [] ∧ m.home.fab = [] ∧ m.home.trk = [] ∧ m.home.fills = [] ∧ m.home.snoops = [] ∧ m.home.evicting = [] ∧
    ∀ h, h < 8 → (m.head h).qRt = [] ∧ (m.head h).qTable = [] ∧ (m.head h).qBulk = [] ∧ (m.head h).rxReq = [] ∧ (m.head h).rxRwd = [] ∧
      (m.head h).post = []

/-- The regulator serves a master at once: the part is awake, the master has bytes of its honoured guarantee left in the window (R301), and
not every tracker is kept for RT (R133). -/
abbrev ServesNow (L : Image) (m : Mach) (mst : Nat) : Prop :=
  m.pwr.st = .active ∧ m.pwr.warm = none ∧ m.bwg.charged.get 0 mst < winBytes L (honoured L m mst) ∧ m.rfld oTrkCfg 9 0 < 1024 ∧
    0 < m.rfld oTrkCfg 26 16

/-- A line of the flat area that is served at once: no head holds it, no sums wait for it, it is not mirrored and not about to move. -/
abbrev PlainLine (L : Image) (m : Mach) (line : Nat) : Prop :=
  flatPage L (line / 64) = true ∧ dbLine L m line = false ∧ eMirror (L.extent (line / 64 / 65536)) = false ∧ m.tally.coal.find? line = none ∧
    m.led.moveOf (line / 64) = none

/-- A request of a head for a line of the flat area is served at once: the head is ACTIVE, with no viral indication and nothing held, nothing
else is on its way, the regulator serves the head's class at once, and the line cache holds the line. -/
abbrev HeadHits (s : State) (h line : Nat) (c : CLine) : Prop :=
  Quiet s ∧ s.latch = false ∧ (s.m.head h).st = .active ∧ (s.m.head h).viralRx = false ∧ (s.m.head h).held = [] ∧ s.m.tst.scanEn = false ∧
    Calm s.m ∧ PlainLine s.live s.m line ∧ ServesNow s.live s.m (lineMaster s.live h line) ∧ s.m.lcGet line = some c

/-- A head's mailbox takes commands: its link is up and not in Recovery, with no tally write waiting, the Steward runs, and the part is awake. -/
abbrev MailboxOpen (s : State) (h : Nat) : Prop :=
  (s.m.head h).st.linked = true ∧ s.m.holdsFrom h = false ∧ (s.m.head h).post = [] ∧ s.m.stewardOn = true ∧ s.m.pwr.st = .active

/-- The regulator has let in `n` lines of work past the home, as access `seq` of a unit (R302). -/
abbrev Leave (m : Mach) (who seq n : Nat) : Prop := n = 0 ∨ (m.answer? who seq 0 (.grant n)).isSome = true

/-- A churn that is not lent has a piece of the ledger's own bulk work, and the regulator has let in its lines. -/
abbrev OwnWork (m : Mach) (w : Running) (who n c : Nat) : Prop :=
  (List.find? (fun (p : Nat × Running) => p.2.alike w) m.chn.run).map (·.1) = some c ∧ m.chn.lent.find? c = none ∧ Leave m who 0 n

/-- A job runs on a churn that is not lent, and nothing stands in its way. -/
abbrev JobOn (s : State) (id c : Nat) (j : Job) : Prop :=
  Quiet s ∧ s.latch = false ∧ s.m.job? id = some j ∧ j.id = id ∧ j.st = .running c ∧ j.stale = false ∧ j.retired = false ∧
    s.m.chn.lent.find? c = none ∧ s.m.deniedPage (whoJob id) = none

/-- A job runs on a churn that is not lent; nothing stands in its way, and nothing is on its way at the home. -/
abbrev JobRuns (s : State) (id c : Nat) (j : Job) : Prop := JobOn s id c j ∧ Calm s.m

/-- A command ends a job with a status and a RESULT, no churn runs it any more, and the next state is as a property says. -/
def EndsJob (i : Instr) (s : State) (id st r : Nat) (P : State → Prop) : Prop :=
  ∃ t, exec i s = .next t ∧ (∃ j, t.m.job? id = some j ∧ j.st = .ended st r) ∧ t.m.churnOf (.job id) = none ∧ P t

/-- The last page of a page command: its partition reaches the page, of no flat extent, no earlier page has failed, and the page's entry is
cached. -/
abbrev LastPage (s : State) (j : Job) (page : Nat) (e : LEnt) : Prop :=
  page = j.dst / 4096 + j.prog ∧ j.len / 4096 = j.prog + 1 ∧ j.first = none ∧ dpaOk s.live s.m (s.live.rOwner j.ring) (page / 65536) = true ∧
    flatPage s.live page = false ∧ s.m.ent? page = some e

/-- Every step of a run of `k` steps answers a next state. -/
def SafeFor : Nat → State → Prop
  | 0, _ => True
  | k + 1, s => ∃ t, step s = .next t ∧ SafeFor k t

end Sys2Proof
end

