-- ==== Sys2Proof/Certificates/Slice0/Obligations.lean ====
section
/-! DEFINITION. The statements for the provers: what the specification's rules say the commands do, and what every step keeps. A
statement that rests on a choice of the model's says so and names its log entry. -/

open Sys2Proof Sys2Proof.Machine

/-- A step runs the command at the front with the rest of the queue; on an empty queue one CORE cycle passes (the model's choice, log
entry 4). INDEX; 17_power_and_clocks. -/
def Obligations.StepTakesTheFront : Prop :=
  (
  ∀ (c : Instr) (rest : List Instr) (s : State), s.pending = c :: rest → step s = exec c { s with pending := rest }) ∧
  (
  ∀ s : State, s.pending = [] → step s = .next { s with m := { s.m with core := s.m.core + 1 } })

/-- No command ends in a fault or a refusal. INDEX. -/
def Obligations.EveryCommandAnswers : Prop :=
  ∀ (c : Instr) (s : State), ∃ t, exec c s = .next t

/-- No command changes the queue of the commands that wait. INDEX. -/
def Obligations.ExecKeepsQueue : Prop :=
  ∀ (c : Instr) (s t : State), exec c s = .next t → t.pending = s.pending

/-- Every step records the detections it raises: none waits between steps. R458. -/
def Obligations.EveryDetectionIsRecorded : Prop :=
  ∀ s t : State, s.m.raised = [] → step s = .next t → t.m.raised = []

/-- At reset no command and no detection waits, the latch is clear and memory holds its canonical form. R458; R466. -/
def Obligations.NoDetectionWaitsAtReset : Prop :=
  State.reset.pending = [] ∧ Quiet State.reset ∧ State.reset.latch = false ∧ State.reset.epoch = 0#32 ∧ State.reset.lcCur = 0 ∧
    State.reset.stage = State.reset.live ∧ Memory.wf mediaBg State.reset.m.media.cells = true

/-- The class A latch ends only at a power-on reset. R466. -/
def Obligations.LatchOutlastsEveryOtherCommand : Prop :=
  ∀ (c : Instr) (s t : State), s.latch = true → (∀ env, c ≠ .powerOnReset env) → exec c s = .next t → t.latch = true

/-- The live image changes only at an APPLY's instant or when the part starts anew. R92; R98. -/
def Obligations.LiveImageChangesAtInstants : Prop :=
  ∀ (c : Instr) (s t : State), c.isInstant = false → c.mayColdStart = false → exec c s = .next t → t.live = s.live

/-- The commit epoch stays, or advances by one at an instant, which makes the stage equal to the live image. R97; R99. -/
def Obligations.EpochCountsInstants : Prop :=
  ∀ (c : Instr) (s t : State), c.mayColdStart = false → exec c s = .next t →
    t.epoch = s.epoch ∨ (c.isInstant = true ∧ t.epoch = s.epoch + 1 ∧ t.stage = t.live)

/-- The life-cycle state and its pending state never go backwards, and a transition takes effect only when the part starts anew. R447.
-/
def Obligations.LifeCycleNeverGoesBack : Prop :=
  ∀ (c : Instr) (s t : State), s.lcCur ≤ s.lcPend → exec c s = .next t →
    s.lcPend ≤ t.lcPend ∧ s.lcCur ≤ t.lcCur ∧ t.lcCur ≤ t.lcPend ∧ (c.mayColdStart = false → t.lcCur = s.lcCur)

/-- A staged register and the staged extent window store what is written to them while no check or apply runs. R75; R92; R94; R12. -/
def Obligations.StagedWritesAreStored : Prop :=
  (
  ∀ (off : BitVec 26) (v : Word) (s : State),
    (s.m.unusedReg off.toNat = true → exec (.stagedWrite off v) s = .next s) ∧
    (s.m.unusedReg off.toNat = false → s.commit.op = .idle → stMask off.toNat ≠ 0#32 →
      off.toNat ≠ oExtLo → off.toNat ≠ oExtHi → off.toNat ≠ oExtFill → off.toNat ≠ oMapData →
      exec (.stagedWrite off v) s =
        .next { s with stage := s.stage.setReg off.toNat (v &&& stMask off.toNat), commit := { s.commit with checked := false, pairedPass := false } })) ∧
  (
  ∀ (v : Word) (s : State), s.commit.op = .idle →
    (s.m.ixLive oExtIndex = false →
      exec (.stagedWrite 0x104#26 v) s = .next { s with commit := { s.commit with holdLo := v } } ∧
      exec (.extDataHiWrite v) s =
        .next { s with stage := s.stage.setExtent (s.m.ixNo oExtIndex) (extWord s.commit.holdLo v),
                       commit := { s.commit with checked := false, pairedPass := false, holdHi := v }, m := s.m.ixAuto oExtIndex } ∧
      (s.m.ixNo oExtIndex + fld v 17 0 ≤ 131072 →
        exec (.extFill v) s =
          .next { s with stage := (List.range (fld v 17 0)).foldl
                           (fun i t => i.setExtent (s.m.ixNo oExtIndex + t) (extWord s.commit.holdLo s.commit.holdHi)) s.stage,
                         commit := { s.commit with checked := false, pairedPass := false },
                         m := s.m.ixAdd oExtIndex (fld v 17 0) })) ∧
    (s.m.ixLive oMapIndex = false →
      exec (.mapDataWrite v) s =
        .next { s with stage := { s.stage with map := s.stage.map.set 0 (s.m.ixNo oMapIndex) (fld v 16 0) },
                       commit := { s.commit with checked := false, pairedPass := false }, m := s.m.ixAuto oMapIndex }))

/-- Writes to staged state while BUSY = 1 are lost and noted; the windows read the stage or the live image. R94; R100; R375; R75; R80;
R87. -/
def Obligations.BusyWritesAreLostAndWindowsRead : Prop :=
  (
  ∀ (off : BitVec 26) (v : Word) (key : BitVec 24) (s : State), s.commit.busy = true →
    (∀ c ∈ [Instr.stagedWrite off v, .extDataHiWrite v, .extFill v, .mapDataWrite v],
      ∃ t, exec c s = .next t ∧ t.stage = s.stage ∧ t.live = s.live ∧ t.epoch = s.epoch) ∧
    (∀ c ∈ [Instr.check, .pairedCheck, .apply key, .pairedApply key, .discard], exec c s = .next s) ∧
    (∀ c, (c ∈ [Instr.extDataHiWrite v, .extFill v, .mapDataWrite v] ∨ (c = .stagedWrite off v ∧ stMask off.toNat ≠ 0#32 ∧ s.m.unusedReg off.toNat = false)) →
      ∃ t, exec c s = .next t ∧ t.commit.lost = true ∧ (s.commit.op = .armed → t.commit.op = .idle ∧ t.commit.code = 0x31#8)) ∧
    (s.commit.op = .check false → s.commit.lost = true → ∃ t, exec .checkDone s = .next t ∧ t.commit.code = 0x05#8 ∧ t.commit.checked = false)) ∧
  (
  ∀ s : State,
    exec .extDataHiRead s =
      .next { s with m := (s.m.send (.regData .mgmt
                [((if s.m.ixLive oExtIndex then s.live else s.stage).extent (s.m.ixNo oExtIndex)).extractLsb' 32 32])).ixAuto oExtIndex } ∧
    (s.m.ixLive oMapIndex = false →
      exec .mapDataRead s = .next { s with m := (s.m.send (.regData .mgmt [put (s.stage.mapEnt (s.m.ixNo oMapIndex)) 0])).ixAuto oMapIndex }) ∧
    (s.m.ixLive oMapIndex = true →
      exec .mapDataRead s =
        .next { s with m := (s.m.send (.regData .mgmt [put (s.live.mapEnt (s.m.ixNo oMapIndex)) 0 |||
                  put (s.m.dc.get 0 (s.m.ixNo oMapIndex)) 17])).ixAuto oMapIndex }))

/-- CHECK sets BUSY, ends with the lowest failing code and its index or with PASS and CHECKED, and changes nothing live. R93; R95; R96;
R374. -/
def Obligations.CheckReportsFirstFailure : Prop :=
  ∀ s : State, Quiet s →
    (s.commit.op = .idle → s.latch = false →
      exec .check s = .next { s with commit := { s.commit with op := .check false } } ∧
      exec .pairedCheck s =
        .next { s with commit := { s.commit with op := .check true },
                       m := ({ s.m with yoke := { s.m.yoke with vec := [], vecWant := true } } : Mach).ykMsg 2 4 [1] }) ∧
    (∀ paired code kind index, s.commit.op = .check paired → checkLow s.stage s.live s.m s.commit.lost = some (code, kind, index) →
      exec .checkDone s =
        .next { s with commit := { s.commit with op := .idle, checked := false, pairedPass := false, code := BitVec.ofNat 8 code, kind, index },
                       m := { s.m with yoke := { s.m.yoke with vecWant := false } } }) ∧
    (s.commit.op = .check false → (∀ n, n < 64 → cultAct s.stage n ≠ 1) → checkLow s.stage s.live s.m s.commit.lost = none →
      checkHigh s.stage s.live s.m [] false = none →
      ∃ t, exec .checkDone s = .next t ∧ t.stage = s.stage ∧ t.live = s.live ∧ t.epoch = s.epoch ∧ t.m.yoke = { s.m.yoke with vecWant := false } ∧
        t.commit = { s.commit with op := .idle, checked := true, pairedPass := false, code := 1#8, kind := 0, index := 0 })

/-- An APPLY is judged on its key first; culture images are copied when an instant makes them live. R94; R96; R97; R100; R142; R187;
R189; R240. -/
def Obligations.ApplyKeyAndCultureCopies : Prop :=
  (
  ∀ (key : BitVec 24) (s : State), Quiet s → s.commit.op = .idle → s.latch = false →
    (key ≠ applyKey → exec (.apply key) s = .next { s with commit := { s.commit with code := 3#8 } } ∧
      exec (.pairedApply key) s = .next { s with commit := { s.commit with code := 3#8 } }) ∧
    (s.commit.checked = false → exec (.apply applyKey) s = .next { s with commit := { s.commit with code := 4#8 } } ∧
      exec (.pairedApply applyKey) s = .next { s with commit := { s.commit with code := 4#8 } }) ∧
    (s.commit.checked = true → s.m.tally.coal = [] → exec (.apply applyKey) s =
      .next { s with commit := { s.commit with op := .apply, lost := false },
                     m := { s.m with tally := { s.m.tally with direct := directExts s.live s.stage } } }) ∧
    (s.commit.checked = true → s.commit.pairedPass = true → s.m.yoke.up = false →
      exec (.pairedApply applyKey) s = .next { s with commit := { s.commit with code := 0x30#8 } }) ∧
    (s.commit.checked = true → s.commit.pairedPass = true → s.m.yoke.up = true → s.m.tally.coal = [] → s.m.yoke.peerArm = none →
      ∃ t, exec (.pairedApply applyKey) s = .next t ∧ t.commit.op = .armed ∧ t.stage = s.stage ∧ t.live = s.live ∧ t.epoch = s.epoch) ∧
    exec .discard s =
      .next { s with stage := s.live, commit := { s.commit with checked := false, pairedPass := false, code := 0#8, lost := false } }) ∧
  (
  ∀ (slot : Fin 64) (s : State), s.latch = false → s.m.chn.copying.contains slot.val = true →
    ∀ b, readImage s.m (imageAgent whoCopy) 0 (cultAddr s.live slot) = .ok b s.m →
    ∃ t, exec (.cultureCopyDone slot) s = .next t ∧ (∀ img, b = some img → Yelrin.imgOk img = true → t.m.chn.images.find? slot = some img) ∧
      (b.filter Yelrin.imgOk = none → t.m.chn.images = s.m.chn.images) ∧ t.m.chn.copying.contains slot.val = false ∧ t.live = s.live ∧ t.epoch = s.epoch ∧
      (∀ code, s.commit.op = .copy code → t.m.chn.copying = [] → t.commit.op = .idle ∧ t.commit.code = code))

/-- At the instant the live image becomes the stage in one step and the epoch advances; a part that has not exchanged GO and GO_ACK
aborts. R92; R97; R99; R375; R376. -/
def Obligations.InstantMakesStageLive : Prop :=
  ∀ s : State, Quiet s → s.latch = false → s.m.tally.coal = [] →
    (∀ c : Instr, ((c = .applyInstant ∧ s.commit.op = .apply) ∨ (c = .pairedFrameF ∧ s.commit.op = .armed ∧ s.m.yoke.goAcked = true)) →
      ∃ t, exec c s = .next t ∧ t.epoch = s.epoch + 1 ∧ t.live.ext = s.stage.ext ∧ t.live.map = s.stage.map ∧
        (∀ off, (∀ n, n < 64 → off ≠ oCultLo n ∧ off ≠ oCultHi n) → t.live.reg off = s.stage.reg off) ∧
        t.stage = t.live ∧ t.commit.checked = false) ∧
    (s.commit.op = .armed → s.m.yoke.goAcked = false →
      ∃ t, exec .pairedFrameF s = .next t ∧ t.commit.op = .idle ∧ t.commit.code = 0x31#8 ∧ t.live = s.live ∧ t.stage = s.stage ∧ t.epoch = s.epoch)

/-- Power targets are armed and entered when the part is idle, and left at a wake. R479; R480; R481; R482; R485; R486; R488. -/
def Obligations.PowerStatesAreArmedAndEntered : Prop :=
  (
  ∀ (s : State) (h : Fin 8), Quiet s → s.m.pwr.st = .active →
    exec .pwrTargetDrowse s = .next { s with m := { s.m with pwr := { s.m.pwr with target := 1 } } } ∧
    exec .pwrTargetDeep s = .next { s with m := { s.m with pwr := { s.m.pwr with target := 2 } } } ∧
    (s.m.pwr.target ≠ 0 → exec .pwrDisarm s = .next { s with m := { s.m with pwr := { s.m.pwr with target := 0, result := 11 } } }) ∧
    (s.m.pwr.target = 0 → exec .pwrDisarm s = .next s) ∧
    (∀ k, s.m.pwr.target ≠ 0 → firstFail s (s.m.pwr.target == 2) = some k →
      exec .armToExpire s = .next { s with m := { s.m with pwr := { s.m.pwr with target := 0, result := k } } }) ∧
    (s.m.pwr.target ≠ 0 → s.m.rbit oPwrCfg 10 = true → (s.m.head h).st.linked = true → (s.m.head h).lpwr = .l0 → s.m.aspmL1 h = true →
      exec (.l1IdleRequest (.head h)) s = .next { s with m := s.m.send (.linkReq h 1) }) ∧
    (s.m.pwr.target ≠ 0 → s.m.rbit oPwrCfg 10 = true → s.m.mgmt.up = true → s.m.mgmt.lpwr = .l0 → s.m.aspmL1 mgmtFn = true →
      exec (.l1IdleRequest .mgmt) s = .next { s with m := s.m.send (.linkReq 8 1) }) ∧
    (s.m.aspmL1 h = false → exec (.l1IdleRequest (.head h)) s = .next s) ∧ (s.m.aspmL1 mgmtFn = false → exec (.l1IdleRequest .mgmt) s = .next s)) ∧
  (
  ∀ (s : State) (srcs : Byte) (cycle : Nat), Quiet s →
    (mayEnter s = false → exec .powerConditionCheck s = .next s) ∧
    (s.m.pwr.target = 1 → s.m.pwr.st = .active → s.m.pwr.warm = none → firstFail s false = none → s.m.tally.coal = [] →
      ∃ t, exec .powerConditionCheck s = .next t ∧
        t = { s with m := beginSr { s.m with pwr := { s.m.pwr with st := .entering, toDeep := false }, scb := { s.m.scb with paused := true } } } ∧
        (∀ ch ∈ s.m.pop.used, ch < 12 → ∀ k < 2, (s.m.sub (2 * ch + k)).sr = .out → (t.m.sub (2 * ch + k)).sr = .entering)) ∧
    (s.m.pwr.target = 2 → s.m.pwr.st = .active → s.m.pwr.warm = none → firstFail s true = none → s.m.tally.coal = [] →
      exec .powerConditionCheck s =
        .next (settle { s with m := beginSr (sealAll s.live (flushCaches s.live false
          { s.m with pwr := { s.m.pwr with st := .entering, toDeep := true }, scb := { s.m.scb with paused := true } })) })) ∧
    (∀ m', mayEnter s = true → mergeWhere s.live s.m (fun _ => true) = (false, m') →
      exec .powerConditionCheck s = .next (settle { s with m := m' })) ∧
    (s.m.pwr.st = .entering → s.m.pwr.toDeep = false →
      ∃ m', m' = (restAll s.live s.m).bump oCntEntry ∧
        exec .powerInstantE s = .next (settle { s with m := { m' with pwr := { m'.pwr with st := .drowse, target := 0, result := 1 } } })) ∧
    (∀ m', m' = { s.m with pwr := { s.m.pwr with wakeN := srcs.getLsbD 2 } } → s.m.pwr.st = .drowse → wakeSources m' srcs cycle ≠ 0#8 →
      exec (.wake srcs cycle) s =
        .next { s with m := { m' with pwr := { m'.pwr with st := .waking, toDeep := false, cause := wakeSources m' srcs cycle } } }) ∧
    (s.m.pwr.st = .active → exec (.wake srcs cycle) s = .next { s with m := { s.m with pwr := { s.m.pwr with wakeN := srcs.getLsbD 2 } } }) ∧
    (s.m.pwr.st = .waking → s.m.pwr.toDeep = false → ∃ m', m'.pwr.st = PwrSt.active ∧ m'.scb.paused = false ∧
      m'.reg oWakeCause = put s.m.pwr.cause.toNat 0 ∧ exec .drowseExitDone s = .next (replayAll (settle { s with m := recDrains s.live (coreCycle s.live m') }))))

/-- A link's power state follows its own link; an idle block gates its clock. R57; R481; R483; R479. -/
def Obligations.LinkPowerAndClockGates : Prop :=
  (
  ∀ (s : State) (h : Fin 8), Quiet s →
    ((s.m.head h).st = .ioOnly ∨ (s.m.head h).st = .active ∨ (s.m.head h).st = .insecure →
      exec (.linkL1Entry (.head h)) s = .next { s with m := s.m.setHead h { s.m.head h with lpwr := .l1 } } ∧
      exec (.pmeTurnOff (.head h)) s = .next { s with m := s.m.setHead h { s.m.head h with lpwr := .l2 } } ∧
      (s.m.pwr.st = .active → exec (.linkL1Exit (.head h)) s = .next { s with m := s.m.setHead h { s.m.head h with lpwr := .l0 } })) ∧
    (s.m.mgmt.up = true →
      exec (.linkL1Entry .mgmt) s = .next { s with m := { s.m with mgmt := { s.m.mgmt with lpwr := .l1 } } } ∧
      exec (.pmeTurnOff .mgmt) s = .next { s with m := { s.m with mgmt := { s.m.mgmt with lpwr := .l2 } } } ∧
      (s.m.pwr.st = .active → exec (.linkL1Exit .mgmt) s = .next { s with m := { s.m with mgmt := { s.m.mgmt with lpwr := .l0 } } }))) ∧
  (
  ∀ (b : Block) (s : State), Quiet s → ∃ t g, exec (.blockClockGate b) s = .next t ∧
    t = { s with m := { s.m with pwr := { s.m.pwr with gated := g } } } ∧ t.m.isGated b = s.m.blockIdle b)

/-- The test port offers what the life cycle allows, and scan clears every secret. R506; R448; R507. -/
def Obligations.TapFollowsTheLifeCycle : Prop :=
  (
  ∀ (world halt : Bool) (s : State), Quiet s →
    exec .bypass s = .next { s with m := { s.m with tst := { s.m.tst with ir := 0xFF } } } ∧
    exec .idcode s = .next { s with m := { s.m with tst := { s.m.tst with ir := 1 }, outbox := s.m.outbox ++ [.tap 1 0x0816098B] } } ∧
    exec (.dbg world halt) s =
      .next { s with m := { s.m with tst := { s.m.tst with ir := 0x20 }, outbox := s.m.outbox ++
        [.tap 0x20 ((debugEnables s.lcCur s.m.wld).getLsbD ((if world then 0 else 2) + (if halt then 0 else 1))).toNat] } } ∧
    (∀ (c : Instr) (op : Nat),
      (c, op) ∈ [(Instr.samplePreload, 2), (Instr.extest, 3), (Instr.clamp, 4), (Instr.highz, 5), (Instr.tctl, 0x10)] →
      exec c s = .next { s with m := { s.m with tst :=
        { s.m.tst with ir := if s.lcCur = 0 ∨ s.lcCur = 1 ∨ s.lcCur = 4 then op else 0xFF } } })) ∧
  (
  ∀ s : State, Quiet s →
    (s.lcCur = 0 ∨ s.lcCur = 1 ∨ s.lcCur = 4 → s.m.tst.ir = 0x10 →
      ∃ t, exec .scanEnable s = .next t ∧ t.m.cry.slots = [] ∧ t.m.cry.data = [] ∧ t.m.cry.kek = none ∧ t.m.wld.sessions = [] ∧
        t.m.wld.token = [] ∧ (∀ a, t.m.wld.sramWord true a = 0#32) ∧ (∀ h, h < 8 → (t.m.head h).keys = [] ∧ (t.m.head h).keyGo = none) ∧ t.m.tst.scanEn = true ∧
        t.m.tst.cleared = true ∧ t.m.cry.sealedKek = s.m.cry.sealedKek ∧ t.live = s.live ∧ t.lcCur = s.lcCur) ∧
    (s.m.tst.ir ≠ 0x10 ∨ (s.lcCur ≠ 0 ∧ s.lcCur ≠ 1 ∧ s.lcCur ≠ 4) → exec .scanEnable s = .next s))

/-- RUN starts the shutdown self-test with its key and its conditions met, and is refused with the failing condition's code; ABORT and
a failed condition stop it. R497; R498; R500; R501. -/
def Obligations.SelfTestRunsWhenQuiet : Prop :=
  ∀ (key : BitVec 24) (item : Fin 13) (dev : BitVec 16) (s : State), Quiet s →
    (key ≠ sstKey → exec (.run key) s = .next s ∧ exec (.sstAbort key) s = .next s) ∧
    (∀ k, runRefusal s = some k → exec (.run sstKey) s = .next { s with m := { s.m with tst := { s.m.tst with st := 5, result := k } } }) ∧
    (runRefusal s = none → exec (.run sstKey) s =
      .next (settle { s with m := { flushAll s.live false s.m with tst := { (flushAll s.live false s.m).tst with
        st := 2, result := 0, aonOk := false, qspiOk := false, res := 0#32, ch := 0#32, cond := 0#32,
        eyes := [0#32, 0#32, 0#32, 0#32], time := 0, groups := (flushAll s.live false s.m).quietGroups, stopped := [] } } })) ∧
    (s.m.tst.st = 2 → s.m.tst.stopped.contains abortMark = false →
      exec (.sstAbort sstKey) s = .next { s with m := { s.m with tst := { s.m.tst with stopped := s.m.tst.stopped ++ [abortMark] } } } ∧
      (s.m.measured item = true → s.m.tst.cond = 0#32 →
        exec (.sstConditionFail item dev) s =
          .next { s with m := { s.m with tst := { s.m.tst with cond := put item 0 ||| put dev.toNat 16 } } })) ∧
    (s.m.tst.st ≠ 2 → exec (.sstAbort sstKey) s = .next s ∧ exec (.sstConditionFail item dev) s = .next s) ∧
    (s.m.measured item = false → exec (.sstConditionFail item dev) s = .next s)

/-- A self-test run ends INCOMPLETE when a test reads ABORTED and no condition failed; otherwise PASS when every test passed and FAIL
when one failed. R502. -/
def Obligations.SelfTestResultFollowsItsTests : Prop :=
  ∀ (r : SstRes) (s : State), Quiet s → s.m.tst.st = 2 →
    ∃ t, exec (.sstDone r) s = .next t ∧ (t.m.tst.st = 3 ∨ t.m.tst.st = 4) ∧
      t.m.tst.res = testWord s.m r (List.range 8) ∧ t.m.tst.aonOk = true ∧ t.m.regs = s.m.regs ∧ t.live = s.live ∧
      (s.m.tst.cond = 0#32 →
        ((∃ x ∈ testsOf s.m, testCode s.m r x = 3) → t.m.tst.result = 3) ∧
        ((∀ x ∈ testsOf s.m, testCode s.m r x ≠ 3) →
          ((∀ x ∈ testsOf s.m, testCode s.m r x = 1) → t.m.tst.result = 1) ∧
          ((∃ x ∈ testsOf s.m, testCode s.m r x = 2) → t.m.tst.result = 2)))

/-- A key request makes the port BUSY, a second one is ignored, and its end clears the wrapped words and gives its RESULT; a bound slot
is never changed. R247; R248; R252; R253. -/
def Obligations.KeyRequestsRunOneAtATime : Prop :=
  ∀ (slot : Fin 1024) (owner : Fin 64) (s : State), Quiet s →
    (s.latch = false → s.m.cry.busy = none →
      exec (.keyLoad slot owner) s = .next { s with m := { s.m with cry := { s.m.cry with busy := some (1, slot.val, owner.val) } } } ∧
      exec (.keyClear slot) s = .next { s with m := { s.m with cry := { s.m.cry with busy := some (2, slot.val, 0) } } }) ∧
    (s.m.cry.busy.isSome = true → exec (.keyLoad slot owner) s = .next s ∧ exec (.keyClear slot) s = .next s) ∧
    (∀ op sl ow, s.m.cry.busy = some (op, sl, ow) →
      ∃ t, exec .keyRequestDone s = .next t ∧ t.m.cry.busy = none ∧ t.m.cry.data = [] ∧ t.m.rbit oCryEvt 0 = true ∧ t.live = s.live ∧
        t.stage = s.stage ∧ (s.slotBound sl = true → t.m.cry.slots = s.m.cry.slots ∧ t.m.cry.result ≠ 1) ∧
        (∀ k, op = 1 → loadJudge s sl ow = .inr k → t.m.cry.result = 1 ∧ t.m.cry.slots = s.m.cry.slots.insert sl k) ∧
        (op ≠ 1 → s.m.keeperOn = true → s.slotBound sl = false → t.m.cry.result = 1 ∧ t.m.cry.slots = s.m.cry.slots.erase sl))

/-- A new record has REAL = 1 for an occurrence that is not injected; for an injected one REAL says whether the observed syndrome
differs from FLT_INJ_SYN. R472. -/
def Obligations.RealBitTellsRealFaults : Prop :=
  ∀ (o : Occ) (cls k : Nat) (s : State), Quiet s → srcClass o.src = some cls → cls ≠ 0 →
    (cls = 1 ∨ s.m.srcBit oLmask o.src = false) → s.m.flt.openEntry o.src = none → s.m.flt.freeEntry = some k →
    (∃ t r, exec (.faultOccurrence o) s = .next t ∧ t.m.flt.log.find? k = some r ∧ r.src = o.src ∧ r.inj = false ∧ r.real = true) ∧
    (∀ (f : Fin 256) syn unit real, f.val = o.src → s.m.flt.pend.find? (fun p => p.1 == f.val) = some (f.val, syn, unit) →
      ∃ t r, exec (.forcePresent f real) s = .next t ∧ t.m.flt.log.find? k = some r ∧ r.src = o.src ∧ r.inj = true ∧
        r.syn = (injected f.val syn unit real).syn ∧ (r.real = true ↔ r.syn ≠ syn))

/-- An occurrence of a source with an open record only counts in it; FLT_CLR clears a class B record whose COUNT it names. R458; R460;
R463. -/
def Obligations.OccurrencesAreCountedAndLogged : Prop :=
  ∀ (o : Occ) (k : Nat) (r : FRec) (v : Word) (s : State), Quiet s → srcClass o.src = some 1 → s.m.flt.openEntry o.src = some k →
    s.m.flt.log.find? k = some r →
    (∃ t, exec (.faultOccurrence o) s = .next t ∧
      t.m.flt.log = s.m.flt.log.insert k { r with count := min 0xFFFF (r.count + 1), real := true } ∧ t.m.flt.seq = s.m.flt.seq ∧
      t.m.reg (oFltCnt o.src) = BitVec.ofNat 32 (min 0xFFFFFFFF ((s.m.reg (oFltCnt o.src)).toNat + 1)) ∧ t.live = s.live ∧ t.latch = s.latch) ∧
    (fld v 8 0 = k → r.cls = 1 → r.cleared = false →
      (r.count = fld v 31 16 →
        exec (.fltClr v) s =
          .next { s with m := { s.m with flt := { s.m.flt with log := s.m.flt.log.insert k { r with cleared := true } } } }) ∧
      (r.count ≠ fld v 31 16 → exec (.fltClr v) s = .next { s with m := s.m.evb oFltEvt 6 })) ∧
    (s.m.flt.log.find? (fld v 8 0) = none → exec (.fltClr v) s = .next s)

/-- A force bit of a class A source acts only in TEST; the spill ring takes records in order. R470; R471; R460. -/
def Obligations.ForceBitsAndTheSpillRing : Prop :=
  (
  ∀ (n : Fin 8) (b cls : Nat) (s : State), Quiet s → b < 32 → srcClass (32 * n + b) = some cls →
    s.m.flt.pend.any (fun p => p.1 == 32 * n.val + b) = false →
    (cls = 0 → s.lcCur ≠ 1 → exec (.fltForceWrite n (put 1 b)) s = .next { s with m := s.m.evb oFltEvt 7 }) ∧
    (cls ≠ 0 ∨ s.lcCur = 1 →
      ∃ t, exec (.fltForceWrite n (put 1 b)) s = .next t ∧ t.m.rbit (oForce n) b = true ∧
        t.m.flt.pend = s.m.flt.pend ++ [(32 * n.val + b, s.m.reg oInjSyn, s.m.rfld oInjUnit 15 0)] ∧ t.latch = s.latch ∧ t.live = s.live)) ∧
  (
  ∀ (k : Nat) (r : FRec) (rest : List (Nat × FRec)) (v : Word) (s : State), Quiet s →
    (s.m.flt.toSpill = (k, r) :: rest → s.m.rbit oSpillCfg 0 = true →
      (s.m.spillFull = false → s.m.mgmt.up = true → s.m.stewardOn = true →
        ∃ t, exec .faultSpill s = .next t ∧ t.m.flt.toSpill = rest ∧ t.m.flt.prod = (s.m.flt.prod + 1) % s.m.spillSize ∧
          t.m.host mgmtFn = Memory.putAll hostBg (s.m.host mgmtFn) (s.m.spillBase + 32 * (s.m.flt.prod % s.m.spillSize)) r.bytes) ∧
      (s.m.spillFull = true ∨ s.m.mgmt.up = false →
        ∃ t, exec .faultSpill s = .next t ∧ t.m.flt.toSpill = rest ∧ t.m.flt.prod = s.m.flt.prod ∧
          t.m.reg oCntSpillLost = BitVec.ofNat 32 (min 0xFFFFFFFF ((s.m.reg oCntSpillLost).toNat + 1)))) ∧
    (s.m.rbit oSpillCfg 0 = true → exec (.fltSpillCfgWrite 1 v) s = .next s ∧ exec (.fltSpillCfgWrite 2 v) s = .next s) ∧
    (s.m.rbit oSpillCfg 0 = false → v.getLsbD 0 = true → ∃ t, exec (.fltSpillCfgWrite 0 v) s = .next t ∧ t.m.flt.prod = 0) ∧
    (s.m.rbit oSpillCfg 0 = false →
      exec (.fltSpillCfgWrite 1 v) s = .next { s with m := s.m.setReg oSpillLo (v &&& 0xFFFFF000#32) } ∧
      exec (.fltSpillCfgWrite 2 v) s = .next { s with m := s.m.setReg oSpillHi v }))

/-- A class A detection sets the latch and makes the safe state; an APPLY that has not reached its instant does not apply. R464; R465;
R466. -/
def Obligations.ClassAMakesTheSafeState : Prop :=
  ∀ (o : Occ) (d : Fin 5) (rail : Fin 9) (s : State), Quiet s → srcClass o.src = some 0 →
    ∀ c ∈ [Instr.classADetect o, .clockLoss d, .railOut rail],
      ∃ t, exec c s = .next t ∧ t.latch = true ∧ t.live = s.live ∧ t.stage = s.stage ∧ t.epoch = s.epoch ∧ t.lcCur = s.lcCur ∧
        (s.latch = false →
          t.m.pwr.st = .active ∧ t.m.pwr.target = 0 ∧ t.m.scb.paused = true ∧ t.m.tally.inq = [] ∧ t.m.tally.coal = [] ∧
          t.m.home.trk = [] ∧ (∀ h, h < 8 → (t.m.head h).qRt = [] ∧ (t.m.head h).qTable = [] ∧ (t.m.head h).qBulk = []) ∧
          ((s.commit.op = .apply ∨ s.commit.op = .armed) → t.commit.op = .idle ∧ t.commit.code = s.commit.code))

/-- A non-owner's access to a block receives DENIED whether or not the block is gated. R433. -/
def Obligations.OwnershipIsCheckedBeforePower : Prop :=
  ∀ (n : Fin 32) (sec : Bool) (addr : BitVec 24) (by' : BusIssuer) (wr : Option Word) (s : State), Quiet s → s.m.wld.mgmtStopped = false →
    (s.m.own n).st ≠ 2 → busAttr s.m by' sec ≠ (s.m.own n).keeper →
    ∃ t, exec (.internalBusAccess (.entry n) sec addr by' wr) s = .next t ∧
      Out.busRsp busDenied 0#32 ∈ t.m.outbox ∧ (∀ d, Out.busRsp busOffline d ∈ t.m.outbox → Out.busRsp busOffline d ∈ s.m.outbox) ∧
      t.m.wld.denyLog = denyWord n (busAttr s.m by' sec) false addr ∧ t.m.wld.own = s.m.wld.own ∧ t.m.wld.dev = s.m.wld.dev ∧
      t.m.wld.sram = s.m.wld.sram ∧
      t.m.rbit oWldEvt 5 = s.m.rbit oWldEvt 5 ∧
      (∀ g : Bool, ∀ s', s' = { s with m := { s.m with wld := { s.m.wld with own := s.m.wld.own.insert n { s.m.own n with gated := g } } } } →
        ∃ t', exec (.internalBusAccess (.entry n) sec addr by' wr) s' = .next t' ∧ t'.m.outbox = t.m.outbox ∧ t'.m.wld.denyLog = t.m.wld.denyLog)

/-- The owner reaches its block and opens its gate; blocks pass between the worlds by their hand-over steps. R431; R432; R438; R439;
R440; R435; R436; R437; R444. -/
def Obligations.BusAccessAndHandOver : Prop :=
  (
  ∀ (n : Fin 32) (sec gate : Bool) (addr : BitVec 24) (v : Word) (by' : BusIssuer) (s : State), Quiet s → s.m.wld.mgmtStopped = false →
    (∀ t, t = (if busAttr s.m by' sec then BusTarget.keeperSram else .stewardSram) →
      exec (.internalBusAccess t sec addr by' none) s =
        .next { s with m := (s.m.noted by').send (.busRsp busOk (s.m.wld.sramWord (busAttr s.m by' sec) addr.toNat)) } ∧
      exec (.internalBusAccess t sec addr by' (some v)) s =
        .next { s with m := ({ s.m.noted by' with wld := (s.m.noted by').wld.sramPut (busAttr s.m by' sec) addr.toNat v } : Mach).send (.busRsp busOk 0#32) }) ∧
    (∀ t wr, exec (.internalBusAccess t true addr .dma wr) s = exec (.internalBusAccess t false addr .dma wr) s ∧
      exec (.internalBusAccess t true addr .peripheral wr) s = exec (.internalBusAccess t false addr .peripheral wr) s) ∧
    ((s.m.own n).st = 2 → ∀ wr, exec (.internalBusAccess (.entry n) sec addr by' wr) s = .next { s with m := (s.m.noted by').send (.busRsp busHandover 0#32) }) ∧
    ((s.m.own n).st ≠ 2 → busAttr s.m by' sec = (s.m.own n).keeper → (s.m.own n).gated = false →
      (∃ d, exec (.internalBusAccess (.entry n) sec addr by' none) s = .next { s with m := (s.m.noted by').send (.busRsp busOk d) }) ∧
      exec (.internalBusAccess (.entry n) sec addr by' (some v)) s =
        .next { s with m := ({ s.m.noted by' with wld := { (s.m.noted by').wld with dev := s.m.wld.dev.insert (blockKey n addr) v } } : Mach).send (.busRsp busOk 0#32) }) ∧
    ((s.m.own n).st ≠ 2 → busAttr s.m by' sec = (s.m.own n).keeper → (s.m.own n).gated = true →
      ∀ wr, exec (.internalBusAccess (.entry n) sec addr by' wr) s = .next { s with m := ((s.m.noted by').evb oWldEvt 5).send (.busRsp busOffline 0#32) }) ∧
    ((s.m.own n).st = 0 → ((s.m.own n).keeper = true → s.m.wld.keeper.secureEntry = true) →
      exec (.gateRequest n (s.m.own n).keeper gate addr) s =
        .next { s with m := (s.m.setOwn n { s.m.own n with gated := gate }).send (.busRsp busOk 0#32) })) ∧
  (
  ∀ (n : Fin 32) (s : State), Quiet s → n.val < 18 →
    ((s.m.own n).st = 0 → s.m.worldOn (s.m.own n).keeper = true →
      exec (.blockRelease n) s =
        .next { s with m := s.m.setOwn n { s.m.own n with st := 1, target := !(s.m.own n).keeper, claim := false, cyc := s.m.mgmtCycle } }) ∧
    ((s.m.own n).st = 0 → (s.m.own n).keeper = false → s.m.keeperOn = true → s.m.wld.steward = .up →
      exec (.keeperClaim n) s =
        .next { s with m := (s.m.setOwn n { s.m.own n with st := 1, target := true, claim := true }).send (.worldIrq false n) }) ∧
    ((s.m.own n).st = 1 → (s.m.own n).keeper = false → (s.m.own n).claim = false → (s.m.own n).cyc = s.m.mgmtCycle → s.m.keeperOn = true →
      exec (.keeperClaim n) s = .next { s with m := (s.m.setOwn n { s.m.own n with claim := true }).send (.worldIrq false n) }) ∧
    ((s.m.own n).st = 0 → (s.m.own n).keeper = true → s.m.stewardOn = true →
      exec (.stewardAsk n false) s = .next { s with m := s.m.send (.worldIrq true n) } ∧
      (s.m.keeperOn = true → ∃ t, exec (.stewardAsk n true) s = .next t ∧ (t.m.own n).st = 1 ∧ (t.m.own n).target = false)) ∧
    ((s.m.own n).st = 1 → s.m.worldOn (s.m.own n).keeper = true →
      ∃ t, exec (.quiesceReport n) s = .next t ∧ (t.m.own n).st = 2 ∧ (t.m.own n).target = (s.m.own n).target ∧ t.live = s.live) ∧
    ((s.m.own n).st = 1 → (s.m.own n).claim = true →
      ∃ t, exec (.quiesceTimerExpire n) s = .next t ∧ (t.m.own n).st = 2 ∧ (t.m.own n).target = (s.m.own n).target ∧ t.live = s.live) ∧
    ((s.m.own n).st = 2 →
      ∃ t, exec (.handoverResetDone n) s = .next t ∧ t.m.own n = { keeper := (s.m.own n).target } ∧ t.live = s.live))

/-- The worlds stop and restart by their watchdogs and commands; the Keeper's secured services answer. R441; R442; R443; R444; R445;
R41; R447; R451; R453. -/
def Obligations.WorldsStopRestartAndServe : Prop :=
  (
  ∀ (key : BitVec 24) (version : BitVec 24) (s : State), Quiet s →
    (s.m.wld.keeper = .up → ∃ t, exec .secureWatchdogExpire s = .next t ∧ t.m.wld.keeper = .down ∧ t.m.wld.sessions = [] ∧ (∀ c, c < 4 → (t.m.coreSt c).secure = false) ∧
      t.m.wld.steward = s.m.wld.steward ∧ t.live = s.live) ∧
    (s.m.wld.steward = .up → ∃ t, exec .normalWatchdogExpire s = .next t ∧ t.m.wld.steward = .down ∧
      (∀ h, h < 8 → (t.m.mb h).scan = none ∧ (t.m.mb h).fwXfer = false ∧ (t.m.mb h).fwAct = false) ∧ t.m.wld.keeper = s.m.wld.keeper) ∧
    (key ≠ worldKey → exec (.restartKeeper key) s = .next s ∧ exec (.restartSteward key) s = .next s) ∧
    (s.m.wld.mgmtStopped = false →
      (s.m.wld.keeper = .down → ∃ t, exec (.restartKeeper worldKey) s = .next t ∧ t.m.wld.keeper = .restarting ∧
        (∀ a, t.m.wld.sramWord true a = 0#32) ∧ t.live = s.live) ∧
      (s.m.wld.steward = .down → ∃ t, exec (.restartSteward worldKey) s = .next t ∧ t.m.wld.steward = .restarting ∧ t.live = s.live) ∧
      (s.m.wld.keeper = .restarting → s.lcCur ≠ 5 → ∃ t, exec (.keeperRestartDone true) s = .next t ∧ t.m.wld.keeper = .up ∧
        t.m.wld.kRestarts = min 0xFFFF (s.m.wld.kRestarts + 1) ∧ t.m.cry.kek = s.m.cry.sealedKek) ∧
      (s.m.wld.keeper = .restarting → ∃ t, exec (.keeperRestartDone false) s = .next t ∧ t.m.wld.keeper = .failed) ∧
      (s.m.wld.steward = .restarting →
        exec (.stewardRestartDone version) s =
          .next { s with m := { s.m with wld := { s.m.wld with steward := .up, sRestarts := min 0xFFFF (s.m.wld.sRestarts + 1), version } } })) ∧
    exec .mgmtPllLoss s = .next { s with m := { s.m with wld := { s.m.wld with mgmtStopped := true, cores := s.m.coresStopped } } }) ∧
  (
  ∀ (h : Fin 8) (n : Fin 4) (kek key : BitVec 256) (set : Fin 2) (root : BitVec 384) (bytes : List Byte) (s : State), Quiet s → s.m.doeOn h = true → s.m.holdsFrom h = false →
    (s.m.keeperOn = false →
      exec (.spdmRequest h (.other bytes)) s = .next { s with m := s.m.send (.spdm h spdmBusy) } ∧
      exec (.kekInstall h n kek) s = .next s ∧ exec (.keyProg h set key) s = .next s ∧ exec (.query h) s = .next s) ∧
    (s.m.keeperOn = true →
      exec (.spdmRequest h (.other bytes)) s = .next { s with m := s.m.send (.spdm h (Config.spdmAnswer h (measurements s) bytes)) } ∧
      ((s.m.wld.sessions.filter (fun x => !(x.1 == h.val && x.2.1 == n.val))).length < 16 →
        ∃ t, exec (.spdmRequest h (.openSession n false)) s = .next t ∧ t.m.session h n = some false) ∧
      (16 ≤ (s.m.wld.sessions.filter (fun x => !(x.1 == h.val && x.2.1 == n.val))).length →
        exec (.spdmRequest h (.openSession n false)) s = .next { s with m := s.m.send (.spdm h spdmLimit) }) ∧
      (∃ t, exec (.spdmRequest h (.endSession n)) s = .next t ∧ t.m.session h n = none) ∧
      (s.m.session h n ≠ some true → exec (.kekInstall h n kek) s = .next s) ∧
      (s.m.session h n = some true → ∃ t, exec (.kekInstall h n kek) s = .next t ∧ t.m.cry.kek = some kek ∧ t.m.cry.sealedKek = some kek ∧
        t.m.cry.slots = s.m.cry.slots) ∧
      ((s.m.session h n).isSome = true → s.lcCur = 1 → s.lcPend < 2 →
        exec (.provisioningRequest h n root) s = .next { s with lcPend := 2, m := { s.m with wld := { s.m.wld with rootNext := some root } } }) ∧
      exec (.query h) s = .next { s with m := s.m.send (.ideKm h 0) } ∧
      exec (.keyProg h set key) s =
        .next { s with m := (s.m.setHead h { s.m.head h with
          keys := (s.m.head h).keys.filter (fun k => k.1 != set.val) ++ [(set.val, key)], keysNew := true, skid := s.m.rbit (oHeadCtl h) 2 }).send (.ideKm h 1) } ∧
      ((s.m.head h).keys.any (fun k => k.1 == set.val) = true →
        exec (.kSetGo h set) s = .next { s with m := (s.m.setHead h { s.m.head h with
          keyGo := some set, ideOn := (s.m.head h).ideOn || (s.m.head h).st != .insecure }).send (.ideKm h 2) }) ∧
      exec (.kSetStop h set) s =
        .next { s with m := (s.m.setHead h (if (s.m.head h).keyGo = some set then { s.m.head h with keyGo := none, ideOn := false }
          else s.m.head h)).send (.ideKm h 3) }))

/-- A token ends with the RESULT of its first failing check and clears its words; a good one grants its debug enables or makes its
transition pending. R447; R448; R450. -/
def Obligations.TokensAreJudgedInOrder : Prop :=
  ∀ s : State, Quiet s →
    (s.m.wld.tokenBusy = false →
      exec .tokenSubmit s = .next { s with m := { s.m with wld := { s.m.wld with tokenBusy := true } } } ∧
      exec .tokenClear s = .next { s with m := { s.m with wld := { s.m.wld with dbg := 0#4 } } }) ∧
    (s.m.wld.tokenBusy = true →
      exec .tokenSubmit s = .next s ∧ exec .tokenClear s = .next s ∧
      ∀ r debug x, tokenJudge s = (r, debug, x) →
        ∃ t, exec .tokenDone s = .next t ∧ t.m.wld.tokenResult = r ∧ (s.m.keeperOn = true → t.m.wld.token = []) ∧ t.m.wld.tokenBusy = false ∧
          t.m.rbit oWldEvt 7 = true ∧ t.lcCur = s.lcCur ∧ t.live = s.live ∧
          t.m.wld.dbg = (if debug then s.m.wld.dbg ||| BitVec.ofNat 4 x else s.m.wld.dbg) ∧
          (r ≠ 1 → t.m.wld.dbg = s.m.wld.dbg ∧ t.lcPend = s.lcPend) ∧
          (r = 1 → debug = true → debugAllowed s.lcCur (BitVec.ofNat 4 x) (s.m.wld.signers s.m.wld.tokenBytes) = true ∧ t.lcPend = s.lcPend) ∧
          (r = 1 → debug = false → lcAllowed s.lcCur s.lcPend x (s.m.wld.signers s.m.wld.tokenBytes) = true ∧ t.lcPend = x))

/-- A reset command acts only with its key, not while PBUSY = 1, and under the class A latch only as COLD; PARTITION resets the
partition that GLB_RST_ARG names. R490. -/
def Obligations.ResetCommandsNeedTheirKey : Prop :=
  ∀ (key : BitVec 24) (d : DropEnv) (env : ColdEnv) (s : State), Quiet s →
    (key ≠ 0x3E5E7A#24 → exec (.warm key d) s = .next s ∧ exec (.cold key env) s = .next s ∧ exec (.partition key) s = .next s) ∧
    (s.m.pwr.pbusy = true →
      exec (.warm rstKey d) s = .next s ∧ exec (.cold rstKey env) s = .next s ∧ exec (.partition rstKey) s = .next s) ∧
    (s.latch = true → exec (.warm rstKey d) s = .next s ∧ exec (.partition rstKey) s = .next s ∧
      (s.m.pwr.pbusy = false → s.m.pwr.inDeep = false → exec (.cold rstKey env) s = .next (coldReset s env))) ∧
    (s.latch = false → s.m.pwr.pbusy = false →
      exec (.partition rstKey) s = .next (settle { s with m := partsReset s.live s.m [s.m.rfld oRstArg 5 0] }))

/-- A head's link trains, serves, recovers and becomes insecure as its rules say. R41; R55; R58; R59; R61; R65. -/
def Obligations.HeadLinksTrainServeAndFail : Prop :=
  (
  ∀ (h : Fin 8) (w : Nat) (speed : Fin 6) (mld ide : Bool) (bi : Option Nat) (s : State), Quiet s → (s.m.head h).st ≠ .absent →
    ((s.m.head h).st = .down → s.m.rbit (oHeadCtl h) 0 = true →
      ∃ t, exec (.perstDeassert h) s = .next t ∧ (t.m.head h).st = .training ∧ (t.m.head h).perst = false ∧ t.m.reg (oHeadErr h) = 0#32 ∧
        t.live = s.live ∧ t.latch = s.latch) ∧
    ((s.m.head h).st = .disabled → (s.m.head h).perst = false →
      ∃ t, exec (.headEnable h) s = .next t ∧ (t.m.head h).st = .training ∧ t.m.rbit (oHeadCtl h) 0 = true ∧ t.live = s.live) ∧
    ((s.m.head h).st = .training → s.latch = false → (s.m.head h).walk = false →
      ∃ t, exec (.linkL0Reached h w speed mld bi ide) s = .next t ∧ (t.m.head h).width = min w (s.m.straps.lanes h) ∧
        (t.m.head h).bi = bi.isSome ∧ (t.m.head h).biCr = bi.getD 0 ∧ (t.m.head h).mld = mld ∧ (t.m.head h).ideOn = ide ∧ t.m.unresp h = false ∧
        (t.m.head h).st = (if s.m.pwr.memReady = true ∧ 2 ≤ speed.val then .active else .ioOnly) ∧
        (t.m.head h).memActive = (s.m.pwr.memReady && decide (2 ≤ speed.val))) ∧
    (s.m.canReady = true → s.latch = false → s.m.pwr.memReady = false → s.m.pwr.warm = none → s.m.pwr.inDeep = false →
      ∃ t, exec .memoryReady s = .next t ∧ t.m.pwr.memReady = true ∧ t.live = s.live ∧
        ∀ k, k < 8 → (s.m.head k).st = .ioOnly → 2 ≤ (s.m.head k).speed → (t.m.head k).st = .active ∧ (t.m.head k).memActive = true)) ∧
  (
  ∀ (h : Fin 8) (w replays fec : Nat) (s : State), Quiet s →
    ((s.m.head h).st = .active ∨ (s.m.head h).st = .ioOnly →
      (∀ own : Bool, own = false ∨ (s.m.head h).rtLost = false → ∃ t, exec (.ltssmRecoveryEnter h replays fec own) s = .next t ∧
        (t.m.head h).st = .recovery ∧ (t.m.head h).prev = (s.m.head h).st ∧
        fld (t.m.reg (oHeadErr h)) 15 0 = min 0xFFFF (fld (s.m.reg (oHeadErr h)) 15 0 + replays) ∧
        fld (t.m.reg (oHeadErr h)) 31 16 = min 0xFFFF (fld (s.m.reg (oHeadErr h)) 31 16 + fec) ∧ (own = false → (t.m.head h).l0pOwn = false ∧ (t.m.head h).rtOwn = false) ∧ (own = true → (t.m.head h).rtOwn = true) ∧ t.live = s.live) ∧
      ((s.m.head h).rtLost = true → s.m.core < (s.m.head h).rtNext → exec (.ltssmRecoveryEnter h replays fec true) s = .next s) ∧
      (∃ t, exec (.ideIntegrityFail h) s = .next t ∧ (t.m.head h).st = .insecure ∧ (t.m.head h).memActive = false ∧ t.m.rbit (oHeadEvt h) 3 = true) ∧
      (s.m.dozing = false → ∃ t, exec (.viralRx h) s = .next t ∧ (t.m.head h).viralRx = true ∧ t.m.rbit (oHeadEvt h) 4 = true) ∧
      ((s.m.head h).speed = 5 → 2 ≤ w → w ≤ (s.m.head h).full →
        exec (.l0pChangeDone h w) s =
          .next { s with m := (s.m.setHead h (if w = (s.m.head h).l0pAsk
            then { s.m.head h with width := w, l0pOwn := false }
            else { (s.m.head h).withdraw.followed s.m.core with width := w })).evb (oHeadEvt h) 2 }) ∧
      ((s.m.head h).speed = 5 → s.m.rbit (oHeadCtl h) 1 = true → (s.m.head h).l0pOwn = false → 4 ≤ (s.m.head h).width →
        (s.m.head h).qRt = [] → (s.m.head h).qTable = [] → (s.m.head h).qBulk = [] →
        exec (.l0pIdleRequest h) s =
          .next (if (s.m.head h).l0pLost = (s.m.head h).width / 2 ∧ s.m.core < (s.m.head h).l0pNext then s else
            { s with m := (s.m.setHead h
              { s.m.head h with l0pOwn := true, l0pAsk := (s.m.head h).width / 2, l0pLost := 0, l0pNext := 0 }).send (.linkReq h ((s.m.head h).width / 2)) }))) ∧
    ((s.m.head h).st = .insecure → (s.m.head h).keysNew = true →
      ∃ t, exec (.ideStreamReenable h) s = .next t ∧ ((t.m.head h).st = .active ∨ (t.m.head h).st = .ioOnly) ∧ (t.m.head h).ideOn = true) ∧
    ((s.m.head h).st = .recovery → s.m.dozing = false → s.m.tst.scanEn = false →
      exec (.viralRx h) s = .next { s with m := s.m.setHead h { s.m.head h with held := (s.m.head h).held ++ [.viralRx h] } }) ∧
    ((s.m.head h).st = .recovery → (s.m.head h).prev = .active → s.latch = false →
      (∀ s' : State, s' = (s.m.head h).held.foldl replayOne { s with m := (s.m.setHead h { (s.m.head h).followed s.m.core with
          st := .active, width := min w (s.m.straps.lanes h), held := [], rtOwn := false }).holdSnoops h false } →
        exec (.ltssmRecoveryExit h w false) s = .next (settle { s' with m := if s'.latch then s'.m else coreCycle s'.live s'.m })) ∧
      (Calm s.m → (s.m.head h).held = [] →
        ∃ t, exec (.ltssmRecoveryExit h w false) s = .next t ∧ (t.m.head h).st = .active ∧ (t.m.head h).width = min w (s.m.straps.lanes h) ∧
          t.m.core = s.m.core + 1 ∧ t.m.home = s.m.home ∧ t.live = s.live)))

/-- A lost link leaves its head DOWN or DISABLED with no request but complete writes, and its drop is recorded once the last entry is
free. R39; R55; R66; R67; R68; R404. -/
def Obligations.LostLinksAreDropped : Prop :=
  ∀ (h : Fin 8) (d : DropEnv) (s : State), Quiet s → s.m.rbit oPwrCfg 11 = false →
    ((s.m.head h).st.linked = true →
      (∀ (c : Instr) (st : HeadSt), (c, st) ∈ [(Instr.linkDown h d, HeadSt.down), (.perstAssert h d, .down), (.headDisable h d, .disabled),
          (.refclkLoss (if h.val < 4 then .a else .b) [] d, .down)] →
        ∃ t, exec c s = .next t ∧ (t.m.head h).st = st ∧ (t.m.head h).width = 0 ∧ (t.m.head h).memActive = false ∧ t.live = s.live ∧
          (t.m.head h).rxReq = [] ∧ (t.m.head h).held = [] ∧
          ∀ r ∈ (t.m.head h).qRt ++ (t.m.head h).qTable ++ (t.m.head h).qBulk ++ (t.m.head h).rxRwd, r.quiet = true ∧ r.kind.isLineWrite = true)) ∧
    ((s.m.head h).walk = true → ∃ t, exec (.dropFilterWalkDone h) s = .next t ∧ (t.m.head h).walk = false ∧ t.live = s.live) ∧
    (∀ wc wd rd po, (s.m.head h).drop = some (wc, wd, rd, po) → s.m.dropping h = false →
      ∃ t, exec (.dropEntriesFreed h) s = .next t ∧ (t.m.head h).drop = none ∧
        t.m.reg (oDrop0 h) = (put (min 0xFFFF wc) 0 ||| put (min 0xFFFF wd) 16) ∧
        t.m.reg (oDrop1 h) = (put (min 0xFFFF rd) 0 ||| put (min 0xFFFF po) 16))

/-- The management link rises and falls, partition resets end, die sensors warn once per crossing. R72; R73; R404; R489; R493; R549. -/
def Obligations.ManagementLinkResetsAndSensors : Prop :=
  (
  ∀ (w : Nat) (speed : Fin 5) (s : State), Quiet s →
    (s.m.tst.st ≠ 2 → exec (.mgmtLinkUp w speed) s =
      .next { s with m := { s.m with mgmt := { s.m.mgmt with up := true, width := min w 4, speed := speed.val } } }) ∧
    (∀ c ∈ [Instr.mpPerstNAssert, .mgmtLinkDown],
      (s.m.mgmt.up = true → ∃ t, exec c s = .next t ∧ t.m.mgmt.up = false ∧ t.m.mgmt.width = 0 ∧ t.m.rbit oMptEvt 0 = true ∧
        (∀ h, h < 8 → (t.m.head h).st = (s.m.head h).st) ∧ t.live = s.live) ∧
      (c = .mpPerstNAssert → ∃ t, exec c s = .next t ∧ t.m.pci = s.m.pci.gone mgmtFn)) ∧
    (s.m.mgmt.up = false → exec .mgmtLinkDown s = .next s ∧
      exec .mpPerstNAssert s = .next { s with m := { s.m with pci := s.m.pci.gone mgmtFn } })) ∧
  (
  ∀ (h : Fin 8) (s : State), Quiet s → s.latch = false →
    ((s.m.head h).st ≠ .absent → s.m.holdsFrom h = false → ∃ t, exec (.flr h) s = .next t ∧ t.m.pwr.pbusy = true ∧ (∀ p ∈ s.live.boundTo h, p ∈ t.m.pwr.pparts) ∧
      t.live = s.live ∧ t.epoch = s.epoch) ∧
    (s.m.pwr.pbusy = false → ∃ t, exec (.partition rstKey) s = .next t ∧ t.m.pwr.pbusy = true ∧ s.m.rfld oRstArg 5 0 ∈ t.m.pwr.pparts ∧
      t.live = s.live ∧ t.epoch = s.epoch) ∧
    (s.m.pwr.pbusy = true → s.m.tally.coal = [] → (∀ n, n < 256 → s.m.pwr.pparts.contains (s.live.rOwner n) = true → (s.m.ring n).st ≠ .resetting) →
      exec .partitionResetDone s = .next { s with m := { s.m with pwr := { s.m.pwr with pbusy := false, pparts := [] } } })) ∧
  (
  ∀ (ts : List Int) (s : State), Quiet s → ts.length = 16 → (∀ h, h < 8 → (s.m.mb h).alert = 0#96) →
    ((∀ t ∈ ts, t < 98) → s.m.pwr.tempWarn = [] → exec (.thermalSample ts) s = .next { s with m := { s.m with pwr := { s.m.pwr with temps := ts } } }) ∧
    ((∃ t ∈ ts, 120 ≤ t) → ∃ u, exec (.thermalSample ts) s = .next u ∧ u.m.pwr.thermtrip = true ∧ u.latch = true ∧ u.live = s.live))

/-- A warm reset empties the home, the rings' jobs and the tally unit, makes the stage the live image, and keeps the live image, the
epoch and the latch. R491; R525; R92; R99. -/
def Obligations.WarmResetKeepsWhatItMust : Prop :=
  ∀ (d : DropEnv) (s : State), Quiet s →
    (s.latch = false → s.m.pwr.pbusy = false → s.m.pwr.warm = none → s.m.pwr.inDeep = false →
      ∃ t, exec (.warm rstKey d) s = .next t ∧ t.live = s.live ∧ t.epoch = s.epoch ∧ t.lcCur = s.lcCur ∧ t.lcPend = s.lcPend ∧ t.stage = s.live ∧
        t.commit.op = .idle ∧ t.commit.checked = false ∧
        (t.latch = false → t.m.home.trk = [] ∧ t.m.home.lc = [] ∧ t.m.tally.coal = [] ∧ t.m.dqu.jobs = [] ∧
          (∀ h, h < 8 → (t.m.head h).st.linked = false) ∧ t.m.pwr.memReady = false ∧ t.m.pwr.warm = some 2)) ∧
    (∀ kind, s.m.pwr.warm = some kind → kind = 2 ∨ kind = 3 →
      ∃ t, exec .warmResetDone s = .next t ∧ t.m.pwr.warm = none ∧ t.live = s.live ∧ t.epoch = s.epoch)

/-- A power-on reset clears everything but what fuses and the board hold: empty images, epoch 0, no latch, the pending life cycle now
current. R92; R447; R466; R488; R489. -/
def Obligations.ColdStartBeginsAnew : Prop :=
  ∀ (env : ColdEnv) (s : State), Quiet s →
    (∃ t, exec (.powerOnReset env) s = .next t ∧ t.live = {} ∧ t.stage = t.live ∧ t.epoch = 0#32 ∧ t.lcCur = s.lcPend ∧ t.lcPend = s.lcPend ∧
      t.commit.op = .idle) ∧
    (s.m.pwr.pbusy = false → s.m.pwr.inDeep = false →
      ∃ t, exec (.cold rstKey env) s = .next t ∧ t.live = {} ∧ t.stage = t.live ∧ t.epoch = 0#32 ∧ t.lcCur = s.lcPend ∧
        (s.latch = true → t.latch = true)) ∧
    (s.m.pwr.st = .waking → s.m.pwr.toDeep = true →
      ((sealIntact s.live s.m.wakeDram).1 = true → ∃ t, exec (.deepExitDone true) s = .next t ∧ t.live = s.live ∧ t.epoch = s.epoch ∧ t.stage = s.live ∧
        t.m.pwr.st = .active) ∧
      (∀ ok : Bool, ok = false ∨ (sealIntact s.live s.m.wakeDram).1 = false → ∃ t, exec (.deepExitDone ok) s = .next t ∧ t.live = {} ∧ t.epoch = 0#32))

/-- The mailbox reports its fields and takes its settings and event commands. R44; R82; R86; R549; R551; R465. -/
def Obligations.MailboxReportsAndSettings : Prop :=
  (
  ∀ (h : Fin 8) (ld : Fin 16) (log off len : Nat) (ev : Fin 5) (op : BitVec 16) (dpa : BitVec 45) (n : Nat) (s : State), Quiet s →
    MailboxOpen s h →
    ∀ (c : Instr) (code : Nat) (bytes : List Byte), (c, code, bytes) ∈
      [(Instr.identifyMemoryDevice h, mbOk, Config.mboxBytes 0x4000 h ([0, s.m.wld.version.toNat] ++ (presented s.live s.m h).map s.live.pLen)),
       (.getPartitionInfo h, mbOk, Config.mboxBytes 0x4100 h (0 :: (presented s.live s.m h).map s.live.pLen)),
       (.getHealthInfo h, mbOk, Config.mboxBytes 0x4200 h [(s.m.tj + 256).toNat, (s.m.reg oCntCe).toNat, (s.m.reg oCntUe).toNat]),
       (.getSupportedLogs h, mbOk, Config.mboxBytes 0x0400 h []),
       (.getLog h log off len, mbOk, ((Config.mboxBytes 0x0401 h [log]).drop off).take len),
       (.getEventRecords h ev, mbOk, eventBytes (s.m.mb h) ev),
       (.getEventInterruptPolicy h, mbOk, bytesOf (s.m.mb h).policy 5),
       (.getAlertConfiguration h, mbOk, bytesOf (s.m.mb h).alert 12),
       (.getScanMediaCapabilities h dpa n, mbOk, Config.mboxBytes 0x4303 h [dpa.toNat, n]),
       (.getScanMediaResults h, mbOk, Config.mboxBytes 0x4305 h (if (s.m.mb h).scan.isSome then [] else (s.m.mb h).scanRes)),
       (.getFwInfo h, mbOk, Config.mboxBytes 0x0200 h [s.m.wld.version.toNat]),
       (.getTimestamp h, mbOk, bytesOfNat s.m.timeNs 8),
       (.getDynamicCapacityExtentList h ld, mbOk,
         Config.mboxBytes 0x4801 h (((dcOf s.live s.m h ld).filter (fun x => x.2.2 == 2)).map (·.2.1))),
       (.mailboxUnsupported h op, mbUnsupported, [])] →
      exec c s = .next { s with m := s.m.mbRet h code bytes }) ∧
  (
  ∀ (h : Fin 8) (policy : BitVec 40) (cfg : BitVec 96) (ns : BitVec 64) (log : Fin 5) (hs : List Nat) (s : State), Quiet s →
    MailboxOpen s h →
    (s.latch = false →
      exec (.setEventInterruptPolicy h policy) s = .next { s with m := (s.m.setMb h { s.m.mb h with policy }).mbRet h mbOk [] } ∧
      exec (.setAlertConfiguration h cfg) s =
        .next { s with m := (s.m.setMb h { s.m.mb h with alert := alertMerge (s.m.mb h).alert cfg }).mbRet h mbOk [] } ∧
      exec (.setTimestamp h ns) s =
        .next { s with m := ({ s.m with tsBase := ns.toNat, tsCore := s.m.core } : Mach).mbRet h mbOk [] } ∧
      exec (.clearEventRecords h log true hs) s =
        .next { s with m := (s.m.setMb h { s.m.mb h with logs := (s.m.mb h).logs.filter (fun r => r.1 != log.val) }).mbRet h mbOk [] } ∧
      (∀ x ∈ hs, (∀ r ∈ (s.m.mb h).logs, r.1 = log.val → r.2.1 ≠ x) →
        exec (.clearEventRecords h log false hs) s = .next { s with m := s.m.mbRet h mbInvalidHandle [] })) ∧
    (s.latch = true → ∀ c ∈ [Instr.setEventInterruptPolicy h policy, .setAlertConfiguration h cfg, .setTimestamp h ns,
        .clearEventRecords h log true hs],
      exec c s = .next { s with m := s.m.mbRet h mbMediaDisabled [] }))

/-- The mailbox lists, injects and scans poison, transfers firmware and answers for dynamic capacity. R44; R45; R342; R1; R87; R442;
R445; R452; R551. -/
def Obligations.MailboxPoisonFirmwareCapacity : Prop :=
  (
  ∀ (h : Fin 8) (dpa : BitVec 45) (data : Line) (n : Nat) (s : State), Quiet s →
    MailboxOpen s h → s.latch = false →
    (headHolds s.live h (dpa.toNat / 2 ^ 28) = false →
      ∀ c ∈ [Instr.injectPoison h dpa, .clearPoison h dpa data, .scanMedia h dpa n],
        exec c s = .next { s with m := s.m.mbRet h mbInvalidInput [] }) ∧
    (headHolds s.live h (dpa.toNat / 2 ^ 28) = true → s.m.pwr.memReady = true →
      (∀ (c : Instr) (k : ReqKind), (c, k) ∈ [(Instr.injectPoison h dpa, ReqKind.setPoison), (.clearPoison h dpa data, .ioWrite data (BitVec.allOnes 64))] →
        (∀ r : Req, r = { src := 15, head := h, line := dpa.toNat / 64, kind := k, tag := whoMailbox, mst := mDesc, cls := .engine, quiet := true } →
          exec c s = .next (settle { s with m := (coreCycle s.live (coreCycle s.live (s.m.issueAll [r]))).mbRet h mbOk [] })) ∧
        (∀ x : CLine, Calm s.m → PlainLine s.live s.m (dpa.toNat / 64) → ServesNow s.live s.m mDesc → s.m.lcGet (dpa.toNat / 64) = some x →
          ∃ t y, exec c s = .next t ∧ Out.mbox h mbOk [] ∈ t.m.outbox ∧ t.m.lcGet (dpa.toNat / 64) = some y ∧ y.dirty = true ∧
            y.p = (k == .setPoison) ∧ y.data = (if k = .setPoison then x.data else data) ∧ t.m.home.trk = [] ∧ t.m.home.intq = [])) ∧
      exec (.getPoisonList h dpa n) s =
        .next { s with m := s.m.mbRet h mbOk (Config.mboxBytes 0x4300 h (poisonedIn s.live s.m h (dpa.toNat / 64) n)) } ∧
      ((s.m.mb h).busy = false →
        exec (.scanMedia h dpa n) s =
          .next { s with m := (s.m.setMb h { s.m.mb h with scan := some (dpa.toNat / 64, n), scanRes := [] }).mbRet h mbBackground [] })) ∧
    (∀ line, (s.m.mb h).scan = some (line, n) → s.m.scb.paused = false → s.m.pwr.memReady = true →
      flatPage s.live (line / 64) = true → headHolds s.live h (line / 64 / 65536) = true → line % 64 + n ≤ 64 → Calm s.m → ServesNow s.live s.m mScrub →
      ∀ errs, ∃ t, exec (.scanMediaDone h errs) s = .next t ∧ (t.m.mb h).scan = none ∧ t.live = s.live)) ∧
  (
  ∀ (h : Fin 8) (ld : Fin 16) (version : BitVec 24) (last good : Bool) (es : List Nat) (s : State), Quiet s →
    MailboxOpen s h → s.latch = false →
    ((s.m.mb h).busy = false →
      exec (.transferFw h version last good) s =
        .next { s with m := (s.m.setMb h { s.m.mb h with fwXfer := true, fwReady := if last then some (version, good) else none }).mbRet h mbBackground [] } ∧
      ((s.m.mb h).fwReady = some (version, true) → s.m.keeperOn = true →
        exec (.activateFw h) s = .next { s with m := (s.m.setMb h { s.m.mb h with fwAct := true }).mbRet h mbBackground [] }) ∧
      ((s.m.mb h).fwReady = some (version, false) → s.m.keeperOn = true →
        exec (.activateFw h) s = .next { s with m := s.m.mbRet h mbActivationFailed [] })) ∧
    (s.m.keeperOn = false → exec (.activateFw h) s = .next { s with m := s.m.mbRet h mbActivationFailed [] }) ∧
    exec (.transferFwDone h) s = .next { s with m := s.m.setMb h { s.m.mb h with fwXfer := false } } ∧
    ((s.m.mb h).fwAct = true → (s.m.mb h).fwReady = some (version, true) → s.m.keeperOn = true →
      ∃ t, exec (.activateFwDone h) s = .next t ∧ t.m.wld.version = version ∧ (t.m.mb h).fwAct = false ∧ t.live = s.live) ∧
    (∀ p o, ldPart s.live s.m h ld = some p → (s.m.mb h).offered.find? (fun o => o.1 == s.live.pLd p) = some o → es.all o.2.contains = true →
      ∃ t, exec (.addDynamicCapacityResponse h ld es) s = .next t ∧ Out.mbox h mbOk [] ∈ t.m.outbox ∧
        ∀ k ∈ o.2, t.m.dc.get 0 k = if es.contains k then 2 else 3) ∧
    (ldPart s.live s.m h ld = none →
      exec (.addDynamicCapacityResponse h ld es) s = .next { s with m := s.m.mbRet h mbInvalidInput [] }) ∧
    (es.all (fun k => ((dcOf s.live s.m h ld).filter (fun x => x.2.2 == 2)).any (fun x => x.1 == k)) = true →
      ∃ t, exec (.releaseDynamicCapacity h ld es) s = .next t ∧ (∀ k ∈ es, t.m.dc.get 0 k = 3) ∧
        (∀ k, k ∉ es → t.m.dc.get 0 k = s.m.dc.get 0 k)) ∧
    (∃ x y, exec (.getDynamicCapacityConfiguration h ld) s = .next { s with m := s.m.mbRet h mbOk (Config.mboxBytes 0x4800 h [x, y]) } ∧
      (∀ p, ldPart s.live s.m h ld = some p → y = (dcOf s.live s.m h ld).length ∧ x = s.live.pLen p - y)))

/-- A read of GLB_REVID over the management port answers 0x0000_0A00. R7. -/
def Obligations.RevisionReadsA0 : Prop :=
  ∀ s : State, Quiet s → s.m.mgmt.up = true → s.m.pwr.st = .active →
    exec (.counterLoRead { path := .mgmt, bar := .control, off := 4#26, dws := 1 }) s =
      .next { s with m := s.m.send (.regData .mgmt [0x0A00#32]) }

/-- Register accesses follow their field's rule; a value outside a register's range is not taken. R11; R12; R13; R521; R522; R523; R71;
R123; R135; R220; R295; R296. -/
def Obligations.RegisterAccessesAndRanges : Prop :=
  (
  ∀ (v : Word) (s : State), Quiet s → s.m.pwr.st = .active →
    (s.m.mgmt.up = true →
      exec (.regWrite { path := .mgmt, bar := .control, off := 0xC#26, dws := [(v, 0xF#4)], ep := false }) s =
        .next { s with m := s.m.setReg oScratch v } ∧
      exec (.regWrite { path := .mgmt, bar := .control, off := 0x10#26, dws := [(v, 0xF#4)], ep := false }) s =
        .next { s with m := s.m.setReg oAccErr (s.m.reg oAccErr &&& ~~~(v &&& 7#32)) } ∧
      exec (.regWrite { path := .mgmt, bar := .control, off := 0xC#26, dws := [(v, 0xF#4), (v, 0xF#4), (v, 0xF#4)], ep := false }) s =
        .next { s with m := (s.m.evt oAccErr 2#32).setReg oAccAddr 0x4000000C#32 } ∧
      exec (.regWrite { path := .mgmt, bar := .control, off := 0xC#26, dws := [(v, 0xF#4)], ep := true }) s =
        .next { s with m := (s.m.evt oAccErr 4#32).setReg oAccAddr 0x4000000C#32 } ∧
      exec (.regWrite { path := .mgmt, bar := .control, off := 0xC#26, dws := [(v, 0x7#4)], ep := false }) s =
        .next { s with m := (s.m.evt oAccErr 1#32).setReg oAccAddr 0x4000000C#32 } ∧
      exec (.regWrite { path := .mgmt, bar := .control, off := 0x18#26, dws := [(v, 0xF#4)], ep := false }) s = .next s ∧
      (s.m.reg 0x18 = 0#32 →
        exec (.counterLoRead { path := .mgmt, bar := .control, off := 0x18#26, dws := 1 }) s = .next { s with m := s.m.send (.regData .mgmt [0#32]) })) ∧
    (s.m.mgmt.up = false →
      exec (.regWrite { path := .mgmt, bar := .control, off := 0xC#26, dws := [(v, 0xF#4)], ep := false }) s = .next s)) ∧
  (
  ∀ (h : Fin 8) (ch : Fin 12) (i : Fin 2) (j : Fin 3) (v : Word) (s : State), Quiet s → s.m.pwr.warm = none → (s.m.head h).st ≠ .absent →
    (∀ (c : Instr) (off hi1 lo1 hi2 lo2 : Nat) (ok : Prop), (c, off, hi1, lo1, hi2, lo2, ok) ∈
      [(Instr.qcfgWrite h v, oHeadQcfg h, 25, 16, 9, 0, fld v 25 16 < fld v 9 0),
       (.homTrkCfgWrite v, oTrkCfg, 26, 16, 9, 0, fld v 9 0 ≤ 512 ∧ 16 ≤ fld v 26 16 ∧ fld v 26 16 ≤ 1024),
       (.homSnpToWrite v, oSnpTo, 19, 0, 19, 0, 10 ≤ fld v 19 0 ∧ fld v 19 0 ≤ 1000000),
       (.scbCtlWrite v, oScbCtl, 13, 11, 10, 1, 1 ≤ fld v 10 1 ∧ fld v 10 1 ≤ 720 ∧ 1 ≤ fld v 13 11 ∧ fld v 13 11 ≤ 7)] →
      (ok → ∃ w, exec c s = .next { s with m := s.m.setReg off w } ∧ fld w hi1 lo1 = fld v hi1 lo1 ∧ fld w hi2 lo2 = fld v hi2 lo2) ∧
      (¬ ok → exec c s = .next s)) ∧
    (s.m.pop.used.contains ch.val = false → exec (.mcQcfgWrite ch v) s = .next s ∧ exec (.mcLatWrite ch i v) s = .next s) ∧
    (s.m.pop.used.contains ch.val = true →
      (2 ≤ fld v 6 0 ∧ fld v 6 0 ≤ 64 ∧ fld v 14 8 ≤ 63 ∧ fld v 14 8 < fld v 6 0 →
        ∃ w, exec (.mcQcfgWrite ch v) s = .next { s with m := ((s.m.setReg (oMcQcfg ch) w).drain (2 * ch)).drain (2 * ch + 1) } ∧
          fld w 14 8 = fld v 14 8 ∧ fld w 6 0 = fld v 6 0) ∧
      (¬ (2 ≤ fld v 6 0 ∧ fld v 6 0 ≤ 64 ∧ fld v 14 8 ≤ 63 ∧ fld v 14 8 < fld v 6 0) → exec (.mcQcfgWrite ch v) s = .next s) ∧
      (20 ≤ fld v 15 0 → 20 ≤ fld v 31 16 →
        ∃ w, exec (.mcLatWrite ch i v) s = .next { s with m := s.m.setReg (oMcLat ch i) w } ∧ fld w 31 16 = fld v 31 16 ∧ fld w 15 0 = fld v 15 0) ∧
      (fld v 15 0 < 20 ∨ fld v 31 16 < 20 → exec (.mcLatWrite ch i v) s = .next s)) ∧
    (∃ t, exec (.chnEnWrite j v) s = .next t ∧ t.live = s.live ∧
      (8 ≤ ((List.range 96).filter (fun k => if k / 32 = j.val then v.getLsbD (k % 32) else s.m.rbit (oChnEn (k / 32)) (k % 32))).length →
        t.m.reg (oChnEn j) = v) ∧
      (((List.range 96).filter (fun k => if k / 32 = j.val then v.getLsbD (k % 32) else s.m.rbit (oChnEn (k / 32)) (k % 32))).length < 8 → t = s)))

/-- The monitor counts, freezes and snaps; its sample ring is read in order. R509; R511; R512; R513; R514; R517; R545. -/
def Obligations.MonitorCountsAndSamples : Prop :=
  (
  ∀ (on : Bool) (k : Fin 256) (v : Word) (s : State), Quiet s →
    exec .snap s = .next { s with m := { s.m with pmu := { s.m.pmu with shadow := s.m.pmu.cnt } } } ∧
    exec (.freeze on) s = .next { s with m := s.m.setReg oPmuCtl ((s.m.reg oPmuCtl &&& ~~~2#32) ||| putB on 1) } ∧
    (s.m.frozen = true →
      exec (.counterWrite (BitVec.ofNat 26 (0x31004 + 0x10 * k.val)) v) s =
        .next { s with m := { s.m with pmu := { s.m.pmu with
          cnt := s.m.pmu.cnt.set 0 k (s.m.pmu.cnt.get 0 k / 2 ^ 32 * 2 ^ 32 + v.toNat) } } }) ∧
    (s.m.counts k = true → s.m.pmu.cnt.get 0 k = 2 ^ 48 - 1 →
      ∃ t, exec (.counterWrap (.prog k)) s = .next t ∧ t.m.pmu.cnt.get 0 k = 0 ∧ t.m.rbit (oOvf (k / 32)) (k % 32) = true ∧ t.live = s.live) ∧
    (s.m.counts k = false → exec (.counterWrap (.prog k)) s = .next s)) ∧
  (
  ∀ (v : Word) (s : State), Quiet s →
    (s.m.rbit oSmpCfg 0 = false → v.getLsbD 0 = true →
      ∃ t, exec (.samplingEnable v) s = .next t ∧ t.m.pmu.wr = 0 ∧ t.m.pmu.rd = 0 ∧ t.m.pmu.full = false ∧ t.m.rbit oSmpCfg 0 = true ∧ t.live = s.live) ∧
    (s.m.pmu.fill ≠ 0 →
      (∃ t, exec .smpData0Read s = .next t ∧ t.m.pmu.buf = s.m.pmu.ring.get [] s.m.pmu.rd ∧ t.m.pmu.rd = s.m.pmu.rd) ∧
      (∃ t, exec .smpData7Read s = .next t ∧ t.m.pmu.rd = (s.m.pmu.rd + 1) % 32768 ∧ t.m.pmu.full = false ∧ t.m.pmu.ring = s.m.pmu.ring)) ∧
    (s.m.pmu.fill = 0 → ∃ t, exec .smpData7Read s = .next t ∧ t.m.pmu = s.m.pmu) ∧
    (s.m.stewardOn = true → ∃ t, exec (.pldmRequest 0) s = .next t ∧ t.m.outbox = s.m.outbox ++ [.pldm (Config.pldmBytes 0 s.m.tj)] ∧ t.live = s.live))

/-- A head's request is decoded, buffered and offered to the regulator; one outside the partition, or refused at the port, is answered
there. R17; R49; R50; R51; R56; R65; R129; R300. -/
def Obligations.RequestsAreReceived : Prop :=
  ∀ (h : Fin 8) (ld : Fin 16) (tag : Nat) (hpa : BitVec 52) (sram : SramErr) (s : State), Quiet s → (s.m.head h).st = .active → s.m.tst.scanEn = false →
    s.m.pwr.st = .active →
    (∀ (c : Instr) (kind : ReqKind), (s.m.head h).noCredit kind = false →
      ((∃ mt, c = .memRd h ld tag hpa mt sram ∧ kind = .read mt) ∨
       (∃ mt d p, c = .memWr h ld tag hpa mt d p sram ∧ kind = .write mt d p) ∨
       (c = .memClnEvct h ld tag hpa sram ∧ kind = .clean) ∨
       (∃ be d, c = .cxlIoMemoryRequest h ld tag hpa true be d sram ∧ kind = .ioWrite d be) ∨
       (∃ be d, c = .cxlIoMemoryRequest h ld tag hpa false be d sram ∧ kind = .ioRead) ∨
       (∃ op, c = .atomicOp h ld tag hpa op sram ∧ kind = .atomic op (hpa.toNat % 64) ∧ op.bytes ≠ 0 ∧ hpa.toNat % op.bytes = 0)) →
      ∃ m : Mach, m.heads = s.m.heads ∧ m.home = s.m.home ∧ m.dc = s.m.dc ∧ m.led = s.m.led ∧
        (∀ p dpa, s.latch = false → (s.m.head h).viralRx = false → portDecode s.live m h ld hpa.toNat = some (p, dpa) →
          exec c s = .next (settle { s with m := coreCycle s.live (portMove s.live
            (rxPut m h { src := h, head := h, part := p, tag, line := dpa / 64, kind, sram }) h) })) ∧
        (s.latch = false → portDecode s.live m h ld hpa.toNat = none →
          exec c s = .next (settle { s with m := (m.turnAway h tag kind false).outOfPart h 2 hpa.toNat })) ∧
        (s.latch = true → exec c s = .next { s with m := m.turnAway h tag kind true })) ∧
    (∀ op : Atomic, op.bytes ≠ 0 → hpa.toNat % op.bytes ≠ 0 →
      exec (.atomicOp h ld tag hpa op sram) s = .next { s with m := s.m.send (.errMsg h tag) })

/-- A snoop's response completes it, a BIConflict is acknowledged, a timeout marks the head unresponsive; a late response is counted.
R62; R106; R114; R122; R124; R126. -/
def Obligations.SnoopsAreAnsweredOrTimeOut : Prop :=
  ∀ (h : Fin 8) (line : Nat) (rsp : SnpRsp) (s : State), Quiet s →
    ((s.m.head h).st.linked = true → s.m.holdsFrom h = false → s.m.snoopOut h line = true →
      (∃ m : Mach, exec (.birsp h line rsp) s = .next (settle { s with m := m.pumpAll s.live }) ∧
        m.home.snoops.length + 1 = s.m.home.snoops.length ∧ m.home.lc = s.m.home.lc ∧ m.home.trk = s.m.home.trk ∧
        (rsp = .i → ∀ e, m.sfGet line = some e → e.pres.getLsbD h = false)) ∧
      exec (.biconflict h line) s = .next { s with m := s.m.send (.biConflictAck h line) }) ∧
    ((s.m.head h).st.linked = true → s.m.holdsFrom h = false → s.m.snoopOut h line = false →
      ∀ c ∈ [Instr.birsp h line rsp, .biconflict h line], exec c s = .next { s with m := (s.m.bump oCntLate).evb oHomEvt 1 }) ∧
    ((coreCycle s.live s.m).snoopTimed h line = true →
      ∃ m : Mach, exec (.snoopTimeout h line) s = .next (settle { s with m := m.pumpAll s.live }) ∧
        m.reg oToLo = BitVec.ofNat 32 line ∧ fld (m.reg oToHi) 10 8 = h ∧ m.rbit oHomEvt 0 = true ∧ m.unresp h = true ∧
        (∀ x ∈ m.home.snoops, x.head ≠ h)) ∧
    ((coreCycle s.live s.m).snoopTimed h line = false → exec (.snoopTimeout h line) s = .next (settle { s with m := coreCycle s.live s.m }))

/-- The commands that move waiting lines on: an admission cycle, a window, a read, a fetch, a decode, a write-back and what waits for
room. R23; R30; R109; R148; R270; R299; R300; R304; R310; R318; R364; R413. -/
def Obligations.HomeCommandsAct : Prop :=
  ∀ (s : State), Quiet s → s.latch = false →
    ((∀ errs, exec (.regulatorAdmit errs) s = .next (settle { s with m := (regulatorCycle s.live errs s.m).drainTally s.live })) ∧
      (∀ (r : Req) (c : CLine), s.m.home.intq = [r] → Calm { s.m with home := { s.m.home with intq := [] } } → s.m.tally.inq = [] →
        8 ≤ r.src → r.src ≠ 12 → r.kind = .agRead → r.phase = .start → r.sram = .none → r.quiet = false → r.merging = false → r.mst < 38 → s.m.jobOf r = none →
        PlainLine s.live s.m r.line → ServesNow s.live s.m r.mst → s.m.lcGet r.line = some c →
        ∃ t, exec (.regulatorAdmit []) s = .next t ∧ t.m.core = s.m.core + 1 ∧ t.m.bwg.cycles = s.m.bwg.cycles + 1 ∧ t.m.home.intq = [] ∧
          t.m.home.trk = [] ∧ ∃ d ∈ t.m.home.done, d.who = r.tag ∧ d.seq = r.seq ∧ d.line = r.line ∧
            d.data = answerData .agRead c.data c.p c.asRead ∧ d.p = c.p)) ∧
    (∃ t, exec .windowBoundary s = .next t ∧ t.m.bwg.charged = [] ∧ t.m.bwg.held = [] ∧ t.m.bwg.cycles = 0 ∧ t.m.bwg.short = false ∧
      t.m.bwg.floorOld = none ∧ t.m.bwg.cut = cutOf s.live s.m.bwg.live ∧
      (s.m.bwg.short = false → ∀ k, k < 38 → t.m.bwg.use.get 0 k = s.m.bwg.charged.get 0 k / 64 ∧
        (fellShort s.live s.m.bwg k = true → t.m.rbit (if k < 32 then oShort0 else oShort1) (k % 32) = true))) ∧
    (∀ (ch : Fin 12) (sub : Fin 2) errs mis q, (s.m.sub (2 * ch.val + sub.val)).flight.find? (fun q => !q.back) = some q →
      ∃ (m : Mach) (j : Judged),
        j = judge s.m (s.m.qAddr q) q.purpose.cellar ((s.m.readDpa q).any (fun d => flatPage s.live (d / 4096)))
          (applyErrs errs ((mis.map s.m.media.sym).getD (bytesOf q.cw 80))) ∧ m.home = s.m.home ∧
        (m.sub (2 * ch.val + sub.val)).flight.length + 1 = (s.m.sub (2 * ch.val + sub.val)).flight.length ∧
        (q.purpose.ahead = true → s.m.awaits q.purpose = true →
          exec (.dramReadDone ch sub errs mis) s = .next (settle { s with m := (m.setSub (2 * ch.val + sub.val)
            { m.sub (2 * ch.val + sub.val) with flight := (m.sub (2 * ch.val + sub.val)).flight ++
              [{ q with back := true, ans := some (decipher s.live m q.purpose j) }] }) })) ∧
        (q.purpose.ahead = false → exec (.dramReadDone ch sub errs mis) s = .next (settle { s with m := handOver s.live m q j }))) ∧
    (∀ (ch : Fin 12) (sub : Fin 2) q line, (s.m.sub (2 * ch.val + sub.val)).fabric = [q] → q.wr = true → q.spot = none → q.purpose = .wback line →
      s.m.ent? (line / 64) = none → (s.m.sub (2 * ch.val + sub.val)).wq.length < 64 →
      ∃ m : Mach, exec (.fabricWaitRelease ch sub) s = .next (settle { s with m := m.pumpAll s.live }) ∧
        (m.sub (2 * ch.val + sub.val)).fabric = [] ∧
        (∃ w ∈ (m.sub (2 * ch.val + sub.val)).wq, w.frame = q.frame ∧ w.ln = q.ln ∧ w.cw = q.cw) ∧
        ((s.m.lcGet line).any (·.lock) = true → m.lcGet line = none)) ∧
    (∀ j e0 e1, s.m.led.fetching.contains j = true → (s.m.led.lines.filter (fun p => p.1 % 16384 == j % 16384)).length < 16 →
      ∃ m : Mach, exec (.ledgerFetchDone j e0 e1) s = .next (settle { s with m := m.pumpAll s.live }) ∧ m.led.fetching.contains j = false ∧
        (m.led.lines.find? j).isSome = true) ∧
    (∀ page (w : Fin 8) c d, s.m.churnOf (.decode page w) = some c → s.m.decode? page w = some d →
      ∃ m : Mach, m.chn.run = s.m.chn.run.erase c ∧ m.home = s.m.home ∧ m.led = s.m.led ∧
        exec (.wedgeDecodeDone page w) s = .next (settle { s with m := wedgeEnd s.live m page w d })) ∧
    (∀ (m : Mach) (q r : Req) mt data po ar page w, q.kind = .install data po ar → m.home.trk = [r] → r.line = q.line →
      r.phase = .decode page w → r.kind = .read mt → r.quiet = false → r.merging = false →
      ∃ ans, Out.memData r.head r.tag (answerData r.kind data (po || m.poisonDue q.line) ar) (po || m.poisonDue q.line) ans ∈
        (enter s.live m q).outbox) ∧
    (∀ line c, s.m.lcGet line = some c → c.dirty = true → c.lock = false → s.m.tracked line = false → flatPage s.live (line / 64) = true →
      s.m.ent? (line / 64) = none → (s.m.sub (s.m.subOf (flatFrame s.live (line / 64)) (line % 64))).fabric = [] →
      (s.m.sub (s.m.subOf (flatFrame s.live (line / 64)) (line % 64))).wq.length < 64 →
      ∃ m : Mach, exec (.writeBack line) s = .next (settle { s with m := m.pumpAll s.live }) ∧ m.lcGet line = none ∧
        ∃ w ∈ (m.sub (s.m.subOf (flatFrame s.live (line / 64)) (line % 64))).wq, w.frame = flatFrame s.live (line / 64) ∧ w.ln = line % 64) ∧
    (∀ (r : Req) mt d p, s.m.home.trk = [r] → Calm { s.m with home := { s.m.home with trk := [] } } → r.src < 8 → r.kind = .write mt d p →
      r.quiet = false → r.sram = .none → r.merging = false → PlainLine s.live s.m r.line → (s.m.lcWays r.line).length < 12 →
      ∀ i, (i = Instr.setStallRelease r.id ∧ r.phase = .stall) ∨ (i = .lagWaitRelease ∧ r.phase = .lag) →
        ∃ t, exec i s = .next t ∧ t.m.home.trk = [] ∧ Out.memCmp r.head r.tag false ∈ t.m.outbox ∧
          ∃ y, t.m.lcGet r.line = some y ∧ y.data = d ∧ y.p = p ∧ y.dirty = true)

/-- A request whose line stands in the line cache completes from it; an Unwritten page reads zeros, a Retired one poison. R21; R25;
R27; R45; R107; R114; R119; R120; R128; R130; R152; R300. -/
def Obligations.LineCacheServesHits : Prop :=
  (∀ (h : Fin 8) (ld : Fin 16) (tag : Nat) (hpa : BitVec 52) (p dpa : Nat) (c : CLine) (s : State), portDecode s.live s.m h ld hpa.toNat = some (p, dpa) →
    HeadHits s h (dpa / 64) c →
    (∀ mt, ∃ t, exec (.memRd h ld tag hpa mt .none) s = .next t ∧ t.m.home.trk = [] ∧
      ∃ ans, Out.memData h tag (answerData (.read mt) c.data c.p c.asRead) c.p ans ∈ t.m.outbox) ∧
    (∀ mt d po, ∃ t, exec (.memWr h ld tag hpa mt d po .none) s = .next t ∧ t.m.home.trk = [] ∧ Out.memCmp h tag false ∈ t.m.outbox ∧
      ∃ y, t.m.lcGet (dpa / 64) = some y ∧ y.data = d ∧ y.p = po ∧ y.dirty = true) ∧
    (∃ t, exec (.memClnEvct h ld tag hpa .none) s = .next t ∧ t.m.home.trk = [] ∧ Out.memCmp h tag false ∈ t.m.outbox) ∧
    (∀ be d, ∃ t, exec (.cxlIoMemoryRequest h ld tag hpa false be d .none) s = .next t ∧ t.m.home.trk = [] ∧
      Out.ioCpl h tag (answerData .ioRead c.data c.p c.asRead) c.p false ∈ t.m.outbox) ∧
    (∀ be d, ∃ t, exec (.cxlIoMemoryRequest h ld tag hpa true be d .none) s = .next t ∧ t.m.home.trk = [] ∧
      ∃ y, t.m.lcGet (dpa / 64) = some y ∧ y.data = mergeBytes be d c.data ∧ y.p = (c.p && !wholeLine be) ∧ y.dirty = true) ∧
    (∀ op : Atomic, op.bytes ≠ 0 → hpa.toNat % op.bytes = 0 → c.p = false →
      ∃ t, exec (.atomicOp h ld tag hpa op .none) s = .next t ∧ t.m.home.trk = [] ∧
        Out.ioCpl h tag (atomicLine op (hpa.toNat % 64) c.data).2 false false ∈ t.m.outbox ∧
        ∃ y, t.m.lcGet (dpa / 64) = some y ∧ y.data = (atomicLine op (hpa.toNat % 64) c.data).1 ∧ y.dirty = true)) ∧
  (∀ (L : Image) (m : Mach) (r : Req) (mt : MetaRd) (e : LEnt), r.src = r.head → r.head < 8 → r.kind = .read mt → r.quiet = false → r.sram = .none →
    r.merging = false → dbLine L m r.line = false → m.lcGet r.line = none → m.heldLine r.line = none → m.poisonDue r.line = false →
    flatPage L (r.line / 64) = false → m.ent? (r.line / 64) = some e →
    (e.st = 0 → ∃ ans, Out.memData r.head r.tag 0#512 false ans ∈ (serve L m r).outbox ∧ (serve L m r).mcs.nextId = m.mcs.nextId) ∧
    (e.st = 5 → ∃ ans, Out.memData r.head r.tag (BitVec.allOnes 512) true ans ∈ (serve L m r).outbox ∧ (serve L m r).mcs.nextId = m.mcs.nextId))

/-- A tally write's records enter the coalescer in order; a merge adds the pending sums to their line. R407; R408; R409; R410; R412;
R414; R415. -/
def Obligations.TallyRecordsAreTakenAndMerged : Prop :=
  ∀ (h : Fin 8) (off : BitVec 23) (bytes : Nat) (recs : List (BitVec 64 × Bool)) (s : State), Quiet s →
    ((s.m.head h).post ≠ [] → s.m.holdsFrom h = false → s.m.pwr.st = .active → exec (.tallyRecordPost h off bytes recs) s = .next s) ∧
    ((s.m.head h).st.linked = true → s.m.holdsFrom h = false → s.latch = false → s.m.pwr.st = .active → (s.m.head h).post = [] →
      ((off.toNat % 8 ≠ 0 ∨ bytes % 8 ≠ 0 ∨ 512 < bytes ∨ bytes = 0) →
        exec (.tallyRecordPost h off bytes recs) s = .next { s with m := (s.m.evb oTlyEvt 0).bump (oTlyCnt 4) }) ∧
      (off.toNat % 8 = 0 → bytes % 8 = 0 → bytes ≤ 512 → bytes ≠ 0 →
        (4096 < s.m.inqLen (h / 4) + recs.length → exec (.tallyRecordPost h off bytes recs) s =
          .next { s with m := (s.m.setHead h { s.m.head h with post := [{ off := off.toNat, bytes, recs }] }).evb oTlyEvt 3 }) ∧
        (s.m.inqLen (h / 4) + recs.length ≤ 4096 →
          (∀ p, ldPart s.live s.m h (off.toNat / 2 ^ 19) = some p → (tallyTab s.live p).isSome = true →
            ∃ m : Mach, exec (.tallyRecordPost h off bytes recs) s = .next (settle { s with m := m.tallyEnter s.live }) ∧
              m = (List.range recs.length).foldl (fun m i => tallyTake s.live m h p (0x800000 + off.toNat + 8 * i)
                (recs.getD i (0#64, true)).1 (recs.getD i (0#64, true)).2) s.m) ∧
          ((ldPart s.live s.m h (off.toNat / 2 ^ 19) = none ∨
              ∃ p, ldPart s.live s.m h (off.toNat / 2 ^ 19) = some p ∧ tallyTab s.live p = none) →
            exec (.tallyRecordPost h off bytes recs) s = .next (settle { s with m := s.m.outOfPart h 5 (0x800000 + off.toNat) }))))) ∧
    (∀ line, s.latch = false → ∀ i ∈ [Instr.coalescerAgeMerge line, .tallyMerge line],
      exec i s = .next (settle { s with m := (mergeLine s.live s.m line).2.drainTally s.live }) ∧
      (∀ (c : Coal) (y : CLine), s.m.tally.coal.find? line = some c → s.m.tally.inq = [] → Calm s.m →
        PlainLine s.live { s.m with tally := { s.m.tally with coal := [] } } line → ServesNow s.live s.m mTally → s.m.lcGet line = some y →
        y.p = false →
        ∃ t, exec i s = .next t ∧ t.m.tally.coal.find? line = none ∧ t.m.home.trk = [] ∧
          ∃ y', t.m.lcGet line = some y' ∧ y'.data = (mergeInto c y.data).1 ∧ y'.p = false ∧ y'.dirty = true)) ∧
    (∀ (c : Coal) (d : Line) (i : Nat), i < 8 → c.sat = false →
      (mergeInto c d).1.extractLsb' (64 * i) 64 = d.extractLsb' (64 * i) 64 + BitVec.ofNat 64 (c.lanes.getD i 0)) ∧
    (∀ (c : Coal) (d : Line) (i : Nat), i < 8 → c.sat = true →
      ((mergeInto c d).1.extractLsb' (64 * i) 64).toNat =
        min (2 ^ 64 - 1) ((d.extractLsb' (64 * i) 64).toNat + ((c.incs.filter (fun p => p.1 == i)).map (·.2)).sum))

/-- FORMAT needs its key, no valid partition and settings that fit; its end leaves one free list of frames and no counts. R137; R138;
R140; R141; R142. -/
def Obligations.FormatBuildsTheLedger : Prop :=
  ∀ (key : BitVec 24) (s : State), Quiet s → s.latch = false →
    (s.m.led.fmtBusy = false →
      (key.toNat ≠ 0x5C1EA2 → exec (.format key) s = .next s) ∧
      (key.toNat = 0x5C1EA2 → (List.range 64).any s.live.pValid = true →
        exec (.format key) s = .next { s with m := { s.m with led := { s.m.led with fmtResult := 2 } } }) ∧
      (key.toNat = 0x5C1EA2 → (List.range 64).any s.live.pValid = false →
        (fmtFits s.live s.m (s.m.rfld oFmtDpa 17 0) (s.m.rfld oFmtCellar 14 0) (s.m.rbit oFmtDpa 31) = false →
          exec (.format key) s = .next { s with m := { s.m with led := { s.m.led with fmtResult := 3 } } }) ∧
        (fmtFits s.live s.m (s.m.rfld oFmtDpa 17 0) (s.m.rfld oFmtCellar 14 0) (s.m.rbit oFmtDpa 31) = true →
          ∃ m : Mach, exec (.format key) s = .next (settle { s with m }) ∧ m.led.fmtBusy = true ∧ m.led.formatted = false ∧
            m.led.extents = s.m.rfld oFmtDpa 17 0 ∧ m.led.dup = s.m.rbit oFmtDpa 31 ∧ m.led.cellarUnits = s.m.rfld oFmtCellar 14 0 ∧
            m.home.lc = [] ∧ m.tally.coal = [] ∧ m.tally.inq = [] ∧ m.led.moves = [] ∧ m.pwr.memReady = false ∧ m.yoke.trust = false))) ∧
    (∀ c, s.m.led.fmtBusy = true → OwnWork s.m .format whoFormat (64 * ((fmtRuns s.live s.m).1 + (fmtRuns s.live s.m).2)) c →
      ∃ m : Mach, exec .formatDone s = .next (settle { s with m }) ∧ m.led.fmtBusy = false ∧ m.led.formatted = true ∧ m.led.fmtResult = 1 ∧
        m.led.fseq = (s.m.led.fseq + 1) % 2 ^ 32 ∧ m.led.quarFrames = [] ∧ m.led.quarCellar = [] ∧ m.led.counts = [] ∧ m.chn.images = [] ∧
        ∀ o ∈ fmtCounters, m.reg o = 0#32) ∧
    (∀ c, s.m.led.recount = true → s.m.pwr.memReady = true → OwnWork s.m .recount whoRecount s.m.recountReads c →
      (∀ p ∈ s.m.knownPages, (s.m.led.lines.find? (p / 4)).isSome = true) →
      ∃ m : Mach, exec .recountWalkDone s = .next (settle { s with m }) ∧ m.led.recount = false ∧
        ∀ k, m.led.counts.get 0 k = (((s.m.knownPages.map (· / 4)).eraseDups.flatMap (fun j =>
          ((s.m.led.lines.find? j).map (·.ents)).getD [])).filter (fun e => decide (1 ≤ e.k) && e.cult == k)).length)

/-- Frames are allocated, cleared and freed; RETIRE quarantines a page's media and the releases give it back. R151; R153; R154; R164;
R165; R213; R173; R174; R336. -/
def Obligations.FramesAndQuarantine : Prop :=
  (
  ∀ (page : Nat) (e : LEnt) (s : State), Quiet s → s.latch = false →
    (s.m.led.wantFrame.contains page = true → s.m.ent? page = some e → e.st = 0 →
      (∀ f rest, ivTake s.m.led.pool = some (f, rest) →
        exec (.frameAllocate page) s = .next (settle { s with m := allocateFrame s.live s.m page }) ∧
        (frameAllocate s.live s.m page).ent? page = some { e with st := 1, ma := f, k := 0, gen := (e.gen + 1) % 512 } ∧
        (frameAllocate s.live s.m page).led.pool = rest ∧ (frameAllocate s.live s.m page).led.wantFrame.contains page = false) ∧
      (ivTake s.m.led.pool = none → exec (.frameAllocate page) s = .next (settle { s with m := s.m.poolEmpty.pumpAll s.live }))) ∧
    (∃ m : Mach, exec .mediaSettled s = .next (settle { s with m }) ∧
      m.led.freed = s.m.led.freed.filter (fun f => f.waits.any (s.m.home.trk.map (·.id)).contains) ∧
      (∀ x f, s.m.led.freed = [x] → x.frame = some f → x.cellar = none → x.waits.any (s.m.home.trk.map (·.id)).contains = false →
        s.m.frameCh f = 1 → m.led.uncleared = ivAdd s.m.led.uncleared f 1)) ∧
    (∀ f rest c, s.m.rfld oClrCtl 15 0 ≠ 0 → s.m.scb.paused = false → ivTake s.m.led.uncleared = some (f, rest) → OwnWork s.m (.clear f) whoClear 64 c →
      ∃ m : Mach, exec .frameClear s = .next (settle { s with m }) ∧ m.led.uncleared = rest ∧ m.led.pool = ivAdd s.m.led.pool f 1 ∧
        ∀ l, l < 64 → m.unwritten f l = some (s.m.formCw f l 0#512 false false 0#2 false false)) ∧
    (∀ c, OwnWork s.m (.sweep page) whoSweep 0 c → skimEn s.live = true → s.m.scb.paused = false → s.m.pwr.memReady = true → s.m.led.formatted = true → s.m.led.extents ≠ 0 → s.m.led.sweep = page → flatPage s.live page = false →
      s.m.ent? page = some e → e.st ≠ 0 → e.st ≠ 5 →
      ∃ m : Mach, ∃ cs, exec .sweepVisit s = .next (settle { s with m }) ∧ m.led.sweep = (page + 1) % (s.m.led.extents * 65536) ∧
        m.ent? page = some { e with heat := e.heat >>> decayShift s.live, cs } ∧ (e.cs = true → cs = true))) ∧
  (
  ∀ (e : LEnt) (s : State), Quiet s → s.latch = false →
    (∀ page, page = (if s.m.led.cmdBusy then s.m.led.cmdArg else s.m.ldgArg) → (s.m.led.extents * 65536 ≤ page ∨ flatPage s.live page = true) →
      exec .retire s = .next { s with m := { s.m with led := { s.m.led with cmdArg := page, cmdBusy := false, cmdResult := 2 } } }) ∧
    (∀ page, page = (if s.m.led.cmdBusy then s.m.led.cmdArg else s.m.ldgArg) → page < s.m.led.extents * 65536 → flatPage s.live page = false →
      s.m.ent? page = some e →
      (e.st = 0 ∨ e.st = 5 → Calm s.m →
        ∃ t, exec .retire s = .next t ∧ t.m.led.cmdBusy = false ∧ t.m.led.cmdResult = 1 ∧ t.m.led.lines = s.m.led.lines ∧
          t.m.led.quarFrames = s.m.led.quarFrames) ∧
      (e.st = 1 → e.k = 0 → s.m.led.moveOf page = none → takeAll s.m ledgerAgent page = none → Calm { s.m with home := { s.m.home with trk := [] } } →
        (∀ r ∈ s.m.home.trk, r.ofWho whoLedger = true ∧ r.kind = .take) →
        ∃ m : Mach, exec .retire s = .next (settle { s with m }) ∧ m.led.cmdBusy = false ∧ m.led.cmdResult = 1 ∧
          m.led.quarFrames = s.m.led.quarFrames ++ [e.ma] ∧
          ∃ e', m.ent? page = some e' ∧ e'.st = 5 ∧ e'.ma = 0 ∧ e'.dic = false ∧ e'.gen = (e.gen + 1) % 512)) ∧
    (s.m.led.cmdBusy = true → ∀ i ∈ [Instr.releaseFrame, .releaseCellar], exec i s = .next s) ∧
    (s.m.led.cmdBusy = false → s.m.led.quarFrames.contains s.m.ldgArg = true →
      ∃ m : Mach, exec .releaseFrame s = .next (settle { s with m }) ∧ m.led.quarFrames = s.m.led.quarFrames.erase s.m.ldgArg ∧
        m.led.cmdResult = 1 ∧ (s.m.frameCh s.m.ldgArg = 1 → m.led.uncleared = ivAdd s.m.led.uncleared s.m.ldgArg 1) ∧
        (s.m.frameCh s.m.ldgArg ≠ 1 → m.led.uncleared = s.m.led.uncleared)) ∧
    (s.m.led.cmdBusy = false → s.m.led.quarFrames.contains s.m.ldgArg = false → exec .releaseFrame s = .next { s with m := s.m.ldgEnd 2 }) ∧
    (s.m.led.cmdBusy = false → s.m.led.quarCellar.any (fun p => p.1 / 16 == s.m.ldgArg) = true →
      ∃ t, exec .releaseCellar s = .next t ∧ t.m.led.quarCellar = s.m.led.quarCellar.filter (fun p => p.1 / 16 != s.m.ldgArg) ∧
        t.m.led.cmdResult = 1 ∧ (s.m.frameCh (s.m.cellBase + s.m.ldgArg) ≠ 1 → t.m.led.fresh = s.m.led.fresh ∧ t.m.led.klists = s.m.led.klists)) ∧
    (s.m.led.cmdBusy = false → s.m.led.quarCellar.any (fun p => p.1 / 16 == s.m.ldgArg) = false → exec .releaseCellar s = .next { s with m := s.m.ldgEnd 2 }))

/-- MOVE_START starts the next waiting move or lets it wait; the end of a move flips its page with GEN one higher, or undoes it. R146;
R151; R156; R160; R168; R337; R29; R159; R161; R163. -/
def Obligations.MovesStartAndFlip : Prop :=
  (
  ∀ (v : Move) (more : List Move) (e : LEnt) (s : State), Quiet s → s.latch = false → (s.m.led.moves.filter (fun x => x.started)).length < moveSlots s.live →
    s.m.led.waitingMoves = v :: more → s.m.ent? v.page = some e →
    ∃ m : Mach, exec .moveStart s = .next (settle { s with m }) ∧
      (v.kind = .promote → v.resumed = false → e.st = 2 →
        (∀ f rest, ivTake s.m.led.pool = some (f, rest) → m.ent? v.page = some { e with st := 3 } ∧ m.led.pool = rest ∧
          m.led.moveOf v.page = some { v with started := true, dst := some f, gen := e.gen }) ∧
        (ivTake s.m.led.pool = none → more = [] → m.led.moves = s.m.led.moves ∧ m.ent? v.page = some e)) ∧
      (v.kind = .relocate → e.st = 1 ∨ e.st = 4 →
        (∀ f rest, ivTake s.m.led.pool = some (f, rest) → m.ent? v.page = some { e with st := 3 } ∧ m.led.pool = rest ∧
          m.led.moveOf v.page = some { v with started := true, gen := e.gen, dst := some f, pin := decide (e.st = 4) }) ∧
        (ivTake s.m.led.pool = none → more = [] → m.led.moves = s.m.led.moves ∧ m.ent? v.page = some e)) ∧
      (v.kind = .demote → e.st = 1 → (activeCult s.live v.page).any s.m.chn.copying.contains = false →
        (e.dic = false → m.ent? v.page = some { e with st := 3 } ∧
          m.led.moveOf v.page = some { v with started := true, gen := e.gen, cult := activeCult s.live v.page }) ∧
        (e.dic = true → m.ent? v.page = some e ∧ m.led.moveOf v.page = none ∧ m.led.ended.find? v.page = some 3))) ∧
  (
  ∀ (c : Nat) (v : Move) (e : LEnt) (errs : List (Nat × SymErr)) (s : State), Quiet s → s.latch = false → s.m.churnOf (.move v.page) = some c → s.m.chn.lent.find? c = none →
    s.m.led.moveOf v.page = some v → s.m.ent? v.page = some e → v.started = true →
    (e.gen ≠ v.gen → ∀ i, ((v.kind = .promote ∧ i = Instr.promotionDone v.page errs) ∨ (v.kind = .demote ∧ i = .demotionDone v.page errs) ∨
        (v.kind = .relocate ∧ i = .relocationDone v.page errs)) →
      exec i s = .next (settle { s with m := s.m.withErrs errs (fun m => (((undoMove s.live m v.page).freeChurn c).ungrant (whoMove v.page)).pumpAll s.live) })) ∧
    (e.gen = v.gen →
      (∀ f, v.kind = .promote → v.dst = some f → v.got ≠ [] → Leave s.m (whoMove v.page) 1 (8 * (s.m.promoOut v e).length) → v.cutShort = true →
        ∃ m : Mach, exec (.promotionDone v.page errs) s = .next (settle { s with m := { m.pumpAll s.live with errs := [] } }) ∧ m.chn.run = s.m.chn.run.erase c ∧
          m.led.moveOf v.page = some { v with started := false, resumed := true, cls := 2, done := v.done + 1, stop := false, got := [] }) ∧
      (∀ f, v.kind = .promote → v.dst = some f → v.got ≠ [] → Leave s.m (whoMove v.page) 1 (8 * (s.m.promoOut v e).length) → v.cutShort = false →
        ∃ m : Mach, ∃ e', exec (.promotionDone v.page errs) s = .next (settle { s with m := { m.pumpAll s.live with errs := [] } }) ∧ m.led.moveOf v.page = none ∧
          m.chn.run = s.m.chn.run.erase c ∧ m.ent? v.page = some e' ∧ e'.st = (if v.pin then 4 else 1) ∧ e'.ma = f ∧ e'.k = 0 ∧ e'.gen = (e.gen + 1) % 512) ∧
      (v.kind = .demote → (v.stop = true ∨ (v.got ≠ [] ∧ Leave s.m (whoMove v.page) 1 (4 * ((s.m.demoExtent v).map (·.1)).getD 0))) →
        ∃ m : Mach, ∃ e', exec (.demotionDone v.page errs) s = .next (settle { s with m := { m.pumpAll s.live with errs := [] } }) ∧ m.led.moveOf v.page = none ∧
          m.chn.run = s.m.chn.run.erase c ∧ m.ent? v.page = some e' ∧
          ((e'.st = 1 ∧ e'.ma = e.ma ∧ e'.k = e.k ∧ e'.gen = e.gen) ∨ (e'.st = 2 ∧ e'.gen = (e.gen + 1) % 512)) ∧
          (v.stop = true → e' = { e with st := 1 } ∧ m.led.ended.find? v.page = some 3)) ∧
      (∀ d, v.kind = .relocate → v.dst = some d → Leave s.m (whoMove v.page) 0 (if 1 ≤ e.k then 8 * e.k else 128) →
        ∃ m : Mach, ∃ e', exec (.relocationDone v.page errs) s = .next (settle { s with m := { m.pumpAll s.live with errs := [] } }) ∧
          (e.k = 0 ∨ e.dic = false → m.led.moveOf v.page = none) ∧
          (1 ≤ e.k → e.dic = true → (m.led.moveOf v.page).any (fun x => x.kind == .promote && !x.started) = true) ∧
          m.chn.run = s.m.chn.run.erase c ∧ m.ent? v.page = some e' ∧ e'.st = (if 1 ≤ e.k then 2 else if v.pin then 4 else 1) ∧ e'.ma = d ∧
          e'.k = e.k ∧ e'.gen = (e.gen + 1) % 512)))

/-- One MC cycle issues the first issuable candidate of R273's order, or nothing; the request's ACT or column command takes effect.
R271; R272; R273; R274. -/
def Obligations.SchedulerIssuesFirstIssuable : Prop :=
  ∀ (ch : Fin 12) (sub : Fin 2) (blocked : List Nat) (held : List (Nat × Nat)) (why : SlotWhy) (s : State), Quiet s → s.latch = false →
    s.m.pop.used.contains ch.val = true → (s.m.sub (2 * ch.val + sub.val)).sr ≠ .inSr →
    ∃ a m : Mach, exec (.dramCmdIssue ch sub blocked held why) s = .next (settle { s with m }) ∧
      a.mcs = ((s.m.drain (2 * ch.val + sub.val)).panicTags (2 * ch.val + sub.val)).mcs ∧ a.media = s.m.media ∧ a.pop = s.m.pop ∧ a.scb = s.m.scb ∧
      (pick s.live a (2 * ch.val + sub.val) blocked held = none → m.mcs = a.mcs ∧ m.media = s.m.media) ∧
      (∀ id q v, pick s.live a (2 * ch.val + sub.val) blocked held = some (.req id) →
        (a.sub (2 * ch.val + sub.val)).wq.find? (fun x => x.id == id && x.act) = some q →
        ∃ m' : Mach, exec (.dramCmdIssue ch sub blocked held why (some v)) s = .next (settle { s with m := m' }) ∧ m'.media = s.m.media.writeAt v q.cw) ∧
      (∀ c, pick s.live a (2 * ch.val + sub.val) blocked held = some c →
        allowed s.live a (2 * ch.val + sub.val) blocked held c = true ∧
        (∀ c' ∈ (candidates s.live a (2 * ch.val + sub.val)).takeWhile (fun x => x != c),
          allowed s.live a (2 * ch.val + sub.val) blocked held c' = false) ∧
        (∀ id q, c = .req id → ((a.sub (2 * ch.val + sub.val)).rq ++ (a.sub (2 * ch.val + sub.val)).wq).find? (fun x => x.id == id) = some q →
          (q.act = false →
            (m.sub (2 * ch.val + sub.val)).rq = (a.sub (2 * ch.val + sub.val)).rq.map (fun x => if x.id == id then { x with act := true } else x) ∧
            (m.sub (2 * ch.val + sub.val)).wq = (a.sub (2 * ch.val + sub.val)).wq.map (fun x => if x.id == id then { x with act := true } else x) ∧
            m.media = s.m.media) ∧
          (q.act = true → q.wr = true →
            (m.sub (2 * ch.val + sub.val)).wq = (a.sub (2 * ch.val + sub.val)).wq.filter (fun x => x.id != id) ∧
            (m.sub (2 * ch.val + sub.val)).rq = (a.sub (2 * ch.val + sub.val)).rq ∧ m.media = s.m.media.writeAt (s.m.phys (s.m.qAddr q)) q.cw) ∧
          (q.act = true → q.wr = false →
            (m.sub (2 * ch.val + sub.val)).rq = (a.sub (2 * ch.val + sub.val)).rq.filter (fun x => x.id != id) ∧
            (m.sub (2 * ch.val + sub.val)).flight = (s.m.sub (2 * ch.val + sub.val)).flight ++
              [{ q with cw := ofBytes 640 (s.m.media.sym (s.m.phys (s.m.qAddr q))) }] ∧ m.media = s.m.media)))

/-- Urgency, refresh debt, polls, command parity, self-refresh exit, canaries and training each do what their rule says. R262; R266;
R268; R275; R279; R282; R285; R290; R292; R336. -/
def Obligations.ChannelsKeepTheirDram : Prop :=
  ∀ (ch : Fin 12) (sub : Fin 2) (lr : Fin 16) (s : State), Quiet s → s.m.pop.used.contains ch.val = true →
    (s.latch = false →
      (∀ entry waited q, (s.m.sub (2 * ch.val + sub.val)).rq.find? (fun x => x.id == entry) = some q →
        ∃ t, exec (.urgencyRaise ch sub entry waited) s = .next t ∧
          (t.m.sub (2 * ch.val + sub.val)).rq = (s.m.sub (2 * ch.val + sub.val)).rq.map (fun x => if x.id == entry then
            { x with tag := { x.tag with urg := max q.urg (if 90 * q.target ≤ 100 * waited then 3 else if 75 * q.target ≤ 100 * waited then 2
              else if 50 * q.target ≤ 100 * waited then 1 else 0) } } else x) ∧
          (t.m.sub (2 * ch.val + sub.val)).wq = (s.m.sub (2 * ch.val + sub.val)).wq ∧
          (∀ id r, q.purpose = .host id → s.m.home.trk = [r] → r.id = id → ∃ r', t.m.home.trk = [r'] ∧ r.urg ≤ r'.urg)) ∧
      ((s.m.sub (2 * ch.val + sub.val)).sr ≠ .inSr → lr.val < s.m.lranks →
        ∃ t, exec (.refreshDue ch sub lr) s = .next t ∧
          ((s.m.sub (2 * ch.val + sub.val)).debtOf lr < refPostpone s.live ch →
            (t.m.sub (2 * ch.val + sub.val)).debtOf lr = (s.m.sub (2 * ch.val + sub.val)).debtOf lr + 1 ∧
            (t.m.sub (2 * ch.val + sub.val)).forced = (s.m.sub (2 * ch.val + sub.val)).forced) ∧
          (refPostpone s.live ch ≤ (s.m.sub (2 * ch.val + sub.val)).debtOf lr →
            (t.m.sub (2 * ch.val + sub.val)).debtOf lr = refPostpone s.live ch ∧
            (t.m.sub (2 * ch.val + sub.val)).forced = (s.m.sub (2 * ch.val + sub.val)).forced ++
              (List.replicate ((s.m.sub (2 * ch.val + sub.val)).debtOf lr + 1 - refPostpone s.live ch)
                (if refMode s.live ch = 2 then [(lr.val, 1), (lr.val, 2), (lr.val, 3), (lr.val, 4)] else [(lr.val, 0)])).flatten ∧
            t.m.rbit (oMcEvt ch) 7 = true)) ∧
      (∀ (rank die : Fin 4) (again : List CaCmd), ∃ m : Mach, exec (.caParityAlert ch sub rank die again) s = .next (settle { s with m }) ∧
        m = again.foldl (fun m c => caAgain s.live m ch sub rank die c) ((s.m.evb (oMcEvt ch) 0).bump (oMcCnt ch 5))) ∧
      (∀ rank die : Fin 4, exec (.caParityAlert ch sub rank die []) s = .next { s with m := (s.m.evb (oMcEvt ch) 0).bump (oMcCnt ch 5) }) ∧
      (s.m.pwr.st = .active → (s.m.sub (2 * ch.val + sub.val)).sr = .inSr → s.m.scb.chSt.get 0 ch ≠ 3 →
        exec (.selfRefreshExit ch sub) s = .next { s with m := s.m.subOut (2 * ch.val + sub.val) } ∧
        (s.m.subOut (2 * ch.val + sub.val)).sub (2 * ch.val + sub.val) = { s.m.sub (2 * ch.val + sub.val) with sr := .out, debt := [], due := [] }) ∧
      (s.m.scb.chSt.get 0 ch ≠ 3 → (s.m.sub (2 * ch.val + sub.val)).canaries = true → (s.m.sub (2 * ch.val + sub.val)).sr = .out →
        Leave s.m (whoCanary (2 * ch.val + sub.val)) 0 (s.m.canaryPlaces ch sub).length →
        ∀ errs, ∃ m : Mach, exec (.canaryCheck ch sub errs) s = .next (settle { s with m }) ∧ (m.sub (2 * ch.val + sub.val)).canaries = false)) ∧
    (∀ hot, s.m.mcs.hot.get false ch ≠ hot → ∃ m : Mach, exec (.mr4Poll ch hot) s = .next (settle { s with m }) ∧ m.mcs.hot.get false ch = hot) ∧
    (s.m.hasDimm ch = true → s.m.stewardOn = true → ∃ m : Mach, exec (.spdTempPoll ch true) s = .next (settle { s with m }) ∧ ch.val ∈ m.pwr.dimmHot ∧ m.rbit (oMcEvt ch) 6 = true) ∧
    (s.m.hasDimm ch = false ∨ s.m.stewardOn = false → ∀ hot, exec (.spdTempPoll ch hot) s = .next s) ∧
    (s.m.hasDimm ch = true → s.m.stewardOn = true → ∃ t, exec (.spdTempPoll ch false) s = .next t ∧ t.m.pwr.dimmHot = s.m.pwr.dimmHot.filter (· != ch.val)) ∧
    (∀ c ∈ [Instr.zqCalibration ch, .dqsOscRead ch false], exec c s = .next { s with m := calibrate s.m ch } ∧ (calibrate s.m ch).mcs = s.m.mcs ∧
      (calibrate s.m ch).media = s.m.media) ∧
    (∃ t, exec (.dqsOscRead ch true) s = .next t ∧ t.m.mcs.recentred.get 0 ch = s.m.mcs.recentred.get 0 ch + 1 ∧ t.m.mcs.subs = s.m.mcs.subs ∧
      t.m.media = s.m.media) ∧
    (∀ r, s.m.mcs.trained.get 0 ch % 256 = 0 →
      (trainDone s.m ch r).mcs.trained.get 0 ch = (trainOutcome (s.m.savedPath ch r.intact) r).1 + 256 * (trainOutcome (s.m.savedPath ch r.intact) r).2 ∧
      (s.latch = false → s.m.wld.waitImage = false → s.m.wld.steward ≠ .booting → ∀ all : Bool,
        all = (s.m.pop.used.all fun c => (trainDone s.m ch r).mcs.trained.get 0 c % 256 != 0 && (trainDone s.m ch r).mcs.trained.get 0 c % 256 != 4) →
        exec (.channelTrainingDone ch r) s =
          .next (settle { s with m := if all then ledgerStart s.live (trainDone s.m ch r) else trainDone s.m ch r })))

/-- A repair command is refused with its code, or starts; its end frees or fills the table entry it is about. R328; R329; R330; R331;
R332; R333; R334. -/
def Obligations.RepairsFollowTheirChecks : Prop :=
  ∀ (s : State), Quiet s → s.latch = false →
    (s.m.scb.rep = .none →
      (s.m.repRowOk s.m.repAddr = false → ∀ b, ∀ c ∈ [Instr.remap, .sppr b, .hppr b], exec c s = .next { s with m := s.m.repEnd 2 }) ∧
      (s.m.repRowOk s.m.repAddr = true →
        (s.m.chState s.m.repAddr.ch = 1 ∨ s.m.chState s.m.repAddr.ch = 2 →
          (∀ k, s.m.freeSpare s.m.repAddr = some k → s.m.remapCount s.m.repAddr.ch < 2048 →
            ∃ t, exec .remap s = .next t ∧ t.m.scb.rep = .remap ∧ t.m.scb.remaps =
              { ch := s.m.repAddr.ch, bank := s.m.repAddr.bankKey, row := s.m.repAddr.row, spare := k, progress := 0 } :: s.m.scb.remaps) ∧
          (s.m.freeSpare s.m.repAddr = none → exec .remap s = .next { s with m := s.m.repEnd 3 })) ∧
        (s.m.activeRemap s.m.repAddr = true →
          (∃ t, exec (.sppr true) s = .next t ∧ t.m.scb.rep = .sppr) ∧ exec (.sppr false) s = .next { s with m := s.m.repEnd 4 }) ∧
        (s.m.activeRemap s.m.repAddr = false → ∀ b, exec (.sppr b) s = .next { s with m := s.m.repEnd 5 }) ∧
        (s.m.chState s.m.repAddr.ch = 3 →
          (∃ t, exec (.hppr true) s = .next t ∧ t.m.scb.rep = .hppr) ∧ exec (.hppr false) s = .next { s with m := s.m.repEnd 4 }) ∧
        (s.m.chState s.m.repAddr.ch ≠ 3 → ∀ b, exec (.hppr b) s = .next { s with m := s.m.repEnd 5 })) ∧
      (s.m.pop.used.contains s.m.repAddr.ch = true → s.m.repAddr.rank < 2 ^ s.m.pop.rb →
        (s.m.scb.marks.find? (markKey s.m.repAddr) = none →
          (s.m.repDev < 10 → ∃ t, exec .mark s = .next t ∧ t.m.scb.marks.find? (markKey s.m.repAddr) = some s.m.repDev ∧ t.m.scb.repResult = 1) ∧
          exec .unmark s = .next { s with m := s.m.repEnd 5 }) ∧
        (∀ d, s.m.scb.marks.find? (markKey s.m.repAddr) = some d →
          (s.m.repDev < 10 → exec .mark s = .next { s with m := s.m.repEnd 5 }) ∧
          ∃ t, exec .unmark s = .next t ∧ t.m.scb.marks.find? (markKey s.m.repAddr) = none ∧ t.m.scb.repResult = 1))) ∧
    (s.m.scb.rep = .remap → ∀ errs, ∃ m : Mach, exec (.remapDone errs) s = .next (settle { s with m }) ∧ m.scb.rep = .none ∧ m.scb.repResult = 1 ∧
      m.rbit oScbEvt 8 = true) ∧
    (s.m.scb.rep = .sppr → ∀ errs,
      exec (.spprDone false errs) s = .next { s with m := s.m.repEnd 10 } ∧
      ∃ m : Mach, exec (.spprDone true errs) s = .next (settle { s with m }) ∧ m.scb.rep = .none ∧ m.scb.repResult = 1 ∧
        m.scb.remaps.all (fun r => !(r.ch == s.m.repPlace.ch && r.bank == s.m.repPlace.bankKey && r.row == s.m.repPlace.row)) = true ∧
        m.scb.spprs = s.m.scb.spprs ++ [(s.m.repPlace.ch, s.m.repPlace.bankKey, s.m.repPlace.row)]) ∧
    (s.m.scb.rep = .hppr →
      exec (.hpprDone false) s = .next { s with m := s.m.repEnd 10 } ∧
      ∃ t, exec (.hpprDone true) s = .next t ∧ t.m.scb.rep = .none ∧ t.m.scb.repResult = 1)

/-- The scrubber walks line by line, suspect banks first; a channel is retired and restored in its steps; votes are counted. R326;
R335; R336; R338; R340; R342; R344. -/
def Obligations.ScrubbingAndRetirement : Prop :=
  ∀ (s : State), Quiet s →
    (s.latch = false → s.m.scrubs = true → s.m.scb.suspects = [] → scrubSkip s.m 24 s.m.scb.pos = s.m.scb.pos → s.m.scb.pos + 1 < s.m.runEnd * 64 →
      (s.m.scb.pos + 1) % 64 ≠ 0 → Leave s.m whoScrub 0 1 → ∀ e e1, ∃ m : Mach, exec (.scrubLine e e1) s = .next (settle { s with m }) ∧ m.scb.pos = s.m.scb.pos + 1) ∧
    (s.latch = false → s.m.scrubs = true →
      ∀ (ch : Fin 12) (sub : Fin 2) (rank die : Fin 4) (bank : Fin 32) errs (a : MAddr),
        a = { ch, sub, bg := bank / 4, bank := bank % 4, col := 0, rank, die, row := 0 } → s.m.scb.suspects.contains (ch.val, a.bankKey) = true →
        Leave s.m whoSuspect 0 ((devRows s.m.pop.dens - 64) * 128) →
        ∃ m : Mach, exec (.suspectScrub ch sub rank die bank errs) s = .next (settle { s with m }) ∧
          m.scb.suspects = s.m.scb.suspects.erase (ch.val, a.bankKey)) ∧
    (s.latch = false → s.m.scb.rep = .none →
      (∀ r, retireRefusal s.live s.m (s.m.rfld oRepArg0 3 0) = some r → exec .retireCh s = .next { s with m := s.m.repEnd r }) ∧
      (retireRefusal s.live s.m (s.m.rfld oRepArg0 3 0) = none →
        ∃ m : Mach, exec .retireCh s = .next (settle { s with m }) ∧ m.chState (s.m.rfld oRepArg0 3 0) = 2 ∧ m.scb.repResult = 1) ∧
      (s.m.pop.used.contains (s.m.rfld oRepArg0 3 0) = true → s.m.chState (s.m.rfld oRepArg0 3 0) = 3 →
        ∃ m : Mach, exec .unretireCh s = .next (settle { s with m }) ∧ m.chState (s.m.rfld oRepArg0 3 0) = 2 ∧ m.scb.repResult = 1)) ∧
    (s.latch = false → ∀ c, s.m.scb.chg.find? (fun p => !p.2) = some (c, false) → pagesOn s.live s.m c = [] →
      ∃ m : Mach, exec .retireChDone s = .next (settle { s with m }) ∧ m.chState c = 3 ∧ m.rbit oScbEvt 9 = true) ∧
    (s.latch = false → ∀ c, s.m.scb.chg.find? (fun p => p.2) = some (c, true) →
      ∃ m : Mach, exec .unretireChDone s = .next (settle { s with m }) ∧ m.chState c = 1 ∧ m.rbit oScbEvt 9 = true) ∧
    (∀ v : Word, v.getLsbD 0 = true → exec (.scbStickyPop v) s = .next { s with m := { s.m with scb := { s.m.scb with sticky := s.m.scb.sticky.drop 1 } } }) ∧
    (∀ u : Upset, u.kind.toNat ≠ 0 → u.agree = true →
      ∃ m : Mach, exec (.voteAudit [u]) s = .next (settle { s with m }) ∧ m.rbit oScbEvt 6 = true ∧
        m.reg oVoteLast = (put u.kind.toNat 0 ||| put (u.index % 4096) 4)) ∧
    (∀ us, exec (.voteAudit us false) s = .next { s with m := { s.m with scb := { s.m.scb with struck := s.m.scb.struck ++ us } } })

/-- A doorbell moves its ring's tail or head within bounds; a completed job's record is written at the tail with the phase, or dropped.
R48; R398; R394; R395; R396; R397; R401; R404. -/
def Obligations.DoorbellsAndRecords : Prop :=
  (
  ∀ (n : Fin 256) (v : Word) (h : Fin 8) (s : State), Quiet s → s.latch = false →
    ((s.m.ring n).st = .active ∧ fld v 15 0 < 2 ^ s.live.rLog n →
      exec (.doorbellTail none n v) s = .next { s with m := s.m.setRing n { s.m.ring n with sqTail := fld v 15 0 } }) ∧
    (¬ ((s.m.ring n).st = .active ∧ fld v 15 0 < 2 ^ s.live.rLog n) → exec (.doorbellTail none n v) s = .next { s with m := s.m.dbBad n }) ∧
    (∀ z : Nat, z = 2 ^ s.live.rLog n → ∀ ok : Bool, ok = (decide ((s.m.ring n).st = .active ∨ (s.m.ring n).st = .resetting ∨ (s.m.ring n).st = .error) &&
        decide (fld v 15 0 < z ∧ (fld v 15 0 + z - (s.m.ring n).cqHead) % z ≤ ((s.m.ring n).cqTail + z - (s.m.ring n).cqHead) % z)) →
      (ok = true → exec (.doorbellCqHead none n v) s = .next { s with m := s.m.setRing n { s.m.ring n with cqHead := fld v 15 0 } }) ∧
      (ok = false → exec (.doorbellCqHead none n v) s = .next { s with m := s.m.dbBad n })) ∧
    (s.m.pwr.st = .active → s.m.holdsFrom h = false → ∀ c c' : Instr, (c = .doorbellTail (some h) n v ∧ c' = .doorbellTail none n v) ∨
        (c = .doorbellCqHead (some h) n v ∧ c' = .doorbellCqHead none n v) →
      (s.m.linkFor h ≠ 2 ∨ (s.m.head h).post ≠ [] → exec c s = .next s) ∧
      (s.m.linkFor h = 2 → (s.m.head h).post = [] → (presented s.live s.m h).contains (s.live.rOwner n) = true → exec c s = exec c' s) ∧
      (s.m.linkFor h = 2 → (s.m.head h).post = [] → (presented s.live s.m h).contains (s.live.rOwner n) = false →
        ∃ off, off / 0x1000 = n.val ∧ exec c s = .next (settle { s with m := s.m.outOfPart h 5 off })))) ∧
  (
  ∀ (id : Nat) (j : Job) (s : State), Quiet s → s.latch = false → s.m.job? id = some j → j.id = id → recReady s.m j = true → j.stale = false →
    s.live.rPlace j.ring ≠ 2 →
    (j.noRec = false → s.m.linkFor (s.live.rCfg j.ring).fn = 2 →
      ∃ t, exec (.completionRecordWrite id) s = .next t ∧ (∀ x ∈ t.m.dqu.jobs, x.id ≠ id) ∧
        t.m.host (s.live.rCfg j.ring).fn = Memory.putAll hostBg (s.m.host (s.live.rCfg j.ring).fn)
          ((s.live.rCfg j.ring).cq + 16 * (s.m.ring j.ring).cqTail) (bytesOf (j.record (s.m.ring j.ring).phase) 16) ∧
        (t.m.ring j.ring).cqTail = ((s.m.ring j.ring).cqTail + 1) % (s.live.rCfg j.ring).size ∧
        (t.m.ring j.ring).phase = (if ((s.m.ring j.ring).cqTail + 1) % (s.live.rCfg j.ring).size = 0 then !(s.m.ring j.ring).phase
          else (s.m.ring j.ring).phase)) ∧
    (j.noRec = true ∨ s.m.linkFor (s.live.rCfg j.ring).fn = 0 →
      exec (.completionRecordWrite id) s = .next { s with m := s.m.recDrop j } ∧ (∀ x ∈ (s.m.recDrop j).dqu.jobs, x.id ≠ id) ∧
      (s.m.recDrop j).rbit oDquEvt 5 = true) ∧
    (∀ ph st r, j.st = .ended st r → j.idx < 2 ^ 16 → st < 2 ^ 8 → j.epoch < 2 ^ 8 →
      fld (j.record ph) 15 0 = j.idx ∧ fld (j.record ph) 23 16 = st ∧ fld (j.record ph) 31 24 = j.op ∧ fld (j.record ph) 63 32 = fld j.desc 63 32 ∧
      fld (j.record ph) 111 64 = r % 2 ^ 48 ∧ fld (j.record ph) 119 112 = j.epoch ∧ (j.record ph).getLsbD 127 = ph))

/-- A ring fetches descriptors in order while it may, dispatches them in order, resets, and retires an old epoch. R383; R399; R400;
R401; R402; R403; R405. -/
def Obligations.RingsFetchAndReset : Prop :=
  ∀ (n : Fin 256) (id : Nat) (s : State), Quiet s → s.latch = false →
    (s.live.rPlace n ≠ 2 → s.m.linkFor (s.live.rFn n) = 2 →
      (∀ ds, ds = (List.range (fetchRoom s.live s.m n)).map (fun k => ofBytes 512 (Memory.bytes hostBg (s.m.host (s.live.rFn n))
          ((s.live.rCfg n).sq + 64 * (((s.m.ring n).sqHead + k) % (s.live.rCfg n).size)) 64)) →
        exec (.descriptorFetch n) s = .next (settle { s with m :=
          ((ds.takeWhile (fun d => !(fld d 7 0 == 0x1E)) ++ (ds.dropWhile (fun d => !(fld d 7 0 == 0x1E))).take 1).foldl (fetchOne s.live n) (agentForget s.live (s.m.agentClear (whoRing n)) (whoRing n))) })) ∧
      (fetchRoom s.live s.m n = 1 → Calm s.m → (s.m.ring n).sqHead < (s.live.rCfg n).size → ∃ t desc, exec (.descriptorFetch n) s = .next t ∧
        desc = ofBytes 512 (Memory.bytes hostBg (s.m.host (s.live.rFn n)) ((s.live.rCfg n).sq + 64 * (s.m.ring n).sqHead) 64) ∧
        t.m.dqu.jobs = s.m.dqu.jobs ++ [{ id := s.m.dqu.nextJob, ring := n, epoch := (s.m.ring n).epoch, idx := (s.m.ring n).sqHead, desc }] ∧
        t.m.ring n = { s.m.ring n with sqHead := ((s.m.ring n).sqHead + 1) % 2 ^ s.live.rLog n })) ∧
    ((s.m.ring n).st = .active ∨ (s.m.ring n).st = .error →
      exec (.ringReset n) s = .next (settle { s with m := (stopRing s.live
        (agentForget s.live (s.m.setRing n { s.m.ring n with st := .resetting }) (whoRing n)) n 10) })) ∧
    ((s.m.ring n).st = .resetting → (∀ j ∈ s.m.dqu.jobs, j.ring = n → j.stale = false → j.over = true ∧ j.noRec = true) →
      ∃ t, exec (.ringResetDone n) s = .next t ∧
        t.m.ring n = { s.m.ring n with st := .active, sqHead := 0, sqTail := 0, cqHead := 0, cqTail := 0, phase := true, since := 0 }) ∧
    ((s.m.ring n).retiring = true → (s.m.dqu.jobs.any fun j => j.ring == n && j.stale) = false →
      exec (.retiringDone n) s = .next { s with m := s.m.setRing n { s.m.ring n with retiring := false, old := [] } }) ∧
    ((s.m.ring n).st = .active →
      exec (.ringError n none) s = .next (settle { s with m := ((s.m.setRing n { s.m.ring n with st := .error }).dquEvent n 1).raise 152 n })) ∧
    ((s.live.rCfg n).icnt ≠ 0 → (s.live.rCfg n).itime ≠ 0 → (s.m.ring n).since ≠ 0 →
      exec (.ringItimeExpire n) s = .next { s with m := (s.m.setRing n { s.m.ring n with since := 0 }).ringIrq (s.live.rCfg n) }) ∧
    (∀ j, s.m.job? id = some j → mayDispatch s.live s.m j = true →
      (j.op = 0x1F → exec (.nop id) s = .next (settle { s with m := endJob s.live s.m id 0 0 })) ∧
      (j.op = 0x1E → (s.m.dqu.jobs.any fun x => x.ring == j.ring && decide (x.id < j.id) && !x.stale) = false →
        exec (.fence id) s = .next (settle { s with m := endJob s.live s.m id 0 0 })) ∧
      (j.op ≠ 0x1E → j.op ≠ 0x1F →
        (∀ r, judgeDesc s.live s.m j = some r → exec (.workEnqueue (.job id)) s = .next (settle { s with m := endJob s.live s.m id r.1 r.2 })) ∧
        (judgeDesc s.live s.m j = none → exec (.workEnqueue (.job id)) s =
          .next (settle { s with m := pushWork s.live (({ s.m with chn := { s.m.chn with started := s.m.chn.started + 1 } }).setJob
            { j with st := .queued, wclass := s.live.rCls j.ring, disp := s.m.chn.started + 1 }) (.job id) })))) ∧
    (∀ page, (s.m.led.moveOf page).any (·.started) = true → s.m.hasWork (.move page) = false →
      exec (.workEnqueue (.move page)) s = .next (settle { s with m := pushWork s.live s.m (.move page) })) ∧
    (∀ page (w : Fin 8), s.m.decoding page w = true → s.m.inlineOut page w = false → s.m.hasWork (.decode page w) = false →
      exec (.workEnqueue (.decode page w)) s = .next (settle { s with m := pushWork s.live s.m (.decode page w) }))

/-- A running job's command runs it until it ends or waits; page commands answer by the page's state. R171; R205; R224; R237; R239;
R386; R387; R388; R391; R395; R418; R152. -/
def Obligations.JobsAndPageCommands : Prop :=
  (
  ∀ (id c : Nat) (j : Job) (s : State),
    (Quiet s → s.latch = false → s.m.job? id = some j → j.id = id → j.st = .running c → s.m.chn.lent.find? c = none →
      (∀ p ∈ [(0x01, Instr.copy id), (0x02, .fill id), (0x03, .compress id), (0x04, .decompress id), (0x05, .checksum id), (0x08, .promote id),
          (0x09, .demote id), (0x0A, .pin id), (0x0B, .unpin id), (0x0C, .forget id), (0x10, .tallyBatch id), (0x11, .tallyRead id), (0x14, .strain id),
          (0x15, .strainInsert id), (0x16, .strainDelete id)],
        j.op = p.1 →
          exec p.2 s = .next (settle { s with m := runJob s.live false j.fuel id s.m }) ∧
          (j.stale = true → exec p.2 s = .next (settle { s with m := stopJob s.live s.m id 6 })) ∧
          (∀ st r j' m', j.stale = false → j'.id = id →
            runWork s.live (whoJob id) (pieceWork s.live j) askRounds (jobPrep s.live j s.m) = (some (.ended st r, j'), m') →
            (j'.retired = false ∨ 2 < st →
              exec p.2 s = .next (settle { s with m := endJob s.live ((m'.setJob { j' with asked := 0 }).pumpAll s.live) id st (r % 2 ^ 48) })) ∧
            (j'.retired = true → st ≤ 2 →
              exec p.2 s = .next (settle { s with m := endJob s.live ((m'.setJob { j' with asked := 0 }).pumpAll s.live) id 7 j'.stopResult }))) ∧
          (∀ m', j.stale = false → runWork s.live (whoJob id) (pieceWork s.live j) askRounds (jobPrep s.live j s.m) = (none, m') →
            exec p.2 s = .next (settle { s with m := m' }))) ∧
      (j.op = 0x06 → ∀ j2, (runJob s.live false j.fuel id s.m).job? id = some j2 →
        (j2.over = false ∨ j2.arg0.testBit 1 = false →
          exec (.cultureTrain id) s = .next (settle { s with m := runJob s.live false j.fuel id s.m })) ∧
        (∀ r, j2.st = .ended 0 r → j2.op = 0x06 → j2.arg0.testBit 1 = true →
          exec (.cultureTrain id) s = .next (stageImage (settle { s with m := runJob s.live false j.fuel id s.m }) j2))) ∧
      (j.op = 0x18 → ∀ errs, exec (.scrubRange id errs) s = .next (settle { s with m := s.m.withErrs errs (runJob s.live false j.fuel id) })) ∧
      (j.op ≠ 0x06 → exec (.jobCheckpoint id) s = .next (settle { s with m := runJob s.live true j.fuel id s.m })) ∧
      (∀ st r, Calm s.m → st ≠ 5 → st ≠ 6 → st ≠ 10 → ∃ j2, (endJob s.live s.m id st r).job? id = some j2 ∧ j2.st = .ended st r ∧ j2.slot = 0 ∧
        (endJob s.live s.m id st r).churnOf (.job id) = none)) ∧
    (JobOn s id c j → Calm { s.m with home := { s.m.home with trk := [] } } → (∀ r ∈ s.m.home.trk, r.ofWho (whoJob id) = true ∧ r.kind = .take) →
      ∀ page e, LastPage s j page e → takeAll s.m (jobAgent s.live j) page = none → j.op = 0x0C → e.st = 0 →
        eShared (s.live.extent (page / 65536)) = false → eMirror (s.live.extent (page / 65536)) = false → s.m.led.moveOf page = none →
        EndsJob (.forget id) s id 0 (j.len / 4096 % 2 ^ 48) (fun t => t.m.ent? page = some { e with dic := false } ∧
          ∀ i, i < 64 → t.m.lcGet (64 * page + i) = none)) ∧
    (JobRuns s id c j → ∀ k src dst : Nat, k = hostKey s.live j.ring → src = (j.src + j.prog) % 2 ^ 64 → dst = (j.dst + j.prog) % 2 ^ 64 →
      (j.op = 0x01 → j.srcDpa = false → j.dstDpa = false →
        (j.len - j.prog ≤ 8192 → EndsJob (.copy id) s id 0 ((j.wrote + (j.len - j.prog)) % 2 ^ 48) (fun t =>
          t.m.host k = Memory.putAll hostBg (s.m.host k) dst (Memory.bytes hostBg (s.m.host k) src (j.len - j.prog)))) ∧
        (8192 < j.len - j.prog → (s.m.ring j.ring).st = .active → j.noRec = false → s.m.chn.preempt.find? (fun p => p.1 == c) = none →
          ∃ t, exec (.jobCheckpoint id) s = .next t ∧ t.m.job? id = some { j with prog := j.prog + 8192, wrote := j.wrote + 8192, asked := 0 } ∧
            t.m.host k = Memory.putAll hostBg (s.m.host k) dst (Memory.bytes hostBg (s.m.host k) src 8192))) ∧
      (j.op = 0x02 → j.dstDpa = false → j.len - j.prog ≤ 8192 → EndsJob (.fill id) s id 0 ((j.wrote + (j.len - j.prog)) % 2 ^ 48) (fun t =>
        t.m.host k = Memory.putAll hostBg (s.m.host k) dst
          ((List.range (j.len - j.prog)).map (fun i => (bytesOfNat j.arg0 8).getD ((j.prog + i) % 8) 0#8)))) ∧
      (j.op = 0x05 → j.srcDpa = false → j.prog = 0 → j.len ≤ 8192 →
        ∀ b seed, b = Memory.bytes hostBg (s.m.host k) src j.len → seed = BitVec.ofNat 32 (j.arg1 % 2 ^ 32) →
          EndsJob (.checksum id) s id 0 (if j.arg0 % 4 = 0 then Codec.crc32c seed b else if j.arg0 % 4 = 1 then Codec.crc32 seed b
            else Codec.adler32 seed b).toNat (fun _ => True)) ∧
      (j.op = 0x03 → j.srcDpa = false → j.dstDpa = false → j.prog = 0 → j.wrote = 0 → j.coder = none → j.loadCnt = none → j.aux = 0 →
        j.sStart = true → j.sEnd = true → j.cultEn = false →
        (j.len = 0 → (Yelrin.emptyForm j.fmt).length ≤ j.dlen → EndsJob (.compress id) s id 1 0 (fun t =>
          t.m.host k = Memory.putAll hostBg (s.m.host k) dst (Yelrin.emptyForm j.fmt))) ∧
        (0 < j.len → j.len ≤ 16384 → ∀ e out,
          (encOf s.m { fmt := j.fmt, dir := false, cult := none, loads := 0, inTot := 0, outTot := 0, chk := (Yelrin.chkInit j.fmt),
                       hist := [], pend := 0, nums := [] }).feed s.m.cultImg (Memory.bytes hostBg (s.m.host k) src j.len) true true = (e, out) →
          (j.dlen < out.length → EndsJob (.compress id) s id 11 0 (fun _ => True)) ∧
          (out.length ≤ j.dlen → e.total ≤ e.written → EndsJob (.compress id) s id 2 0 (fun _ => True)) ∧
          (out.length ≤ j.dlen → e.written < e.total → EndsJob (.compress id) s id 0 (out.length % 2 ^ 48) (fun t =>
            t.m.host k = Memory.putAll hostBg (s.m.host k) dst out)))) ∧
      (j.op = 0x04 → j.srcDpa = false → j.dstDpa = false → j.prog = 0 → j.wrote = 0 → j.coder = none → j.loadCnt = none → j.aux = 0 →
        j.sStart = true → j.len ≤ 8192 → ∀ d j' m',
        decLoop s.live (min j.dlen 8192) (j.len + 4) { fmt := j.fmt, chk := Yelrin.chkInit j.fmt } { j with asked := 0 } s.m = .ok (.finished, d, false) j' m' →
        s.m.copyingSlot d.cult = false →
        EndsJob (.decompress id) s id 0 (d.out.length % 2 ^ 48) (fun t => t.m.host k = Memory.putAll hostBg (s.m.host k) dst d.out.reverse)) ∧
      (j.op = 0x06 → j.arg0 % 2 = 1 → j.srcDpa = false →
        EndsJob (.cultureTrain id) s id (if Yelrin.imgOk (Memory.bytes hostBg (s.m.host k) (j.src % 2 ^ 64) 33024) then 0 else 4) 0 (fun _ => True)) ∧
      (∀ page e, LastPage s j page e →
        (j.op = 0x08 → e.st = 0 ∨ e.st = 1 ∨ e.st = 4 → EndsJob (.promote id) s id 0 (j.len / 4096 % 2 ^ 48) (fun t => t.m.ent? page = some e)) ∧
        (j.op = 0x09 → e.st = 0 ∨ e.st = 2 ∨ (e.st = 1 ∧ j.acc = page + 1 ∧ s.m.led.ended.find? page = some 0) →
          EndsJob (.demote id) s id 0 (j.len / 4096 % 2 ^ 48) (fun t => t.m.ent? page = some e)) ∧
        (j.op = 0x0A → e.st = 1 → s.m.led.moveOf page = none → s.m.pins + 1 ≤ (s.live.reg oPinMax).toNat →
          EndsJob (.pin id) s id 0 (j.len / 4096 % 2 ^ 48) (fun t => t.m.ent? page = some { e with st := 4, gen := (e.gen + 1) % 512 })) ∧
        (j.op = 0x0B → e.st = 4 →
          EndsJob (.unpin id) s id 0 (j.len / 4096 % 2 ^ 48) (fun t => t.m.ent? page = some { e with st := 1, gen := (e.gen + 1) % 512 })) ∧
        (j.op = 0x18 → retiredNow s.live s.m page = false → Leave s.m (whoJob id) 0 (backingLines s.live s.m page (fun _ => true)) → ∀ a b m1,
          countScrub { s.m with errs := [] } (fun m => scrubPage s.live m page (fun _ => true)) = (a, b, m1) →
          EndsJob (.scrubRange id) s id 0 (min 0xFFFFFF (j.acc % 2 ^ 24 + a) + 2 ^ 24 * min 0xFFFFFF (j.acc / 2 ^ 24 + b)) (fun _ => True))) ∧
      (j.op = 0x10 → j.held ≠ [] → j.prog + 1 = j.len → j.first = none → ∀ b r, j.item 8 j.prog = (b, false) →
        tallyRec s.live 2 (s.live.rOwner j.ring) (ofBytes 64 b) = some r → s.m.tally.coal.find? r.line = none → s.m.coalVictim r.line = none →
        s.m.tally.direct.contains (r.line / 2 ^ 22) = false →
        EndsJob (.tallyBatch id) s id 0 (j.len % 2 ^ 48) (fun t => (t.m.tally.coal.find? r.line).isSome = true)) ∧
      (j.op = 0x11 → j.held ≠ [] → j.dstDpa = false → j.len - j.prog ≤ 128 → ∀ w items, w = (if (tallyTab s.live (s.live.rOwner j.ring)).any (·.pair) then 16 else 8) →
        items = (List.range (j.len - j.prog)).map (fun i => j.item w i) → items.all (fun x => !x.2) = true →
        EndsJob (.tallyRead id) s id 0 (j.len % 2 ^ 48) (fun t =>
          t.m.host k = Memory.putAll hostBg (s.m.host k) ((j.dst + w * j.prog) % 2 ^ 64) (items.flatMap (·.1)))) ∧
      (∀ x, j.table s.live = some x → j.held ≠ [] →
        (j.op = 0x14 → j.first = none → j.dstDpa = false → j.len ≤ j.res.length / (8 + x.vlen) →
          EndsJob (.strain id) s id 0 (j.acc % 2 ^ 48) (fun t =>
            t.m.host k = Memory.putAll hostBg (s.m.host k) (j.dst % 2 ^ 64) j.res)) ∧
        (j.prog + 1 = j.len → j.first = none → editsOf s.live s.m x id = [] →
          ∀ it a n m' q, a = stnAgent s.live j →
          (j.op = 0x15 → j.item (x.klen + x.vlen) j.prog = (it, false) →
            stnInsert s.live a x (liveLookups s.live s.m x) (it.take x.klen) (it.drop x.klen) 0 s.m = .ok q n m' →
            EndsJob (.strainInsert id) s id (match q with | .ok => 0 | .full => 12 | .missing => 13)
              ((if q = .ok then j.len else j.prog) % 2 ^ 48) (fun t => t.m.strn = m'.strn)) ∧
          (j.op = 0x16 → j.item x.klen j.prog = (it, false) →
            stnDelete s.live a x (liveLookups s.live s.m x) it 0 s.m = .ok q n m' →
            EndsJob (.strainDelete id) s id (match q with | .ok => 0 | .full => 12 | .missing => 13)
              ((if q = .ok then j.len else j.prog) % 2 ^ 48) (fun t => t.m.strn = m'.strn)))))) ∧
  (
  ∀ (L : Image) (m : Mach) (j : Job) (page : Nat) (e : LEnt), m.ent? page = some e → e.st ≠ 3 →
    (∀ op, op ≠ 0x0C → e.st = 5 → pageStep L m j op page e = (.code 7, j, m)) ∧
    (e.st ≠ 2 → e.st ≠ 5 → pageStep L m j 0x08 page e = (.code 0, j, m)) ∧
    (e.st = 2 → ∃ m', pageStep L m j 0x08 page e = (.wait, j, m') ∧ (m'.led.moveOf page).isSome = true) ∧
    (e.st = 4 → pageStep L m j 0x09 page e = (.code 8, j, m) ∧ pageStep L m j 0x0A page e = (.code 0, j, m) ∧
      ∃ m', pageStep L m j 0x0B page e = (.code 0, j, m') ∧ m'.ent? page = some { e with st := 1, gen := (e.gen + 1) % 512 } ∧
        m'.led.pinned = m.led.pinned - 1) ∧
    (e.st = 0 ∨ e.st = 2 → ∃ j' m', pageStep L m j 0x09 page e = (.code 0, j', m') ∧ m'.ent? page = some e) ∧
    (e.st ≠ 4 → e.st ≠ 5 → pageStep L m j 0x0B page e = (.code 0, j, m)) ∧
    (e.st = 1 → m.led.moveOf page = none →
      (m.pins + 1 ≤ (L.reg oPinMax).toNat → ∃ m', pageStep L m j 0x0A page e = (.code 0, j, m') ∧
        m'.ent? page = some { e with st := 4, gen := (e.gen + 1) % 512 } ∧ m'.led.pinned = m.led.pinned + 1) ∧
      ((L.reg oPinMax).toNat < m.pins + 1 → pageStep L m j 0x0A page e = (.code 11, j, m))) ∧
    (∀ p, p = j.dst / 4096 + j.prog → j.op ≠ 0x18 →
      (dpaOk L m (L.rOwner j.ring) (p / 65536) = false → pagePiece L j m = pageEnd j p 8 m) ∧
      (dpaOk L m (L.rOwner j.ring) (p / 65536) = true → m.deniedPage (whoJob j.id) = none → eFlat (L.extent (p / 65536)) = true → pagePiece L j m = pageEnd j p 9 m)))

/-- An idle churn takes the next work, a busy one lends itself to in-line work; faults park or end a job and page responses resume or
end it. R212; R219; R222; R223; R226; R234; R383; R395. -/
def Obligations.ChurnsTakeParkAndFault : Prop :=
  ∀ (c : Fin 96) (id : Nat) (j : Job) (s : State), Quiet s → s.latch = false →
    (∀ k w, s.m.churnIdle c = true → s.m.pick c = some (k, w) → (∀ i x, w = .job i → s.m.job? i = some x → x.stale = false) →
      ∃ m : Mach, exec (.churnFree c) s = .next (settle { s with m }) ∧ m.chn.run.find? c = some w) ∧
    (∀ p v pos, (List.range 96).any s.m.churnIdle = false →
      s.m.lendable c pos = true → (s.m.chq (4 * (c.val / 8))).head? = some (.decode p v) → s.m.chn.avoid = [] →
      (∀ cl, cl < 12 → cl ≠ c.val / 8 → s.m.chq (4 * cl) = []) →
      ∃ t, exec (.churnLend [(c, pos)]) s = .next t ∧ t.m.chn.lent.find? c = some (p, v) ∧ t.m.chn.run = s.m.chn.run) ∧
    (∀ w syn, s.m.chn.run.find? c = some w → s.m.chn.lent.find? c = none →
      ∃ m : Mach, exec (.localMemoryUe c syn) s = .next (settle { s with m }) ∧ m.rbit oChnEvt 0 = true ∧ m.chn.run.find? c ≠ some w) ∧
    (s.m.job? id = some j → j.id = id →
      (∀ f, s.m.chn.slots < 256 → s.m.chn.run = [(c.val, .job id)] → j.st = .parkWait c f →
        ∃ t, exec .contextSlotFree s = .next t ∧ t.m.chn.run = [] ∧ t.m.chn.slots = s.m.chn.slots + 1 ∧
          t.m.job? id = some { j with st := if f then .parked else .queued, slot := 1 }) ∧
      (∀ addr ats pri, j.st = .running c → j.applying s.live = false → j.dstDpa = false → j.took = [] → s.m.home.done = [] → Calm s.m →
        ∃ m : Mach, ∃ j2, exec (.translationFault id addr ats pri) s = .next (settle { s with m }) ∧ m.job? id = some j2 ∧
          (ats = false ∨ pri = false → j2.st = .ended 5 (addr.toNat / 4096 % 2 ^ 48)) ∧
          (ats = true → pri = true → j.faults.find? (fun p => p.1 == addr.toNat / 4096) = none → j.ctx = none → s.m.chn.slots < 256 →
            j2.st = .parked ∧ j2.slot = 1 ∧ j2.faultAddr = addr.toNat)) ∧
      (j.st = .parked → j.prqSent = false → s.m.chn.priBlocked.contains (s.live.rFn j.ring) = false →
        exec (.priPageRequest id false) s = .next s ∧
        ∃ t j2, exec (.priPageRequest id true) s = .next t ∧ Out.pageReq (s.live.rFn j.ring) (j.faultAddr / 4096 * 4096) ∈ t.m.outbox ∧
          t.m.job? id = some j2 ∧ j2.prqSent = true) ∧
      (s.m.dqu.lostPrq.contains id = true → (∀ h : Fin 8, s.live.rFn j.ring = h.val → s.m.holdsFrom h = false) → ∀ code,
        exec (.prgResponse id code) s =
          .next { s with m := ({ s.m with dqu := { s.m.dqu with lostPrq := s.m.dqu.lostPrq.erase id } }).bump (oDquCnt 1) }) ∧
      (s.m.dqu.lostPrq.contains id = false → (∀ h : Fin 8, s.live.rFn j.ring = h.val → s.m.holdsFrom h = false) → j.st = .parked →
        j.prqSent = true →
        exec (.prgResponse id .success) s = .next (settle { s with m := resume s.live s.m j }) ∧
        exec (.prgResponse id .invalid) s = .next (settle { s with m := endJob s.live s.m id 5 (j.faultAddr / 4096 % 2 ^ 48) }) ∧
        (∃ m : Mach, exec (.prgResponse id .failure) s = .next (settle { s with m }) ∧ m.chn.priBlocked.contains (s.live.rFn j.ring) = true) ∧
        ∃ m : Mach, exec (.priTimeout id) s = .next (settle { s with m }) ∧ m.rbit oChnEvt 2 = true))

/-- The yoke's link trains, retrains and fails by its rules; flits are checked, acknowledged and delivered in order. R346; R347; R348;
R349; R356; R359; R360; R368; R353; R357; R358. -/
def Obligations.YokeLinkAndFlits : Prop :=
  (
  ∀ (s : State), Quiet s → s.commit.op ≠ .armed → s.commit.op ≠ .arming →
    (∀ role width half, s.m.rbit oYkCtl 0 = true → s.m.yoke.up = false → s.m.yoke.link ≠ .held →
      ∃ m : Mach, exec (.yokeTrainingDone role width half) s = .next (settle { s with m }) ∧
        (role = s.m.straps.yokeRole → m.yoke.link = .held ∧ m.yoke.roleConflict = true) ∧
        (role ≠ s.m.straps.yokeRole → m.yoke.link = .up ∧ m.yoke.width = width ∧ m.yoke.roleConflict = false ∧ m.yoke.credits.get 0 0 = 256 ∧
          m.yoke.credits.get 0 1 = 32 ∧ m.yoke.credits.get 0 3 = 192 ∧ m.rbit oYkEvt 0 = true ∧ m.yoke.st ≠ .degraded)) ∧
    (s.m.yoke.link = .held → s.m.yoke.roleConflict = true → s.m.rbit oYkCtl 0 = true →
      exec .yokeRoleRetry s = .next { s with m := { s.m with yoke := { s.m.yoke with link := .training } } }) ∧
    (s.m.yoke.link = .up →
      (∀ c ∈ [Instr.ykRetrain, .eyeMarginLow], exec c s = .next (if s.m.ykHeldOff (1, 0, false) then s else
        { s with m := { s.m with yoke := { s.m.yoke with
          link := .retrain, op := 1, opOwn := true, opAsk := (1, 0, false),
          opLost := s.m.yoke.opLost.filter (fun x => x.1 != (1, 0, false)) } }.send (.yokeOp 0 false) })) ∧
      (∀ p ∈ [((1 : Fin 4), 16, false), (2, 8, false), (3, 8, true)], exec (.ykWidthReq p.1) s = .next (if s.m.ykHeldOff (2, p.2) then s else
        { s with m := { s.m with yoke := { s.m.yoke with
          link := .retrain, op := 2, opOwn := true, opAsk := (2, p.2),
          opLost := s.m.yoke.opLost.filter (fun x => x.1 != (2, p.2)) } }.send (.yokeOp p.2.1 p.2.2) })) ∧
      (∀ w, exec (.partnerRetrainRequest w) s =
        .next { s with m := { s.m with yoke := { s.m.yoke with link := .retrain, op := if w.isSome then 2 else 1, opOwn := false } } })) ∧
    (s.m.yoke.link = .retrain → s.m.yoke.opOwn = true →
      (∀ c ∈ [Instr.ykRetrain, .eyeMarginLow], exec c s = .next s) ∧
      ∀ w, exec (.partnerRetrainRequest w) s = .next (if s.m.straps.yokeRole then s else
        { s with m := { s.m with yoke := { s.m.yoke with
          op := if w.isSome then 2 else 1, opOwn := false,
          opLost := (s.m.yoke.opAsk, none) :: s.m.yoke.opLost.filter (fun x => x.1 != s.m.yoke.opAsk) } } })) ∧
    (s.m.yoke.link = .retrain → s.m.yoke.opOwn = false →
      (∀ w, exec (.partnerRetrainRequest w) s = .next s) ∧
      (s.m.straps.yokeRole = false → ∀ c ∈ [Instr.ykRetrain, .eyeMarginLow], exec c s = .next { s with m := { s.m with yoke :=
        { s.m.yoke with opLost := ((1, 0, false), none) :: s.m.yoke.opLost.filter (fun x => x.1 != (1, 0, false)) } } }) ∧
      (s.m.straps.yokeRole = true → s.m.ykHeldOff (1, 0, false) = false → ∀ c ∈ [Instr.ykRetrain, .eyeMarginLow],
        exec c s = .next { s with m := { s.m with yoke := { s.m.yoke with
          link := .retrain, op := 1, opOwn := true, opAsk := (1, 0, false),
          opLost := s.m.yoke.opLost.filter (fun x => x.1 != (1, 0, false)) } }.send (.yokeOp 0 false) })) ∧
    (s.m.yoke.link = .retrain → ∀ width half, ∃ t, exec (.yokeRetrainDone width half) s = .next t ∧ t.m.yoke.link = .up ∧ t.m.yoke.op = 0 ∧
      t.m.yoke.width = (if s.m.yoke.op = 2 then width else s.m.yoke.width) ∧
      t.m.yoke.opLost = s.m.yoke.opLost.map (fun x => (x.1, some (x.2.getD (s.m.core + holdOff))))) ∧
    (s.m.rbit oYkCtl 0 = true → s.m.yoke.link = .down → ∃ t, exec .yokePartnerTraining s = .next t ∧ t.m.yoke.link = .training) ∧
    (∀ v : Word, (v.getLsbD 0 = false → ¬ (s.m.yoke.link = .held ∧ s.m.yoke.roleConflict = false) →
        ∃ m : Mach, exec (.ykEnWrite v) s = .next (settle { s with m }) ∧ m.yoke.link = .held ∧ m.yoke.roleConflict = false ∧
          m.yoke.recs0 = [] ∧ m.yoke.recs3 = [] ∧ (Calm s.m → m.yoke.st = .degraded ∧ m.yoke.cause = 3)) ∧
      (v.getLsbD 0 = true → s.m.yoke.link = .held → s.m.yoke.roleConflict = false →
        ∃ t, exec (.ykEnWrite v) s = .next t ∧ t.m.yoke.link = .training)) ∧
    (s.m.yoke.link = .up → ∀ lane : Fin 16, ¬ (s.m.yoke.width = 8 ∧ decide (8 ≤ lane.val) ≠ s.m.yoke.half) →
      ∀ p ∈ [(Instr.yokeHbTimeout, 5), (.yokeLaneLoss lane, 6)],
        ∃ m : Mach, exec p.1 s = .next (settle { s with m }) ∧ m.yoke.link = .training ∧
          (Calm s.m → fld (m.reg oYkFatal) 15 0 = p.2 ∧ m.rbit oYkEvt 1 = true ∧ m.yoke.st = .degraded ∧ m.yoke.cause = 1)) ∧
    (∃ t, exec .laneErrorCheck s = .next t ∧ (∀ l, l < 16 → t.m.yoke.laneSeen.get 0 l = (s.m.reg (oLaneCnt l)).toNat) ∧
      (s.m.rbit oYkCtl 1 = false → t.m.yoke.link = s.m.yoke.link)) ∧
    (s.m.yoke.up = true → ∀ m : Mach, m = s.m.ykMsg 2 1 [s.m.yoke.st.code, s.m.ykFrame] →
      exec .heartbeatSend s = .next (settle { s with m := if s.latch then m else resyncGo s.live (recDrains s.live m) }))) ∧
  (
  ∀ (f : BitVec 2048) (s : State), Quiet s → s.commit.op ≠ .armed → s.commit.op ≠ .arming →
    (s.m.yoke.link ≠ .up → exec (.yokeFlitRx f) s = .next s) ∧
    (s.m.yoke.link = .up →
      (flitGood s.m.yoke f = false → exec (.yokeFlitRx f) s = .next (settle { s with m := flitBad s.live s.m f })) ∧
      (flitGood s.m.yoke f = true → fld f 27 16 ≠ s.m.yoke.acked → (s.m.yoke.replayBuf.any fun p => p.1 == fld f 27 16) = false →
        ∃ m : Mach, exec (.yokeFlitRx f) s = .next (settle { s with m }) ∧ m.yoke.link = .training ∧ (Calm s.m → fld (m.reg oYkFatal) 15 0 = 2)) ∧
      (flitGood s.m.yoke f = true → fld f 27 16 = s.m.yoke.acked → f.getLsbD 28 = false → f.getLsbD 51 = false → f.getLsbD 2 = false →
        (∀ n, n = (fld f 15 4 + 4096 - s.m.yoke.expect) % 4096 → 512 ≤ n → n < 2048 → s.m.yoke.window.find? (fld f 15 4) = none →
          ∃ m : Mach, exec (.yokeFlitRx f) s = .next (settle { s with m }) ∧ m.yoke.link = .training ∧ (Calm s.m → fld (m.reg oYkFatal) 15 0 = 2)) ∧
        (fld f 15 4 = s.m.yoke.expect → s.m.yoke.expect < 4096 → s.m.yoke.window = [] → s.m.yoke.rxTop = s.m.yoke.expect →
          s.m.yoke.rxHeld.get 0 (fld f 1 0) < vcRoom (fld f 1 0) →
          ∃ u t : State, exec (.yokeFlitRx f) s = .next (t.yk id) ∧
            t = (if (flitDeliverAll 512 u).m.yoke.up = true ∧ (flitDeliverAll 512 u).m.yoke.expect ≠ s.m.yoke.expect
              then (flitDeliverAll 512 u).ykOn (·.ykIdle none (0, 0)) else flitDeliverAll 512 u) ∧
            u.m.yoke.window.find? s.m.yoke.expect = some f ∧
            u.m.yoke.expect = s.m.yoke.expect ∧ u.live = s.live ∧ u.stage = s.stage ∧ u.commit = s.commit))))

/-- Records are queued to be installed in order; an acknowledgement ends those below its count, a rejection marks its unit. R354; R361;
R363; R364; R368; R372. -/
def Obligations.MirrorRecordsAreNumbered : Prop :=
  ∀ (hdr : BitVec 64) (data : Line) (n : BitVec 32) (s : State), Quiet s → s.commit.op ≠ .armed → s.commit.op ≠ .arming → s.latch = false → s.m.yoke.link = .up →
    s.m.pwr.st = .active →
    (∀ m : Mach, m = { s.m with yoke := { s.m.yoke with rxq0 := s.m.yoke.rxq0 ++ [(withKind hdr 1, some data, 0)] } } →
      exec (.writeRecord hdr data) s = .next ((s.ykOn fun _ => recDrains s.live m).yk id)) ∧
    (∀ m : Mach, m = { s.m with yoke := { s.m.yoke with rxq0 := s.m.yoke.rxq0 ++ [(withKind hdr 2, none, 0)] } } →
      exec (.poisonRecord hdr) s = .next ((s.ykOn fun _ => recDrains s.live m).yk id)) ∧
    (∀ m : Mach, m = { s.m with yoke := { s.m.yoke with rxq0 := s.m.yoke.rxq0 ++ [(withKind hdr 3, none, 0)] } } →
      exec (.forgetPageRecord hdr) s = .next ((s.ykOn fun _ => recDrains s.live m).yk id)) ∧
    (∀ m : Mach, m = { s.m with yoke := { s.m.yoke with rxq3 := s.m.yoke.rxq3 ++ [(withKind hdr 4, some data, 0)] } } →
      exec (.resyncLineRecord hdr data) s = .next ((s.ykOn fun _ => recDrains s.live m).yk id)) ∧
    (∀ k, 1 ≤ k → k ≤ 4 → hKind (withKind hdr k) = k ∧ hLine (withKind hdr k) = hLine hdr) ∧
    (recBad s.live hdr = true ↔ eMirror (s.live.extent (hLine hdr / 64 / 65536)) = false ∨ hKind hdr = 0 ∨ 5 ≤ hKind hdr ∨ fld hdr 63 50 ≠ 0) ∧
    (∀ k vc rest, recBad s.live hdr = true → vc = 0 ∨ vc = 3 → (if vc = 0 then s.m.yoke.rxq0 else s.m.yoke.rxq3) = (hdr, some data, 0) :: rest →
      recDrain s.live vc (k + 1) s.m = recDrain s.live vc k (recReject s.live { s.m with yoke := (if vc = 0
        then { s.m.yoke with rxq0 := rest, inst0 := (s.m.yoke.inst0 + 1) % 2 ^ 32 }
        else { s.m.yoke with rxq3 := rest, inst3 := (s.m.yoke.inst3 + 1) % 2 ^ 32 }) } vc (if vc = 0 then s.m.yoke.inst0 else s.m.yoke.inst3))) ∧
    exec (.ack0 n) s = .next (settle { s with m := resyncGo s.live (recsDone s.m 0 (belowCount n.toNat)) }) ∧
    exec (.ack3 n) s = .next (settle { s with m := resyncGo s.live (recsDone s.m 3 (belowCount n.toNat)) }) ∧
    (recsDone s.m 0 (belowCount n.toNat)).yoke.recs0 = s.m.yoke.recs0.filter (fun r => !belowCount n.toNat r.1) ∧
    (recsDone s.m 3 (belowCount n.toNat)).yoke.recs3 = s.m.yoke.recs3.filter (fun r => !belowCount n.toNat r.1) ∧
    (∀ p ∈ [(0, Instr.reject0 n, s.m.yoke.recs0), (3, .reject3 n, s.m.yoke.recs3)],
      ((p.2.2.find? fun r => r.1 == n.toNat) = none → exec p.2.1 s = .next s) ∧
      (∀ r, (p.2.2.find? fun r => r.1 == n.toNat) = some r →
        ∃ m : Mach, exec p.2.1 s = .next (settle { s with m := if s.m.yoke.st = .mirrored then enterSrc s.live m else resyncGo s.live m }) ∧
          r.2.1 ∈ m.yoke.map ∧ (∀ x ∈ (if p.1 = 0 then m.yoke.recs0 else m.yoke.recs3), x.1 ≠ n.toNat)))

/-- The mirror's states follow STATUS, the partner's heartbeat, its loss and the commands: pairing judged, source and target chosen,
split kept. R355; R365; R366; R367; R368; R369; R370; R371. -/
def Obligations.MirrorStatesFollowTheirRules : Prop :=
  ∀ (s : State), Quiet s → s.commit.op ≠ .armed → s.commit.op ≠ .arming → s.latch = false → s.m.yoke.link = .up → s.m.pwr.st = .active →
    (∀ (st : Byte) fr, ∃ m : Mach, exec (.heartbeat st fr) s = .next (settle { s with m }) ∧ m.yoke.peerState = st.toNat % 8 ∧
      (st = 3#8 → s.m.yoke.peerState ≠ 3 → s.m.yoke.st = .mirrored ∨ s.m.yoke.st = .split ∨ s.m.yoke.st = .resyncSrc ∨ s.m.yoke.st = .pairing →
        m.yoke.st = .resyncTgt ∧ m.yoke.tgtIncomplete = true)) ∧
    (∀ self peer trust nonempty dig seq, ∃ m : Mach, exec (.status self peer trust nonempty dig seq) s = .next (settle { s with m }) ∧
      m.yoke.peerSelf = self ∧ m.yoke.peerDigest = dig ∧
      (s.m.yoke.st = .mirrored → dig ≠ digest s.live → m.yoke.st = .split ∧ m.yoke.cause = 5) ∧
      (s.m.yoke.st = .mirrored → dig = digest s.live → m.yoke.st = .mirrored) ∧
      (s.m.yoke.st = .pairing → dig ≠ digest s.live → m.yoke.st = .split ∧ m.yoke.cause = 5) ∧
      (s.m.yoke.st = .pairing → dig = digest s.live → ∀ mine theirs : Bool, mine = (s.m.yoke.trust && s.m.peerId == self) →
        theirs = (trust && peer == s.m.selfId) →
        (mine = true → theirs = true → s.m.yoke.map = [] → nonempty = false → m.yoke.st = .mirrored ∧ m.yoke.trust = true) ∧
        (mine = true → theirs = true → s.m.yoke.map = [] → nonempty = true → m.yoke.st = .resyncTgt) ∧
        (mine = true → theirs = true → s.m.yoke.map ≠ [] → nonempty = true → m.yoke.st = .split ∧ m.yoke.cause = 4) ∧
        (mine = false → theirs = true → m.yoke.st = .resyncTgt) ∧
        (mine = false → theirs = false → s.m.straps.yokeRole = false → m.yoke.st = .resyncTgt))) ∧
    (∀ chunk bits, s.m.yoke.vecWant = true →
      exec (.vec chunk bits) s = .next { s with m := { s.m with yoke := { s.m.yoke with vec := s.m.yoke.vec.insert chunk bits } } }) ∧
    (∀ staged : Bool, ∀ I : Image, I = (if staged then s.stage else s.live) →
      exec (.vecReq staged) s = .next (settle { s with m := (List.range 512).foldl (fun m c => m.ykMsg 2 3 [c, (vecChunk I c).toNat]) s.m })) ∧
    (∀ (chunk : Fin 65536) (bits : BitVec 256), ∃ t, exec (.map chunk bits) s = .next t ∧
      ∀ u, u ∈ t.m.yoke.map ↔ (u ∈ s.m.yoke.map ∨ (u / 256 = chunk.val ∧ bits.getLsbD (u % 256) = true))) ∧
    (s.m.yoke.st = .split → s.m.yoke.cause = 4 →
      (∃ m : Mach, exec .takeSource s = .next (settle { s with m }) ∧ m.yoke.st = .resyncTgt ∧ m.yoke.map = []) ∧
      ∃ m : Mach, exec .ykCmdTakeSource s = .next (settle { s with m := enterSrc s.live m }) ∧ m.yoke.cmdResult = 1) ∧
    (s.m.yoke.st ≠ .split → exec .takeSource s = .next s ∧
      exec .ykCmdTakeSource s = .next { s with m := { s.m with yoke := { s.m.yoke with cmdResult := 2 } } }) ∧
    (s.m.yoke.st = .resyncTgt → ∀ n, ∃ m : Mach, exec (.resyncDone n) s = .next (settle { s with m }) ∧
      (s.m.yoke.map = [] → m.yoke.st = .mirrored ∧ m.yoke.tgtIncomplete = false) ∧ (s.m.yoke.map ≠ [] → m.yoke.st = .split ∧ m.yoke.cause = 4)) ∧
    (s.m.yoke.peerA = false → ∃ m : Mach, exec .classA s = .next (settle { s with m }) ∧ m.yoke.peerA = true ∧ m.yoke.st = .degraded ∧ m.yoke.cause = 2 ∧
      m.yoke.recs0 = [] ∧ m.yoke.recs3 = []) ∧
    (s.m.yoke.peerA = true → exec .classA s = .next s) ∧
    (s.m.yoke.st = .degraded → exec .fullResync s = .next { s with m := { s.m with yoke := { s.m.yoke with cmdResult := 2 } } }) ∧
    (s.m.yoke.st ≠ .degraded → ∃ m : Mach, exec .fullResync s = .next (settle { s with m := enterSrc s.live m }) ∧ m.yoke.cmdResult = 1 ∧
      m.yoke.trust = false ∧ ∀ e ∈ mirroredExtents s.live, ∀ u ∈ extentUnits e, u ∈ m.yoke.map) ∧
    (s.m.yoke.st = .resyncSrc → s.m.yoke.map = [] → s.m.yoke.copying = [] → s.m.yoke.recs3 = [] → s.m.yoke.copyAt = none →
      ∀ u, ∃ m : Mach, exec (.unitCopyDone u) s = .next (settle { s with m }) ∧ m.yoke.st = .mirrored ∧ m.yoke.trust = true)

/-- A paired APPLY is agreed by ARM, GO and GO_ACK, or aborted on both parts; a lost link aborts it until GO_ACK was sent or has come.
R374; R375; R376. -/
def Obligations.PairedApplyIsAgreed : Prop :=
  ∀ (w : Word) (s : State), Quiet s → s.latch = false → s.m.yoke.link = .up → s.m.pwr.st = .active →
    (s.commit.op ≠ .armed → s.commit.op ≠ .arming → exec (.arm w) s = .next { s with m := { s.m with yoke := { s.m.yoke with peerArm := some w } } }) ∧
    (s.commit.op = .armed →
      (w ≠ digest s.stage → ∃ t, exec (.arm w) s = .next t ∧ t.commit.op = .idle ∧ t.commit.code = 0x31#8 ∧ t.m.yoke.phase = 4 ∧
        t.live = s.live ∧ t.stage = s.stage) ∧
      (w = digest s.stage → s.m.straps.yokeRole = true → s.m.yoke.phase = 1 →
        ∃ t, exec (.arm w) s = .next t ∧ t.m.yoke.phase = 2 ∧ t.m.yoke.frame = (s.m.ykFrame + 32) % 2 ^ 32 ∧ t.commit = s.commit) ∧
      (s.m.straps.yokeRole = false → s.m.yoke.phase = 1 →
        (s.m.beforeFrame ((w.toNat + 2 ^ 32 - 8) % 2 ^ 32) = true → ∃ t, exec (.go w) s = .next t ∧ t.m.yoke.phase = 2 ∧ t.m.yoke.frame = w.toNat ∧
          t.m.yoke.goAcked = true ∧ t.commit = s.commit) ∧
        (s.m.beforeFrame ((w.toNat + 2 ^ 32 - 8) % 2 ^ 32) = false → exec (.go w) s = .next s)) ∧
      (s.m.straps.yokeRole = true → s.m.yoke.phase = 2 → w.toNat = s.m.yoke.frame → s.m.beforeFrame w.toNat = true →
        exec (.goAck w) s = .next { s with m := { s.m with yoke := { s.m.yoke with goAcked := true } } }) ∧
      (s.m.yoke.phase = 1 → ∃ t, exec .pairedArmTimeout s = .next t ∧ t.commit.op = .idle ∧ t.commit.code = 0x31#8 ∧ t.m.yoke.phase = 4 ∧
        t.live = s.live ∧ t.stage = s.stage) ∧
      (s.m.yoke.phase ≠ 1 → exec .pairedArmTimeout s = .next s) ∧
      (s.m.yoke.goAcked = false → Calm s.m → ∃ t, exec .yokeHbTimeout s = .next t ∧ t.commit.op = .idle ∧ t.commit.code = 0x31#8 ∧ t.live = s.live) ∧
      (s.m.yoke.goAcked = true → Calm s.m → ∃ t, exec .yokeHbTimeout s = .next t ∧ t.commit = s.commit ∧ t.live = s.live)) ∧
    (s.commit.op = .armed ∨ s.commit.op = .arming → ∃ t, exec .abort s = .next t ∧ t.commit.op = .idle ∧ t.commit.code = 0x31#8 ∧
      t.m.yoke.phase = 4 ∧ t.m.tally.direct = [] ∧ t.live = s.live ∧ t.stage = s.stage) ∧
    (s.commit.op ≠ .armed → s.commit.op ≠ .arming → exec .abort s = .next { s with m := { s.m with yoke := { s.m.yoke with peerArm := none } } })

/-- A decoder is committed in order within its limits, and maps an address to an offset of its device without its interleave bits. R83;
R84; R85; R495. -/
def Obligations.DecodersMapHostAddresses : Prop :=
  ∀ (h : Fin 8) (ld : Fin 16) (d : Decoder) (s : State), Quiet s →
    ((s.m.head h).st.linked = true → s.m.holdsFrom h = false → (s.m.head h).post = [] → (ldPart s.live s.m h ld).isSome = true → (s.m.head h).decoders = [] → d.idx = 0 → 0 < d.size →
      exec (.hdmDecoderCommit h ld d) s = .next { s with m := s.m.setHead h { s.m.head h with decoders := [(ldKey s.m h ld, d)] } }) ∧
    ((s.m.head h).st.linked = false → exec (.hdmDecoderCommit h ld d) s = .next s) ∧
    (∀ hpa, d.base ≤ hpa → hpa < d.base + d.size →
      decOffset [d] hpa = some (d.skip + (hpa - d.base) / (d.gran * d.ways) * d.gran + (hpa - d.base) % d.gran)) ∧
    (∀ hpa, hpa < d.base ∨ d.base + d.size ≤ hpa → decOffset [d] hpa = none) ∧
    (∀ a b, d.base ≤ a → a ≤ b → b < d.base + d.size → 0 < d.gran → 0 < d.ways → (a - d.base) / d.gran = (b - d.base) / d.gran →
      ∃ x, decOffset [d] a = some x ∧ decOffset [d] b = some (x + (b - a))) ∧
    (∀ version, s.m.wld.waitImage = true →
      exec (.recoveryImageDelivery false version) s = .next s ∧
      ∃ t, exec (.recoveryImageDelivery true version) s = .next t ∧ t.m.wld.waitImage = false ∧ t.m.wld.steward = .up ∧ t.m.wld.version = version ∧
        t.m.wld.keeper = (if s.lcCur ≠ 5 then .up else .down))
end

