-- ==== Sys2Proof/Laws/Memory.lean ====
section
/-! SUPPORT. The laws of the sparse tables and of memory: a read after a write, what a write leaves alone, and that every memory
operation keeps the canonical form. -/

namespace Sys2Proof

namespace Tbl
variable {α : Type}

theorem find?_erase_self (t : Tbl α) (k : Nat) : (t.erase k).find? k = none := by
  induction t with
  | nil => rfl
  | cons p t ih =>
    obtain ⟨i, a⟩ := p
    unfold erase at ih ⊢
    by_cases h : i = k
    · simp [h, ih]
    · simp [h, find?, ih]

theorem find?_erase_ne (t : Tbl α) {k j : Nat} (h : j ≠ k) : (t.erase k).find? j = t.find? j := by
  induction t with
  | nil => rfl
  | cons p t ih =>
    obtain ⟨i, a⟩ := p
    unfold erase at ih ⊢
    by_cases hk : i = k
    · subst hk
      simp [find?, Ne.symm h, ih]
    · simp [hk, find?, ih]

theorem find?_insert_self (t : Tbl α) (k : Nat) (v : α) : (t.insert k v).find? k = some v := by
  induction t with
  | nil => simp [insert, find?]
  | cons p t ih =>
    obtain ⟨i, a⟩ := p
    by_cases h : i = k
    · simp [insert, h, find?]
    · by_cases hlt : k < i
      · simp [insert, h, hlt, find?]
      · simp [insert, h, hlt, find?, ih]

theorem find?_insert_ne (t : Tbl α) {k j : Nat} (v : α) (h : j ≠ k) : (t.insert k v).find? j = t.find? j := by
  induction t with
  | nil => simp [insert, find?, Ne.symm h]
  | cons p t ih =>
    obtain ⟨i, a⟩ := p
    by_cases hi : i = k
    · subst hi
      simp [insert, find?, Ne.symm h]
    · by_cases hlt : k < i
      · simp [insert, hi, hlt, find?, Ne.symm h]
      · simp [insert, hi, hlt, find?, ih]

variable [DecidableEq α]

/-- A read after a write to the same key. -/
@[simp] theorem get_set_self (t : Tbl α) (d : α) (k : Nat) (v : α) : (t.set d k v).get d k = v := by
  unfold set
  split
  · next h => simp [get, find?_erase_self, h]
  · simp [get, find?_insert_self]

/-- A write leaves every other key alone. -/
theorem get_set_ne (t : Tbl α) (d : α) {k j : Nat} (v : α) (h : j ≠ k) : (t.set d k v).get d j = t.get d j := by
  unfold set
  split
  · simp [get, find?_erase_ne t h]
  · simp [get, find?_insert_ne t v h]

end Tbl

namespace Machine

/-! ### Memory -/

@[simp] theorem Memory.byte_put_self (bg : Byte) (c : Memory) (k : Nat) (b : Byte) : Memory.byte bg (Memory.put bg c k b) k = b :=
  Tbl.get_set_self ..

theorem Memory.byte_put_ne (bg : Byte) (c : Memory) {k j : Nat} (b : Byte) (h : j ≠ k) :
    Memory.byte bg (Memory.put bg c k b) j = Memory.byte bg c j := Tbl.get_set_ne c bg b h

/-- Outside the bytes written every address reads as before. -/
theorem Memory.byte_putAll_ne (bg : Byte) (bs : List Byte) (c : Memory) (k j : Nat) (h : j < k ∨ k + bs.length ≤ j) :
    Memory.byte bg (Memory.putAll bg c k bs) j = Memory.byte bg c j := by
  induction bs generalizing c k with
  | nil => rfl
  | cons b t ih =>
    simp only [List.length_cons] at h
    rw [Memory.putAll, ih _ _ (by omega), Memory.byte_put_ne _ _ _ (by omega)]

/-- A byte written reads back. -/
theorem Memory.byte_putAll_at (bg : Byte) (bs : List Byte) (c : Memory) (k i : Nat) (h : i < bs.length) :
    Memory.byte bg (Memory.putAll bg c k bs) (k + i) = bs[i] := by
  induction bs generalizing c k i with
  | nil => simp at h
  | cons b t ih =>
    rw [Memory.putAll]
    cases i with
    | zero => rw [Memory.byte_putAll_ne _ _ _ _ _ (by omega)]; simp
    | succ i =>
      have := ih (Memory.put bg c k b) (k + 1) i (by simpa using h)
      simpa [Nat.add_assoc, Nat.add_comm 1 i] using this

theorem Memory.rising_mono {lo lo' : Nat} (h : lo' ≤ lo) : ∀ c : Memory, Memory.rising lo c = true → Memory.rising lo' c = true
  | [], _ => rfl
  | (k, _) :: t, hc => by
    simp only [Memory.rising, Bool.and_eq_true, decide_eq_true_eq] at hc ⊢
    exact ⟨by omega, hc.2⟩

theorem Memory.rising_filter (p : Host.Cell → Bool) : ∀ (lo : Nat) (c : Memory), Memory.rising lo c = true → Memory.rising lo (c.filter p) = true
  | _, [], _ => rfl
  | lo, (k, b) :: t, hc => by
    simp only [Memory.rising, Bool.and_eq_true, decide_eq_true_eq] at hc
    have ht := Memory.rising_filter p (k + 1) t hc.2
    by_cases hp : p (k, b) = true
    · simp only [List.filter_cons, hp, ↓reduceIte, Memory.rising, Bool.and_eq_true, decide_eq_true_eq]
      exact ⟨hc.1, ht⟩
    · simp only [List.filter_cons, hp]
      exact Memory.rising_mono (by omega) _ ht

theorem Memory.rising_insert (k : Nat) (b : Byte) : ∀ (lo : Nat) (c : Memory), lo ≤ k → Memory.rising lo c = true →
    Memory.rising lo (Tbl.insert c k b) = true
  | _, [], hl, _ => by simp [Tbl.insert, Memory.rising, hl]
  | lo, (i, a) :: t, hl, hc => by
    simp only [Memory.rising, Bool.and_eq_true, decide_eq_true_eq] at hc
    unfold Tbl.insert
    split
    · next h => subst h; simp [Memory.rising, hl, hc.2]
    · split
      · next h => simp only [Memory.rising, Bool.and_eq_true, decide_eq_true_eq]; exact ⟨hl, by omega, hc.2⟩
      · simp only [Memory.rising, Bool.and_eq_true, decide_eq_true_eq]
        exact ⟨hc.1, Memory.rising_insert k b (i + 1) t (by omega) hc.2⟩

theorem Memory.mem_insert {k : Nat} {b : Byte} {p : Host.Cell} : ∀ {c : Memory}, p ∈ Tbl.insert c k b → p = (k, b) ∨ p ∈ c
  | [], h => by simpa [Tbl.insert] using h
  | (i, a) :: t, h => by
    unfold Tbl.insert at h
    split at h
    · rcases List.mem_cons.1 h with h | h
      · exact .inl h
      · exact .inr (List.mem_cons_of_mem _ h)
    · split at h
      · exact List.mem_cons.1 h
      · rcases List.mem_cons.1 h with h | h
        · exact .inr (h ▸ List.mem_cons_self ..)
        · rcases Memory.mem_insert h with h | h
          · exact .inl h
          · exact .inr (List.mem_cons_of_mem _ h)

/-- Removing entries keeps the canonical form. -/
theorem Memory.wf_filter (bg : Byte) (p : Host.Cell → Bool) (c : Memory) (h : Memory.wf bg c = true) : Memory.wf bg (c.filter p) = true := by
  simp only [Memory.wf, Bool.and_eq_true, List.all_eq_true] at h ⊢
  exact ⟨Memory.rising_filter p 0 c h.1, fun x hx => h.2 x (List.mem_filter.1 hx).1⟩

/-- A write keeps the canonical form. -/
theorem Memory.wf_put (bg : Byte) (c : Memory) (k : Nat) (b : Byte) (h : Memory.wf bg c = true) : Memory.wf bg (Memory.put bg c k b) = true := by
  unfold Memory.put Tbl.set
  split
  · exact Memory.wf_filter bg _ c h
  · next hb =>
    simp only [Memory.wf, Bool.and_eq_true, List.all_eq_true] at h ⊢
    refine ⟨Memory.rising_insert k b 0 c (Nat.zero_le _) h.1, fun x hx => ?_⟩
    rcases Memory.mem_insert hx with rfl | hx
    · simpa using hb
    · exact h.2 x hx

/-- A write of many bytes keeps the canonical form. -/
theorem Memory.wf_putAll (bg : Byte) (bs : List Byte) (c : Memory) (k : Nat) (h : Memory.wf bg c = true) :
    Memory.wf bg (Memory.putAll bg c k bs) = true := by
  induction bs generalizing c k with
  | nil => exact h
  | cons b t ih => exact ih _ _ (Memory.wf_put bg c k b h)

end Machine

end Sys2Proof
end

