-- ==== Sys2Proof/Laws/State.lean ====
section
/-! SUPPORT. What the small updates of the machinery leave alone: registers, counters, messages and records change no list of
detections, and each writer changes its own field. -/

namespace Sys2Proof.Machine

/-! ### Detections that wait -/

@[simp] theorem Mach.setReg_raised (m : Mach) (o : Nat) (v : Word) : (m.setReg o v).raised = m.raised := rfl
@[simp] theorem Mach.evt_raised (m : Mach) (o : Nat) (v : Word) : (m.evt o v).raised = m.raised := rfl
@[simp] theorem Mach.evb_raised (m : Mach) (o b : Nat) : (m.evb o b).raised = m.raised := rfl
@[simp] theorem Mach.bumpBy_raised (m : Mach) (o n : Nat) : (m.bumpBy o n).raised = m.raised := rfl
@[simp] theorem Mach.bump_raised (m : Mach) (o : Nat) : (m.bump o).raised = m.raised := rfl
@[simp] theorem Mach.send_raised (m : Mach) (x : Out) : (m.send x).raised = m.raised := rfl
@[simp] theorem Mach.tick_raised (m : Mach) : m.tick.raised = m.raised := rfl
@[simp] theorem Mach.setHead_raised (m : Mach) (h : Nat) (x : Head) : (m.setHead h x).raised = m.raised := rfl
@[simp] theorem Mach.setMb_raised (m : Mach) (h : Nat) (x : Mbox) : (m.setMb h x).raised = m.raised := rfl
@[simp] theorem Mach.hevEvt_raised (m : Mach) (h b : Nat) : (m.hevEvt h b).raised = m.raised := rfl

@[simp] theorem Mach.irq_raised (m : Mach) (f v : Nat) : (m.irq f v).raised = m.raised := by
  unfold Mach.irq
  split
  · split <;> rfl
  · rfl

@[simp] theorem Mach.cxlEvent_raised (m : Mach) (h l : Nat) (b : List Byte) : (m.cxlEvent h l b).raised = m.raised := by
  unfold Mach.cxlEvent
  dsimp only
  split <;> simp

theorem foldl_raised {α : Type} (f : Mach → α → Mach) (hf : ∀ m a, (f m a).raised = m.raised) (l : List α) (m : Mach) :
    (l.foldl f m).raised = m.raised := by
  induction l generalizing m with
  | nil => rfl
  | cons a t ih => simp [List.foldl_cons, ih, hf]

/-- A new record raises nothing. -/
theorem newRecord_raised (L : Image) (m : Mach) (k c : Nat) (o : Occ) (i r : Bool) : (newRecord L m k c o i r).raised = m.raised := by
  unfold newRecord
  dsimp only
  refine (foldl_raised _ (fun _ _ => Mach.cxlEvent_raised ..) _ _).trans ?_
  rw [apply_ite Mach.raised]
  simp only [Mach.irq_raised, Mach.evb_raised, ite_self]

/-- The log's action on an occurrence raises nothing. -/
@[simp] theorem record_raised (L : Image) (m : Mach) (o : Occ) (i r : Bool) : (record L m o i r).raised = m.raised := by
  unfold record
  split
  · rfl
  · dsimp only
    split
    · split <;> simp
    · split
      · simp
      · rename_i cls hc _ _ hn
        unfold Mach.takeEntry
        split
        · rename_i k m' h
          split at h
          · cases h
            simp [newRecord_raised]
          · split at h
            · cases h
              rw [newRecord_raised]
              split <;> simp
            · cases h
        · simp

/-! ### Each update changes its own field and no other -/

@[simp] theorem Mach.setReg_fresh (m : Mach) (o : Nat) (v : Word) : (m.setReg o v).fresh = m.fresh := rfl
@[simp] theorem Mach.setReg_errs (m : Mach) (o : Nat) (v : Word) : (m.setReg o v).errs = m.errs := rfl
@[simp] theorem Mach.setReg_core (m : Mach) (o : Nat) (v : Word) : (m.setReg o v).core = m.core := rfl
@[simp] theorem Mach.setReg_regs (m : Mach) (o : Nat) (v : Word) : (m.setReg o v).regs = m.regs.set (resetWord o) o v := rfl
@[simp] theorem Mach.setReg_hev (m : Mach) (o : Nat) (v : Word) : (m.setReg o v).hev = m.hev := rfl
@[simp] theorem Mach.setReg_outbox (m : Mach) (o : Nat) (v : Word) : (m.setReg o v).outbox = m.outbox := rfl
@[simp] theorem Mach.setReg_hostMem (m : Mach) (o : Nat) (v : Word) : (m.setReg o v).hostMem = m.hostMem := rfl
@[simp] theorem Mach.setReg_straps (m : Mach) (o : Nat) (v : Word) : (m.setReg o v).straps = m.straps := rfl
@[simp] theorem Mach.setReg_heads (m : Mach) (o : Nat) (v : Word) : (m.setReg o v).heads = m.heads := rfl
@[simp] theorem Mach.setReg_mbox (m : Mach) (o : Nat) (v : Word) : (m.setReg o v).mbox = m.mbox := rfl
@[simp] theorem Mach.setReg_tsBase (m : Mach) (o : Nat) (v : Word) : (m.setReg o v).tsBase = m.tsBase := rfl
@[simp] theorem Mach.setReg_tsCore (m : Mach) (o : Nat) (v : Word) : (m.setReg o v).tsCore = m.tsCore := rfl
@[simp] theorem Mach.setReg_dc (m : Mach) (o : Nat) (v : Word) : (m.setReg o v).dc = m.dc := rfl
@[simp] theorem Mach.setReg_home (m : Mach) (o : Nat) (v : Word) : (m.setReg o v).home = m.home := rfl
@[simp] theorem Mach.setReg_led (m : Mach) (o : Nat) (v : Word) : (m.setReg o v).led = m.led := rfl
@[simp] theorem Mach.setReg_pop (m : Mach) (o : Nat) (v : Word) : (m.setReg o v).pop = m.pop := rfl
@[simp] theorem Mach.setReg_media (m : Mach) (o : Nat) (v : Word) : (m.setReg o v).media = m.media := rfl
@[simp] theorem Mach.setReg_mcs (m : Mach) (o : Nat) (v : Word) : (m.setReg o v).mcs = m.mcs := rfl
@[simp] theorem Mach.setReg_scb (m : Mach) (o : Nat) (v : Word) : (m.setReg o v).scb = m.scb := rfl
@[simp] theorem Mach.setReg_bwg (m : Mach) (o : Nat) (v : Word) : (m.setReg o v).bwg = m.bwg := rfl
@[simp] theorem Mach.setReg_yoke (m : Mach) (o : Nat) (v : Word) : (m.setReg o v).yoke = m.yoke := rfl
@[simp] theorem Mach.setReg_chn (m : Mach) (o : Nat) (v : Word) : (m.setReg o v).chn = m.chn := rfl
@[simp] theorem Mach.setReg_dqu (m : Mach) (o : Nat) (v : Word) : (m.setReg o v).dqu = m.dqu := rfl
@[simp] theorem Mach.setReg_tally (m : Mach) (o : Nat) (v : Word) : (m.setReg o v).tally = m.tally := rfl
@[simp] theorem Mach.setReg_strn (m : Mach) (o : Nat) (v : Word) : (m.setReg o v).strn = m.strn := rfl
@[simp] theorem Mach.setReg_cry (m : Mach) (o : Nat) (v : Word) : (m.setReg o v).cry = m.cry := rfl
@[simp] theorem Mach.setReg_wld (m : Mach) (o : Nat) (v : Word) : (m.setReg o v).wld = m.wld := rfl
@[simp] theorem Mach.setReg_flt (m : Mach) (o : Nat) (v : Word) : (m.setReg o v).flt = m.flt := rfl
@[simp] theorem Mach.setReg_pwr (m : Mach) (o : Nat) (v : Word) : (m.setReg o v).pwr = m.pwr := rfl
@[simp] theorem Mach.setReg_tst (m : Mach) (o : Nat) (v : Word) : (m.setReg o v).tst = m.tst := rfl
@[simp] theorem Mach.setReg_pmu (m : Mach) (o : Nat) (v : Word) : (m.setReg o v).pmu = m.pmu := rfl
@[simp] theorem Mach.setReg_mgmt (m : Mach) (o : Nat) (v : Word) : (m.setReg o v).mgmt = m.mgmt := rfl
@[simp] theorem Mach.setReg_msix (m : Mach) (o : Nat) (v : Word) : (m.setReg o v).msix = m.msix := rfl
@[simp] theorem Mach.setReg_pci (m : Mach) (o : Nat) (v : Word) : (m.setReg o v).pci = m.pci := rfl

@[simp] theorem Mach.send_fresh (m : Mach) (x : Out) : (m.send x).fresh = m.fresh := rfl
@[simp] theorem Mach.send_errs (m : Mach) (x : Out) : (m.send x).errs = m.errs := rfl
@[simp] theorem Mach.send_core (m : Mach) (x : Out) : (m.send x).core = m.core := rfl
@[simp] theorem Mach.send_regs (m : Mach) (x : Out) : (m.send x).regs = m.regs := rfl
@[simp] theorem Mach.send_hev (m : Mach) (x : Out) : (m.send x).hev = m.hev := rfl
@[simp] theorem Mach.send_outbox (m : Mach) (x : Out) : (m.send x).outbox = m.outbox ++ [x] := rfl
@[simp] theorem Mach.send_hostMem (m : Mach) (x : Out) : (m.send x).hostMem = m.hostMem := rfl
@[simp] theorem Mach.send_straps (m : Mach) (x : Out) : (m.send x).straps = m.straps := rfl
@[simp] theorem Mach.send_heads (m : Mach) (x : Out) : (m.send x).heads = m.heads := rfl
@[simp] theorem Mach.send_mbox (m : Mach) (x : Out) : (m.send x).mbox = m.mbox := rfl
@[simp] theorem Mach.send_tsBase (m : Mach) (x : Out) : (m.send x).tsBase = m.tsBase := rfl
@[simp] theorem Mach.send_tsCore (m : Mach) (x : Out) : (m.send x).tsCore = m.tsCore := rfl
@[simp] theorem Mach.send_dc (m : Mach) (x : Out) : (m.send x).dc = m.dc := rfl
@[simp] theorem Mach.send_home (m : Mach) (x : Out) : (m.send x).home = m.home := rfl
@[simp] theorem Mach.send_led (m : Mach) (x : Out) : (m.send x).led = m.led := rfl
@[simp] theorem Mach.send_pop (m : Mach) (x : Out) : (m.send x).pop = m.pop := rfl
@[simp] theorem Mach.send_media (m : Mach) (x : Out) : (m.send x).media = m.media := rfl
@[simp] theorem Mach.send_mcs (m : Mach) (x : Out) : (m.send x).mcs = m.mcs := rfl
@[simp] theorem Mach.send_scb (m : Mach) (x : Out) : (m.send x).scb = m.scb := rfl
@[simp] theorem Mach.send_bwg (m : Mach) (x : Out) : (m.send x).bwg = m.bwg := rfl
@[simp] theorem Mach.send_yoke (m : Mach) (x : Out) : (m.send x).yoke = m.yoke := rfl
@[simp] theorem Mach.send_chn (m : Mach) (x : Out) : (m.send x).chn = m.chn := rfl
@[simp] theorem Mach.send_dqu (m : Mach) (x : Out) : (m.send x).dqu = m.dqu := rfl
@[simp] theorem Mach.send_tally (m : Mach) (x : Out) : (m.send x).tally = m.tally := rfl
@[simp] theorem Mach.send_strn (m : Mach) (x : Out) : (m.send x).strn = m.strn := rfl
@[simp] theorem Mach.send_cry (m : Mach) (x : Out) : (m.send x).cry = m.cry := rfl
@[simp] theorem Mach.send_wld (m : Mach) (x : Out) : (m.send x).wld = m.wld := rfl
@[simp] theorem Mach.send_flt (m : Mach) (x : Out) : (m.send x).flt = m.flt := rfl
@[simp] theorem Mach.send_pwr (m : Mach) (x : Out) : (m.send x).pwr = m.pwr := rfl
@[simp] theorem Mach.send_tst (m : Mach) (x : Out) : (m.send x).tst = m.tst := rfl
@[simp] theorem Mach.send_pmu (m : Mach) (x : Out) : (m.send x).pmu = m.pmu := rfl
@[simp] theorem Mach.send_mgmt (m : Mach) (x : Out) : (m.send x).mgmt = m.mgmt := rfl
@[simp] theorem Mach.send_msix (m : Mach) (x : Out) : (m.send x).msix = m.msix := rfl
@[simp] theorem Mach.send_pci (m : Mach) (x : Out) : (m.send x).pci = m.pci := rfl

@[simp] theorem Mach.tick_fresh (m : Mach) : (m.tick).fresh = m.fresh + 1 := rfl
@[simp] theorem Mach.tick_errs (m : Mach) : (m.tick).errs = m.errs := rfl
@[simp] theorem Mach.tick_core (m : Mach) : (m.tick).core = m.core := rfl
@[simp] theorem Mach.tick_regs (m : Mach) : (m.tick).regs = m.regs := rfl
@[simp] theorem Mach.tick_hev (m : Mach) : (m.tick).hev = m.hev := rfl
@[simp] theorem Mach.tick_outbox (m : Mach) : (m.tick).outbox = m.outbox := rfl
@[simp] theorem Mach.tick_hostMem (m : Mach) : (m.tick).hostMem = m.hostMem := rfl
@[simp] theorem Mach.tick_straps (m : Mach) : (m.tick).straps = m.straps := rfl
@[simp] theorem Mach.tick_heads (m : Mach) : (m.tick).heads = m.heads := rfl
@[simp] theorem Mach.tick_mbox (m : Mach) : (m.tick).mbox = m.mbox := rfl
@[simp] theorem Mach.tick_tsBase (m : Mach) : (m.tick).tsBase = m.tsBase := rfl
@[simp] theorem Mach.tick_tsCore (m : Mach) : (m.tick).tsCore = m.tsCore := rfl
@[simp] theorem Mach.tick_dc (m : Mach) : (m.tick).dc = m.dc := rfl
@[simp] theorem Mach.tick_home (m : Mach) : (m.tick).home = m.home := rfl
@[simp] theorem Mach.tick_led (m : Mach) : (m.tick).led = m.led := rfl
@[simp] theorem Mach.tick_pop (m : Mach) : (m.tick).pop = m.pop := rfl
@[simp] theorem Mach.tick_media (m : Mach) : (m.tick).media = m.media := rfl
@[simp] theorem Mach.tick_mcs (m : Mach) : (m.tick).mcs = m.mcs := rfl
@[simp] theorem Mach.tick_scb (m : Mach) : (m.tick).scb = m.scb := rfl
@[simp] theorem Mach.tick_bwg (m : Mach) : (m.tick).bwg = m.bwg := rfl
@[simp] theorem Mach.tick_yoke (m : Mach) : (m.tick).yoke = m.yoke := rfl
@[simp] theorem Mach.tick_chn (m : Mach) : (m.tick).chn = m.chn := rfl
@[simp] theorem Mach.tick_dqu (m : Mach) : (m.tick).dqu = m.dqu := rfl
@[simp] theorem Mach.tick_tally (m : Mach) : (m.tick).tally = m.tally := rfl
@[simp] theorem Mach.tick_strn (m : Mach) : (m.tick).strn = m.strn := rfl
@[simp] theorem Mach.tick_cry (m : Mach) : (m.tick).cry = m.cry := rfl
@[simp] theorem Mach.tick_wld (m : Mach) : (m.tick).wld = m.wld := rfl
@[simp] theorem Mach.tick_flt (m : Mach) : (m.tick).flt = m.flt := rfl
@[simp] theorem Mach.tick_pwr (m : Mach) : (m.tick).pwr = m.pwr := rfl
@[simp] theorem Mach.tick_tst (m : Mach) : (m.tick).tst = m.tst := rfl
@[simp] theorem Mach.tick_pmu (m : Mach) : (m.tick).pmu = m.pmu := rfl
@[simp] theorem Mach.tick_mgmt (m : Mach) : (m.tick).mgmt = m.mgmt := rfl
@[simp] theorem Mach.tick_msix (m : Mach) : (m.tick).msix = m.msix := rfl
@[simp] theorem Mach.tick_pci (m : Mach) : (m.tick).pci = m.pci := rfl

@[simp] theorem Mach.setHead_fresh (m : Mach) (h : Nat) (x : Head) : (m.setHead h x).fresh = m.fresh := rfl
@[simp] theorem Mach.setHead_errs (m : Mach) (h : Nat) (x : Head) : (m.setHead h x).errs = m.errs := rfl
@[simp] theorem Mach.setHead_core (m : Mach) (h : Nat) (x : Head) : (m.setHead h x).core = m.core := rfl
@[simp] theorem Mach.setHead_regs (m : Mach) (h : Nat) (x : Head) : (m.setHead h x).regs = m.regs := rfl
@[simp] theorem Mach.setHead_hev (m : Mach) (h : Nat) (x : Head) : (m.setHead h x).hev = m.hev := rfl
@[simp] theorem Mach.setHead_outbox (m : Mach) (h : Nat) (x : Head) : (m.setHead h x).outbox = m.outbox := rfl
@[simp] theorem Mach.setHead_hostMem (m : Mach) (h : Nat) (x : Head) : (m.setHead h x).hostMem = m.hostMem := rfl
@[simp] theorem Mach.setHead_straps (m : Mach) (h : Nat) (x : Head) : (m.setHead h x).straps = m.straps := rfl
@[simp] theorem Mach.setHead_heads (m : Mach) (h : Nat) (x : Head) : (m.setHead h x).heads = m.heads.insert h x := rfl
@[simp] theorem Mach.setHead_mbox (m : Mach) (h : Nat) (x : Head) : (m.setHead h x).mbox = m.mbox := rfl
@[simp] theorem Mach.setHead_tsBase (m : Mach) (h : Nat) (x : Head) : (m.setHead h x).tsBase = m.tsBase := rfl
@[simp] theorem Mach.setHead_tsCore (m : Mach) (h : Nat) (x : Head) : (m.setHead h x).tsCore = m.tsCore := rfl
@[simp] theorem Mach.setHead_dc (m : Mach) (h : Nat) (x : Head) : (m.setHead h x).dc = m.dc := rfl
@[simp] theorem Mach.setHead_home (m : Mach) (h : Nat) (x : Head) : (m.setHead h x).home = m.home := rfl
@[simp] theorem Mach.setHead_led (m : Mach) (h : Nat) (x : Head) : (m.setHead h x).led = m.led := rfl
@[simp] theorem Mach.setHead_pop (m : Mach) (h : Nat) (x : Head) : (m.setHead h x).pop = m.pop := rfl
@[simp] theorem Mach.setHead_media (m : Mach) (h : Nat) (x : Head) : (m.setHead h x).media = m.media := rfl
@[simp] theorem Mach.setHead_mcs (m : Mach) (h : Nat) (x : Head) : (m.setHead h x).mcs = m.mcs := rfl
@[simp] theorem Mach.setHead_scb (m : Mach) (h : Nat) (x : Head) : (m.setHead h x).scb = m.scb := rfl
@[simp] theorem Mach.setHead_bwg (m : Mach) (h : Nat) (x : Head) : (m.setHead h x).bwg = m.bwg := rfl
@[simp] theorem Mach.setHead_yoke (m : Mach) (h : Nat) (x : Head) : (m.setHead h x).yoke = m.yoke := rfl
@[simp] theorem Mach.setHead_chn (m : Mach) (h : Nat) (x : Head) : (m.setHead h x).chn = m.chn := rfl
@[simp] theorem Mach.setHead_dqu (m : Mach) (h : Nat) (x : Head) : (m.setHead h x).dqu = m.dqu := rfl
@[simp] theorem Mach.setHead_tally (m : Mach) (h : Nat) (x : Head) : (m.setHead h x).tally = m.tally := rfl
@[simp] theorem Mach.setHead_strn (m : Mach) (h : Nat) (x : Head) : (m.setHead h x).strn = m.strn := rfl
@[simp] theorem Mach.setHead_cry (m : Mach) (h : Nat) (x : Head) : (m.setHead h x).cry = m.cry := rfl
@[simp] theorem Mach.setHead_wld (m : Mach) (h : Nat) (x : Head) : (m.setHead h x).wld = m.wld := rfl
@[simp] theorem Mach.setHead_flt (m : Mach) (h : Nat) (x : Head) : (m.setHead h x).flt = m.flt := rfl
@[simp] theorem Mach.setHead_pwr (m : Mach) (h : Nat) (x : Head) : (m.setHead h x).pwr = m.pwr := rfl
@[simp] theorem Mach.setHead_tst (m : Mach) (h : Nat) (x : Head) : (m.setHead h x).tst = m.tst := rfl
@[simp] theorem Mach.setHead_pmu (m : Mach) (h : Nat) (x : Head) : (m.setHead h x).pmu = m.pmu := rfl
@[simp] theorem Mach.setHead_mgmt (m : Mach) (h : Nat) (x : Head) : (m.setHead h x).mgmt = m.mgmt := rfl
@[simp] theorem Mach.setHead_msix (m : Mach) (h : Nat) (x : Head) : (m.setHead h x).msix = m.msix := rfl
@[simp] theorem Mach.setHead_pci (m : Mach) (h : Nat) (x : Head) : (m.setHead h x).pci = m.pci := rfl

@[simp] theorem Mach.setMb_fresh (m : Mach) (h : Nat) (x : Mbox) : (m.setMb h x).fresh = m.fresh := rfl
@[simp] theorem Mach.setMb_errs (m : Mach) (h : Nat) (x : Mbox) : (m.setMb h x).errs = m.errs := rfl
@[simp] theorem Mach.setMb_core (m : Mach) (h : Nat) (x : Mbox) : (m.setMb h x).core = m.core := rfl
@[simp] theorem Mach.setMb_regs (m : Mach) (h : Nat) (x : Mbox) : (m.setMb h x).regs = m.regs := rfl
@[simp] theorem Mach.setMb_hev (m : Mach) (h : Nat) (x : Mbox) : (m.setMb h x).hev = m.hev := rfl
@[simp] theorem Mach.setMb_outbox (m : Mach) (h : Nat) (x : Mbox) : (m.setMb h x).outbox = m.outbox := rfl
@[simp] theorem Mach.setMb_hostMem (m : Mach) (h : Nat) (x : Mbox) : (m.setMb h x).hostMem = m.hostMem := rfl
@[simp] theorem Mach.setMb_straps (m : Mach) (h : Nat) (x : Mbox) : (m.setMb h x).straps = m.straps := rfl
@[simp] theorem Mach.setMb_heads (m : Mach) (h : Nat) (x : Mbox) : (m.setMb h x).heads = m.heads := rfl
@[simp] theorem Mach.setMb_mbox (m : Mach) (h : Nat) (x : Mbox) : (m.setMb h x).mbox = m.mbox.insert h x := rfl
@[simp] theorem Mach.setMb_tsBase (m : Mach) (h : Nat) (x : Mbox) : (m.setMb h x).tsBase = m.tsBase := rfl
@[simp] theorem Mach.setMb_tsCore (m : Mach) (h : Nat) (x : Mbox) : (m.setMb h x).tsCore = m.tsCore := rfl
@[simp] theorem Mach.setMb_dc (m : Mach) (h : Nat) (x : Mbox) : (m.setMb h x).dc = m.dc := rfl
@[simp] theorem Mach.setMb_home (m : Mach) (h : Nat) (x : Mbox) : (m.setMb h x).home = m.home := rfl
@[simp] theorem Mach.setMb_led (m : Mach) (h : Nat) (x : Mbox) : (m.setMb h x).led = m.led := rfl
@[simp] theorem Mach.setMb_pop (m : Mach) (h : Nat) (x : Mbox) : (m.setMb h x).pop = m.pop := rfl
@[simp] theorem Mach.setMb_media (m : Mach) (h : Nat) (x : Mbox) : (m.setMb h x).media = m.media := rfl
@[simp] theorem Mach.setMb_mcs (m : Mach) (h : Nat) (x : Mbox) : (m.setMb h x).mcs = m.mcs := rfl
@[simp] theorem Mach.setMb_scb (m : Mach) (h : Nat) (x : Mbox) : (m.setMb h x).scb = m.scb := rfl
@[simp] theorem Mach.setMb_bwg (m : Mach) (h : Nat) (x : Mbox) : (m.setMb h x).bwg = m.bwg := rfl
@[simp] theorem Mach.setMb_yoke (m : Mach) (h : Nat) (x : Mbox) : (m.setMb h x).yoke = m.yoke := rfl
@[simp] theorem Mach.setMb_chn (m : Mach) (h : Nat) (x : Mbox) : (m.setMb h x).chn = m.chn := rfl
@[simp] theorem Mach.setMb_dqu (m : Mach) (h : Nat) (x : Mbox) : (m.setMb h x).dqu = m.dqu := rfl
@[simp] theorem Mach.setMb_tally (m : Mach) (h : Nat) (x : Mbox) : (m.setMb h x).tally = m.tally := rfl
@[simp] theorem Mach.setMb_strn (m : Mach) (h : Nat) (x : Mbox) : (m.setMb h x).strn = m.strn := rfl
@[simp] theorem Mach.setMb_cry (m : Mach) (h : Nat) (x : Mbox) : (m.setMb h x).cry = m.cry := rfl
@[simp] theorem Mach.setMb_wld (m : Mach) (h : Nat) (x : Mbox) : (m.setMb h x).wld = m.wld := rfl
@[simp] theorem Mach.setMb_flt (m : Mach) (h : Nat) (x : Mbox) : (m.setMb h x).flt = m.flt := rfl
@[simp] theorem Mach.setMb_pwr (m : Mach) (h : Nat) (x : Mbox) : (m.setMb h x).pwr = m.pwr := rfl
@[simp] theorem Mach.setMb_tst (m : Mach) (h : Nat) (x : Mbox) : (m.setMb h x).tst = m.tst := rfl
@[simp] theorem Mach.setMb_pmu (m : Mach) (h : Nat) (x : Mbox) : (m.setMb h x).pmu = m.pmu := rfl
@[simp] theorem Mach.setMb_mgmt (m : Mach) (h : Nat) (x : Mbox) : (m.setMb h x).mgmt = m.mgmt := rfl
@[simp] theorem Mach.setMb_msix (m : Mach) (h : Nat) (x : Mbox) : (m.setMb h x).msix = m.msix := rfl
@[simp] theorem Mach.setMb_pci (m : Mach) (h : Nat) (x : Mbox) : (m.setMb h x).pci = m.pci := rfl

@[simp] theorem Mach.hevEvt_fresh (m : Mach) (h b : Nat) : (m.hevEvt h b).fresh = m.fresh := rfl
@[simp] theorem Mach.hevEvt_errs (m : Mach) (h b : Nat) : (m.hevEvt h b).errs = m.errs := rfl
@[simp] theorem Mach.hevEvt_core (m : Mach) (h b : Nat) : (m.hevEvt h b).core = m.core := rfl
@[simp] theorem Mach.hevEvt_regs (m : Mach) (h b : Nat) : (m.hevEvt h b).regs = m.regs := rfl
@[simp] theorem Mach.hevEvt_outbox (m : Mach) (h b : Nat) : (m.hevEvt h b).outbox = m.outbox := rfl
@[simp] theorem Mach.hevEvt_hostMem (m : Mach) (h b : Nat) : (m.hevEvt h b).hostMem = m.hostMem := rfl
@[simp] theorem Mach.hevEvt_straps (m : Mach) (h b : Nat) : (m.hevEvt h b).straps = m.straps := rfl
@[simp] theorem Mach.hevEvt_heads (m : Mach) (h b : Nat) : (m.hevEvt h b).heads = m.heads := rfl
@[simp] theorem Mach.hevEvt_mbox (m : Mach) (h b : Nat) : (m.hevEvt h b).mbox = m.mbox := rfl
@[simp] theorem Mach.hevEvt_tsBase (m : Mach) (h b : Nat) : (m.hevEvt h b).tsBase = m.tsBase := rfl
@[simp] theorem Mach.hevEvt_tsCore (m : Mach) (h b : Nat) : (m.hevEvt h b).tsCore = m.tsCore := rfl
@[simp] theorem Mach.hevEvt_dc (m : Mach) (h b : Nat) : (m.hevEvt h b).dc = m.dc := rfl
@[simp] theorem Mach.hevEvt_home (m : Mach) (h b : Nat) : (m.hevEvt h b).home = m.home := rfl
@[simp] theorem Mach.hevEvt_led (m : Mach) (h b : Nat) : (m.hevEvt h b).led = m.led := rfl
@[simp] theorem Mach.hevEvt_pop (m : Mach) (h b : Nat) : (m.hevEvt h b).pop = m.pop := rfl
@[simp] theorem Mach.hevEvt_media (m : Mach) (h b : Nat) : (m.hevEvt h b).media = m.media := rfl
@[simp] theorem Mach.hevEvt_mcs (m : Mach) (h b : Nat) : (m.hevEvt h b).mcs = m.mcs := rfl
@[simp] theorem Mach.hevEvt_scb (m : Mach) (h b : Nat) : (m.hevEvt h b).scb = m.scb := rfl
@[simp] theorem Mach.hevEvt_bwg (m : Mach) (h b : Nat) : (m.hevEvt h b).bwg = m.bwg := rfl
@[simp] theorem Mach.hevEvt_yoke (m : Mach) (h b : Nat) : (m.hevEvt h b).yoke = m.yoke := rfl
@[simp] theorem Mach.hevEvt_chn (m : Mach) (h b : Nat) : (m.hevEvt h b).chn = m.chn := rfl
@[simp] theorem Mach.hevEvt_dqu (m : Mach) (h b : Nat) : (m.hevEvt h b).dqu = m.dqu := rfl
@[simp] theorem Mach.hevEvt_tally (m : Mach) (h b : Nat) : (m.hevEvt h b).tally = m.tally := rfl
@[simp] theorem Mach.hevEvt_strn (m : Mach) (h b : Nat) : (m.hevEvt h b).strn = m.strn := rfl
@[simp] theorem Mach.hevEvt_cry (m : Mach) (h b : Nat) : (m.hevEvt h b).cry = m.cry := rfl
@[simp] theorem Mach.hevEvt_wld (m : Mach) (h b : Nat) : (m.hevEvt h b).wld = m.wld := rfl
@[simp] theorem Mach.hevEvt_flt (m : Mach) (h b : Nat) : (m.hevEvt h b).flt = m.flt := rfl
@[simp] theorem Mach.hevEvt_pwr (m : Mach) (h b : Nat) : (m.hevEvt h b).pwr = m.pwr := rfl
@[simp] theorem Mach.hevEvt_tst (m : Mach) (h b : Nat) : (m.hevEvt h b).tst = m.tst := rfl
@[simp] theorem Mach.hevEvt_pmu (m : Mach) (h b : Nat) : (m.hevEvt h b).pmu = m.pmu := rfl
@[simp] theorem Mach.hevEvt_mgmt (m : Mach) (h b : Nat) : (m.hevEvt h b).mgmt = m.mgmt := rfl
@[simp] theorem Mach.hevEvt_msix (m : Mach) (h b : Nat) : (m.hevEvt h b).msix = m.msix := rfl
@[simp] theorem Mach.hevEvt_pci (m : Mach) (h b : Nat) : (m.hevEvt h b).pci = m.pci := rfl
end Sys2Proof.Machine
end

