-- ==== Sys2Proof/Laws/Settle.lean ====
section
/-! SUPPORT. What settling a step's detections can do (R458, R464): it takes them all, it touches the machinery, the latch and the
stage machinery alone, and with none to take it does nothing. -/

namespace Sys2Proof.Machine

/-- What no detection changes. -/
def State.core (s : State) : List Instr × Image × Image × Word × Nat × Nat :=
  (s.pending, s.live, s.stage, s.epoch, s.lcCur, s.lcPend)

@[simp] theorem take_core (s : State) (o : Occ) (i r : Bool) : (s.take o i r).core = s.core := by
  unfold State.take
  split
  · dsimp only
    split <;> rfl
  · rfl

/-- Under the latch a detection is only recorded. -/
theorem take_latched (s : State) (o : Occ) (i r : Bool) (h : s.latch = true) :
    (s.take o i r).latch = true ∧ (s.take o i r).m.raised = s.m.raised := by
  unfold State.take
  split
  · simp only [h]
    refine ⟨trivial, ?_⟩
    rw [record_raised]
    unfold Mach.firstA
    split <;> rfl
  · exact ⟨h, by simp⟩

/-- A detection sets the latch, or raises nothing. -/
theorem take_open (s : State) (o : Occ) (i r : Bool) (h : s.latch = false) :
    (s.take o i r).latch = true ∨ ((s.take o i r).latch = false ∧ (s.take o i r).m.raised = s.m.raised) := by
  unfold State.take
  split
  · left
    simp [h]
  · right
    exact ⟨h, by simp⟩

theorem takes_core (l : List Occ) (s : State) : (l.foldl (fun s o => s.take o false true) s).core = s.core := by
  induction l generalizing s with
  | nil => rfl
  | cons o t ih => rw [List.foldl_cons, ih, take_core]

theorem takes_latched (l : List Occ) (s : State) (h : s.latch = true) :
    (l.foldl (fun s o => s.take o false true) s).latch = true ∧ (l.foldl (fun s o => s.take o false true) s).m.raised = s.m.raised := by
  induction l generalizing s with
  | nil => exact ⟨h, rfl⟩
  | cons o t ih =>
    rw [List.foldl_cons]
    have a := take_latched s o false true h
    have b := ih _ a.1
    exact ⟨b.1, b.2.trans a.2⟩

theorem takes_open (l : List Occ) (s : State) (h : s.latch = false) :
    (l.foldl (fun s o => s.take o false true) s).latch = true ∨ (l.foldl (fun s o => s.take o false true) s).m.raised = s.m.raised := by
  induction l generalizing s with
  | nil => exact Or.inr rfl
  | cons o t ih =>
    rw [List.foldl_cons]
    rcases take_open s o false true h with a | ⟨a, b⟩
    · exact Or.inl (takes_latched t _ a).1
    · rcases ih _ a with c | c
      · exact Or.inl c
      · exact Or.inr (c.trans b)

/-- A drain changes no more than the detections it takes. -/
@[simp] theorem drain_core (s : State) : s.drainRaised.core = s.core := by
  unfold State.drainRaised
  rw [takes_core]
  rfl

@[simp] theorem settle_core (s : State) : (settle s).core = s.core := by
  unfold settle
  rw [drain_core, drain_core]
  rfl

@[simp] theorem settle_pending (s : State) : (settle s).pending = s.pending := congrArg (·.1) (settle_core s)
@[simp] theorem settle_live (s : State) : (settle s).live = s.live := congrArg (·.2.1) (settle_core s)
@[simp] theorem settle_stage (s : State) : (settle s).stage = s.stage := congrArg (·.2.2.1) (settle_core s)
@[simp] theorem settle_epoch (s : State) : (settle s).epoch = s.epoch := congrArg (·.2.2.2.1) (settle_core s)
@[simp] theorem settle_lcCur (s : State) : (settle s).lcCur = s.lcCur := congrArg (·.2.2.2.2.1) (settle_core s)
@[simp] theorem settle_lcPend (s : State) : (settle s).lcPend = s.lcPend := congrArg (·.2.2.2.2.2) (settle_core s)

/-- Under the latch the latch stays, and a drain leaves nothing waiting. -/
theorem drain_latched (s : State) (h : s.latch = true) : s.drainRaised.latch = true ∧ s.drainRaised.m.raised = [] :=
  takes_latched s.m.raised { s with m := { s.m with raised := [] } } h

/-- After two drains nothing waits. -/
theorem drains_raised (s : State) : s.drainRaised.drainRaised.m.raised = [] := by
  cases hl : s.drainRaised.latch with
  | true => exact (drain_latched _ hl).2
  | false =>
    have h : s.drainRaised.m.raised = [] := by
      cases h0 : s.latch with
      | true => exact (drain_latched s h0).2
      | false =>
        rcases takes_open s.m.raised { s with m := { s.m with raised := [] } } h0 with a | a
        · exact absurd a (by rw [State.drainRaised] at hl; rw [hl]; decide)
        · exact a
    conv_lhs => rw [State.drainRaised, h]
    rfl

/-- Under the latch the latch stays. -/
theorem settle_latched (s : State) (h : s.latch = true) : (settle s).latch = true :=
  (drain_latched _ (drain_latched { s with m := wrapUp s.live (voteStruck s.m) } h).1).1

/-- After settling nothing waits. -/
@[simp] theorem settle_raised (s : State) : (settle s).m.raised = [] := drains_raised _

/-- What a command leaves to others: nothing, where no word is struck, no entry is to be undone and nothing has entered a queue unseen. -/
theorem wrapUp_quiet (L : Image) (m : Mach) (hs : m.scb.struck = []) (hu : m.pwr.undo = false)
    (hn : m.mcs.subs.all (fun p => p.2.news.writes.isEmpty && p.2.news.fwd.isEmpty) = true) : wrapUp L (voteStruck m) = m := by
  have v : voteStruck m = m := by
    unfold voteStruck
    rw [hs]
    change ({ m with scb := { m.scb with struck := [] } } : Mach) = m
    rw [← hs]
  have n : takeNews L newsRounds m = m := by
    rw [newsRounds, takeNews, if_pos hn]
  unfold wrapUp
  rw [v, n]
  simp [hu]

/-- With nothing raised a drain does nothing. -/
theorem drain_quiet (s : State) (h : s.m.raised = []) : s.drainRaised = s := by
  have e : { s with m := { s.m with raised := [] } } = s := by
    rw [← h]
  unfold State.drainRaised
  rw [h]
  exact e

/-- In a quiet state there is nothing to settle. -/
theorem settle_quiet (s : State) (h : Quiet s) : settle s = s := by
  obtain ⟨hr, hs, hu, hn⟩ := h
  unfold settle
  rw [wrapUp_quiet _ _ hs hu hn]
  change s.drainRaised.drainRaised = s
  rw [drain_quiet s hr, drain_quiet s hr]

/-- A meaning that leaves the state quiet changes the machinery as it says. -/
theorem op_quiet (s : State) (f : Mach → Mach) (h : Quiet { s with m := f s.m }) : s.op f = .next { s with m := f s.m } := by
  unfold State.op
  rw [settle_quiet _ h]

/-- One detection that is not of class A is recorded. -/
theorem settle_one (s : State) (o : Occ) (h : s.m.raised = [o]) (hs : s.m.scb.struck = []) (hu : s.m.pwr.undo = false)
    (hn : s.m.mcs.subs.all (fun p => p.2.news.writes.isEmpty && p.2.news.fwd.isEmpty) = true) (hc : srcClass o.src ≠ some 0) :
    settle s = { s with m := record s.live { s.m with raised := [] } o false true } := by
  have d : s.drainRaised = { s with m := record s.live { s.m with raised := [] } o false true } := by
    unfold State.drainRaised
    rw [h]
    simp [State.take, hc]
  unfold settle
  rw [wrapUp_quiet _ _ hs hu hn]
  change s.drainRaised.drainRaised = _
  rw [d]
  exact drain_quiet _ (by simp)

end Sys2Proof.Machine
end

