-- ==== Sys2Proof/WellFormed.lean ====
section
/-! DEFINITION. Which commands are well formed: operands within the sizes the specification gives them. Fields with a fixed
width carry it in their type; these are the checks on the others. -/

namespace Sys2Proof

/-- A symbol error pattern names symbols of a codeword, 0-79 (R313). -/
def symOk (e : SymErr) : Bool := e.all (fun p => decide (p.1 < 80))

/-- The errors that a command's reads meet, each by its line and pattern (R313). -/
def errsOk (es : List (Nat × SymErr)) : Bool := es.all (fun x => symOk x.2)

/-- A line number: DPA bits [44:6] (R15). -/
def lineOk (l : Nat) : Bool := decide (l < 2 ^ 39)

/-- A page number: DPA bits [44:12] (R15). -/
def pageOk (p : Nat) : Bool := decide (p < 2 ^ 33)

/-- The operand sizes of the AtomicOps (R129): FetchAdd and Swap 4 or 8 bytes, CAS 4, 8 or 16. -/
def atomicOk (a : Atomic) : Bool :=
  a.bytes == 4 || a.bytes == 8 || (a.bytes == 16 && a.kind == .cas)

/-- Interleave ways and granularities of HDM decoders (R83). -/
def decoderOk (d : Decoder) : Bool :=
  [1, 2, 4, 8, 16, 3, 6, 12].contains d.ways && [256, 512, 1024, 2048, 4096, 8192, 16384].contains d.gran

/-- Link widths (R34, R61). -/
def widthOk (w : Nat) : Bool := [1, 2, 4, 8, 16].contains w

/-- A register write carries at least one DW (R522). -/
def writeOk (a : WriteReq) : Bool := !a.dws.isEmpty

/-- A tally TLP's records fill its bytes when it is aligned; a poisoned record is in its EP flag (R409). -/
def recordsOk (bytes : Nat) (recs : List (BitVec 64 × Bool)) : Bool := decide (recs.length = bytes / 8)

/-- The operands of a command are within their sizes. -/
def Instr.wf : Instr → Bool
  | .atomicOp _ _ _ _ op _ => atomicOk op
  | .ledgerFetchDone l e0 e1 => decide (l < 2 ^ 31) && symOk e0 && symOk e1
  | .wedgeDecodeDone p _ => pageOk p
  | .dramReadDone _ _ e _ => symOk e
  | .writeBack l | .birsp _ l _ | .biconflict _ l | .snoopTimeout _ l | .coalescerAgeMerge l | .tallyMerge l => lineOk l
  | .frameAllocate p => pageOk p
  | .promotionDone p es | .demotionDone p es | .relocationDone p es => pageOk p && errsOk es
  | .scanMediaDone _ es | .scrubRange _ es => errsOk es
  | .linkL0Reached _ w _ _ _ _ | .ltssmRecoveryExit _ w _ | .l0pChangeDone _ w => widthOk w
  | .mgmtLinkUp w _ => widthOk w
  | .yokeTrainingDone _ w _ | .yokeRetrainDone w _ => widthOk w
  | .tallyRecordPost _ _ bytes recs => recordsOk bytes recs
  | .regWrite a => writeOk a
  | .counterLoRead a => decide (0 < a.dws)
  | .scrubLine a b => symOk a && symOk b
  | .canaryCheck _ _ es => es.all (fun x => decide (x.1 < 512) && symOk x.2)
  | .suspectScrub _ _ _ _ _ es => es.all (fun x => symOk x.2)
  | .remapDone es | .spprDone _ es => es.all (fun x => decide (x.1 < 128) && symOk x.2)
  | .thermalSample ts => decide (ts.length = 16)
  | .hdmDecoderCommit _ _ d => decoderOk d
  | .workEnqueue (.decode p _) | .workEnqueue (.move p) => pageOk p
  | _ => true

end Sys2Proof
end

