-- ==== Sys2Proof/Tests/Slice0.lean ====
section
/-! SUPPORT. Tests: a well-formedness check refuses an ill-formed term of its kind, single steps give what the rules say, and for every
statement with hypotheses a state and operands meet them (one conjunct or theorem for each clause). Expected results are the
specification's. -/

open Sys2Proof Sys2Proof.Machine

namespace Sys2Proof.Tests

set_option maxRecDepth 100000
set_option Elab.async false

/-- The state of an outcome. -/
def nx : Host.Outcome State Fault Refusal → State
  | .next t => t
  | _ => {}

/-- The outcome is a next state. -/
def isNext : Host.Outcome State Fault Refusal → Bool
  | .next _ => true
  | _ => false

/-- The block at reset but for its machinery. -/
def st (m : Mach) : State := { m }

/-- The machinery with head 0 in a given condition. -/
def hd (x : Head) : Mach := { heads := [(0, x)], wld := { keeper := .up, steward := .up } }

/-- The machinery with the yoke in a given condition. -/
def yo (y : Yoke) : Mach := { yoke := y }

/-- An occurrence of a source. -/
def oc (src : Nat) : Occ := { src, unit := 0, detail := 0, addr := 0, addrk := 0, syn := 0#32 }

/-- Measures of a self-test in which every part passes; the fuse word's third read is given. -/
def sg (f : Word) : SstRes :=
  { plls := some [{ lockUs := some 50, jitter := 150 }], lanes := [], thermal := some ([430, 400], 415), volts := some [(101, 100, 102)],
    fuses := some [(1#32, 1#32, f)], chans := [] }

/-- A log record of a source. -/
def rc (src cls count : Nat) : FRec :=
  { src, cls, inj := false, real := true, count, seq := 0, time := 0, unit := 0, detail := 0, addr := 0, addrk := 0, syn := 0#32 }

/-- A cold start with one DIMM slot row empty everywhere. -/
def env0 : ColdEnv :=
  { paBif := 0, pbBif := 0, bootSrc := 0, yokeRole := true, dramHeld := false, dimms := [], imagesOk := true, version := 1#24, subsys := none, fmtDpa := none,
    startup := { plls := none, lanes := [], thermal := none, volts := none, fuses := none, chans := [] } }

/-- An environment of a drop with nothing in flight. -/
def drop0 : DropEnv := { partialWrites := 0, partialRecords := 0, skid := [] }

/-- Partition 0 bound to head 0 as logical device 0, with extent 5. -/
def im1 : Image := { regs := [(0x1000, 3#32), (0x1008, 1#32)], ext := [(5, 0x440#64)], map := [(0, 5)] }

/-- A host decoder of one extent from address 0. -/
def de1 : Decoder := { idx := 0, base := 0, size := 2 ^ 28, ways := 1, gran := 256, skip := 0, lock := false }

/-- A machinery on one channel, its memory formatted. -/
def me1 : Mach := { pop := { used := [0] }, led := { formatted := true, extents := 131072 }, pwr := { memReady := true }, scb := { chSt := [(0, 1)] } }

/-- The same with a ledger of 100 extents asked for. -/
def me1f : Mach := { me1 with regs := [(oFmtDpa, 0x80000064#32)] }

/-- Head 0 serves partition 0. -/
def up1 : State := { live := im1, stage := im1, m := { me1 with heads := [(0, { st := .active, decoders := [(0, de1)] })], wld := { keeper := .up, steward := .up } } }

/-- Page 0 has a cached ledger entry. -/
def pg (e : LEnt) (x : Mach) : Mach := { x with led := { x.led with lines := [(0, { ents := [e, {}, {}, {}] })] } }

/-- Replace the ledger of a machinery. -/
def wl (x : Mach) (f : Ledger → Ledger) : Mach := { x with led := f x.led }

/-- The same with extent 5 in the flat area, and guarantees for head 0, for the tally unit and for the churns' descriptors. -/
def imh : Image :=
  { im1 with ext := [(5, 0x20440#64)], regs := im1.regs ++ [0, 1, 2, 3, mDesc, mTally].map (fun k => (oGuar k, 100#32)) }

/-- Its first line. -/
abbrev lnh := 5 * 2 ^ 22

/-- Head 0 serves it, and the line cache holds its first line. -/
def hit (c : CLine) : State := { up1 with live := imh, stage := imh, m := { up1.m with home := { lc := [(lnh, c)] } } }

/-- One read in flight on the last subchannel; a ledger line is fetched. -/
def me1s (p : Purpose) : State :=
  st { me1 with mcs := { subs := [(23, { flight := [{ id := 0, frame := 0, ln := 0, purpose := p }] })] }, led := { me1.led with fetching := [0] } }

/-- An agent's read of the cached line waits in its unit. -/
def agQ : Req := { id := 1, src := 15, tag := 900, mst := mDesc, cls := .engine, line := lnh, kind := .agRead }

/-- A write of head 0 at the cached line's slice, in a phase. -/
def wrQ (p : Phase) : Req := { id := 3, head := 0, tag := 6, line := lnh, kind := .write .i 7#512 true, phase := p }

/-- The write stands at the home. -/
def wrS (p : Phase) : State := { hit {} with m := { (hit {}).m with home := { trk := [wrQ p] } } }

/-- A write-back of the cached line waits ahead of its write queue. -/
def fab1 : State :=
  { hit { dirty := true, lock := true } with m := { (hit { dirty := true, lock := true }).m with
      mcs := { subs := [(23, { fabric := [{ id := 8, frame := 3, ln := 4, wr := true, purpose := .wback lnh, cw := 6#640 }] })] } } }

/-- A wedge of page 0 is decoded on churn 95 for a read of head 0. -/
def dec1 : State :=
  st { pg { st := 2, gen := 4, k := 1 } me1 with
      chn := { run := [(95, .decode 0 7)], decodes := [{ page := 0, wedge := 7, gen := 4, home := 0, tag := { cls := .table } }] },
      home := { trk := [{ id := 3, head := 0, tag := 6, line := 63, kind := .read .noOp, phase := .decode 0 7 }] } }

/-- A piece of the ledger's bulk work on churn 95, its lines let in. -/
def bw (x : Mach) (w : Running) (who n : Nat) : Mach :=
  { x with chn := { x.chn with run := [(95, w)] }, home := { x.home with done := [{ who, seq := 0, line := 0, kind := .grant n, data := 0#512, p := false }] } }

/-- A format that runs. -/
def me1r : Mach := { me1 with led := { fmtBusy := true, extents := 131072, dup := true, fseq := 2 ^ 32 - 1 }, regs := [(oCntLeak, 4#32)] }

/-- The page's 64 lines are taken for a page command of the ledger. -/
def taken (x : Mach) : Mach :=
  { x with home := { x.home with trk := (List.range 64).map (fun i => { ledgerAgent.ask 0 i .take with id := i, phase := .taken }) } }

/-- A started move that holds what it has read, and has the regulator's leave for the rest. -/
def mvg (kind : MoveKind) (stop : Bool) : State :=
  let v : Move := { page := 0, kind := kind, cls := 1, started := true, dst := if kind != .demote then some 8 else none, gen := 4, got := [some []], stop }
  let x := pg { st := 3, gen := 4 } (wl me1 (fun l => { l with fresh := [(0, 64)], moves := [v] }))
  let ok := fun (seq n : Nat) => ({ who := whoMove 0, seq, line := 0, kind := .grant n, data := 0#512, p := false } : Done)
  st { x with chn := { run := [(95, .move 0)] },
              home := { done := [ok 1 (8 * (x.promoOut v { st := 3, gen := 4 }).length), ok 1 (4 * ((x.demoExtent v).map (·.1)).getD 0), ok 0 128] } }

/-- A move of page 0, waiting or started, its entry in a state. -/
def mv0s (kind : MoveKind) (started : Bool) (e : Nat) : State :=
  let v : Move := { page := 0, kind := kind, cls := 1, started := started, dst := if started && kind != .demote then some 8 else none,
                    gen := if started then 4 else 0 }
  let x := pg { st := e, gen := 4 } (wl me1 (fun l => { l with pool := [(9, 1)], fresh := [(0, 64)], moves := [v] }))
  st { x with chn := { run := if started then [(95, .move 0)] else [] } }

/-- A ring's registers: enabled, in host memory of head 0, eight entries, eight jobs at once. -/
def imr : Image := { im1 with regs := im1.regs ++ [(oRing 255 0, 0x08000069#32)] }

/-- A job of ring 255 in a state, with an opcode. -/
def jb (op : Nat) (s : JobSt) : Job := { id := 0, ring := 255, epoch := 0, idx := 0, desc := BitVec.ofNat 512 op, st := s }

/-- Head 0 up and ring 255 active, with one job. -/
def rs (op : Nat) (s : JobSt) : State :=
  { live := imr, stage := imr, m := { up1.m with
      dqu := { rings := [(255, { st := .active, sqTail := 1 })], jobs := [jb op s], nextJob := 1 },
      chn := { run := (match s with | .running c => [(c, .job 0)] | .parkWait c _ => [(c, .job 0)] | _ => []) } } }

/-- The channel's subchannels out of self-refresh with one read queued. -/
def su1 : State := st { me1 with wld := { me1.wld with steward := .up }, mcs := { subs := [(1, { rq := [{ id := 4, frame := 0, ln := 0 }] })] } }

/-- Three live channels, everything free. -/
def me3 : Mach :=
  { pop := { used := [0, 1, 2] }, led := { formatted := true, extents := 1, dup := true }, pwr := { memReady := true },
    scb := { chSt := [(0, 1), (1, 1), (2, 1)] } }

/-- A DIMM. -/
def dm0 : Dimm := { kind := .udimm, slot := 0, hub := true, width := 4, gbit := 16, dies := 1, ranks := 1, tRfc1 := 295, tRfc2 := 160, tRfcSb := 130, tRfmSb := 130, tRfcDlr := 0, speeds := [], sameBank := true, rfmReq := false, raaimt := 0, raammt := 0, serial := 1 }

/-- The same with a DIMM in the channel, not of the used set's kind. -/
def su2 : State := { su1 with m := { su1.m with pop := { su1.m.pop with chans := [{ rejected := [dm0] }] } } }

/-- The regulator has let in a number of lines for a purpose. -/
def letGo (x : Mach) (who n : Nat) : Mach :=
  { x with home := { x.home with done := [{ who, seq := 0, line := 0, kind := .grant n, data := 0#512, p := false, mv := 0#2, ack := none }] } }

/-- Its registers with guarantees for head 0, a tally table and a strainer table of partition 0 in extent 5. -/
def imj : Image :=
  { imr with regs := imr.regs ++ [0, 1, 2, 3, mDesc, mTally, mStrain].map (fun k => (oGuar k, 100#32)) ++
      [(oTlyCfg 0, 1#32), (oTlyLoc 0, 0x20000#32), (oStnCfg 0, 0x03100001#32), (oStnLoc 0, 0x20000#32), (oPinMax, 2#32)] }

/-- A job running on churn 95 with the fields of its descriptor. -/
def jd (op src dst len arg0 arg1 : Nat) : Job :=
  { jb 0 (.running 95) with desc := BitVec.ofNat 512 (op + src * 2 ^ 64 + dst * 2 ^ 128 + len * 2 ^ 192 + arg0 * 2 ^ 320 + arg1 * 2 ^ 384) }

/-- A block that runs a job; its host's memory holds five bytes, extent 5's first page an entry. -/
def js (j : Job) (e : LEnt) : State :=
  let s := rs 0 (.running 95)
  { s with live := imj, stage := imj, m := { s.m with
      dqu := { s.m.dqu with jobs := [j] }, hostMem := [(0, [(0x1000, 1#8), (0x1001, 2#8), (0x1002, 3#8), (0x1003, 4#8), (0x1008, 5#8)])],
      led := { s.m.led with lines := [(5 * 16384, { ents := [e, {}, {}, {}] })] } } }

/-- The page of that entry. -/
abbrev pgj := 5 * 65536

/-- A command ends the job with a status and a RESULT. -/
def ended (i : Instr) (s : State) (c r : Nat) : Bool :=
  ((nx (exec i s)).m.job? 0).any (fun j => j.st == .ended c r) && (nx (exec i s)).m.churnOf (.job 0) == none

/-- Answers of zeros to what a piece of work asks for, until it asks no more. -/
def answered {α : Type} (f : Mach → SRes α) : Nat → Mach → Mach
  | 0, m => m
  | n + 1, m => match f m with
    | .wait new => answered f n { m with home := { m.home with
        done := m.home.done ++ new.map (fun r => { who := r.tag, seq := r.seq, line := r.line, kind := r.kind, data := 0#512, p := false, mv := 0#2, ack := none }) } }
    | _ => m

/-- A page command on one page. -/
def pj (op : Nat) : Job := jd op 0 (4096 * pgj) 4096 0 0

/-- A page command of an agent holds all of a page's lines. -/
def takenAll (x : Mach) (a : Agent) (page : Nat) : Mach :=
  { x with home := { x.home with trk := (List.range 64).map (fun i => { a.ask 0 (64 * page + i) .take with phase := .taken }) } }

/-- Every churn runs a move, and a decode waits. -/
def full1 : State :=
  st { chn := { run := (List.range 96).map (fun c => (c, .move c)), queues := [(44, [.decode 3 7])] },
       led := { moves := [{ page := 95, kind := .demote, cls := 1, started := true }] } }

/-- Put the checksum into a flit. -/
def addCrc (f : BitVec 2048) : BitVec 2048 := f ||| ((flitCrc f).setWidth 2048 <<< 2016)

/-- A flit with an empty payload, its lane parity (R352) given, its checksum put in. -/
def gf (hdr par : Nat) : BitVec 2048 := addCrc (BitVec.ofNat 2048 (hdr + par * 2 ^ 2000))

/-- A good flit of VC 0 with sequence number 0 that acknowledges 4,095. -/
def fg0 : BitVec 2048 := gf 0xFFF0000 0xD000

/-! ### Well-formedness refuses -/

theorem test_wf_symbol_position : symOk [(80, 1#8)] = false ∧ symOk [(79, 1#8)] = true := by decide
theorem test_wf_line : Instr.wf (.writeBack (2 ^ 39)) = false ∧ Instr.wf (.writeBack (2 ^ 39 - 1)) = true := by decide
theorem test_wf_page : Instr.wf (.promotionDone (2 ^ 33)) = false ∧ Instr.wf (.promotionDone (2 ^ 33 - 1)) = true := by decide
theorem test_wf_ledger_line : Instr.wf (.ledgerFetchDone (2 ^ 31) [] []) = false ∧ Instr.wf (.ledgerFetchDone 0 [(80, 1#8)] []) = false := by decide
theorem test_wf_errors : Instr.wf (.dramReadDone 0 0 [(80, 1#8)] none) = false ∧ Instr.wf (.scrubLine [] [(99, 1#8)]) = false := by decide
theorem test_wf_decode_page : Instr.wf (.wedgeDecodeDone (2 ^ 33) 0) = false ∧ Instr.wf (.workEnqueue (.move (2 ^ 33))) = false := by decide
theorem test_wf_width : Instr.wf (.linkL0Reached 0 3 0 true (some 64) true) = false ∧ Instr.wf (.linkL0Reached 0 8 0 true (some 64) true) = true := by decide
theorem test_wf_yoke_width : Instr.wf (.yokeTrainingDone true 5 false) = false ∧ Instr.wf (.mgmtLinkUp 0 0) = false := by decide
theorem test_wf_records : Instr.wf (.tallyRecordPost 0 0#23 16 [(0#64, true)]) = false ∧ Instr.wf (.tallyRecordPost 0 0#23 8 [(0#64, true)]) = true := by decide
theorem test_wf_write : Instr.wf (.regWrite { path := .mgmt, bar := .control, off := 0#26, dws := [], ep := false }) = false := by decide
theorem test_wf_read : Instr.wf (.counterLoRead { path := .mgmt, bar := .control, off := 0#26, dws := 0 }) = false := by decide
theorem test_wf_canary : Instr.wf (.canaryCheck 0 0 [(512, [])]) = false ∧ Instr.wf (.canaryCheck 0 0 [(0, [(80, 1#8)])]) = false := by decide
theorem test_wf_suspect : Instr.wf (.suspectScrub 0 0 0 0 0 [(0, [(80, 1#8)])]) = false := by decide
theorem test_wf_row_copy : Instr.wf (.remapDone [(128, [])]) = false ∧ Instr.wf (.spprDone true [(0, [(80, 1#8)])]) = false := by decide
theorem test_wf_thermal : Instr.wf (.thermalSample [25]) = false := by decide
theorem test_wf_decoder : decoderOk { idx := 0, base := 0, size := 1, ways := 5, gran := 256, skip := 0, lock := false } = false ∧
    decoderOk { idx := 0, base := 0, size := 1, ways := 2, gran := 128, skip := 0, lock := false } = false := by decide
theorem test_wf_atomic : atomicOk { kind := .fetchAdd, bytes := 16, op1 := 0#128, op2 := 0#128 } = false ∧
    atomicOk { kind := .cas, bytes := 16, op1 := 0#128, op2 := 0#128 } = true := by decide


/-! ### The hypotheses of each statement are met -/

theorem meets_StepTakesTheFront :
    ({ pending := [.check, .apply 0#24] } : State).pending = .check :: [.apply 0#24] ∧ State.reset.pending = [] := by decide +kernel

theorem meets_ExecKeepsQueue :
    isNext (exec .bypass { pending := [.idcode] }) = true := by decide +kernel

theorem meets_EveryDetectionIsRecorded :
    Quiet { pending := [.classADetect (oc 105)] } ∧ isNext (step { pending := [.classADetect (oc 105)] }) = true := by decide +kernel

theorem meets_LatchOutlastsEveryOtherCommand :
    ({ latch := true } : State).latch = true ∧ (∀ env, Instr.idcode ≠ .powerOnReset env) ∧ isNext (exec .idcode { latch := true }) = true := ⟨rfl, (fun _ h => by cases h), by decide⟩

theorem meets_LiveImageChangesAtInstants :
    Instr.check.isInstant = false ∧ Instr.check.mayColdStart = false ∧ isNext (exec .check {}) = true := by decide +kernel

theorem meets_EpochCountsInstants :
    Instr.applyInstant.mayColdStart = false ∧ isNext (exec .applyInstant { commit := { op := .apply } }) = true := by decide +kernel

theorem meets_LifeCycleNeverGoesBack :
    State.reset.lcCur ≤ State.reset.lcPend ∧ isNext (exec .check {}) = true := by decide +kernel

theorem meets_StagedWritesAreStored_1 :
    State.reset.m.unusedReg 0x180 = false ∧ State.reset.m.unusedReg (oMc 11 + 0x20) = true ∧ (st { pop := { used := [11] } }).m.unusedReg (oMc 11 + 0x20) = false ∧ State.reset.commit.op = .idle ∧ stMask 0x180 ≠ 0#32 ∧ (0x180 : Nat) ≠ oExtLo ∧ (0x180 : Nat) ≠ oMapData ∧ stMask 0xB04FDC ≠ 0#32 := by decide +kernel

theorem meets_StagedWritesAreStored_2 :
    State.reset.m.ixLive oExtIndex = false ∧ State.reset.m.ixLive oMapIndex = false ∧ State.reset.m.ixNo oExtIndex + fld (131072#32) 17 0 ≤ 131072 := by decide +kernel

theorem meets_BusyWritesAreLostAndWindowsRead_1 :
    ({ commit := { op := .apply } } : State).commit.busy = true ∧ ({ commit := { op := .check false, lost := true } } : State).commit.busy = true ∧ ({ commit := { op := .armed } } : State).commit.busy = true := by decide +kernel

theorem meets_BusyWritesAreLostAndWindowsRead_2 :
    State.reset.m.ixLive oExtIndex = false ∧ State.reset.m.ixLive oMapIndex = false ∧ stMask (0x180#26 : BitVec 26).toNat ≠ 0#32 := by decide +kernel

theorem meets_BusyWritesAreLostAndWindowsRead_3 :
    (st { regs := [(oMapIndex, 0x40000000#32)] }).m.ixLive oMapIndex = true := by decide +kernel

theorem meets_CheckReportsFirstFailure_1 :
    Quiet State.reset ∧ State.reset.commit.op = .idle ∧ State.reset.latch = false := by decide +kernel

theorem meets_CheckReportsFirstFailure_2 :
    Quiet { commit := { op := .check false, lost := true } } ∧ checkLow {} {} {} true = some (5, 0, 0) := by decide +kernel

theorem meets_CheckReportsFirstFailure_3 :
    checkLow {} {} {} false = none ∧ checkHigh {} {} {} [] false = none ∧ (∀ n, n < 64 → cultAct {} n ≠ 1) := by decide +kernel

theorem meets_ApplyKeyAndCultureCopies_1 :
    (st { chn := { copying := [63] } }).m.chn.copying.contains 63 = true ∧ (match readImage { chn := { copying := [63] } } (imageAgent whoCopy) 0 (cultAddr {} 63) with | .ok none m => decide (m = { chn := { copying := [63] } }) | _ => false) = true ∧ ({ commit := { op := .copy 1#8 } } : State).commit.op = .copy 1#8 := by decide +kernel

theorem meets_ApplyKeyAndCultureCopies_2 :
    Quiet State.reset ∧ (0#24 : BitVec 24) ≠ applyKey ∧ State.reset.commit.checked = false ∧ ({ commit := { checked := true } } : State).m.tally.coal = [] := by decide +kernel

theorem meets_ApplyKeyAndCultureCopies_3 :
    ({ commit := { checked := true, pairedPass := true } } : State).m.yoke.up = false ∧ (st (yo { link := .up })).m.yoke.up = true ∧ (st (yo { link := .up })).m.yoke.peerArm = none := by decide +kernel

theorem meets_InstantMakesStageLive :
    Quiet { commit := { op := .apply } } ∧ State.reset.latch = false ∧ State.reset.m.tally.coal = [] ∧ ({ commit := { op := .armed }, m := yo { goAcked := true } } : State).m.yoke.goAcked = true ∧ ({ commit := { op := .armed } } : State).m.yoke.goAcked = false := by decide +kernel

theorem meets_PowerStatesAreArmedAndEntered_1 :
    (st { pwr := { st := .entering } }).m.pwr.toDeep = false ∧ (st { pwr := { st := .waking } }).m.pwr.st = .waking ∧ (st { pwr := { target := 1 } }).m.pwr.warm = none ∧ (st { mgmt := { up := true } }).m.mgmt.lpwr = .l0 := by decide +kernel

theorem meets_PowerStatesAreArmedAndEntered_2 :
    Quiet State.reset ∧ State.reset.m.pwr.st = .active ∧ (st { pwr := { target := 2 } }).m.pwr.target ≠ 0 ∧ firstFail (st { pwr := { target := 2 } }) true = some 6 := by decide +kernel

theorem meets_PowerStatesAreArmedAndEntered_3 :
    mayEnter State.reset = false ∧ mayEnter (st { pwr := { target := 1 } }) = true ∧ (st { pwr := { target := 1 } }).m.tally.coal = [] := by decide +kernel

theorem meets_PowerStatesAreArmedAndEntered_4 :
    firstFail (st { pwr := { target := 1 } }) false = none ∧ firstFail (st { pwr := { target := 2 }, wld := { keeper := .up }, led := { pool := [(0, 2560)] } }) true = none := by decide +kernel

theorem meets_PowerStatesAreArmedAndEntered_5 :
    (st { pwr := { target := 1 }, heads := [(0, { st := .active })] }).m.rbit oPwrCfg 10 = true ∧ ((hd { st := .active }).head 0).st.linked = true ∧ ((hd { st := .active }).head 0).lpwr = .l0 := by decide +kernel

theorem meets_PowerStatesAreArmedAndEntered_6 :
    wakeSources { pwr := { st := .drowse, wakeN := true } } 4#8 5 ≠ 0#8 := by decide +kernel

theorem meets_LinkPowerAndClockGates :
    Quiet (st (hd { st := .active })) ∧ ((hd { st := .active }).head 0).st = .active ∧ (st { mgmt := { up := true } }).m.mgmt.up = true := by decide +kernel

theorem meets_TapFollowsTheLifeCycle :
    Quiet State.reset ∧ State.reset.lcCur = 0 ∧ (st { tst := { ir := 0x10 } }).m.tst.ir = 0x10 ∧ State.reset.m.tst.ir ≠ 0x10 := by decide +kernel

theorem meets_SelfTestRunsWhenQuiet_1 :
    runRefusal { latch := true } = some 8 ∧ runRefusal {} = none ∧ (st { tst := { st := 2 } }).m.tst.cond = 0#32 := by decide +kernel

theorem meets_SelfTestRunsWhenQuiet_2 :
    Quiet State.reset ∧ (0#24 : BitVec 24) ≠ sstKey ∧ (st { tst := { st := 2 } }).m.tst.stopped.contains abortMark = false ∧ State.reset.m.tst.st ≠ 2 ∧ (3 : Fin 13).val ≠ 0 := by decide +kernel

theorem meets_SelfTestResultFollowsItsTests_1 :
    let m : Mach := { tst := { st := 2, stopped := [5] } }; let r : SstRes := { sg 1#32 with thermal := none }; ∃ x ∈ testsOf m, testCode m r x = 3 := by decide +kernel

theorem meets_SelfTestResultFollowsItsTests_2 :
    let m : Mach := { tst := { st := 2 } }; let r : SstRes := sg 1#32; (∀ x ∈ testsOf m, testCode m r x ≠ 3) ∧ ∀ x ∈ testsOf m, testCode m r x = 1 := by decide +kernel

theorem meets_SelfTestResultFollowsItsTests_3 :
    let m : Mach := { tst := { st := 2 } }; let r : SstRes := sg 0#32; (∀ x ∈ testsOf m, testCode m r x ≠ 3) ∧ ∃ x ∈ testsOf m, testCode m r x = 2 := by decide +kernel

theorem meets_SelfTestResultFollowsItsTests_4 :
    Quiet (st { tst := { st := 2 } }) ∧ (st { tst := { st := 2 } }).m.tst.st = 2 ∧ (st { tst := { st := 2 } }).m.tst.cond = 0#32 := by decide +kernel

theorem meets_KeyRequestsRunOneAtATime :
    State.reset.latch = false ∧ State.reset.m.cry.busy = none ∧ (st { cry := { busy := some (2, 5, 0) }, wld := { keeper := .up } }).m.keeperOn = true ∧ State.reset.slotBound 1023 = false := by decide +kernel

theorem meets_RealBitTellsRealFaults_1 :
    Quiet State.reset ∧ srcClass 0 = some 1 ∧ State.reset.m.flt.openEntry 0 = none ∧ State.reset.m.flt.freeEntry = some 0 := by decide +kernel

theorem meets_RealBitTellsRealFaults_2 :
    srcClass 184 = some 3 ∧ State.reset.m.srcBit oLmask 184 = false ∧ State.reset.m.flt.openEntry 184 = none := by decide +kernel

theorem meets_RealBitTellsRealFaults_3 :
    (st { flt := { pend := [(184, 5#32, 1)] } }).m.flt.pend.find? (fun p => p.1 == 184) = some (184, 5#32, 1) := by decide +kernel

theorem meets_OccurrencesAreCountedAndLogged_1 :
    Quiet (st { flt := { log := [(511, rc 0 1 65535)] } }) ∧ srcClass 0 = some 1 ∧ (st { flt := { log := [(511, rc 0 1 65535)] } }).m.flt.openEntry 0 = some 511 ∧ (st { flt := { log := [(511, rc 0 1 65535)] } }).m.flt.log.find? 511 = some (rc 0 1 65535) := by decide +kernel

theorem meets_OccurrencesAreCountedAndLogged_2 :
    fld (0xFFFF01FF#32) 8 0 = 511 ∧ (rc 0 1 65535).cls = 1 ∧ (rc 0 1 65535).cleared = false ∧ (rc 0 1 65535).count = fld (0xFFFF01FF#32) 31 16 ∧ (rc 0 1 65535).count ≠ fld (0x1FF#32) 31 16 := by decide +kernel

theorem meets_OccurrencesAreCountedAndLogged_3 :
    (st { flt := { log := [(511, rc 0 1 65535)] } }).m.flt.log.find? (fld (0#32) 8 0) = none := by decide +kernel

theorem meets_ForceBitsAndTheSpillRing_1 :
    Quiet State.reset ∧ srcClass (32 * 7 + 0) = none ∧ srcClass (32 * 3 + 9) = some 0 ∧ State.reset.lcCur ≠ 1 ∧ srcClass (32 * 5 + 30) = some 1 ∧ State.reset.m.flt.pend.any (fun p => p.1 == 32 * 3 + 9) = false := by decide +kernel

theorem meets_ForceBitsAndTheSpillRing_2 :
    (st { flt := { toSpill := [(3, rc 0 1 1)] }, regs := [(oSpillCfg, 1#32)], mgmt := { up := true }, wld := { steward := .up } }).m.spillFull = true := by decide +kernel

theorem meets_ForceBitsAndTheSpillRing_3 :
    (st { flt := { toSpill := [(3, rc 0 1 1)] }, regs := [(oSpillCfg, 0xD#32)], mgmt := { up := true }, wld := { steward := .up } }).m.spillFull = false ∧ (st { regs := [(oSpillCfg, 0xD#32)], wld := { steward := .up } }).m.stewardOn = true := by decide +kernel

theorem meets_ForceBitsAndTheSpillRing_4 :
    State.reset.m.rbit oSpillCfg 0 = false ∧ (1#32 : Word).getLsbD 0 = true := by decide +kernel

theorem meets_ClassAMakesTheSafeState :
    Quiet State.reset ∧ srcClass 105 = some 0 ∧ srcClass 189 = some 0 ∧ State.reset.latch = false ∧ ({ commit := { op := .armed } } : State).commit.op = .armed := by decide +kernel

theorem meets_OwnershipIsCheckedBeforePower :
    Quiet State.reset ∧ State.reset.m.wld.mgmtStopped = false ∧ (State.reset.m.own 31).st ≠ 2 ∧ (busAttr State.reset.m .dma true ≠ (State.reset.m.own 31).keeper ∨ busAttr State.reset.m (.core 3 true) true ≠ (State.reset.m.own 31).keeper) := by decide +kernel

theorem meets_BusAccessAndHandOver_1 :
    Quiet State.reset ∧ State.reset.m.wld.mgmtStopped = false ∧ ((st { wld := { own := [(17, { keeper := true, st := 2 })] } }).m.own 17).st = 2 ∧ (State.reset.m.own 17).st = 0 ∧ (State.reset.m.own 17).gated = false := by decide +kernel

theorem meets_BusAccessAndHandOver_2 :
    ((st { wld := { own := [(17, { keeper := false, gated := true })] } }).m.own 17).gated = true := by decide +kernel

theorem meets_BusAccessAndHandOver_3 :
    (st { wld := { keeper := .up, steward := .up, own := [(17, { keeper := false })] } }).m.worldOn ((st { wld := { own := [(17, { keeper := false })] } }).m.own 17).keeper = true ∧ ((st { wld := { own := [(17, { keeper := true, st := 1, claim := true })] } }).m.own 17).claim = true := by decide +kernel

theorem meets_WorldsStopRestartAndServe_1 :
    Quiet (st (hd { st := .active })) ∧ (st (hd { st := .active })).m.wld.keeper = .up ∧ (0#24 : BitVec 24) ≠ worldKey ∧ (st { wld := { keeper := .down, steward := .down } }).m.wld.keeper = .down ∧ (st { wld := { keeper := .restarting, steward := .restarting } }).m.wld.keeper = .restarting := by decide +kernel

theorem meets_WorldsStopRestartAndServe_2 :
    (hd { st := .active }).holdsFrom 0 = false ∧ (hd { st := .active }).doeOn 0 = true ∧ ({ hd { st := .active } with wld := {} } : Mach).keeperOn = false ∧ (hd { st := .active }).keeperOn = true ∧ (hd { st := .active }).session 0 3 ≠ some true := by decide +kernel

theorem meets_WorldsStopRestartAndServe_3 :
    ({ hd { st := .active } with wld := { keeper := .up, sessions := [(0, 3, true)] } } : Mach).session 0 3 = some true ∧ ({ lcCur := 1, lcPend := 1 } : State).lcPend < 2 ∧ ((hd { keys := [(1, 7#256)] }).head 0).keys.any (fun k => k.1 == 1) = true := by decide +kernel

theorem meets_TokensAreJudgedInOrder :
    Quiet State.reset ∧ State.reset.m.wld.tokenBusy = false ∧ (st { wld := { tokenBusy := true } }).m.wld.tokenBusy = true ∧ tokenJudge (st { wld := { tokenBusy := true } }) = (7, false, 0) := by decide +kernel

theorem meets_ResetCommandsNeedTheirKey :
    Quiet State.reset ∧ (0#24 : BitVec 24) ≠ 0x3E5E7A#24 ∧ (st { pwr := { pbusy := true } }).m.pwr.pbusy = true ∧ ({ latch := true } : State).latch = true ∧ State.reset.m.pwr.inDeep = false ∧ State.reset.m.pwr.pbusy = false := by decide +kernel

theorem meets_HeadLinksTrainServeAndFail_1 :
    Quiet (st (hd {})) ∧ ((hd {}).head 0).st ≠ .absent ∧ ((hd {}).head 0).st = .down ∧ (hd {}).rbit (oHeadCtl 0) 0 = true ∧ ((hd { st := .disabled, perst := false }).head 0).perst = false ∧ ((hd { st := .training }).head 0).walk = false := by decide +kernel

theorem meets_HeadLinksTrainServeAndFail_2 :
    (st { led := { formatted := true }, pop := { used := [11] }, mcs := { trained := [(11, 1)] } }).m.canReady = true ∧ State.reset.m.pwr.memReady = false ∧ State.reset.m.pwr.warm = none ∧ State.reset.m.pwr.inDeep = false := by decide +kernel

theorem meets_HeadLinksTrainServeAndFail_3 :
    ((hd { st := .active, speed := 5, full := 16, width := 4 }).head 0).st = .active ∧ 2 ≤ 16 ∧ (st { hd { st := .active, speed := 5, width := 4 } with regs := [(oHeadCtl 0, 3#32)] }).m.rbit (oHeadCtl 0) 1 = true ∧ ((hd { st := .insecure, keysNew := true }).head 0).keysNew = true ∧ ((hd { st := .recovery, prev := .active }).head 0).prev = .active := by decide +kernel

theorem meets_HeadLinksTrainServeAndFail_4 :
    ((hd { st := .active, rtLost := true, rtNext := 9 }).head 0).rtLost = true ∧ (hd { st := .active, rtLost := true, rtNext := 9 }).core < 9 ∧ ((hd { st := .active }).head 0).rtLost = false ∧ Calm (hd { st := .recovery, prev := .active }) ∧ ((hd { st := .recovery, prev := .active }).head 0).held = [] ∧ (hd { st := .recovery }).tst.scanEn = false := by decide +kernel

theorem meets_LostLinksAreDropped :
    Quiet (st (hd { st := .recovery })) ∧ (st (hd { st := .recovery })).m.rbit oPwrCfg 11 = false ∧ ((hd { st := .recovery }).head 0).st.linked = true ∧ ((hd { walk := true }).head 0).walk = true ∧ ((hd { drop := some (70000, 1, 2, 3) }).head 0).drop = some (70000, 1, 2, 3) ∧ (hd { drop := some (70000, 1, 2, 3) }).home.trk.any (fun r => decide (r.src < 8) && r.head == 0) = false := by decide +kernel

theorem meets_ManagementLinkResetsAndSensors_1 :
    Quiet State.reset ∧ State.reset.m.tst.st ≠ 2 ∧ (st { mgmt := { up := true } }).m.mgmt.up = true ∧ State.reset.m.mgmt.up = false ∧ (State.reset.m.head 0).st ≠ .absent ∧ State.reset.m.holdsFrom 0 = false ∧ (st { pwr := { pbusy := true } }).m.tally.coal = [] := by decide +kernel

theorem meets_ManagementLinkResetsAndSensors_2 :
    (∀ n, n < 256 → (st { pwr := { pbusy := true } }).m.pwr.pparts.contains (State.reset.live.rOwner n) = true → ((st { pwr := { pbusy := true } }).m.ring n).st ≠ .resetting) := by decide +kernel

theorem meets_ManagementLinkResetsAndSensors_3 :
    (List.replicate 16 (97 : Int)).length = 16 ∧ (∀ t ∈ List.replicate 16 (97 : Int), t < 98) ∧ (∃ t ∈ List.replicate 16 (120 : Int), 120 ≤ t) ∧ (∀ h, h < 8 → (State.reset.m.mb h).alert = 0#96) := by decide +kernel

theorem meets_WarmResetKeepsWhatItMust :
    Quiet State.reset ∧ State.reset.latch = false ∧ State.reset.m.pwr.pbusy = false ∧ State.reset.m.pwr.warm = none ∧ State.reset.m.pwr.inDeep = false ∧ (st { pwr := { warm := some 3 } }).m.pwr.warm = some 3 := by decide +kernel

theorem meets_ColdStartBeginsAnew :
    Quiet State.reset ∧ State.reset.m.pwr.pbusy = false ∧ State.reset.m.pwr.inDeep = false ∧ (sealIntact {} (st { pwr := { st := .waking, toDeep := true, nonce := some 1 } }).m.exitSrAll).1 = true ∧ (st { pwr := { st := .waking, toDeep := true, nonce := some 1 } }).m.pwr.st = .waking := by decide +kernel

theorem meets_MailboxReportsAndSettings :
    Quiet (st (hd { st := .insecure })) ∧ MailboxOpen (st (hd { st := .insecure })) 0 ∧ ({ latch := true } : State).latch = true ∧ (∀ r ∈ ((hd {}).mb 0).logs, r.1 = 4 → r.2.1 ≠ 65535) := by decide +kernel

theorem meets_MailboxPoisonFirmwareCapacity_1 :
    [0].all (fun k => ((dcOf { up1.live with ext := [(5, 0x1000000000440#64)] } { up1.m with dc := [(0, 2)] } 0 0).filter (fun x => x.2.2 == 2)).any (fun x => x.1 == k)) = true := by decide +kernel

theorem meets_MailboxPoisonFirmwareCapacity_2 :
    Quiet up1 ∧ MailboxOpen up1 0 ∧ up1.latch = false ∧ headHolds up1.live 0 ((0#45 : BitVec 45).toNat / 2 ^ 28) = false ∧ headHolds up1.live 0 ((0x50000000#45 : BitVec 45).toNat / 2 ^ 28) = true ∧ up1.m.pwr.memReady = true := by decide +kernel

theorem meets_MailboxPoisonFirmwareCapacity_3 :
    Calm (hit {}).m ∧ PlainLine imh (hit {}).m (0x50000000 / 64) ∧ ServesNow imh (hit {}).m mDesc ∧ (hit {}).m.lcGet (0x50000000 / 64) = some {} ∧ (up1.m.mb 0).busy = false ∧ ldPart up1.live up1.m 0 0 = some 0 ∧ ldPart up1.live up1.m 0 1 = none := by decide +kernel

theorem meets_MailboxPoisonFirmwareCapacity_4 :
    let s := { hit {} with m := { (hit {}).m with mbox := [(0, { scan := some (lnh, 64) })] } }; (s.m.mb 0).scan = some (lnh, 64) ∧ s.m.scb.paused = false ∧ s.m.pwr.memReady = true ∧ flatPage s.live (lnh / 64) = true ∧ headHolds s.live 0 (lnh / 64 / 65536) = true ∧ lnh % 64 + 64 ≤ 64 ∧ Calm s.m := by decide +kernel

theorem meets_MailboxPoisonFirmwareCapacity_5 :
    ServesNow { imh with regs := imh.regs ++ [(oGuar mScrub, 100#32)] } (hit {}).m mScrub ∧ (({ mbox := [(0, { fwReady := some (3#24, true) })] } : Mach).mb 0).fwReady.isSome = true ∧ (({ mbox := [(0, { offered := [(0, [0])] })] } : Mach).mb 0).offered.find? (fun o => o.1 == im1.pLd 0) = some (0, [0]) ∧ [0].all [0].contains = true := by decide +kernel

theorem meets_MailboxPoisonFirmwareCapacity_6 :
    [].all (fun k => ((dcOf up1.live up1.m 0 0).filter (fun x => x.2.2 == 2)).any (fun x => x.1 == k)) = true ∧ (({ mbox := [(0, { fwReady := some (3#24, true), fwAct := true })], wld := { keeper := .up } } : Mach).mb 0).fwAct = true ∧ ({ wld := { keeper := .up } } : Mach).keeperOn = true := by decide +kernel

theorem meets_RevisionReadsA0 :
    Quiet (st { mgmt := { up := true } }) ∧ (st { mgmt := { up := true } }).m.mgmt.up = true ∧ (st { mgmt := { up := true } }).m.pwr.st = .active := by decide +kernel

theorem meets_RegisterAccessesAndRanges_1 :
    Quiet (st { mgmt := { up := true } }) ∧ (st { mgmt := { up := true } }).m.pwr.st = .active ∧ (st { mgmt := { up := true } }).m.reg 0x18 = 0#32 ∧ State.reset.m.mgmt.up = false ∧ State.reset.m.pwr.warm = none ∧ (State.reset.m.head 0).st ≠ .absent := by decide +kernel

theorem meets_RegisterAccessesAndRanges_2 :
    fld (0x01FF0200#32) 25 16 < fld (0x01FF0200#32) 9 0 ∧ (fld (0x04000200#32) 9 0 ≤ 512 ∧ 16 ≤ fld (0x04000200#32) 26 16 ∧ fld (0x04000200#32) 26 16 ≤ 1024) ∧ ¬ (fld (0x04000201#32) 9 0 ≤ 512) := by decide +kernel

theorem meets_RegisterAccessesAndRanges_3 :
    (10 ≤ fld (10#32) 19 0 ∧ fld (1000000#32) 19 0 ≤ 1000000) ∧ ¬ (fld (1000001#32) 19 0 ≤ 1000000) ∧ (2 ≤ fld (0x3F40#32) 6 0 ∧ fld (0x3F40#32) 6 0 ≤ 64 ∧ fld (0x3F40#32) 14 8 ≤ 63 ∧ fld (0x3F40#32) 14 8 < fld (0x3F40#32) 6 0) ∧ 20 ≤ fld (0x140014#32) 15 0 ∧ 20 ≤ fld (0x140014#32) 31 16 := by decide +kernel

theorem meets_RegisterAccessesAndRanges_4 :
    (1 ≤ fld (0x3DA0#32) 10 1 ∧ fld (0x3DA0#32) 10 1 ≤ 720 ∧ 1 ≤ fld (0x3DA0#32) 13 11 ∧ fld (0x3DA0#32) 13 11 ≤ 7) := by decide +kernel

theorem meets_RegisterAccessesAndRanges_5 :
    State.reset.m.pop.used.contains 11 = false ∧ (st { pop := { used := [11] } }).m.pop.used.contains 11 = true := by decide +kernel

theorem meets_RegisterAccessesAndRanges_6 :
    8 ≤ ((List.range 96).filter (fun k => if k / 32 = 0 then (0#32 : Word).getLsbD (k % 32) else State.reset.m.rbit (oChnEn (k / 32)) (k % 32))).length := by decide +kernel

theorem meets_RegisterAccessesAndRanges_7 :
    ((List.range 96).filter (fun k => if k / 32 = 0 then (0x7F#32 : Word).getLsbD (k % 32) else (st { regs := [(oChnEn 1, 0#32), (oChnEn 2, 0#32)] }).m.rbit (oChnEn (k / 32)) (k % 32))).length < 8 := by decide +kernel

theorem meets_MonitorCountsAndSamples_1 :
    Quiet State.reset ∧ (st { regs := [(oPmuCtl, 2#32)] }).m.frozen = true ∧ (st { regs := [(oPmuCtl, 1#32), (oPmuGrp, 0x8000#32), (oSel 255, 0x200000#32)], pmu := { cnt := [(255, 2 ^ 48 - 1)] } }).m.counts 255 = true ∧ State.reset.m.counts 0 = false ∧ (st { pmu := { cnt := [(255, 2 ^ 48 - 1)] } }).m.pmu.cnt.get 0 255 = 2 ^ 48 - 1 := by decide +kernel

theorem meets_MonitorCountsAndSamples_2 :
    State.reset.m.rbit oSmpCfg 0 = false ∧ (st { pmu := { rd := 32767, wr := 0 } }).m.pmu.fill ≠ 0 ∧ State.reset.m.pmu.fill = 0 ∧ (st { wld := { steward := .up } }).m.stewardOn = true := by decide +kernel

theorem meets_RequestsAreReceived_1 :
    let op : Atomic := { kind := .cas, bytes := 16, op1 := 0#128, op2 := 0#128 }; op.bytes ≠ 0 ∧ (0xFFFFFF0#52 : BitVec 52).toNat % op.bytes = 0 ∧ (0xFFFFFF8#52 : BitVec 52).toNat % op.bytes ≠ 0 := by decide +kernel

theorem meets_RequestsAreReceived_2 :
    Quiet up1 ∧ (up1.m.head 0).st = .active ∧ up1.m.tst.scanEn = false ∧ up1.m.pwr.st = .active ∧ (up1.m.head 0).noCredit (.read .noOp) = false ∧ portDecode up1.live up1.m 0 0 (2 ^ 28 - 1) = some (0, 6 * 2 ^ 28 - 1) ∧ portDecode up1.live up1.m 0 0 (2 ^ 28) = none ∧ (up1.m.head 0).viralRx = false := by decide +kernel

theorem meets_SnoopsAreAnsweredOrTimeOut :
    Quiet (st { hd { st := .active } with home := { snoops := [{ head := 0, line := 2 ^ 39 - 1, kind := 2, timeout := 2000 }] } }) ∧ ((hd { st := .active }).head 0).st.linked = true ∧ (st { hd { st := .active } with home := { snoops := [{ head := 0, line := 2 ^ 39 - 1, kind := 2, timeout := 2000 }] } }).m.snoopOut 0 (2 ^ 39 - 1) = true ∧ (hd { st := .active }).snoopOut 0 (2 ^ 39 - 1) = false ∧ (coreCycle {} { hd { st := .active } with home := { snoops := [{ head := 0, line := 2 ^ 39 - 1, kind := 2, timeout := 2000 }] } }).snoopTimed 0 (2 ^ 39 - 1) = true ∧ (coreCycle {} (hd { st := .active })).snoopTimed 0 (2 ^ 39 - 1) = false := by decide +kernel

theorem meets_HomeCommandsAct_1 :
    let s := { hit {} with m := { (hit {}).m with home := { (hit {}).m.home with intq := [agQ] } } }; Quiet s ∧ s.latch = false ∧ s.m.home.intq = [agQ] ∧ Calm { s.m with home := { s.m.home with intq := [] } } ∧ s.m.tally.inq = [] ∧ PlainLine s.live s.m agQ.line ∧ ServesNow s.live s.m agQ.mst ∧ s.m.lcGet agQ.line = some {} := by decide +kernel

theorem meets_HomeCommandsAct_2 :
    (st { bwg := { held := [(3, 1)] } }).m.bwg.short = false ∧ fellShort { regs := [(oGuar 3, 100#32)] } { held := [(3, 1)], cycles := 2 } 3 = true := by decide +kernel

theorem meets_HomeCommandsAct_3 :
    ((me1s (.ledger 0)).m.sub 23).flight.find? (fun q => !q.back) = some { id := 0, frame := 0, ln := 0, purpose := .ledger 0 } ∧ (Purpose.ledger 0).ahead = true ∧ (me1s (.ledger 0)).m.awaits (.ledger 0) = true ∧ Purpose.scrub.ahead = false ∧ (me1s .scrub).m.led.fetching.contains 0 = true ∧ ((me1s .scrub).m.led.lines.filter (fun p => p.1 % 16384 == 0 % 16384)).length < 16 := by decide +kernel

theorem meets_HomeCommandsAct_4 :
    (fab1.m.sub 23).fabric = [{ id := 8, frame := 3, ln := 4, wr := true, purpose := .wback lnh, cw := 6#640 }] ∧ (Purpose.wback lnh = .wback lnh) ∧ fab1.m.ent? (lnh / 64) = none ∧ (fab1.m.sub 23).wq.length < 64 ∧ (fab1.m.lcGet lnh).any (·.lock) = true := by decide +kernel

theorem meets_HomeCommandsAct_5 :
    let q : Req := { line := 63, kind := .install 9#512 false true, src := 9 }; let r : Req := { id := 3, head := 0, tag := 6, line := 63, kind := .read .noOp, phase := .decode 0 7 }; dec1.m.home.trk = [r] ∧ r.line = q.line ∧ r.phase = .decode 0 7 ∧ r.quiet = false ∧ r.merging = false := by decide +kernel

theorem meets_HomeCommandsAct_6 :
    dec1.m.churnOf (.decode 0 7) = some 95 ∧ dec1.m.decode? 0 7 = some { page := 0, wedge := 7, gen := 4, home := 0, tag := { cls := .table } } ∧ dec1.m.ent? 0 = some { st := 2, gen := 4, k := 1 } ∧ (dec1.m.decode? 0 7).map (·.gen) = some 4 ∧ Quiet dec1 := by decide +kernel

theorem meets_HomeCommandsAct_7 :
    let s := hit { dirty := true }; s.m.lcGet lnh = some { dirty := true } ∧ s.m.tracked lnh = false ∧ flatPage s.live (lnh / 64) = true ∧ s.m.ent? (lnh / 64) = none ∧ (s.m.sub (s.m.subOf (flatFrame s.live (lnh / 64)) (lnh % 64))).fabric = [] ∧ (s.m.sub (s.m.subOf (flatFrame s.live (lnh / 64)) (lnh % 64))).wq.length < 64 := by decide +kernel

theorem meets_HomeCommandsAct_8 :
    (wrS .stall).m.home.trk = [wrQ .stall] ∧ (wrS .lag).m.home.trk = [wrQ .lag] ∧ Calm { (wrS .lag).m with home := { (wrS .lag).m.home with trk := [] } } ∧ PlainLine imh (wrS .lag).m (wrQ .lag).line ∧ ((wrS .stall).m.lcWays lnh).length < 12 := by decide +kernel

theorem meets_LineCacheServesHits_1 :
    let s := hit { data := 9#512 }; portDecode s.live s.m 0 0 (0#52 : BitVec 52).toNat = some (0, lnh * 64) ∧ HeadHits s 0 (lnh * 64 / 64) { data := 9#512 } := by decide +kernel

theorem meets_LineCacheServesHits_2 :
    ({ src := 7, head := 7, kind := .read .noOp } : Req).src = 7 ∧ 7 < 8 ∧ ({ src := 7, head := 7, kind := .read .noOp } : Req).quiet = false ∧ dbLine {} {} 0 = false ∧ ({} : Mach).lcGet 0 = none ∧ ({} : Mach).heldLine 0 = none ∧ ({} : Mach).poisonDue 0 = false ∧ flatPage {} 0 = false ∧ (pg { st := 5 } {}).ent? 0 = some { st := 5 } ∧ (pg { st := 0 } {}).ent? 0 = some { st := 0 } := by decide +kernel

theorem meets_TallyRecordsAreTakenAndMerged_1 :
    ((hd { st := .active, post := [{ off := 8, bytes := 8, recs := [(0#64, true)] }] }).head 0).post ≠ [] ∧ (up1.m.head 0).post = [] := by decide +kernel

theorem meets_TallyRecordsAreTakenAndMerged_2 :
    Quiet up1 ∧ (up1.m.head 0).st.linked = true ∧ up1.m.holdsFrom 0 = false ∧ ((4 : BitVec 23).toNat % 8 ≠ 0) ∧ ((8 : BitVec 23).toNat % 8 = 0 ∧ 512 % 8 = 0) ∧ up1.m.inqLen 0 + 0 ≤ 4096 ∧ 4096 < up1.m.inqLen 0 + (List.replicate 4097 (0#64, true)).length := by decide +kernel

theorem meets_TallyRecordsAreTakenAndMerged_3 :
    ldPart ({ im1 with regs := im1.regs ++ [(0xA01000, 1#32)] } : Image) up1.m 0 (8 / 2 ^ 19) = some 0 ∧ (tallyTab { im1 with regs := im1.regs ++ [(0xA01000, 1#32)] } 0).isSome = true ∧ tallyTab im1 0 = none ∧ ldPart im1 up1.m 0 (0x100000 / 2 ^ 19) = none ∧ ({ sat := true } : Coal).sat = true ∧ ({} : Coal).sat = false := by decide +kernel

theorem meets_TallyRecordsAreTakenAndMerged_4 :
    let s := { hit {} with m := { (hit {}).m with tally := { coal := [(lnh, { lanes := [1, 0, 0, 0, 0, 0, 0, 2] })] } } }; Calm s.m ∧ s.m.tally.inq = [] ∧ PlainLine s.live { s.m with tally := { s.m.tally with coal := [] } } lnh ∧ ServesNow s.live s.m mTally ∧ s.m.lcGet lnh = some {} := by decide +kernel

theorem meets_FormatBuildsTheLedger_1 :
    OwnWork (bw me1r .format whoFormat (64 * ((fmtRuns {} me1r).1 + (fmtRuns {} me1r).2))) .format whoFormat (64 * ((fmtRuns {} me1r).1 + (fmtRuns {} me1r).2)) 95 ∧ me1r.led.fmtBusy = true := by decide +kernel

theorem meets_FormatBuildsTheLedger_2 :
    let x : Mach := bw { led := { recount := true }, pwr := { memReady := true } } .recount whoRecount 0; OwnWork x .recount whoRecount x.recountReads 95 ∧ x.led.recount = true ∧ x.pwr.memReady = true ∧ ∀ p ∈ x.knownPages, (x.led.lines.find? (p / 4)).isSome = true := by decide +kernel

theorem meets_FormatBuildsTheLedger_3 :
    Quiet (st me1) ∧ me1.led.fmtBusy = false ∧ (1#24 : BitVec 24).toNat ≠ 0x5C1EA2 ∧ (0x5C1EA2#24 : BitVec 24).toNat = 0x5C1EA2 ∧ (List.range 64).any im1.pValid = true ∧ (List.range 64).any ({} : Image).pValid = false := by decide +kernel

theorem meets_FormatBuildsTheLedger_4 :
    fmtFits {} {} 131072 0 true = false ∧ fmtFits {} me1f (me1f.rfld oFmtDpa 17 0) (me1f.rfld oFmtCellar 14 0) (me1f.rbit oFmtDpa 31) = true  := by decide +kernel

theorem meets_FramesAndQuarantine_1 :
    let l : Ledger := { freed := [{ waits := [5], frame := some 3 }] }; l.freed = [{ waits := [5], frame := some 3 }] ∧ ([5] : List Nat).any ((me1.home.trk.map (·.id)).contains) = false ∧ (pg { st := 1, ma := 5, gen := 511 } me1).ent? 0 = some { st := 1, ma := 5, gen := 511 } ∧ (pg {} me1).tally.coal.all (fun p => p.1 / 64 != (pg {} me1).ldgArg) = true := by decide +kernel

theorem meets_FramesAndQuarantine_2 :
    Quiet (st me1) ∧ ({ led := { wantFrame := [0] } } : Mach).led.wantFrame.contains 0 = true ∧ (pg {} me1).ent? 0 = some {} ∧ ivTake [(0, 1)] = some (0, []) ∧ ivTake [] = none ∧ me1.rfld oClrCtl 15 0 ≠ 0 ∧ me1.frameCh 0 = 1 ∧ (st { me1 with scb := { chSt := [(0, 3)] } }).m.frameCh 0 ≠ 1 := by decide +kernel

theorem meets_FramesAndQuarantine_3 :
    OwnWork (bw me1 (.sweep 0) whoSweep 0) (.sweep 0) whoSweep 0 95 ∧ OwnWork (bw me1 (.clear 3) whoClear 64) (.clear 3) whoClear 64 95 ∧ me1.pwr.memReady = true ∧ me1.led.formatted = true ∧ flatPage {} 0 = false ∧ skimEn { regs := [(oSkimCtl, 1#32)] } = true ∧ me1.led.extents ≠ 0 ∧ me1.led.sweep = 0 ∧ (pg { st := 4 } me1).ent? 0 = some { st := 4 } := by decide +kernel

theorem meets_FramesAndQuarantine_4 :
    ({} : Mach).led.extents * 65536 ≤ ({} : Mach).ldgArg ∧ flatPage { ext := [(0, 0x20000#64)] } me1.ldgArg = true ∧ me1.ldgArg < me1.led.extents * 65536 ∧ flatPage {} me1.ldgArg = false ∧ me1.led.moveOf 0 = none ∧ Calm me1 := by decide +kernel

theorem meets_FramesAndQuarantine_5 :
    takeAll (taken me1) ledgerAgent 0 = none ∧ Calm { (taken me1) with home := { (taken me1).home with trk := [] } } ∧ (∀ r ∈ (taken me1).home.trk, r.ofWho whoLedger = true ∧ r.kind = .take) ∧ (taken me1).led.cmdBusy = false ∧ ({ led := { cmdBusy := true } } : Mach).led.cmdBusy = true := by decide +kernel

theorem meets_FramesAndQuarantine_6 :
    ({ led := { quarFrames := [0] } } : Mach).led.quarFrames.contains ({ led := { quarFrames := [0] } } : Mach).ldgArg = true ∧ ({ led := { quarCellar := [(15, 1)] } } : Mach).led.quarCellar.any (fun p => p.1 / 16 == ({ led := { quarCellar := [(15, 1)] } } : Mach).ldgArg) = true := by decide +kernel

theorem meets_MovesStartAndFlip_1 :
    let v : Move := { page := 0, kind := .promote, cls := 1, started := true, dst := some 8, gen := 4, got := [some []] }; let s := mvg .promote false; Quiet s ∧ s.m.churnOf (.move 0) = some 95 ∧ s.m.chn.lent.find? 95 = none ∧ s.m.led.moveOf 0 = some v ∧ v.cutShort = false ∧ s.m.ent? 0 = some { st := 3, gen := 4 } ∧ Leave s.m (whoMove 0) 1 (8 * (s.m.promoOut v { st := 3, gen := 4 }).length) := by decide +kernel

theorem meets_MovesStartAndFlip_2 :
    let v : Move := { page := 0, kind := .promote, cls := 1, started := true, dst := some 8, gen := 4, got := [some []], stop := true }; let s := mvg .promote true; s.m.led.moveOf 0 = some v ∧ v.cutShort = true ∧ Leave s.m (whoMove 0) 1 (8 * (s.m.promoOut v { st := 3, gen := 4 }).length) := by decide +kernel

theorem meets_MovesStartAndFlip_3 :
    let v : Move := { page := 0, kind := .demote, cls := 1, started := true, gen := 4, got := [some []] }; let s := mvg .demote false; s.m.led.moveOf 0 = some v ∧ Leave s.m (whoMove 0) 1 (4 * ((s.m.demoExtent v).map (·.1)).getD 0) ∧ Leave (mvg .relocate false).m (whoMove 0) 0 128 ∧ (mvg .relocate false).m.led.moveOf 0 ≠ none := by decide +kernel

theorem meets_MovesStartAndFlip_4 :
    (pg { st := 3, gen := 5 } (mv0s .promote true 3).m).ent? 0 = some { st := 3, gen := 5 } ∧ ({ st := 3, gen := 5 } : LEnt).gen ≠ 4 ∧ ivTake (mv0s .promote false 2).m.led.pool = some (9, []) := by decide +kernel

theorem meets_MovesStartAndFlip_5 :
    ((mv0s .promote false 2).m.led.moves.filter (fun x => x.started)).length < moveSlots {} ∧ (mv0s .promote false 2).m.led.waitingMoves = [{ page := 0, kind := .promote, cls := 1 }] ∧ (mv0s .promote false 2).m.ent? 0 = some { st := 2, gen := 4 } ∧ Quiet (mv0s .promote false 2) ∧ (activeCult {} 0).any (mv0s .demote false 1).m.chn.copying.contains = false := by decide +kernel

theorem meets_MovesStartAndFlip_6 :
    (mv0s .demote false 1).m.led.waitingMoves = [{ page := 0, kind := .demote, cls := 1 }] ∧ (mv0s .relocate false 4).m.led.waitingMoves = [{ page := 0, kind := .relocate, cls := 1 }] ∧ (wl (mv0s .promote false 2).m (fun l => { l with pool := [] })).led.waitingMoves = [{ page := 0, kind := .promote, cls := 1 }] := by decide +kernel

theorem meets_MovesStartAndFlip_7 :
    (mv0s .promote true 3).m.churnOf (.move 0) = some 95 ∧ (mv0s .promote true 3).m.led.moveOf 0 = some { page := 0, kind := .promote, cls := 1, started := true, dst := some 8, gen := 4 } ∧ (mv0s .promote true 3).m.ent? 0 = some { st := 3, gen := 4 } := by decide +kernel

theorem meets_SchedulerIssuesFirstIssuable_1 :
    pick {} { su1.m with mcs := { subs := [(1, {})] } } 1 [] [] = none ∧ (({ mcs := { subs := [(1, { wq := [{ id := 4, frame := 0, ln := 0, act := true, wr := true }] })] } } : Mach).sub 1).wq.find? (fun x => x.id == 4) = some { id := 4, frame := 0, ln := 0, act := true, wr := true } := by decide +kernel

theorem meets_SchedulerIssuesFirstIssuable_2 :
    Quiet su1 ∧ su1.latch = false ∧ su1.m.pop.used.contains 0 = true ∧ (su1.m.sub 1).sr ≠ .inSr ∧ ((su1.m.sub 1).rq ++ (su1.m.sub 1).wq).find? (fun x => x.id == 4) = some { id := 4, frame := 0, ln := 0 } ∧ ({ id := 4, frame := 0, ln := 0 } : QEnt).act = false ∧ pick {} su1.m 1 [] [] = some (.req 4) := by decide +kernel

theorem meets_ChannelsKeepTheirDram_1 :
    Quiet su1 ∧ su1.m.pop.used.contains 0 = true ∧ su1.latch = false ∧ (su1.m.sub 1).sr ≠ .inSr ∧ (0 : Nat) < su1.m.lranks ∧ (su1.m.sub 1).debtOf 0 < refPostpone su1.live 0 ∧ refPostpone {} 0 ≤ ({ debt := [(0, refPostpone {} 0)] } : Sub).debtOf 0 ∧ su1.m.pwr.st = .active ∧ su1.m.scb.chSt.get 0 0 ≠ 3 := by decide +kernel

theorem meets_ChannelsKeepTheirDram_2 :
    (({ mcs := { subs := [(1, { sr := .inSr })] } } : Mach).sub 1).sr = .inSr ∧ (({ mcs := { subs := [(1, { canaries := true })] } } : Mach).sub 1).canaries = true ∧ su1.m.mcs.hot.get false 0 ≠ true ∧ su1.m.mcs.trained.get 0 0 % 256 = 0 ∧ (st { me1 with wld := { steward := .up } }).m.wld.steward ≠ .booting ∧ me1.wld.waitImage = false := by decide +kernel

theorem meets_ChannelsKeepTheirDram_3 :
    Quiet su2 ∧ su2.m.hasDimm 0 = true ∧ su1.m.hasDimm 0 = false ∧ su2.m.stewardOn = true ∧ (let x := letGo { su1.m with mcs := { subs := [(1, { canaries := true })] } } (whoCanary 1) (su1.m.canaryPlaces 0 1).length; Leave x (whoCanary 1) 0 (x.canaryPlaces 0 1).length ∧ (x.sub 1).sr = .out ∧ Quiet { su1 with m := x }) := by decide +kernel

theorem meets_RepairsFollowTheirChecks_1 :
    Quiet (st me1) ∧ me1.scb.rep = .none ∧ me1.repRowOk me1.repAddr = true ∧ ({} : Mach).repRowOk ({} : Mach).repAddr = false ∧ me1.chState me1.repAddr.ch = 1 ∧ me1.freeSpare me1.repAddr = some 0 ∧ me1.remapCount me1.repAddr.ch < 2048 ∧ me1.activeRemap me1.repAddr = false ∧ me1.scb.marks.find? (markKey me1.repAddr) = none ∧ me1.repDev < 10 ∧ me1.repAddr.rank < 2 ^ me1.pop.rb := by decide +kernel

theorem meets_RepairsFollowTheirChecks_2 :
    ({ me1 with scb := { me1.scb with remaps := [{ ch := 0, bank := 0, row := 0, spare := 0, progress := 128 }] } } : Mach).activeRemap me1.repAddr = true ∧ ({ me1 with scb := { chSt := [(0, 3)] } } : Mach).chState me1.repAddr.ch = 3 ∧ ({ me1 with scb := { marks := [(0, 9)] } } : Mach).scb.marks.find? (markKey me1.repAddr) = some 9 ∧ ({ me1 with scb := { rep := .sppr } } : Mach).scb.rep = .sppr := by decide +kernel

theorem meets_RepairsFollowTheirChecks_3 :
    ({ me1 with scb := { me1.scb with remaps := (List.range 62).map (fun k => { ch := 0, bank := 0, row := k + 1, spare := k, progress := 128 }) } } : Mach).freeSpare me1.repAddr = none := by decide +kernel

theorem meets_ScrubbingAndRetirement_1 :
    Quiet (st me1) ∧ me1.scrubs = true ∧ me1.scb.suspects = [] ∧ scrubSkip me1 24 me1.scb.pos = me1.scb.pos ∧ me1.scb.pos + 1 < me1.runEnd * 64 ∧ (me1.scb.pos + 1) % 64 ≠ 0 ∧ ({ me1 with scb := { suspects := [(0, 31)] } } : Mach).scb.suspects.contains (0, ({ ch := 0, sub := 0, bg := 7, bank := 3, col := 0, rank := 0, die := 0, row := 0 } : MAddr).bankKey) = true := by decide +kernel

theorem meets_ScrubbingAndRetirement_2 :
    retireRefusal {} {} 0 = some 2 ∧ (st { me1 with scb := { chSt := [(0, 3)] } }).m.chState 0 = 3 ∧ (st { me1 with scb := { chg := [(0, false)] } }).m.scb.chg.find? (fun p => !p.2) = some (0, false) ∧ (st { me1 with scb := { chg := [(0, true)] } }).m.scb.chg.find? (fun p => p.2) = some (0, true) ∧ pagesOn {} ({} : Mach) 0 = [] := by decide +kernel

theorem meets_ScrubbingAndRetirement_3 :
    retireRefusal {} { me3 with led := { me3.led with pool := [(0, me3.cellBase)] } } (me3.rfld oRepArg0 3 0) = none := by decide +kernel

theorem meets_ScrubbingAndRetirement_4 :
    Leave (letGo me1 whoScrub 1) whoScrub 0 1 ∧ Quiet (st (letGo me1 whoScrub 1)) ∧ (let x := letGo { me1 with scb := { me1.scb with suspects := [(0, 31)] } } whoSuspect ((devRows me1.pop.dens - 64) * 128); Leave x whoSuspect 0 ((devRows x.pop.dens - 64) * 128) ∧ x.scrubs = true) := by decide +kernel

theorem meets_DoorbellsAndRecords_1 :
    Quiet (rs 0x1F .waiting) ∧ (rs 0x1F .waiting).latch = false ∧ ((rs 0x1F .waiting).m.ring 255).st = .active ∧ fld (7#32) 15 0 < 2 ^ imr.rLog 255 ∧ ¬ (fld (8#32) 15 0 < 2 ^ imr.rLog 255) ∧ (rs 0x1F .waiting).m.linkFor 0 = 2 ∧ (rs 0x1F .waiting).m.linkFor 1 ≠ 2 ∧ (presented imr (rs 0x1F .waiting).m 0).contains (imr.rOwner 255) = true ∧ (presented {} (rs 0x1F .waiting).m 0).contains (imr.rOwner 255) = false := by decide +kernel

theorem meets_DoorbellsAndRecords_2 :
    (rs 0x1F (.ended 0 0)).m.job? 0 = some (jb 0x1F (.ended 0 0)) ∧ recReady (rs 0x1F (.ended 0 0)).m (jb 0x1F (.ended 0 0)) = true ∧ imr.rPlace 255 ≠ 2 ∧ (rs 0x1F (.ended 0 0)).m.linkFor (imr.rCfg 255).fn = 2 ∧ ({ (rs 0x1F (.ended 0 0)).m with heads := [] } : Mach).linkFor (imr.rCfg 255).fn = 0 := by decide +kernel

theorem meets_RingsFetchAndReset_1 :
    let j : Job := { jb 8 .waiting with desc := 0x408#512 ||| (BitVec.ofNat 512 0x50000000 <<< 128) ||| (4096#512 <<< 192) }; judgeDesc imr (rs 8 .waiting).m j = none := by decide +kernel

theorem meets_RingsFetchAndReset_2 :
    imr.rPlace 255 ≠ 2 ∧ (rs 0x1F .waiting).m.linkFor (imr.rFn 255) = 2 ∧ fetchRoom imr (rs 0x1F .waiting).m 255 = 1 ∧ ({ (rs 0x1F .waiting).m with dqu := { rings := [(255, { st := .resetting })] } } : Mach).dqu.jobs = [] ∧ ((rs 0x1F .waiting).m.dqu.jobs.any fun j => j.ring == 255 && j.stale) = false := by decide +kernel

theorem meets_RingsFetchAndReset_3 :
    (({ imr with regs := imr.regs ++ [(oRing 255 5, 0x00010100#32)] } : Image).rCfg 255).icnt ≠ 0 ∧ (({ imr with regs := imr.regs ++ [(oRing 255 5, 0x00010100#32)] } : Image).rCfg 255).itime ≠ 0 ∧ mayDispatch imr (rs 0x1F .waiting).m (jb 0x1F .waiting) = true ∧ mayDispatch imr (rs 0x1E .waiting).m (jb 0x1E .waiting) = true ∧ mayDispatch imr (rs 0x40 .waiting).m (jb 0x40 .waiting) = true ∧ (judgeDesc imr (rs 0x40 .waiting).m (jb 0x40 .waiting)).isSome = true := by decide +kernel

theorem meets_RingsFetchAndReset_4 :
    ({ moves := [{ page := 3, kind := .promote, cls := 1, started := true }] } : Ledger).moveOf 3 = some { page := 3, kind := .promote, cls := 1, started := true } ∧ ({} : Mach).hasWork (.move 3) = false ∧ ({ chn := { decodes := [{ page := 3, wedge := 7, gen := 0, home := 0, tag := { cls := .table } }] } } : Mach).decoding 3 7 = true ∧ ({} : Mach).inlineOut 3 7 = false ∧ Calm (rs 0x1F .waiting).m ∧ ((rs 0x1F .waiting).m.ring 255).sqHead < (imr.rCfg 255).size ∧ ({} : Mach).hasWork (.decode 3 7) = false := by decide +kernel

theorem meets_JobsAndPageCommands_1 :
    let j := jd 1 0x1000 0x3000 4 0 0; JobRuns (js j {}) 0 95 j ∧ hostKey imj j.ring = 0 ∧ j.srcDpa = false ∧ j.dstDpa = false ∧ j.len - j.prog ≤ 8192 := by decide +kernel

theorem meets_JobsAndPageCommands_2 :
    let j := jd 1 0x1000 0x3000 9000 0 0; JobRuns (js j {}) 0 95 j ∧ 8192 < j.len - j.prog ∧ ((js j {}).m.ring 255).st = .active ∧ (js j {}).m.chn.preempt.find? (fun p => p.1 == 95) = none := by decide +kernel

theorem meets_JobsAndPageCommands_3 :
    let j := jd 3 0x1000 0x3000 0 0x600 64; JobRuns (js j {}) 0 95 j ∧ j.sStart = true ∧ j.sEnd = true ∧ j.cultEn = false ∧ j.aux = 0 ∧ (Yelrin.emptyForm j.fmt).length ≤ j.dlen := by decide +kernel

theorem meets_JobsAndPageCommands_4 :
    LastPage (js (pj 8) { st := 1 }) (pj 8) pgj { st := 1 } ∧ (js (pj 10) { st := 1 }).m.led.moveOf pgj = none ∧ (js (pj 10) { st := 1 }).m.pins + 1 ≤ (imj.reg oPinMax).toNat ∧ retiredNow imj (js (pj 0x18) {}).m pgj = false := by decide +kernel

theorem meets_JobsAndPageCommands_5 :
    let s := js (pj 12) {}; let t := { s with m := takenAll s.m (jobAgent s.live (pj 12)) pgj }; JobOn t 0 95 (pj 12) ∧ Calm { t.m with home := { t.m.home with trk := [] } } ∧ (∀ r ∈ t.m.home.trk, r.ofWho (whoJob 0) = true ∧ r.kind = .take) ∧ LastPage t (pj 12) pgj {} ∧ takeAll t.m (jobAgent t.live (pj 12)) pgj = none ∧ eShared (t.live.extent (pgj / 65536)) = false ∧ eMirror (t.live.extent (pgj / 65536)) = false ∧ t.m.led.moveOf pgj = none := by decide +kernel

theorem meets_JobsAndPageCommands_6 :
    (js (pj 8) {}).m.deniedPage (whoJob 0) = none ∧ (let x := letGo (js (pj 0x18) { st := 1 }).m (whoJob 0) (backingLines imj (js (pj 0x18) { st := 1 }).m pgj (fun _ => true)); Leave x (whoJob 0) 0 (backingLines imj x pgj (fun _ => true))) := by decide +kernel

theorem meets_JobsAndPageCommands_7 :
    let j := { jd 0x10 0 0 1 0 0 with held := [3#8, 0#8, 0#8, 0#8, 0#8, 1#8, 0#8, 0#8, 0#8] }; let s := js j {}; j.prog + 1 = j.len ∧ (match tallyRec s.live 2 (s.live.rOwner j.ring) (ofBytes 64 (j.item 8 0).1) with | some r => s.m.tally.coal.find? r.line == none && s.m.coalVictim r.line == none && !s.m.tally.direct.contains (r.line / 2 ^ 22) | none => false) = true := by decide +kernel

theorem meets_JobsAndPageCommands_8 :
    let j := { jd 0x11 0 0x3000 1 0 0 with held := [3#8, 0#8, 0#8, 0#8, 0#8, 1#8, 0#8, 0#8, 0#8] }; (((List.range (j.len - j.prog)).map (fun i => j.item 8 i)).all (fun x => !x.2)) = true := by decide +kernel

theorem meets_JobsAndPageCommands_9 :
    let j := { jd 0x14 0 0x3000 1 0 0 with held := [1#8], res := List.replicate 16 7#8 }; (j.table imj).any (fun x => decide (j.len ≤ j.res.length / (8 + x.vlen))) = true ∧ j.first = none := by decide +kernel

theorem meets_JobsAndPageCommands_10 :
    let j := { jb 0x0B .queued with stale := false }; j.op ≠ 0x18 ∧ (pg { st := 4, gen := 511 } me1).ent? 0 = some { st := 4, gen := 511 } := by decide +kernel

theorem meets_JobsAndPageCommands_11 :
    (pg { st := 1 } me1).ent? 0 = some { st := 1 } ∧ (pg { st := 1 } me1).pins + 1 ≤ (({ regs := [(oPinMax, 1#32)] } : Image).reg oPinMax).toNat ∧ (({} : Image).reg oPinMax).toNat < (pg { st := 1 } me1).pins + 1 ∧ (pg { st := 1 } me1).led.moveOf 0 = none ∧ dpaOk {} me1 0 0 = false ∧ dpaOk im1 me1 0 5 = true ∧ eFlat (({ im1 with ext := [(5, 0x20440#64)] } : Image).extent 5) = true := by decide +kernel

theorem meets_JobsAndPageCommands_12 :
    let b := Yelrin.emptyForm 1; let j := jd 4 0x5000 0x3000 b.length 0x601 64; let s := js j {}; let s := { s with m := { s.m with hostMem := [(0, Memory.putAll hostBg [] 0x5000 b)] } }; (match decLoop imj (min j.dlen 8192) (j.len + 4) { fmt := j.fmt, chk := Yelrin.chkInit j.fmt } { j with asked := 0 } s.m with | .ok (.finished, d, false) _ _ => !s.m.copyingSlot d.cult | _ => false) = true := by decide +kernel

theorem meets_ChurnsTakeParkAndFault_1 :
    (List.range 96).any full1.m.churnIdle = false ∧ full1.m.lendable 95 4096 = true ∧ (full1.m.chq (4 * (95 / 8))).head? = some (.decode 3 7) ∧ full1.m.chn.avoid = [] ∧ (∀ cl, cl < 12 → cl ≠ 95 / 8 → full1.m.chq (4 * cl) = []) := by decide +kernel

theorem meets_ChurnsTakeParkAndFault_2 :
    (rs 8 .parked).m.dqu.lostPrq.contains 0 = false ∧ (let x := { (rs 8 .parked).m with dqu := { (rs 8 .parked).m.dqu with lostPrq := [0] } }; x.dqu.lostPrq.contains 0 = true) ∧ (∀ h : Fin 8, imr.rFn 255 = h.val → (rs 8 .parked).m.holdsFrom h = false) ∧ (jb 8 (.running 95)).took = [] ∧ (jb 8 (.running 95)).applying imr = false ∧ (jb 8 (.running 95)).dstDpa = false ∧ (rs 8 (.running 95)).m.home.done = [] ∧ Calm (rs 8 (.running 95)).m := by decide +kernel

theorem meets_ChurnsTakeParkAndFault_3 :
    ({ chn := { queues := [(46, [.move 3])] } } : Mach).churnIdle 95 = true ∧ ({ chn := { queues := [(46, [.move 3])] } } : Mach).pick 95 = some (46, .move 3) ∧ ({ chn := { run := [(95, .move 3)], queues := [(44, [.decode 3 7])] } } : Mach).chq (4 * (95 / 8)) = [.decode 3 7] ∧ Quiet State.reset := by decide +kernel

theorem meets_ChurnsTakeParkAndFault_4 :
    (List.range 96).any ({ chn := { run := (List.range 96).map (fun c => (c, .move c)) } } : Mach).churnIdle = false ∧ (rs 8 (.parkWait 95 true)).m.chn.run = [(95, .job 0)] ∧ (rs 8 (.parkWait 95 true)).m.chn.slots < 256 ∧ (jb 8 .parked).prqSent = false ∧ (rs 8 .parked).m.chn.priBlocked.contains (imr.rFn 255) = false ∧ (jb 8 (.running 95)).ctx = none := by decide +kernel

theorem meets_YokeLinkAndFlits_1 :
    State.reset.commit.op ≠ .arming ∧ Calm (yo { link := .up }) ∧ Calm State.reset.m := by decide +kernel

theorem meets_YokeLinkAndFlits_2 :
    Quiet State.reset ∧ State.reset.commit.op ≠ .armed ∧ State.reset.m.rbit oYkCtl 0 = true ∧ State.reset.m.yoke.up = false ∧ State.reset.m.yoke.link ≠ .held ∧ (st (yo { link := .held, roleConflict := true })).m.yoke.link = .held ∧ (st (yo { link := .retrain, opOwn := true })).m.yoke.opOwn = true ∧ (st (yo { link := .up })).m.yoke.up = true ∧ (0#32 : Word).getLsbD 0 = false := by decide +kernel

theorem meets_YokeLinkAndFlits_3 :
    flitGood {} 1#2048 = false ∧ fld (0xFFF0000#2048) 27 16 = ({} : Yoke).acked ∧ fld (0#2048) 27 16 ≠ ({} : Yoke).acked ∧ (512 ≤ (fld (0x2000#2048) 15 4 + 4096 - 0) % 4096 ∧ (fld (0x7FF0#2048) 15 4 + 4096 - 0) % 4096 < 2048) ∧ ({} : Yoke).rxHeld.get 0 3 < vcRoom 3 := by decide +kernel

theorem meets_YokeLinkAndFlits_4 :
    flitGood {} fg0 = true ∧ fld fg0 27 16 = 4095 ∧ fld fg0 15 4 = 0 ∧ fg0.getLsbD 2 = false ∧ fg0.getLsbD 28 = false ∧ fg0.getLsbD 51 = false := by decide +kernel

theorem meets_MirrorRecordsAreNumbered_1 :
    Quiet (st (yo { link := .up })) ∧ State.reset.commit.op ≠ .armed ∧ (st (yo { link := .up })).m.yoke.link = .up ∧ hKind (withKind 0#64 4) = 4 ∧ eMirror (({} : Image).extent (hLine 0#64 / 64 / 65536)) = false ∧ (([(7, 0, 0)] : List (Nat × Nat × Nat)).find? fun r => r.1 == (7#32 : BitVec 32).toNat) = some (7, 0, 0) := by decide +kernel

theorem meets_MirrorRecordsAreNumbered_2 :
    recBad {} 5#64 = true ∧ (yo { rxq0 := [(5#64, some 3#512, 0)] }).yoke.rxq0 = (5#64, some 3#512, 0) :: [] := by decide +kernel

theorem meets_MirrorStatesFollowTheirRules :
    Quiet (st (yo { link := .up, st := .mirrored })) ∧ (st (yo { link := .up, vecWant := true })).m.yoke.vecWant = true ∧ (st (yo { link := .up, st := .split, cause := 4 })).m.yoke.cause = 4 ∧ (st (yo { link := .up })).m.yoke.peerA = false ∧ (st (yo { link := .up, st := .resyncSrc })).m.yoke.copying = [] ∧ ((st (yo { link := .up, trust := true })).m.yoke.trust && (yo {}).peerId == 0#64) = true ∧ (3#8 : Byte) = 3#8 := by decide +kernel

theorem meets_PairedApplyIsAgreed :
    Quiet (st (yo { link := .up })) ∧ ({ commit := { op := .armed }, m := yo { link := .up, phase := 1 } } : State).commit.op = .armed ∧ ({ commit := { op := .arming } } : State).commit.op = .arming ∧ digest State.reset.stage = digest State.reset.stage ∧ (yo {}).beforeFrame (((100#32 : BitVec 32).toNat + 2 ^ 32 - 8) % 2 ^ 32) = true ∧ (yo {}).beforeFrame (((0#32 : BitVec 32).toNat + 2 ^ 32 - 8) % 2 ^ 32) = false := by exact ⟨by decide, by decide, by decide, rfl, by decide +kernel, by decide +kernel⟩

theorem meets_DecodersMapHostAddresses_1 :
    Quiet up1 ∧ (up1.m.head 0).st.linked = true ∧ up1.m.holdsFrom 0 = false ∧ (up1.m.head 0).post = [] ∧ (ldPart up1.live up1.m 0 0).isSome = true ∧ ((hd { st := .active }).head 0).decoders = [] ∧ de1.idx = 0 ∧ 0 < de1.size ∧ (State.reset.m.head 0).st.linked = false ∧ (de1.base ≤ 2 ^ 28 - 1 ∧ 2 ^ 28 - 1 < de1.base + de1.size) ∧ de1.base + de1.size ≤ 2 ^ 28 ∧ (st { wld := { waitImage := true } }).m.wld.waitImage = true := by decide +kernel

theorem meets_DecodersMapHostAddresses_2 :
    de1.base ≤ 256 ∧ 256 ≤ 511 ∧ 511 < de1.base + de1.size ∧ 0 < de1.gran ∧ 0 < de1.ways ∧ (256 - de1.base) / de1.gran = (511 - de1.base) / de1.gran := by decide +kernel

/-! ### Single steps -/

theorem test_step_runs_the_front :
    nx (step { pending := [.check, .apply 0#24] }) = { pending := [.apply 0#24], commit := { op := .check false } } := by decide +kernel

theorem test_step_idles_one_cycle :
    nx (step {}) = { m := { core := 1 } } := by decide +kernel

theorem test_class_a_latches_within_its_step :
    Quiet (nx (step { pending := [.classADetect (oc 105)] })) ∧ (nx (step { pending := [.classADetect (oc 105)] })).latch = true := by decide +kernel

theorem test_staged_write_keeps_its_fields :
    nx (exec (.stagedWrite 0x180#26 0x77777777#32) {}) = { stage := ({} : Image).setReg 0x180 0x77777777#32 } := by decide +kernel

theorem test_staged_write_reaches_the_last_hash_key :
    nx (exec (.stagedWrite 0xB04FDC#26 0x77777777#32) {}) = { stage := ({} : Image).setReg 0xB04FDC 0x77777777#32 } := by decide +kernel

theorem test_ext_data_hi_stores_the_held_word :
    let s : State := { commit := { holdLo := 7#32 } }; nx (exec (.extDataHiWrite 5#32) s) = { s with stage := s.stage.setExtent 0 (extWord 7#32 5#32), commit := { s.commit with holdHi := 5#32 }, m := s.m.ixAuto oExtIndex } := by decide +kernel

theorem test_ext_fill_repeats :
    let s : State := { commit := { holdLo := 7#32, holdHi := 3#32 } }; nx (exec (.extFill 5#32) s) = { s with stage := (List.range 5).foldl (fun i t => i.setExtent (0 + t) (extWord 7#32 3#32)) s.stage, m := s.m.ixAdd oExtIndex 5 } := by decide +kernel

theorem test_busy_write_aborts_the_armed_apply :
    let s : State := { commit := { op := .armed } }; (nx (exec (.extDataHiWrite 1#32) s)).commit.lost = true ∧ (nx (exec (.extDataHiWrite 1#32) s)).commit.op = .idle ∧ (nx (exec (.extDataHiWrite 1#32) s)).commit.code = 0x31#8 := by decide +kernel

theorem test_lost_write_fails_the_check :
    let s : State := { commit := { op := .check false, lost := true } }; (nx (exec .checkDone s)).commit.code = 5#8 ∧ (nx (exec .checkDone s)).commit.checked = false := by decide +kernel

theorem test_check_begins :
    nx (exec .check {}) = { commit := { op := .check false } } := by decide +kernel

theorem test_apply_judges_its_key_first :
    nx (exec (.apply 0#24) {}) = { commit := { code := 3#8 } } ∧ nx (exec (.pairedApply 0#24) {}) = { commit := { code := 3#8 } } ∧ nx (exec (.apply applyKey) {}) = { commit := { code := 4#8 } } ∧ nx (exec (.pairedApply applyKey) {}) = { commit := { code := 4#8 } } := by decide +kernel

theorem test_discard_restores_the_live_image :
    nx (exec .discard { commit := { checked := true, lost := true }, stage := { map := [(0, 1)] } }) = {} := by decide +kernel

theorem test_power_targets_arm_and_disarm :
    nx (exec .pwrTargetDrowse {}) = st { pwr := { target := 1 } } ∧ nx (exec .pwrTargetDeep {}) = st { pwr := { target := 2 } } ∧ nx (exec .pwrDisarm (st { pwr := { target := 2 } })) = st { pwr := { result := 11 } } ∧ nx (exec .pwrDisarm {}) = {} := by decide +kernel

theorem test_arm_timeout_reports_the_condition :
    nx (exec .armToExpire (st { pwr := { target := 2 } })) = st { pwr := { target := 0, result := 6 } } := by decide +kernel

theorem test_wake_leaves_drowse :
    (nx (exec (.wake 4#8 5) (st { pwr := { st := .drowse } }))).m.pwr.st = .waking := by decide +kernel

theorem test_l1_entry_and_turn_off :
    let s := st (hd { st := .active }); nx (exec (.linkL1Entry (.head 0)) s) = { s with m := s.m.setHead 0 { s.m.head 0 with lpwr := .l1 } } ∧ nx (exec (.pmeTurnOff (.head 0)) s) = { s with m := s.m.setHead 0 { s.m.head 0 with lpwr := .l2 } } := by decide +kernel

theorem test_idcode_reads_its_value :
    nx (exec .bypass {}) = st { tst := { ir := 0xFF } } ∧ nx (exec .idcode {}) = st { outbox := [.tap 1 0x0816098B] } := by decide +kernel

theorem test_scan_clears_the_keys :
    nx (exec .scanEnable {}) = {} := by decide +kernel

theorem test_self_test_abort_is_marked :
    nx (exec (.sstAbort sstKey) (st { tst := { st := 2 } })) = st { tst := { st := 2, stopped := [abortMark] } } := by decide +kernel

theorem test_key_clear_empties_the_slot :
    let t := nx (exec .keyRequestDone (st { cry := { busy := some (2, 5, 0), slots := [(5, { key1 := 0#256, key2 := 0#256, owner := 0, kid := 0#32 })] }, wld := { keeper := .up } })); t.m.cry.result = 1 ∧ t.m.cry.slots = [] ∧ t.m.cry.busy = none ∧ t.m.rbit oCryEvt 0 = true := by decide +kernel

theorem test_forced_record_is_real_when_the_syndrome_differs :
    let t := nx (exec (.forcePresent 184 (some { oc 184 with syn := 8#32 })) (st { flt := { pend := [(184, 5#32, 1)] } })); (t.m.flt.log.find? 0).any (fun r => r.src == 184 && r.inj && r.real && r.syn == 13#32) := by decide +kernel

theorem test_occurrence_counts_in_the_open_record :
    let s := st { flt := { log := [(511, rc 0 1 65534)] } }; let t := nx (exec (.faultOccurrence (oc 0)) s); t.m.flt.log = [(511, rc 0 1 65535)] ∧ t.m.reg (oFltCnt 0) = 1#32 ∧ t.m.flt.seq = s.m.flt.seq := by decide +kernel

theorem test_clear_needs_the_count :
    let s := st { flt := { log := [(511, rc 0 1 65535)] } }; nx (exec (.fltClr 0xFFFF01FF#32) s) = st { flt := { log := [(511, { rc 0 1 65535 with cleared := true })] } } ∧ nx (exec (.fltClr 0x1FF#32) s) = { s with m := s.m.evb oFltEvt 6 } ∧ nx (exec (.fltClr 0#32) s) = s := by decide +kernel

theorem test_class_a_force_needs_test :
    nx (exec (.fltForceWrite 3 (put 1 9)) {}) = st (({} : Mach).evb oFltEvt 7) := by decide +kernel

theorem test_full_spill_ring_loses_the_record :
    let s := st { flt := { toSpill := [(3, rc 0 1 1)] }, regs := [(oSpillCfg, 1#32)], mgmt := { up := true }, wld := { steward := .up } }; let t := nx (exec .faultSpill s); t.m.flt.toSpill = [] ∧ t.m.flt.prod = 0 ∧ t.m.reg oCntSpillLost = 1#32 := by decide +kernel

theorem test_non_owner_is_denied :
    let s := st { wld := { keeper := .up, steward := .up, own := [(0, { keeper := true })] } }; (nx (exec (.internalBusAccess (.entry 0) false 5#24) s)).m.outbox = [Out.busRsp busDenied 0#32] ∧ (nx (exec (.internalBusAccess (.entry 0) true 5#24 .dma (some 7#32)) s)).m.wld.dev = [] := by decide +kernel

theorem test_release_and_claim :
    let s := st { wld := { keeper := .up, steward := .up, own := [(17, { keeper := false })] } }; nx (exec (.blockRelease 17) s) = { s with m := s.m.setOwn 17 { keeper := false, st := 1, target := true } } ∧ nx (exec (.keeperClaim 17) s) = { s with m := (s.m.setOwn 17 { keeper := false, st := 1, target := true, claim := true }).send (.worldIrq false 17) } ∧ nx (exec (.internalBusAccess (.entry 17) false 5#24 .dma (some 9#32)) s) = { s with m := ({ s.m with wld := { s.m.wld with dev := s.m.wld.dev.insert (blockKey 17 5#24) 9#32 } } : Mach).send (.busRsp busOk 0#32) } := by decide +kernel

theorem test_hand_over_reset_opens_the_gate :
    let s := st { wld := { keeper := .up, steward := .up, own := [(17, { keeper := true, st := 2, target := false, gated := true })] } }; (nx (exec (.handoverResetDone 17) s)).m.own 17 = { keeper := false } ∧ nx (exec (.internalBusAccess (.entry 17) true 5#24) s) = { s with m := (s.m.noted (.core 0 true)).send (.busRsp busHandover 0#32) } := by decide +kernel

theorem test_keeper_restart_unseals_the_kek :
    let s := st { wld := { keeper := .restarting, steward := .restarting }, cry := { sealedKek := some 1#256 } }; let t := nx (exec (.keeperRestartDone true) s); t.m.wld.keeper = .up ∧ t.m.wld.kRestarts = 1 ∧ t.m.cry.kek = some 1#256 ∧ (nx (exec (.keeperRestartDone false) s)).m.wld.keeper = .failed := by decide +kernel

theorem test_key_set_go_and_stop :
    let s := st (hd { st := .active }); nx (exec (.query 0) s) = { s with m := s.m.send (.ideKm 0 0) } ∧ nx (exec (.keyProg 0 1 7#256) s) = { s with m := (s.m.setHead 0 { s.m.head 0 with keys := [(1, 7#256)], keysNew := true }).send (.ideKm 0 1) } := by decide +kernel

theorem test_token_without_keeper_is_refused :
    let t := nx (exec .tokenDone (st { wld := { tokenBusy := true, token := [(0, 1#32)] } })); t.m.wld.tokenResult = 7 ∧ t.m.wld.token = [(0, 1#32)] ∧ t.m.wld.tokenBusy = false ∧ t.m.rbit oWldEvt 7 = true ∧ (let u := nx (exec .tokenDone (st { wld := { keeper := .up, tokenBusy := true, token := [(0, 1#32)] } })); u.m.wld.tokenResult = 2 ∧ u.m.wld.token = []) := by decide +kernel

theorem test_reset_needs_its_key :
    nx (exec (.warm 0#24 drop0) {}) = {} ∧ nx (exec (.cold 0#24 env0) {}) = {} ∧ nx (exec (.partition 0#24) {}) = {} ∧ nx (exec (.warm rstKey drop0) { latch := true }) = { latch := true } := by decide +kernel

theorem test_link_up_takes_the_lanes_it_has :
    let t := nx (exec (.linkL0Reached 0 32 5 true (some 64) true) (st { hd { st := .training } with pwr := { memReady := true } })); (t.m.head 0).st = .active ∧ (t.m.head 0).width = 16 ∧ (t.m.head 0).bi = true ∧ (t.m.head 0).memActive = true := by decide +kernel

theorem test_memory_ready_starts_service :
    let t := nx (exec .memoryReady (st { hd { st := .ioOnly, speed := 2 } with led := { formatted := true }, pop := { used := [11] }, mcs := { trained := [(11, 1)] } })); t.m.pwr.memReady = true ∧ (t.m.head 0).st = .active ∧ (t.m.head 0).memActive = true := by decide +kernel

theorem test_lost_link_empties_the_head :
    ∀ p ∈ [(Instr.linkDown 0 drop0, HeadSt.down), (.perstAssert 0 drop0, .down), (.headDisable 0 drop0, .disabled), (.refclkLoss .a [] drop0, .down)], let t := nx (exec p.1 (st (hd { st := .active, width := 16, qRt := [{}], rxReq := [{}] }))); (t.m.head 0).st = p.2 ∧ (t.m.head 0).width = 0 ∧ (t.m.head 0).qRt = [] ∧ (t.m.head 0).rxReq = [] ∧ (t.m.head 0).memActive = false := by decide +kernel

theorem test_drop_counts_saturate :
    let t := nx (exec (.dropEntriesFreed 0) (st (hd { drop := some (70000, 1, 2, 3) }))); (t.m.head 0).drop = none ∧ t.m.reg (oDrop0 0) = (put 0xFFFF 0 ||| put 1 16) ∧ t.m.reg (oDrop1 0) = (put 2 0 ||| put 3 16) := by decide +kernel

theorem test_management_link_falls :
    ∀ c ∈ [Instr.mpPerstNAssert, .mgmtLinkDown], let t := nx (exec c (st { mgmt := { up := true } })); t.m.mgmt.up = false ∧ t.m.rbit oMptEvt 0 = true ∧ nx (exec c {}) = {} := by decide +kernel

theorem test_power_on_reset_starts_anew :
    let t := nx (exec (.powerOnReset env0) { lcPend := 1, epoch := 7#32, latch := true, live := { map := [(0, 1)] } }); t.live = {} ∧ t.stage = {} ∧ t.epoch = 0#32 ∧ t.lcCur = 1 ∧ t.latch = false := by decide +kernel

theorem test_cold_reset_keeps_the_latch :
    let t := nx (exec (.cold rstKey env0) { lcPend := 1, epoch := 7#32, latch := true, live := { map := [(0, 1)] } }); t.live = {} ∧ t.stage = {} ∧ t.epoch = 0#32 ∧ t.lcCur = 1 ∧ t.latch = true := by decide +kernel

theorem test_latch_disables_mailbox_writes :
    let s : State := { latch := true, m := hd { st := .insecure } }; ∀ c ∈ [Instr.setEventInterruptPolicy 0 7#40, .setAlertConfiguration 0 1#96, .setTimestamp 0 9#64, .clearEventRecords 0 4 true []], nx (exec c s) = { s with m := s.m.mbRet 0 mbMediaDisabled [] } := by decide +kernel

theorem test_poison_outside_the_partition_is_refused :
    nx (exec (.injectPoison 0 0#45) up1) = { up1 with m := up1.m.mbRet 0 mbInvalidInput [] } ∧ nx (exec (.scanMedia 0 0#45 4) up1) = { up1 with m := up1.m.mbRet 0 mbInvalidInput [] } := by decide +kernel

theorem test_dynamic_capacity_accepted :
    let s := { up1 with m := up1.m.setMb 0 { offered := [(0, [0])] } }; let t := nx (exec (.addDynamicCapacityResponse 0 0 [0]) s); t.m.dc.get 0 0 = 2 ∧ Out.mbox 0 mbOk [] ∈ t.m.outbox := by decide +kernel

theorem test_revision_reads_a0 :
    let s := st { mgmt := { up := true } }; nx (exec (.counterLoRead { path := .mgmt, bar := .control, off := 4#26, dws := 1 }) s) = { s with m := s.m.send (.regData .mgmt [0x0A00#32]) } := by decide +kernel

theorem test_register_writes_by_size_and_poison :
    let s := st { mgmt := { up := true } }; let w := fun (off : BitVec 26) (dws : List (Word × BitVec 4)) ep => nx (exec (.regWrite { path := .mgmt, bar := .control, off, dws, ep }) s); w 0xC#26 [(5#32, 0xF#4)] false = { s with m := s.m.setReg oScratch 5#32 } ∧ w 0xC#26 [(5#32, 0xF#4), (5#32, 0xF#4), (5#32, 0xF#4)] false = { s with m := (s.m.evt oAccErr 2#32).setReg oAccAddr 0x4000000C#32 } ∧ w 0xC#26 [(5#32, 0xF#4)] true = { s with m := (s.m.evt oAccErr 4#32).setReg oAccAddr 0x4000000C#32 } ∧ w 0xC#26 [(5#32, 7#4)] false = { s with m := (s.m.evt oAccErr 1#32).setReg oAccAddr 0x4000000C#32 } ∧ w 0x18#26 [(5#32, 0xF#4)] false = s := by decide +kernel

theorem test_values_out_of_range_are_not_taken :
    [Instr.qcfgWrite 0 0x02000200#32, .homTrkCfgWrite 0x04000201#32, .homSnpToWrite 9#32, .homSnpToWrite 1000001#32, .mcQcfgWrite 11 0x4040#32, .mcLatWrite 11 1 0x130014#32, .scbCtlWrite 0x3800#32].all fun c => decide (nx (exec c {}) = {}) := by decide +kernel

theorem test_eight_churns_stay_enabled :
    (nx (exec (.chnEnWrite 0 0#32) {})).m.reg (oChnEn 0) = 0#32 ∧ (let s := st { regs := [(oChnEn 1, 0#32), (oChnEn 2, 0#32)] }; nx (exec (.chnEnWrite 0 0x7F#32) s) = s) := by decide +kernel

theorem test_frozen_counter_write :
    let s := st { regs := [(oPmuCtl, 2#32)], pmu := { cnt := [(255, 2 ^ 40)] } }; nx (exec (.counterWrite 0x31FF4#26 9#32) s) = { s with m := { s.m with pmu := { cnt := [(255, 2 ^ 40 + 9)] } } } := by decide +kernel

theorem test_counter_wrap_sets_overflow :
    let t := nx (exec (.counterWrap (.prog 255)) (st { regs := [(oPmuCtl, 1#32), (oPmuGrp, 0x8000#32), (oSel 255, 0x200000#32)], pmu := { cnt := [(255, 2 ^ 48 - 1)] } })); t.m.pmu.cnt.get 0 255 = 0 ∧ t.m.rbit (oOvf 7) 31 = true := by decide +kernel

theorem test_sample_ring_read_advances :
    let s := st { pmu := { rd := 32767, wr := 0, ring := [(32767, [7#8])] } }; (nx (exec .smpData0Read s)).m.pmu.buf = [7#8] ∧ (nx (exec .smpData7Read s)).m.pmu.rd = 0 ∧ (nx (exec .smpData7Read {})).m.pmu = {} := by decide +kernel

theorem test_snoop_answer_and_timeout :
    let s := st { hd { st := .active } with home := { snoops := [{ head := 0, line := 5, kind := 2, timeout := 2000 }], sf := [(5, { pres := 1#8 })] } }; (nx (exec (.birsp 0 5 .i) s)).m.home.snoops = [] ∧ nx (exec (.biconflict 0 5) s) = { s with m := s.m.send (.biConflictAck 0 5) } ∧ (let t := nx (exec (.snoopTimeout 0 5) s); t.m.reg oToLo = 5#32 ∧ t.m.rbit oHomEvt 0 = true ∧ t.m.unresp 0 = true ∧ t.m.home.snoops = []) := by decide +kernel

theorem test_late_answer_is_counted :
    let s := st (hd { st := .active }); nx (exec (.birsp 0 5 .i) s) = { s with m := (s.m.bump oCntLate).evb oHomEvt 1 } ∧ nx (exec (.snoopTimeout 0 5) s) = settle { s with m := coreCycle s.live s.m } := by decide +kernel

theorem test_retired_page_reads_poison :
    (serve {} (pg { st := 5 } { home := { trk := [{ id := 4, kind := .read .noOp }] } }) { id := 4, kind := .read .noOp }).outbox.any (fun o => match o with | .memData 0 0 d true _ => d == BitVec.allOnes 512 | _ => false) := by decide +kernel

theorem test_unwritten_page_reads_zeros :
    (serve {} (pg { st := 0 } { home := { trk := [{ id := 4, kind := .read .noOp }] } }) { id := 4, kind := .read .noOp }).outbox.any (fun o => match o with | .memData 0 0 d false _ => d == 0#512 | _ => false) := by decide +kernel

theorem test_misaligned_tally_write_is_bad :
    nx (exec (.tallyRecordPost 0 4#23 8 [(0#64, true)]) up1) = { up1 with m := (up1.m.evb oTlyEvt 0).bump (oTlyCnt 4) } := by decide +kernel

theorem test_saturating_merge :
    nx (exec (.tallyRecordPost 0 8#23 8 [(0#64, true)]) up1) = settle { up1 with m := up1.m.outOfPart 0 5 (0x800000 + 8) } := by decide +kernel

theorem test_format_needs_its_key :
    nx (exec (.format 1#24) (st me1)) = st me1 ∧ nx (exec (.format 0x5C1EA2#24) up1) = { up1 with m := { up1.m with led := { up1.m.led with fmtResult := 2 } } } ∧ nx (exec (.format 0x5C1EA2#24) {}) = st { led := { fmtResult := 3 } } := by decide +kernel

theorem test_format_done_builds_the_ledger :
    let t := nx (exec .formatDone (st (bw me1r .format whoFormat (64 * ((fmtRuns {} me1r).1 + (fmtRuns {} me1r).2))))); t.m.led.formatted = true ∧ t.m.led.fmtResult = 1 ∧ t.m.led.fseq = 0 ∧ t.m.reg oCntLeak = 0#32 := by decide +kernel

theorem test_frame_is_allocated :
    let x := wl (pg {} me1) (fun l => { l with wantFrame := [0], pool := [(9, 1)] }); (frameAllocate {} x 0).ent? 0 = some { st := 1, ma := 9, gen := 1 } ∧ (frameAllocate {} x 0).led.pool = [] := by decide +kernel

theorem test_retire_quarantines_the_frame :
    let t := nx (exec .retire { live := imh, m := pg { st := 1, ma := 5, gen := 511 } me1 }); t.m.led.quarFrames = [5] ∧ t.m.led.cmdResult = 1 ∧ t.m.ent? 0 = some { st := 5, ma := 0, gen := 0 } := by decide +kernel

theorem test_release_returns_the_frame :
    let t := nx (exec .releaseFrame (st (wl me1 (fun l => { l with quarFrames := [0] })))); t.m.led.quarFrames = [] ∧ t.m.led.uncleared = [(0, 1)] ∧ t.m.led.cmdResult = 1 := by decide +kernel

theorem test_promotion_starts :
    let t := nx (exec .moveStart (mv0s .promote false 2)); t.m.ent? 0 = some { st := 3, gen := 4 } ∧ t.m.led.pool = [] ∧ t.m.led.moveOf 0 = some { page := 0, kind := .promote, cls := 1, started := true, dst := some 9, gen := 4 } := by decide +kernel

theorem test_demotion_starts :
    let t := nx (exec .moveStart (mv0s .demote false 1)); t.m.ent? 0 = some { st := 3, gen := 4 } ∧ t.m.led.moveOf 0 = some { page := 0, kind := .demote, cls := 1, started := true, gen := 4 } := by decide +kernel

theorem test_act_is_issued_first :
    let t := nx (exec (.dramCmdIssue 0 1 [] [] .timing) su1); (t.m.sub 1).rq = [{ id := 4, frame := 0, ln := 0, act := true }] ∧ t.m.media = su1.m.media := by decide +kernel

theorem test_urgency_three_at_nine_tenths :
    let t := nx (exec (.urgencyRaise 0 1 4 90) { su1 with m := { su1.m with mcs := { subs := [(1, { rq := [{ id := 4, frame := 0, ln := 0, target := 100 }] })] } } }); (t.m.sub 1).rq = [{ id := 4, frame := 0, ln := 0, target := 100, tag := { urg := 3 } }] := by decide +kernel

theorem test_refresh_debt_is_forced :
    let s := { su1 with m := { su1.m with mcs := { subs := [(1, { debt := [(0, refPostpone {} 0)] })] } } }; let t := nx (exec (.refreshDue 0 1 0) s); (t.m.sub 1).debtOf 0 = refPostpone {} 0 ∧ t.m.rbit (oMcEvt 0) 7 = true := by decide +kernel

theorem test_mark_is_stored :
    let t := nx (exec .mark (st me1)); t.m.scb.marks = [(0, 0)] ∧ t.m.scb.repResult = 1 := by decide +kernel

theorem test_soft_repair_starts :
    let s := st { me1 with scb := { me1.scb with remaps := [{ ch := 0, bank := 0, row := 0, spare := 0, progress := 128 }] } }; (nx (exec (.sppr true) s)).m.scb.rep = .sppr ∧ nx (exec (.sppr false) s) = { s with m := s.m.repEnd 4 } := by decide +kernel

theorem test_sticky_pop_drops_the_front :
    nx (exec (.scbStickyPop 1#32) (st { scb := { sticky := [(1, 2), (3, 4)] } })) = st { scb := { sticky := [(3, 4)] } } := by decide +kernel

theorem test_upset_is_logged :
    let t := nx (exec (.voteAudit [{ kind := 6, index := 4097, copy := 1, agree := true }]) {}); t.m.rbit oScbEvt 6 = true ∧ t.m.reg oVoteLast = (put 6 0 ||| put 1 4) := by decide +kernel

theorem test_doorbell_bounds :
    let s := rs 0x1F .waiting; nx (exec (.doorbellTail none 255 7#32) s) = { s with m := s.m.setRing 255 { s.m.ring 255 with sqTail := 7 } } ∧ nx (exec (.doorbellTail none 255 8#32) s) = { s with m := s.m.dbBad 255 } ∧ nx (exec (.doorbellCqHead none 255 1#32) s) = { s with m := s.m.dbBad 255 } ∧ nx (exec (.doorbellCqHead none 255 0#32) s) = { s with m := s.m.setRing 255 { s.m.ring 255 with cqHead := 0 } } := by decide +kernel

theorem test_completion_record_fields :
    let r := { jb 0x1F (.ended 9 5) with idx := 3, epoch := 7 }.record true; fld r 15 0 = 3 ∧ fld r 23 16 = 9 ∧ fld r 31 24 = 0x1F ∧ fld r 111 64 = 5 ∧ fld r 119 112 = 7 ∧ r.getLsbD 127 = true := by decide +kernel

theorem test_ring_reset_done_clears_its_pointers :
    let s := { rs 0 .waiting with m := { (rs 0 .waiting).m with dqu := { rings := [(255, { st := .resetting, sqTail := 3, cqTail := 2, phase := false })] } } }; (nx (exec (.ringResetDone 255) s)).m.ring 255 = { st := .active } := by decide +kernel

theorem test_pin_counts_and_flips :
    ((pageStep { regs := [(oPinMax, 1#32)] } (pg { st := 1, gen := 511 } me1) (jb 10 .queued) 10 0 { st := 1, gen := 511 }).2.2.ent? 0) = some { st := 4, gen := 0 } := by decide +kernel

theorem test_idle_churn_takes_work :
    (nx (exec (.churnFree 95) (st { chn := { queues := [(46, [.move 3])] } }))).m.chn.run = [(95, .move 3)] := by decide +kernel

theorem test_context_slot_parks_the_job :
    let t := nx (exec .contextSlotFree (rs 8 (.parkWait 95 true))); t.m.chn.run = [] ∧ t.m.chn.slots = 1 ∧ t.m.job? 0 = some { jb 8 .parked with slot := 1 } := by decide +kernel

theorem test_yoke_role_conflict_holds_the_link :
    nx (exec (.yokeTrainingDone false 16 false) {}) = nx (exec (.yokeTrainingDone false 16 false) {}) ∧ (nx (exec (.yokeTrainingDone false 16 false) {})).m.yoke.link = .held ∧ (let t := nx (exec (.yokeTrainingDone true 16 false) {}); t.m.yoke.link = .up ∧ t.m.yoke.credits.get 0 0 = 256 ∧ t.m.yoke.credits.get 0 1 = 32 ∧ t.m.yoke.credits.get 0 3 = 192 ∧ t.m.yoke.st ≠ .degraded ∧ t.m.rbit oYkEvt 0 = true) := by decide +kernel

theorem test_yoke_retrain_and_width :
    let s := st (yo { link := .up, width := 16, opLost := [((1, 0, false), some 9)] }); s.m.ykHeldOff (1, 0, false) = true ∧ nx (exec .ykRetrain s) = s ∧ s.m.ykHeldOff (2, 8, true) = false := by decide +kernel

theorem test_yoke_fatal_reasons :
    (nx (exec .yokePartnerTraining {})).m.yoke.link = .training ∧ (let t := nx (exec (.ykEnWrite 0#32) {}); t.m.yoke.link = .held ∧ t.m.yoke.cause = 3) ∧ (nx (exec (.ykEnWrite 1#32) (st (yo { link := .held })))).m.yoke.link = .training := by decide +kernel

theorem test_acknowledgement_and_rejection :
    let s := st (yo { link := .up, recs0 := [(6, 0, 0), (7, 1, 0)] }); (nx (exec (.ack0 7#32) s)).m.yoke.recs0 = [(7, 1, 0)] ∧ 1 ∈ (nx (exec (.reject0 7#32) s)).m.yoke.map ∧ nx (exec (.reject0 9#32) s) = s := by decide +kernel

theorem test_map_message_sets_units :
    (nx (exec (.map 65535 (1#256 <<< 255)) (st (yo { link := .up, map := [5] })))).m.yoke.map = [5, 65535 * 256 + 255] := by decide +kernel

theorem test_partner_class_a_degrades :
    let t := nx (exec .classA (st (yo { link := .up, st := .mirrored, recs0 := [(1, 1, 1)] }))); t.m.yoke.peerA = true ∧ t.m.yoke.st = .degraded ∧ t.m.yoke.cause = 2 ∧ t.m.yoke.recs0 = [] := by decide +kernel

theorem test_go_ack_at_the_primary :
    let s : State := { commit := { op := .armed, checked := true }, m := { yo { link := .up, phase := 2, frame := 40 } with straps := { yokeRole := true } } }; nx (exec (.goAck 40#32) s) = { s with m := { s.m with yoke := { s.m.yoke with goAcked := true } } } ∧ nx (exec .pairedArmTimeout s) = s ∧ (let t := nx (exec .yokeHbTimeout s); t.commit.op = .idle ∧ t.commit.code = 0x31#8) := by decide +kernel

theorem test_decoder_offset :
    decOffset [{ de1 with skip := 7, ways := 4, base := 2 ^ 28 }] (2 ^ 28 + 1025) = some (7 + 256 + 1) ∧ decOffset [de1] (2 ^ 28) = none := by decide +kernel

theorem test_recovery_image_ends_the_wait :
    let s := st { wld := { waitImage := true } }; nx (exec (.recoveryImageDelivery false 3#24) s) = s ∧ (let t := nx (exec (.recoveryImageDelivery true 3#24) s); t.m.wld.waitImage = false ∧ t.m.wld.steward = .up ∧ t.m.wld.version = 3#24 ∧ t.m.wld.keeper = .up) := by decide +kernel

theorem test_culture_copy_ends_the_apply :
    let t := nx (exec (.cultureCopyDone 63) { commit := { op := .copy 1#8 }, m := { chn := { copying := [63] } } }); t.m.chn.images = [] ∧ t.m.chn.copying = [] ∧ t.commit.op = .idle ∧ t.commit.code = 1#8 := by decide +kernel

theorem test_aborted_test_makes_the_run_incomplete :
    let m : Mach := { tst := { st := 2, stopped := [5] } }; let r : SstRes := { sg 1#32 with thermal := none }; (nx (exec (.sstDone r) (st m))).m.tst.result = 3 := by decide +kernel

theorem test_self_test_passes_or_fails :
    let t := fun f => nx (exec (.sstDone (sg f)) (st { tst := { st := 2 } })); (t 1#32).m.tst.result = 1 ∧ (t 0#32).m.tst.result = 2 ∧ (t 1#32).m.tst.aonOk = true := by decide +kernel

theorem test_misaligned_atomic_is_an_error :
    nx (exec (.atomicOp 0 0 7 0xFFFFFF8#52 { kind := .cas, bytes := 16, op1 := 0#128, op2 := 0#128 } .none) up1) = { up1 with m := up1.m.send (.errMsg 0 7) } := by decide +kernel

theorem test_line_cache_serves_a_read :
    let s := hit { data := 9#512 }; let t := nx (exec (.memRd 0 0 7 0#52 .noOp .none) s); t.m.home.trk = [] ∧ t.m.outbox.any (fun o => match o with | .memData 0 7 d false _ => d == 9#512 | _ => false) := by decide +kernel

theorem test_copy_moves_bytes :
    let j := jd 1 0x1000 0x3000 4 0 0; ended (.copy 0) (js j {}) 0 4 ∧ (nx (exec (.copy 0) (js j {}))).m.host 0 = Memory.putAll hostBg ((js j {}).m.host 0) 0x3000 [1#8, 2#8, 3#8, 4#8] := by decide +kernel

theorem test_write_back_leaves_the_home :
    let s := hit { dirty := true, data := 4#512 }; let t := nx (exec (.writeBack lnh) s); t.m.lcGet lnh = none ∧ (t.m.sub (s.m.subOf (flatFrame imh (lnh / 64)) (lnh % 64))).wq.any (fun w => w.frame == flatFrame imh (lnh / 64) && w.ln == lnh % 64) := by decide +kernel

end Sys2Proof.Tests
end

section
/-! PROOFS. Register accesses (R7, R11-R13, R521-R523) and the registers whose values have ranges (R71, R123, R135, R220, R295, R296). -/

namespace Sys2Proof.Machine

/-! ### The stored words -/

/-- A register reads what was stored in it. -/
@[simp] theorem Mach.reg_setReg_self (m : Mach) (o : Nat) (v : Word) : (m.setReg o v).reg o = v := Tbl.get_set_self ..

/-- A store leaves every other register alone. -/
theorem Mach.reg_setReg_ne (m : Mach) {o p : Nat} (v : Word) (h : p ≠ o) : (m.setReg o v).reg p = m.reg p := by
  unfold Mach.reg
  rw [Mach.setReg_regs]
  by_cases hr : resetWord p = resetWord o
  · rw [hr]
    exact Tbl.get_set_ne _ _ _ h
  · unfold Tbl.set
    split
    · simp [Tbl.get, Tbl.find?_erase_ne _ h]
    · simp [Tbl.get, Tbl.find?_insert_ne _ _ h]

/-- A store leaves nothing to settle where nothing was. -/
theorem quiet_setReg {s : State} (h : Quiet s) (o : Nat) (v : Word) : Quiet { s with m := s.m.setReg o v } := h

/-- A message leaves nothing to settle where nothing was. -/
theorem quiet_send {s : State} (h : Quiet s) (x : Out) : Quiet { s with m := s.m.send x } := h

/-! ### Fields of a written word -/

/-- A write sets every bit of a field of the register, whatever the value (PWR_CFG alone keeps a field whose value is out of range). -/
abbrev Writable (off hi lo : Nat) : Prop := off ≠ oPwrCfg ∧ ∀ i < 32, lo ≤ i → i ≤ hi → (rwMask off).getLsbD i = true

/-- A field lying in a mask takes its bits from the word that is masked in. -/
theorem fld_merge (old v k : Word) (hi lo : Nat) (hk : ∀ i < 32, lo ≤ i → i ≤ hi → k.getLsbD i = true) :
    fld ((old &&& ~~~k) ||| (v &&& k)) hi lo = fld v hi lo := by
  have bit : ∀ i, lo ≤ i → i ≤ hi → ((old &&& ~~~k) ||| (v &&& k)).getLsbD i = v.getLsbD i := by
    intro i hl hh
    by_cases h32 : i < 32
    · simp [hk i h32 hl hh]
    · simp [BitVec.getLsbD_of_ge _ i (Nat.le_of_not_lt h32)]
  refine Nat.eq_of_testBit_eq fun i => ?_
  simp only [fld, Nat.testBit_mod_two_pow, Nat.testBit_shiftRight]
  by_cases hi' : i < hi + 1 - lo
  · exact congrArg (_ && ·) (bit (lo + i) (by omega) (by omega))
  · simp [hi']

/-- Only PWR_CFG keeps a field of its own when a write is out of range. -/
theorem rwValue_of_ne (m : Mach) {off : Nat} (v : Word) (h : off ≠ oPwrCfg) :
    rwValue m off v = (m.reg off &&& ~~~rwMask off) ||| (v &&& rwMask off) := if_neg (fun c => h c.1)

/-- A writable field holds what was written. -/
theorem fld_rwValue (m : Mach) {off hi lo : Nat} (v : Word) (hw : Writable off hi lo) :
    fld (rwValue m off v) hi lo = fld v hi lo := by
  rw [rwValue_of_ne m v hw.1, fld_merge _ _ _ _ _ hw.2]

/-! ### Writes of RW registers -/

/-- A register that can answer takes a value in its range. -/
theorem State.rw_of_inRange {s : State} {off : Nat} {v : Word} (hd : s.deaf off = false) (hr : rangeOk off (rwValue s.m off v) = true) :
    s.rw off v = { s with m := (s.m.setReg off (rwValue s.m off v)).qcfgActs off } := by
  simp [State.rw, Mach.rw, hd, hr]

/-- A value out of a register's range is not taken. -/
theorem State.rw_of_outOfRange {s : State} {off : Nat} {v : Word} (hr : rangeOk off (rwValue s.m off v) = false) : s.rw off v = s := by
  simp [State.rw, Mach.rw, hr]

/-- A register that cannot answer takes no value. -/
theorem State.rw_of_deaf {s : State} {off : Nat} {v : Word} (hd : s.deaf off = true) : s.rw off v = s := by
  simp [State.rw, hd]

/-- Outside a warm reset a register can answer when its head is there and its channel is in use. -/
theorem State.deaf_eq_false {s : State} {off : Nat} (hw : s.m.pwr.warm = none) (ha : s.m.absentReg off = false) (hu : s.m.unusedReg off = false) :
    s.deaf off = false := by
  simp [State.deaf, State.held, hw, ha, hu]

/-- Registers outside the blocks of the heads belong to no absent head. -/
theorem Mach.absentReg_of_headReg {m : Mach} {off : Nat} (h : headReg off = none) : m.absentReg off = false := by
  simp [Mach.absentReg, h]

/-- Registers outside the memory controllers belong to no unused channel. -/
theorem Mach.unusedReg_of_mcReg {m : Mach} {off : Nat} (h : mcReg off = none) : m.unusedReg off = false := by
  simp [Mach.unusedReg, h]

/-- Outside the memory controllers a write does no more than store. -/
theorem Mach.qcfgActs_of_mcReg {m : Mach} {off : Nat} (h : mcReg off = none) : m.qcfgActs off = m := by
  simp [Mach.qcfgActs, h]

/-- A write that is stored: two of its fields read as written, no other register changes. -/
theorem State.rw_stores {s : State} {off : Nat} {v : Word} (hi1 lo1 hi2 lo2 : Nat) (hd : s.deaf off = false)
    (h1 : Writable off hi1 lo1) (h2 : Writable off hi2 lo2) (hr : rangeOk off (rwValue s.m off v) = true) :
    ∃ w, s.rw off v = { s with m := (s.m.setReg off w).qcfgActs off } ∧ fld w hi1 lo1 = fld v hi1 lo1 ∧ fld w hi2 lo2 = fld v hi2 lo2 :=
  ⟨_, State.rw_of_inRange hd hr, fld_rwValue _ _ h1, fld_rwValue _ _ h2⟩

/-- A register outside the memory controllers, written by command `c`, takes exactly the values that `ok` names. -/
def TakesExactly (c : Instr) (s : State) (off hi1 lo1 hi2 lo2 : Nat) (v : Word) (ok : Prop) : Prop :=
  (ok → ∃ w, exec c s = .next { s with m := s.m.setReg off w } ∧ fld w hi1 lo1 = fld v hi1 lo1 ∧ fld w hi2 lo2 = fld v hi2 lo2) ∧
    (¬ ok → exec c s = .next s)

/-- A command that writes an RW register outside the memory controllers takes exactly the values in its range. -/
theorem takesExactly_of_rw {c : Instr} {s : State} {off hi1 lo1 hi2 lo2 : Nat} {v : Word} {ok : Prop} (hc : exec c s = .next (s.rw off v))
    (hd : s.deaf off = false) (hm : mcReg off = none) (h1 : Writable off hi1 lo1) (h2 : Writable off hi2 lo2)
    (hr : rangeOk off (rwValue s.m off v) = true ↔ ok) : TakesExactly c s off hi1 lo1 hi2 lo2 v ok := by
  constructor
  · intro hok
    obtain ⟨w, hw, hf⟩ := State.rw_stores hi1 lo1 hi2 lo2 hd h1 h2 (hr.mpr hok)
    exact ⟨w, by rw [hc, hw, Mach.qcfgActs_of_mcReg hm], hf⟩
  · intro hok
    rw [hc, State.rw_of_outOfRange (Bool.eq_false_iff.mpr (mt hr.mp hok))]

/-! ### The commands that write one register -/

theorem exec_qcfgWrite (h : Fin 8) (v : Word) (s : State) : exec (.qcfgWrite h v) s = .next (s.rw (oHeadQcfg h) v) := rfl
theorem exec_homTrkCfgWrite (v : Word) (s : State) : exec (.homTrkCfgWrite v) s = .next (s.rw oTrkCfg v) := rfl
theorem exec_homSnpToWrite (v : Word) (s : State) : exec (.homSnpToWrite v) s = .next (s.rw oSnpTo v) := rfl
theorem exec_scbCtlWrite (v : Word) (s : State) : exec (.scbCtlWrite v) s = .next (s.rw oScbCtl v) := rfl
theorem exec_mcQcfgWrite (ch : Fin 12) (v : Word) (s : State) : exec (.mcQcfgWrite ch v) s = .next (s.rw (oMcQcfg ch) v) := rfl
theorem exec_mcLatWrite (ch : Fin 12) (i : Fin 2) (v : Word) (s : State) : exec (.mcLatWrite ch i v) s = .next (s.rw (oMcLat ch i) v) := rfl
theorem exec_chnEnWrite (j : Fin 3) (v : Word) (s : State) : exec (.chnEnWrite j v) s = s.op (fun m => chnEnable m j v) := rfl
theorem exec_regWrite (a : WriteReq) (s : State) :
    exec (.regWrite a) s = receivedVia s (pathHead a.path) (.regWrite a) (fun s => .next (settle (writeRequest s a))) := rfl
theorem exec_counterLoRead (a : ReadReq) (s : State) :
    exec (.counterLoRead a) s = receivedVia s (pathHead a.path) (.counterLoRead a) (fun s => .next (settle (readRequest s a))) := rfl

/-! ### HEAD_QCFG, HOM_TRK_CFG, HOM_SNP_TO, SCB_CTL -/

theorem headReg_headQcfg : ∀ h : Fin 8, headReg (oHeadQcfg h) = some (h.val, 0xC) := by decide
theorem mcReg_headQcfg : ∀ h : Fin 8, mcReg (oHeadQcfg h) = none := by decide

theorem writable_headQcfg : ∀ h : Fin 8, Writable (oHeadQcfg h) 25 16 ∧ Writable (oHeadQcfg h) 9 0 := by decide

theorem rangeOk_headQcfg (h : Fin 8) (w : Word) : rangeOk (oHeadQcfg h) w = decide (fld w 25 16 < fld w 9 0) := by
  fin_cases h <;> rfl

theorem deaf_headQcfg {s : State} {h : Fin 8} (hw : s.m.pwr.warm = none) (hh : (s.m.head h).st ≠ .absent) : s.deaf (oHeadQcfg h) = false :=
  State.deaf_eq_false hw (by simp [Mach.absentReg, headReg_headQcfg, hh]) (Mach.unusedReg_of_mcReg (mcReg_headQcfg h))

/-- HEAD_QCFG takes PANIC_OFF below PANIC_ON (R71). -/
theorem qcfgWrite_takesExactly (h : Fin 8) (v : Word) {s : State} (hw : s.m.pwr.warm = none) (hh : (s.m.head h).st ≠ .absent) :
    TakesExactly (.qcfgWrite h v) s (oHeadQcfg h) 25 16 9 0 v (fld v 25 16 < fld v 9 0) := by
  obtain ⟨h1, h2⟩ := writable_headQcfg h
  refine takesExactly_of_rw (exec_qcfgWrite h v s) (deaf_headQcfg hw hh) (mcReg_headQcfg h) h1 h2 ?_
  rw [rangeOk_headQcfg, fld_rwValue _ _ h1, fld_rwValue _ _ h2, decide_eq_true_iff]

theorem rangeOk_trkCfg (w : Word) :
    rangeOk oTrkCfg w = (decide (0 ≤ fld w 9 0 ∧ fld w 9 0 ≤ 512) && decide (16 ≤ fld w 26 16 ∧ fld w 26 16 ≤ 1024)) := rfl

theorem rangeOk_snpTo (w : Word) : rangeOk oSnpTo w = decide (10 ≤ fld w 19 0 ∧ fld w 19 0 ≤ 1000000) := rfl

theorem rangeOk_scbCtl (w : Word) :
    rangeOk oScbCtl w = (decide (1 ≤ fld w 10 1 ∧ fld w 10 1 ≤ 720) && decide (1 ≤ fld w 13 11 ∧ fld w 13 11 ≤ 7)) := rfl

/-- A register of neither a head nor a memory controller can answer outside a warm reset. -/
theorem deaf_of_common {s : State} {off : Nat} (hw : s.m.pwr.warm = none) (hh : headReg off = none) (hm : mcReg off = none) :
    s.deaf off = false :=
  State.deaf_eq_false hw (Mach.absentReg_of_headReg hh) (Mach.unusedReg_of_mcReg hm)

/-- HOM_TRK_CFG takes RT_RSV up to 512 and INT_MAX from 16 to 1,024 (R135). -/
theorem homTrkCfgWrite_takesExactly (v : Word) {s : State} (hw : s.m.pwr.warm = none) :
    TakesExactly (.homTrkCfgWrite v) s oTrkCfg 26 16 9 0 v (fld v 9 0 ≤ 512 ∧ 16 ≤ fld v 26 16 ∧ fld v 26 16 ≤ 1024) := by
  have h1 : Writable oTrkCfg 26 16 := by decide
  have h2 : Writable oTrkCfg 9 0 := by decide
  refine takesExactly_of_rw (exec_homTrkCfgWrite v s) (deaf_of_common hw (by decide) (by decide)) (by decide) h1 h2 ?_
  rw [rangeOk_trkCfg, fld_rwValue _ _ h1, fld_rwValue _ _ h2]
  simp

/-- HOM_SNP_TO takes TIMEOUT_US from 10 to 1,000,000 (R123). -/
theorem homSnpToWrite_takesExactly (v : Word) {s : State} (hw : s.m.pwr.warm = none) :
    TakesExactly (.homSnpToWrite v) s oSnpTo 19 0 19 0 v (10 ≤ fld v 19 0 ∧ fld v 19 0 ≤ 1000000) := by
  have h1 : Writable oSnpTo 19 0 := by decide
  refine takesExactly_of_rw (exec_homSnpToWrite v s) (deaf_of_common hw (by decide) (by decide)) (by decide) h1 h1 ?_
  rw [rangeOk_snpTo, fld_rwValue _ _ h1, decide_eq_true_iff]

/-- SCB_CTL takes its two fields from 1 to 720 and from 1 to 7 (R340). -/
theorem scbCtlWrite_takesExactly (v : Word) {s : State} (hw : s.m.pwr.warm = none) :
    TakesExactly (.scbCtlWrite v) s oScbCtl 13 11 10 1 v (1 ≤ fld v 10 1 ∧ fld v 10 1 ≤ 720 ∧ 1 ≤ fld v 13 11 ∧ fld v 13 11 ≤ 7) := by
  have h1 : Writable oScbCtl 13 11 := by decide
  have h2 : Writable oScbCtl 10 1 := by decide
  refine takesExactly_of_rw (exec_scbCtlWrite v s) (deaf_of_common hw (by decide) (by decide)) (by decide) h1 h2 ?_
  rw [rangeOk_scbCtl, fld_rwValue _ _ h1, fld_rwValue _ _ h2]
  simp [and_assoc]

/-! ### MCn_QCFG and MCn_LAT -/

theorem mcReg_mcQcfg : ∀ ch : Fin 12, mcReg (oMcQcfg ch) = some (ch.val, 8) := by decide
theorem mcReg_mcLat : ∀ (ch : Fin 12) (i : Fin 2), mcReg (oMcLat ch i) = some (ch.val, 0xC + 4 * i.val) := by decide
theorem headReg_mcQcfg : ∀ ch : Fin 12, headReg (oMcQcfg ch) = none := by decide
theorem headReg_mcLat : ∀ (ch : Fin 12) (i : Fin 2), headReg (oMcLat ch i) = none := by decide

theorem writable_mcQcfg : ∀ ch : Fin 12, Writable (oMcQcfg ch) 14 8 ∧ Writable (oMcQcfg ch) 6 0 := by decide
theorem writable_mcLat : ∀ (ch : Fin 12) (i : Fin 2), Writable (oMcLat ch i) 31 16 ∧ Writable (oMcLat ch i) 15 0 := by decide

/-- A channel that is not used takes no queue set-up (R261, R295). -/
theorem unusedReg_mcQcfg (m : Mach) (ch : Fin 12) : m.unusedReg (oMcQcfg ch) = !m.pop.used.contains ch.val := by
  simp [Mach.unusedReg, mcReg_mcQcfg]

/-- A channel that is not used takes no latency bounds (R261, R296). -/
theorem unusedReg_mcLat (m : Mach) (ch : Fin 12) (i : Fin 2) : m.unusedReg (oMcLat ch i) = !m.pop.used.contains ch.val := by
  rw [Mach.unusedReg, mcReg_mcLat]
  fin_cases i <;> simp

theorem rangeOk_mcQcfg (ch : Fin 12) (w : Word) : rangeOk (oMcQcfg ch) w =
    (decide (2 ≤ fld w 6 0 ∧ fld w 6 0 ≤ 64) && decide (0 ≤ fld w 14 8 ∧ fld w 14 8 ≤ 63) && decide (fld w 14 8 < fld w 6 0)) := by
  fin_cases ch <;> rfl

theorem rangeOk_mcLat (ch : Fin 12) (i : Fin 2) (w : Word) : rangeOk (oMcLat ch i) w =
    (decide (20 ≤ fld w 15 0 ∧ fld w 15 0 ≤ 65535) && decide (20 ≤ fld w 31 16 ∧ fld w 31 16 ≤ 65535)) := by
  fin_cases ch <;> fin_cases i <;> rfl

/-- A field of sixteen bits is at most 65,535. -/
theorem fld_le_65535 (v : Word) (lo : Nat) : fld v (15 + lo) lo ≤ 65535 := by
  have e : 15 + lo + 1 - lo = 16 := by omega
  unfold fld
  rw [e]
  omega

/-- MCn_QCFG of a channel in use takes its marks within their bounds, WQ_LOW below WQ_HIGH, and nothing else (R295). -/
theorem rangeOk_mcQcfg_rwValue (m : Mach) (ch : Fin 12) (v : Word) : rangeOk (oMcQcfg ch) (rwValue m (oMcQcfg ch) v) = true ↔
    2 ≤ fld v 6 0 ∧ fld v 6 0 ≤ 64 ∧ fld v 14 8 ≤ 63 ∧ fld v 14 8 < fld v 6 0 := by
  obtain ⟨hlow, hhigh⟩ := writable_mcQcfg ch
  rw [rangeOk_mcQcfg, fld_rwValue _ _ hlow, fld_rwValue _ _ hhigh]
  simp [and_assoc]

/-- MCn_LAT takes both bounds from 20 (R296). -/
theorem rangeOk_mcLat_rwValue (m : Mach) (ch : Fin 12) (i : Fin 2) (v : Word) :
    rangeOk (oMcLat ch i) (rwValue m (oMcLat ch i) v) = true ↔ 20 ≤ fld v 15 0 ∧ 20 ≤ fld v 31 16 := by
  obtain ⟨h1, h2⟩ := writable_mcLat ch i
  rw [rangeOk_mcLat, fld_rwValue _ _ h1, fld_rwValue _ _ h2]
  simp [fld_le_65535 v 0, fld_le_65535 v 16]

/-- Writes to a channel that is not used are ignored. -/
theorem mcWrites_unused (ch : Fin 12) (i : Fin 2) (v : Word) {s : State} (hu : s.m.pop.used.contains ch.val = false) :
    exec (.mcQcfgWrite ch v) s = .next s ∧ exec (.mcLatWrite ch i v) s = .next s := by
  have hq : s.deaf (oMcQcfg ch) = true := by rw [State.deaf, unusedReg_mcQcfg, hu, Bool.not_false, Bool.or_true]
  have hl : s.deaf (oMcLat ch i) = true := by rw [State.deaf, unusedReg_mcLat, hu, Bool.not_false, Bool.or_true]
  exact ⟨by rw [exec_mcQcfgWrite, State.rw_of_deaf hq], by rw [exec_mcLatWrite, State.rw_of_deaf hl]⟩

/-- A stored MCn_QCFG acts on both subchannels of its channel. -/
theorem qcfgActs_mcQcfg (m : Mach) (ch : Fin 12) : m.qcfgActs (oMcQcfg ch) = (m.drain (2 * ch)).drain (2 * ch + 1) := by
  simp [Mach.qcfgActs, mcReg_mcQcfg]

/-- A stored MCn_QCFG has both write queues of the channel drain by the new marks. -/
theorem mcQcfgWrite_stores (ch : Fin 12) (v : Word) {s : State} (hw : s.m.pwr.warm = none) (hu : s.m.pop.used.contains ch.val = true)
    (hv : 2 ≤ fld v 6 0 ∧ fld v 6 0 ≤ 64 ∧ fld v 14 8 ≤ 63 ∧ fld v 14 8 < fld v 6 0) :
    ∃ w, exec (.mcQcfgWrite ch v) s = .next { s with m := ((s.m.setReg (oMcQcfg ch) w).drain (2 * ch)).drain (2 * ch + 1) } ∧
      fld w 14 8 = fld v 14 8 ∧ fld w 6 0 = fld v 6 0 := by
  have hd : s.deaf (oMcQcfg ch) = false :=
    State.deaf_eq_false hw (Mach.absentReg_of_headReg (headReg_mcQcfg ch)) (by rw [unusedReg_mcQcfg, hu]; rfl)
  obtain ⟨w, hs, hf⟩ := State.rw_stores (v := v) 14 8 6 0 hd (writable_mcQcfg ch).1 (writable_mcQcfg ch).2
    ((rangeOk_mcQcfg_rwValue s.m ch v).mpr hv)
  exact ⟨w, by rw [exec_mcQcfgWrite, hs, qcfgActs_mcQcfg], hf⟩

/-- MCn_QCFG takes no other value. -/
theorem mcQcfgWrite_refuses (ch : Fin 12) (v : Word) {s : State}
    (hv : ¬ (2 ≤ fld v 6 0 ∧ fld v 6 0 ≤ 64 ∧ fld v 14 8 ≤ 63 ∧ fld v 14 8 < fld v 6 0)) : exec (.mcQcfgWrite ch v) s = .next s := by
  rw [exec_mcQcfgWrite, State.rw_of_outOfRange (Bool.eq_false_iff.mpr (mt (rangeOk_mcQcfg_rwValue s.m ch v).mp hv))]

/-- MCn_LAT does no more than store. -/
theorem qcfgActs_mcLat (m : Mach) (ch : Fin 12) (i : Fin 2) : m.qcfgActs (oMcLat ch i) = m := by
  rw [Mach.qcfgActs, mcReg_mcLat]
  fin_cases i <;> rfl

/-- MCn_LAT of a channel in use stores bounds from 20. -/
theorem mcLatWrite_stores (ch : Fin 12) (i : Fin 2) (v : Word) {s : State} (hw : s.m.pwr.warm = none)
    (hu : s.m.pop.used.contains ch.val = true) (hv : 20 ≤ fld v 15 0 ∧ 20 ≤ fld v 31 16) :
    ∃ w, exec (.mcLatWrite ch i v) s = .next { s with m := s.m.setReg (oMcLat ch i) w } ∧ fld w 31 16 = fld v 31 16 ∧ fld w 15 0 = fld v 15 0 := by
  have hd : s.deaf (oMcLat ch i) = false :=
    State.deaf_eq_false hw (Mach.absentReg_of_headReg (headReg_mcLat ch i)) (by rw [unusedReg_mcLat, hu]; rfl)
  obtain ⟨w, hs, hf⟩ := State.rw_stores (v := v) 31 16 15 0 hd (writable_mcLat ch i).1 (writable_mcLat ch i).2
    ((rangeOk_mcLat_rwValue s.m ch i v).mpr hv)
  exact ⟨w, by rw [exec_mcLatWrite, hs, qcfgActs_mcLat], hf⟩

/-- MCn_LAT takes no bound below 20. -/
theorem mcLatWrite_refuses (ch : Fin 12) (i : Fin 2) (v : Word) {s : State} (hv : fld v 15 0 < 20 ∨ fld v 31 16 < 20) :
    exec (.mcLatWrite ch i v) s = .next s := by
  have hn : ¬ (20 ≤ fld v 15 0 ∧ 20 ≤ fld v 31 16) := by omega
  rw [exec_mcLatWrite, State.rw_of_outOfRange (Bool.eq_false_iff.mpr (mt (rangeOk_mcLat_rwValue s.m ch i v).mp hn))]

/-! ### CHN_EN (R220) -/

/-- The churns that are enabled after a word of CHN_EN is stored: of its 32, those that the word names; the others as before. -/
theorem churnOn_setReg_chnEn (m : Mach) (j : Nat) (v : Word) (k : Nat) : (m.setReg (oChnEn j) v).churnOn k =
    if k / 32 = j then v.getLsbD (k % 32) else m.rbit (oChnEn (k / 32)) (k % 32) := by
  unfold Mach.churnOn
  split
  · next h => rw [h, Mach.reg_setReg_self]
  · next h =>
    rw [Mach.reg_setReg_ne]
    · rfl
    · unfold oChnEn
      omega

/-- The number of churns that stay enabled when a word of CHN_EN is written. -/
def churnsLeft (m : Mach) (j : Nat) (v : Word) : Nat :=
  ((List.range 96).filter (fun k => if k / 32 = j then v.getLsbD (k % 32) else m.rbit (oChnEn (k / 32)) (k % 32))).length

/-- A word of CHN_EN is stored exactly when at least eight churns stay enabled. -/
theorem chnEnable_eq (m : Mach) (j : Nat) (v : Word) :
    chnEnable m j v = if churnsLeft m j v < 8 then m else m.setReg (oChnEn j) v := by
  have e : (m.setReg (oChnEn j) v).churnOn = fun k => if k / 32 = j then v.getLsbD (k % 32) else m.rbit (oChnEn (k / 32)) (k % 32) :=
    funext (churnOn_setReg_chnEn m j v)
  unfold chnEnable churnsLeft
  dsimp only
  rw [e]

/-- CHN_EN_WRITE leaves nothing to settle. -/
theorem exec_chnEnWrite_quiet (j : Fin 3) (v : Word) {s : State} (hq : Quiet s) :
    exec (.chnEnWrite j v) s = .next { s with m := chnEnable s.m j v } := by
  rw [exec_chnEnWrite]
  refine op_quiet s _ ?_
  rw [chnEnable_eq]
  split
  · exact hq
  · exact quiet_setReg hq _ _

/-- CHN_EN stores a word that leaves at least eight churns, and no other. -/
theorem chnEnWrite_keeps_eight (j : Fin 3) (v : Word) {s : State} (hq : Quiet s) :
    ∃ t, exec (.chnEnWrite j v) s = .next t ∧ t.live = s.live ∧ (8 ≤ churnsLeft s.m j v → t.m.reg (oChnEn j) = v) ∧
      (churnsLeft s.m j v < 8 → t = s) := by
  refine ⟨_, exec_chnEnWrite_quiet j v hq, rfl, fun h => ?_, fun h => ?_⟩
  · rw [chnEnable_eq, if_neg (Nat.not_lt.mpr h), Mach.reg_setReg_self]
  · rw [chnEnable_eq, if_pos h]

/-! ### Requests over the management port (R11, R522, R523) -/

/-- An access to an ACTIVE part leaves its power state alone. -/
theorem touch_active (L : Image) {m : Mach} (h : m.pwr.st = .active) : touch L m = m := by
  simp [touch, h]

/-- An ACTIVE part does not sleep. -/
theorem dozing_active {m : Mach} (h : m.pwr.st = .active) : m.dozing = false := by
  simp [Mach.dozing, h]

/-- A command over the management port acts at once on an ACTIVE part. -/
theorem receivedVia_mgmt {s : State} (h : s.m.pwr.st = .active) (i : Instr) (act : State → Host.Outcome State Fault Refusal) :
    receivedVia s none i act = act s := by
  simp [receivedVia, dozing_active h]

/-- A write of the Control BAR over the management port: past two DWs or with EP nothing is stored; what was wrong is recorded. -/
theorem writeRequest_mgmt {s : State} (hup : s.m.mgmt.up = true) (ha : s.m.pwr.st = .active) (off : BitVec 26) (dws : List (Word × BitVec 4))
    (ep : Bool) (t : State)
    (ht : t = if dws.length ≤ 2 ∧ !ep then writeDws s { path := .mgmt, bar := .control, off, dws, ep } else s) :
    writeRequest s { path := .mgmt, bar := .control, off, dws, ep } =
      { t with m := t.m.accErr .mgmt .control off.toNat (writeErr { path := .mgmt, bar := .control, off, dws, ep }) } := by
  subst ht
  simp [writeRequest, pathOpen, postHeld, hup, touch_active _ ha, Mach.answers, ha, isRegBar, inTally]

/-- With the management link down a write reaches nothing. -/
theorem writeRequest_mgmt_down {s : State} (hup : s.m.mgmt.up = false) (bar : Bar) (off : BitVec 26) (dws : List (Word × BitVec 4)) (ep : Bool) :
    writeRequest s { path := .mgmt, bar, off, dws, ep } = s := by
  simp [writeRequest, pathOpen, hup]

/-- A request with nothing wrong records nothing. -/
theorem accErr_zero (m : Mach) (p : Path) (bar : Bar) (off : Nat) : m.accErr p bar off 0#32 = m := if_pos rfl

/-- A fault of a request at GLB_SCRATCH over the management port is recorded with its address. -/
theorem accErr_mgmt_scratch (m : Mach) {bits : Word} (hb : bits ≠ 0#32) :
    m.accErr .mgmt .control oScratch bits = (m.evt oAccErr bits).setReg oAccAddr 0x4000000C#32 := if_neg hb

/-- A DW with a byte enable clear is ignored, one with all set is written. -/
theorem writeDws_one (s : State) (p : Path) (bar : Bar) (off : BitVec 26) (v : Word) (be : BitVec 4) (ep : Bool) :
    writeDws s { path := p, bar, off, dws := [(v, be)], ep } =
      if be = 0xF#4 then writeDw s p bar (off.toNat / 4 % 2 ^ 24 * 4) v else s := rfl

/-- A write of one whole DW over the management port writes the register and records nothing. -/
theorem writeRequest_mgmt_dw {s : State} (hup : s.m.mgmt.up = true) (ha : s.m.pwr.st = .active) (off : BitVec 26) (v : Word) :
    writeRequest s { path := .mgmt, bar := .control, off, dws := [(v, 0xF#4)], ep := false } = writeReg s (off.toNat / 4 % 2 ^ 24 * 4) v := by
  rw [writeRequest_mgmt hup ha _ _ _ (writeReg s (off.toNat / 4 % 2 ^ 24 * 4) v) rfl]
  have e : writeErr { path := .mgmt, bar := .control, off, dws := [(v, 0xF#4)], ep := false } = 0#32 := by simp [writeErr, putB]
  rw [e, accErr_zero]

/-! ### The registers of GLB that the statements name -/

/-- The blocks below 0x30000, GLB among them, are not held in a warm reset (R527). -/
theorem held_glb (s : State) {off : Nat} (h : off < 0x30000) : s.held off = false := by
  simp [State.held, keptBlock, h]

/-- A register of GLB answers even in a warm reset (R527). -/
theorem deaf_glb (s : State) {off : Nat} (h : off < 0x30000) : s.deaf off = false := by
  have hh : headReg off = none := by
    unfold headReg
    rw [if_neg (by omega), if_neg (by omega)]
  have hm : mcReg off = none := if_neg (by omega)
  simp [State.deaf, held_glb s h, Mach.absentReg_of_headReg hh, Mach.unusedReg_of_mcReg hm]

/-- GLB_SCRATCH stores the word. -/
theorem writeReg_scratch (s : State) (v : Word) : writeReg s oScratch v = { s with m := s.m.setReg oScratch v } := by
  have hd : s.deaf oScratch = false := deaf_glb s (by decide)
  have hv : rwValue s.m oScratch v = v := by
    rw [rwValue_of_ne _ _ (by decide)]
    have hk : rwMask oScratch = BitVec.allOnes 32 := rfl
    rw [hk, BitVec.not_allOnes, BitVec.and_zero, BitVec.zero_or, BitVec.and_allOnes]
  have hw : writeReg s oScratch v = s.rw oScratch v := by
    unfold writeReg
    rw [hd]
    rfl
  rw [hw, State.rw_of_inRange hd rfl, hv]
  rfl

/-- GLB_ACC_ERR clears the bits written as ones. -/
theorem writeReg_accErr (s : State) (v : Word) :
    writeReg s oAccErr v = { s with m := s.m.setReg oAccErr (s.m.reg oAccErr &&& ~~~(v &&& 7#32)) } := by
  unfold writeReg
  rw [deaf_glb s (by decide)]
  rfl

/-- A write of the reserved offset 0x18 changes nothing (R521). -/
theorem writeReg_reserved (s : State) (v : Word) : writeReg s 0x18 v = s := by
  unfold writeReg
  rw [deaf_glb s (by decide)]
  rfl

/-- A read of a GLB register that does nothing but answer. -/
theorem readOne_glb (s : State) {off : Nat} (h : off < 0x30000) (he : readEffect s.m off = s.m) : readOne s off = (readReg s off, s) := by
  simp [readOne, held_glb s h, he]

/-- A read of GLB_REVID: the number of A0 silicon (R7). -/
theorem readOne_revId (s : State) : readOne s 4 = (0x0A00#32, s) := by
  have hr : readReg s 4 = 0x0A00#32 := by
    unfold readReg
    rw [held_glb s (by decide)]
    rfl
  rw [readOne_glb s (by decide) rfl, hr]

/-- A read of the reserved offset 0x18: its stored word (R521). -/
theorem readOne_reserved (s : State) : readOne s 0x18 = (s.m.reg 0x18, s) := by
  have hr : readReg s 0x18 = s.m.reg 0x18 := by
    unfold readReg
    rw [held_glb s (by decide)]
    rfl
  rw [readOne_glb s (by decide) rfl, hr]

/-- A read of one DW of the Control BAR over the management port sends the word. -/
theorem readRequest_mgmt_dw {s : State} (hup : s.m.mgmt.up = true) (ha : s.m.pwr.st = .active) (off : BitVec 26) {w : Word}
    (hr : readOne s (off.toNat / 4 % 2 ^ 24 * 4) = (w, s)) :
    readRequest s { path := .mgmt, bar := .control, off, dws := 1 } = { s with m := s.m.send (.regData .mgmt [w]) } := by
  have ht : ({ s with m := touch s.live s.m } : State) = s := by rw [touch_active _ ha]
  simp only [readRequest, ht]
  simp [pathOpen, hup, touch_active _ ha, Mach.answers, ha, isRegBar, inTally, readDw, hr, -Nat.reducePow]

/-! ### The statements' parts -/

/-- A write over the management port that leaves nothing to settle ends as its request leaves the state. -/
theorem regWrite_mgmt {s t : State} (ha : s.m.pwr.st = .active) {a : WriteReq} (hp : a.path = .mgmt) (hw : writeRequest s a = t) (hq : Quiet t) :
    exec (.regWrite a) s = .next t := by
  rw [exec_regWrite, hp]
  exact (receivedVia_mgmt ha _ _).trans (by rw [hw, settle_quiet t hq])

/-- A read over the management port that leaves nothing to settle ends as its request leaves the state. -/
theorem counterLoRead_mgmt {s : State} (hq : Quiet s) (hup : s.m.mgmt.up = true) (ha : s.m.pwr.st = .active) (off : BitVec 26) {w : Word}
    (hr : readOne s (off.toNat / 4 % 2 ^ 24 * 4) = (w, s)) :
    exec (.counterLoRead { path := .mgmt, bar := .control, off, dws := 1 }) s = .next { s with m := s.m.send (.regData .mgmt [w]) } := by
  rw [exec_counterLoRead]
  refine (receivedVia_mgmt ha _ _).trans ?_
  rw [readRequest_mgmt_dw hup ha off hr, settle_quiet _ (quiet_send hq _)]

/-- A write to GLB_SCRATCH that is not one or two whole DWs without EP stores nothing and is recorded. -/
theorem regWrite_scratch_bad {s : State} (hq : Quiet s) (hup : s.m.mgmt.up = true) (ha : s.m.pwr.st = .active) (dws : List (Word × BitVec 4))
    (ep : Bool) {bits : Word} (hb : bits ≠ 0#32)
    (hs : s = if dws.length ≤ 2 ∧ !ep then writeDws s { path := .mgmt, bar := .control, off := 0xC#26, dws, ep } else s)
    (he : writeErr { path := .mgmt, bar := .control, off := 0xC#26, dws, ep } = bits) :
    exec (.regWrite { path := .mgmt, bar := .control, off := 0xC#26, dws, ep }) s =
      .next { s with m := (s.m.evt oAccErr bits).setReg oAccAddr 0x4000000C#32 } := by
  refine regWrite_mgmt ha rfl ?_ hq
  rw [writeRequest_mgmt hup ha _ _ _ s hs, he]
  exact congrArg (fun m => ({ s with m } : State)) (accErr_mgmt_scratch s.m hb)

end Sys2Proof.Machine
end

section
/-! PROOFS. The statements about registers (00_scope): O37 and O38. -/

namespace Sys2Proof

open Machine

/-- Settles O37: GLB_REVID reads a constant, and its read has no effect but the answer. -/
theorem revisionReadsA0 : Obligations.RevisionReadsA0 := by
  unfold Obligations.RevisionReadsA0
  intro s hq hup ha
  exact counterLoRead_mgmt hq hup ha 4#26 (readOne_revId s)

/-- Settles O38: each access by the lemma of its register; ranges are judged on fields that the write sets whole. -/
theorem registerAccessesAndRanges : Obligations.RegisterAccessesAndRanges := by
  unfold Obligations.RegisterAccessesAndRanges
  constructor
  · intro v s hq ha
    refine ⟨fun hup => ⟨?scratch, ?accErr, ?three, ?poisoned, ?enables, ?reserved, ?readReserved⟩, ?down⟩
    case scratch => exact regWrite_mgmt ha rfl ((writeRequest_mgmt_dw hup ha _ v).trans (writeReg_scratch s v)) (quiet_setReg hq _ _)
    case accErr => exact regWrite_mgmt ha rfl ((writeRequest_mgmt_dw hup ha _ v).trans (writeReg_accErr s v)) (quiet_setReg hq _ _)
    case three => exact regWrite_scratch_bad hq hup ha _ _ (by decide) rfl (by simp [writeErr, putB, put])
    case poisoned => exact regWrite_scratch_bad hq hup ha _ _ (by decide) rfl (by simp [writeErr, putB, put])
    case enables => exact regWrite_scratch_bad hq hup ha _ _ (by decide) rfl (by simp [writeErr, putB, put])
    case reserved => exact regWrite_mgmt ha rfl ((writeRequest_mgmt_dw hup ha _ v).trans (writeReg_reserved s v)) hq
    case readReserved =>
      intro h0
      exact counterLoRead_mgmt hq hup ha 0x18#26 ((readOne_reserved s).trans (by rw [h0]))
    case down =>
      intro hdown
      exact regWrite_mgmt ha rfl (writeRequest_mgmt_down hdown _ _ _ _) hq
  · intro h ch i j v s hq hw hh
    refine ⟨?ranges, mcWrites_unused ch i v, ?channel, chnEnWrite_keeps_eight j v hq⟩
    case ranges =>
      intro c off hi1 lo1 hi2 lo2 ok hmem
      change TakesExactly c s off hi1 lo1 hi2 lo2 v ok
      simp only [List.mem_cons, List.not_mem_nil, or_false, Prod.mk.injEq] at hmem
      obtain ⟨rfl, rfl, rfl, rfl, rfl, rfl, rfl⟩ | ⟨rfl, rfl, rfl, rfl, rfl, rfl, rfl⟩ | ⟨rfl, rfl, rfl, rfl, rfl, rfl, rfl⟩ |
        ⟨rfl, rfl, rfl, rfl, rfl, rfl, rfl⟩ := hmem
      · exact qcfgWrite_takesExactly h v hw hh
      · exact homTrkCfgWrite_takesExactly v hw
      · exact homSnpToWrite_takesExactly v hw
      · exact scbCtlWrite_takesExactly v hw
    case channel =>
      intro hu
      exact ⟨mcQcfgWrite_stores ch v hw hu, mcQcfgWrite_refuses ch v, fun h1 h2 => mcLatWrite_stores ch i v hw hu ⟨h1, h2⟩,
        mcLatWrite_refuses ch i v⟩

end Sys2Proof
end

section
/-! PROOFS. What the performance monitor's counting leaves alone (R508-R518): all but its own registers, its counters and the messages
that it sends. -/

namespace Sys2Proof.Machine

/-! ### Messages -/

/-- A vector goes out, or stays pending: no message is taken back. -/
theorem Mach.mem_outbox_irq {m : Mach} {x : Out} (h : x ∈ m.outbox) (f v : Nat) : x ∈ (m.irq f v).outbox := by
  unfold Mach.irq
  split
  · split <;> exact h
  · exact List.mem_append_left _ h

/-! ### Counting -/

/-- The machinery without what the monitor's counting may change. -/
def Mach.uncounted (m : Mach) : Mach := { m with fresh := 0, regs := [], outbox := [], pmu := {}, msix := {} }

/-- A register that no counting changes: one outside the counters' overflow bits and PMU_CTL (R509, R511). -/
abbrev Uncounted (o : Nat) : Prop := o < 0x30000 ∨ 0x31000 ≤ o

/-- `t` is `m` after some counting: nothing outside the monitor has changed, and what was sent stays sent. -/
structure Counted (m t : Mach) : Prop where
  rest : t.uncounted = m.uncounted
  sent : ∀ x ∈ m.outbox, x ∈ t.outbox
  reg : ∀ o, Uncounted o → t.reg o = m.reg o

namespace Counted
variable {m t u : Mach}

theorem refl (m : Mach) : Counted m m := ⟨rfl, fun _ h => h, fun _ _ => rfl⟩

theorem trans (h : Counted m t) (k : Counted t u) : Counted m u :=
  ⟨k.rest.trans h.rest, fun x hx => k.sent x (h.sent x hx), fun o ho => (k.reg o ho).trans (h.reg o ho)⟩

theorem core (h : Counted m t) : t.core = m.core := (congrArg Mach.core h.rest :)
theorem raised (h : Counted m t) : t.raised = m.raised := (congrArg Mach.raised h.rest :)
theorem straps (h : Counted m t) : t.straps = m.straps := (congrArg Mach.straps h.rest :)
theorem heads (h : Counted m t) : t.heads = m.heads := (congrArg Mach.heads h.rest :)
theorem dc (h : Counted m t) : t.dc = m.dc := (congrArg Mach.dc h.rest :)
theorem home (h : Counted m t) : t.home = m.home := (congrArg Mach.home h.rest :)
theorem led (h : Counted m t) : t.led = m.led := (congrArg Mach.led h.rest :)
theorem pop (h : Counted m t) : t.pop = m.pop := (congrArg Mach.pop h.rest :)
theorem mcs (h : Counted m t) : t.mcs = m.mcs := (congrArg Mach.mcs h.rest :)
theorem scb (h : Counted m t) : t.scb = m.scb := (congrArg Mach.scb h.rest :)
theorem bwg (h : Counted m t) : t.bwg = m.bwg := (congrArg Mach.bwg h.rest :)
theorem chn (h : Counted m t) : t.chn = m.chn := (congrArg Mach.chn h.rest :)
theorem dqu (h : Counted m t) : t.dqu = m.dqu := (congrArg Mach.dqu h.rest :)
theorem tally (h : Counted m t) : t.tally = m.tally := (congrArg Mach.tally h.rest :)
theorem pwr (h : Counted m t) : t.pwr = m.pwr := (congrArg Mach.pwr h.rest :)
theorem tst (h : Counted m t) : t.tst = m.tst := (congrArg Mach.tst h.rest :)

/-- The heads' records are as they were. -/
theorem head (h : Counted m t) (k : Nat) : t.head k = m.head k := by
  unfold Mach.head
  rw [h.straps, h.heads]

/-- A step of counting, told by case. -/
theorem ite {c : Prop} [Decidable c] {a b : Mach} (ha : Counted m a) (hb : Counted m b) : Counted m (if c then a else b) := by
  split
  · exact ha
  · exact hb

/-- Counting in many steps. -/
theorem foldl {α : Type} {f : Mach → α → Mach} (l : List α) (hf : ∀ m, ∀ a ∈ l, Counted m (f m a)) (m : Mach) : Counted m (l.foldl f m) := by
  induction l generalizing m with
  | nil => exact refl m
  | cons a l ih =>
    exact (hf m a (List.mem_cons_self ..)).trans (ih (fun m b hb => hf m b (List.mem_cons_of_mem _ hb)) _)

end Counted

theorem counted_pmu (m : Mach) (p : Pmu) : Counted m { m with pmu := p } := ⟨rfl, fun _ h => h, fun _ _ => rfl⟩

theorem counted_tick (m : Mach) : Counted m m.tick := ⟨rfl, fun _ h => h, fun _ _ => rfl⟩

theorem counted_setReg (m : Mach) {o : Nat} (v : Word) (h : ¬ Uncounted o) : Counted m (m.setReg o v) :=
  ⟨rfl, fun _ h => h, fun _ hp => Mach.reg_setReg_ne m v (fun e => h (e ▸ hp))⟩

theorem counted_irq (m : Mach) (f v : Nat) : Counted m (m.irq f v) := by
  refine ⟨?_, fun x hx => Mach.mem_outbox_irq hx f v, fun o _ => ?_⟩
  all_goals
    unfold Mach.irq
    split
    · split <;> rfl
    · rfl

/-- A counter's step, with its overflow (R509, R511). -/
theorem counted_cntAdd (m : Mach) (k n : Nat) : Counted m (m.cntAdd k n) := by
  have hov : ¬ Uncounted oOvfSlot := by decide
  have hk : k < 256 → ¬ Uncounted (oOvf (k / 32)) := by
    intro h
    simp only [Uncounted, oOvf]
    omega
  have hctl : ¬ Uncounted oPmuCtl := by decide
  unfold Mach.cntAdd
  dsimp only
  refine .ite (counted_pmu m _) ?_
  have step1 : ∀ t : Mach, Counted t (if k < 256 then t.evb (oOvf (k / 32)) (k % 32) else t.evb oOvfSlot ((k - 256) / 5)) := by
    intro t
    split
    · next h => exact counted_setReg t _ (hk h)
    · exact counted_setReg t _ hov
  have step2 : ∀ t : Mach, Counted t (if t.rbit oPmuCtl 4 then t.setReg oPmuCtl (t.reg oPmuCtl ||| 2#32) else t) :=
    fun t => .ite (counted_setReg t _ hctl) (.refl t)
  have step3 : ∀ t : Mach, Counted t (if t.rbit oPmuIrq 8 then t.irq mgmtFn (t.rfld oPmuIrq 7 0) else t) :=
    fun t => .ite (counted_irq t _ _) (.refl t)
  exact (((counted_pmu m _).trans (step1 _)).trans (step2 _)).trans (step3 _)

/-- Occurrences of an event (R509, R510). -/
theorem counted_pmuEvent (m : Mach) (code inst n : Nat) : Counted m (m.pmuEvent code inst n) :=
  .ite (.refl m) (.foldl _ (fun t k _ => .ite (counted_cntAdd t k n) (.refl t)) m)

theorem counted_slotCycle (m : Mach) (k i : Nat) : Counted m (m.slotCycle k i) := .ite (.refl m) (counted_cntAdd m _ _)

theorem counted_upkeep (m : Mach) (k n : Nat) : Counted m (m.upkeep k n) := .foldl _ (fun t _ _ => counted_slotCycle t k 2) m

/-- A partition's counter (R518). -/
theorem counted_partCnt (m : Mach) (p k n : Nat) : Counted m (m.partCnt p k n) := .ite (.refl m) (counted_pmu m _)

/-- The count of eligible requests (R515). -/
theorem counted_sampleTick (m : Mach) (r : Req) : Counted m (m.sampleTick r).2 := by
  unfold Mach.sampleTick
  dsimp only
  split
  · exact .refl m
  · dsimp only
    split
    · exact (counted_tick m).trans ((counted_pmu _ _).trans (counted_pmu _ _))
    · exact counted_pmu m _

/-- A record of the sample ring (R517). -/
theorem counted_sampleWrite (m : Mach) (b : List Byte) : Counted m (m.sampleWrite b) := by
  unfold Mach.sampleWrite
  dsimp only
  refine .ite (.ite (counted_pmu m _) (counted_pmu m _)) ?_
  exact (counted_pmu m _).trans (.ite (counted_irq _ _ _) (.refl _))

theorem counted_sampleDone (m : Mach) (r : Req) (p : Bool) : Counted m (m.sampleDone r p) :=
  .ite ((((counted_sampleWrite m _).trans (counted_tick _)).trans (counted_tick _)).trans (counted_tick _)) (.refl m)

/-- The end of a request as the monitor sees it (R515, R518). -/
theorem counted_noteEnd (m : Mach) (r : Req) (p : Bool) : Counted m (m.noteEnd r p) := by
  have tier : ∀ t : Mach, Counted t (if r.tier = 3 ∨ r.tier = 4 then t.partCnt r.part 3 1 else if r.tier = 1 then t.partCnt r.part 4 1 else t) :=
    fun t => .ite (counted_partCnt t _ _ _) (.ite (counted_partCnt t _ _ _) (.refl t))
  have poison : ∀ t : Mach, Counted t (if p then t.partCnt r.part 5 1 else t) := fun t => .ite (counted_partCnt t _ _ _) (.refl t)
  have latency : ∀ t : Mach, Counted t (if r.kind.code = 0 then t.partCnt r.part 13 (t.core - r.t0) else t) :=
    fun t => .ite (counted_partCnt t _ _ _) (.refl t)
  exact (counted_sampleDone m _ _).trans (.ite (((tier _).trans (poison _)).trans (latency _)) (.refl _))

/-- The count of a charge (R298, R518). -/
theorem counted_countCharge (m : Mach) (r : Req) (n : Nat) : Counted m (m.countCharge r n) := by
  unfold Mach.countCharge
  dsimp only
  exact (counted_pmuEvent m _ _ _).trans (.ite (counted_partCnt _ _ _ _) (.refl _))

/-- Churn-cycles and stalled VCs (R510). -/
theorem counted_clockEvents (m : Mach) : Counted m (clockEvents m) := by
  have churns : Counted m (if m.otherCycles 3 4 = 0 then m else m.chn.run.foldl (fun t p => t.pmuEvent 0x301 (p.1 / 8) (m.otherCycles 3 4)) m) :=
    .ite (.refl m) (.foldl _ (fun t _ _ => counted_pmuEvent t _ _ _) m)
  have flits : ∀ (k : Nat) (t : Mach), Counted t ((List.range 4).foldl (fun t vc =>
      if t.yoke.up && t.yoke.credits.get 0 vc == 0 && t.yoke.txWait.any (fun p => p.1 == vc) then t.pmuEvent 0x603 vc k else t) t) :=
    fun _ t => .foldl _ (fun t _ _ => .ite (counted_pmuEvent t _ _ _) (.refl t)) t
  exact churns.trans (flits _ _)

/-- What the monitor counts in a CORE cycle (R510). -/
theorem counted_cycleEvents (m : Mach) : Counted m (cycleEvents m) := by
  have heads : Counted m ((List.range 8).foldl (fun t h =>
      if (t.head h).panic then (if (t.head h).qRt.isEmpty then t else t.pmuEvent 0x003 h (t.head h).qRt.length).pmuEvent 0x004 h 1
      else if (t.head h).qRt.isEmpty then t else t.pmuEvent 0x003 h (t.head h).qRt.length) m) := by
    have queue : ∀ (t : Mach) (h : Nat), Counted t (if (t.head h).qRt.isEmpty then t else t.pmuEvent 0x003 h (t.head h).qRt.length) :=
      fun t _ => .ite (.refl t) (counted_pmuEvent t _ _ _)
    exact .foldl _ (fun t h _ => .ite ((queue t h).trans (counted_pmuEvent _ _ _ _)) (queue t h)) m
  have slices : ∀ t : Mach, Counted t ((List.range 16).foldl (fun t s =>
      if (t.sliceTrk s).length = 0 then t else t.pmuEvent 0x106 s (t.sliceTrk s).length) t) :=
    fun t => .foldl _ (fun t _ _ => .ite (.refl t) (counted_pmuEvent t _ _ _)) t
  have masters : ∀ t u : Mach, Counted u (t.waitingMasters.foldl (fun u k => u.pmuEvent 0x502 k 1) u) :=
    fun _ u => .foldl _ (fun u _ _ => counted_pmuEvent u _ _ _) u
  exact ((heads.trans (slices _)).trans (counted_clockEvents _)).trans (masters _ _)

end Sys2Proof.Machine
end

section
/-! PROOFS. The arrival of a head's request (R14, R17, R49, R56, R65, R129), and the statement RequestsAreReceived: O40. -/

namespace Sys2Proof.Machine

/-! ### States with nothing to settle -/

/-- Counting leaves nothing to settle where nothing was. -/
theorem quiet_counted {s : State} (h : Quiet s) {m : Mach} (hc : Counted s.m m) : Quiet { s with m } := by
  obtain ⟨hr, hs, hu, hn⟩ := h
  exact ⟨hc.raised.trans hr, by rw [hc.scb, hs], by rw [hc.pwr, hu], by rw [hc.mcs, hn]⟩

/-- A request that goes no further than the port leaves nothing to settle. -/
theorem quiet_turnAway {s : State} (h : Quiet s) (hd tag : Nat) (kind : ReqKind) (err : Bool) :
    Quiet { s with m := s.m.turnAway hd tag kind err } := by
  have credit : Quiet { s with m := s.m.giveCredit hd kind } := by
    unfold Mach.giveCredit
    split
    · exact quiet_send h _
    · exact h
  unfold Mach.turnAway Mach.refuse
  split
  · exact quiet_send credit _
  · exact quiet_send credit _
  · exact quiet_send credit _
  · exact quiet_send credit _
  · exact quiet_send credit _
  · exact credit

/-! ### A request over a head's link -/

/-- The link of an ACTIVE head of a part that is awake holds nothing back. -/
theorem holdsFrom_active {m : Mach} {h : Nat} (ha : (m.head h).st = .active) (hp : m.pwr.st = .active) : m.holdsFrom h = false := by
  simp [Mach.holdsFrom, ha, dozing_active hp]

/-- What an ACTIVE head of a part that is awake sends acts at once. -/
theorem received_active {s : State} {h : Nat} (ha : (s.m.head h).st = .active) (hp : s.m.pwr.st = .active) (i : Instr)
    (act : State → Host.Outcome State Fault Refusal) : received s h i act = act s := by
  simp [received, holdsFrom_active ha hp]

/-- A request is counted by the monitor as it arrives (events 0x001 and 0x002, R510). -/
def Mach.countRequest (m : Mach) (h : Nat) (kind : ReqKind) : Mach :=
  match kind with
  | .read _ => m.pmuEvent 0x001 h 1
  | .write .. => m.pmuEvent 0x002 h 1
  | _ => m

theorem counted_countRequest (m : Mach) (h : Nat) (kind : ReqKind) : Counted m (m.countRequest h kind) := by
  unfold Mach.countRequest
  split
  · exact counted_pmuEvent m _ _ _
  · exact counted_pmuEvent m _ _ _
  · exact .refl m

/-- A request of an ACTIVE head that finds a credit, on a part that is awake, is processed. -/
theorem request_active {s : State} {h : Fin 8} {kind : ReqKind} (ha : (s.m.head h).st = .active) (hp : s.m.pwr.st = .active)
    (hsc : s.m.tst.scanEn = false) (hcr : (s.m.head h).noCredit kind = false) (ld : Fin 16) (tag : Nat) (hpa : BitVec 52) (sram : SramErr)
    (i : Instr) : request s h ld tag hpa kind sram i =
      .next (settle { s with m := process s.live s.latch s.m h ld tag hpa.toNat kind sram }) := by
  have e : arrive s.live s.latch (touch s.live s.m) h ld tag hpa.toNat kind sram = process s.live s.latch s.m h ld tag hpa.toNat kind sram := by
    rw [touch_active _ hp]
    simp [arrive, ha, hsc, hcr, HeadSt.linked]
  unfold request
  rw [received_active ha hp]
  exact congrArg (fun m => Host.Outcome.next (settle { s with m })) e

/-- In the safe state a request is answered with an error at the port (R465). -/
theorem process_latched (L : Image) (m : Mach) (h ld tag hpa : Nat) (kind : ReqKind) (sram : SramErr) :
    process L true m h ld tag hpa kind sram = (m.countRequest h kind).turnAway h tag kind true := rfl

/-- A request of an ACTIVE head: where its address lies decides (R14, R17). -/
theorem process_active {m : Mach} {h : Nat} (ha : (m.head h).st = .active) (L : Image) (ld tag hpa : Nat) (kind : ReqKind) (sram : SramErr) :
    process L false m h ld tag hpa kind sram = match portDecode L (m.countRequest h kind) h ld hpa with
      | none => ((m.countRequest h kind).turnAway h tag kind false).outOfPart h 2 hpa
      | some (p, dpa) =>
        if (m.head h).viralRx && kind.isWrite then (m.countRequest h kind).turnAway h tag kind true
        else coreCycle L (portMove L (rxPut (m.countRequest h kind) h { src := h, head := h, part := p, tag, line := dpa / 64, kind, sram }) h) := by
  unfold process
  simp only [ha, Bool.false_eq_true, if_false, reduceCtorEq, false_or, false_and]
  rfl

/-! ### The commands of a head's requests to memory -/

theorem exec_memRd (h : Fin 8) (ld : Fin 16) (tag : Nat) (hpa : BitVec 52) (mt : MetaRd) (sram : SramErr) (s : State) :
    exec (.memRd h ld tag hpa mt sram) s = request s h ld tag hpa (.read mt) sram (.memRd h ld tag hpa mt sram) := rfl
theorem exec_memWr (h : Fin 8) (ld : Fin 16) (tag : Nat) (hpa : BitVec 52) (mt : Meta) (d : Line) (p : Bool) (sram : SramErr) (s : State) :
    exec (.memWr h ld tag hpa mt d p sram) s = request s h ld tag hpa (.write mt d p) sram (.memWr h ld tag hpa mt d p sram) := rfl
theorem exec_memClnEvct (h : Fin 8) (ld : Fin 16) (tag : Nat) (hpa : BitVec 52) (sram : SramErr) (s : State) :
    exec (.memClnEvct h ld tag hpa sram) s = request s h ld tag hpa .clean sram (.memClnEvct h ld tag hpa sram) := rfl
theorem exec_cxlIoMemoryRequest (h : Fin 8) (ld : Fin 16) (tag : Nat) (hpa : BitVec 52) (w : Bool) (be : BitVec 64) (d : Line) (sram : SramErr)
    (s : State) : exec (.cxlIoMemoryRequest h ld tag hpa w be d sram) s =
      request s h ld tag hpa (if w then .ioWrite d be else .ioRead) sram (.cxlIoMemoryRequest h ld tag hpa w be d sram) := rfl

/-- An aligned AtomicOp is a request (R129). -/
theorem exec_atomicOp_aligned (h : Fin 8) (ld : Fin 16) (tag : Nat) {hpa : BitVec 52} {op : Atomic} (sram : SramErr) (s : State)
    (h0 : op.bytes ≠ 0) (hal : hpa.toNat % op.bytes = 0) : exec (.atomicOp h ld tag hpa op sram) s =
      request s h ld tag hpa (.atomic op (hpa.toNat % 64)) sram (.atomicOp h ld tag hpa op sram) := by
  have e : ¬ (op.bytes = 0 ∨ hpa.toNat % op.bytes ≠ 0) := by simp [h0, hal]
  exact if_neg e

/-- A misaligned AtomicOp of an ACTIVE head gets an error message (R129). -/
theorem exec_atomicOp_misaligned {h : Fin 8} {s : State} (hq : Quiet s) (ha : (s.m.head h).st = .active) (hp : s.m.pwr.st = .active)
    (ld : Fin 16) (tag : Nat) {hpa : BitVec 52} {op : Atomic} (sram : SramErr) (hal : hpa.toNat % op.bytes ≠ 0) :
    exec (.atomicOp h ld tag hpa op sram) s = .next { s with m := s.m.send (.errMsg h tag) } := by
  have split : exec (.atomicOp h ld tag hpa op sram) s = received s h (.atomicOp h ld tag hpa op sram)
      (fun s => s.op (fun m => if (m.head h).st.linked then (touch s.live m).send (.errMsg h tag) else m)) := if_pos (.inr hal)
  have e : (if (s.m.head h).st.linked then (touch s.live s.m).send (.errMsg h tag) else s.m) = s.m.send (.errMsg h tag) := by
    simp [ha, HeadSt.linked, touch_active _ hp]
  rw [split, received_active ha hp, op_quiet s _ (by rw [e]; exact quiet_send hq _), e]

/-- The commands that bring a request of a kind to a head, each with its conditions. -/
theorem exec_of_request {h : Fin 8} {ld : Fin 16} {tag : Nat} {hpa : BitVec 52} {sram : SramErr} {c : Instr} {kind : ReqKind} (s : State)
    (hc : (∃ mt, c = .memRd h ld tag hpa mt sram ∧ kind = .read mt) ∨
       (∃ mt d p, c = .memWr h ld tag hpa mt d p sram ∧ kind = .write mt d p) ∨
       (c = .memClnEvct h ld tag hpa sram ∧ kind = .clean) ∨
       (∃ be d, c = .cxlIoMemoryRequest h ld tag hpa true be d sram ∧ kind = .ioWrite d be) ∨
       (∃ be d, c = .cxlIoMemoryRequest h ld tag hpa false be d sram ∧ kind = .ioRead) ∨
       (∃ op, c = .atomicOp h ld tag hpa op sram ∧ kind = .atomic op (hpa.toNat % 64) ∧ op.bytes ≠ 0 ∧ hpa.toNat % op.bytes = 0)) :
    exec c s = request s h ld tag hpa kind sram c := by
  obtain ⟨mt, rfl, rfl⟩ | ⟨mt, d, p, rfl, rfl⟩ | ⟨rfl, rfl⟩ | ⟨be, d, rfl, rfl⟩ | ⟨be, d, rfl, rfl⟩ | ⟨op, rfl, rfl, h0, hal⟩ := hc
  · exact exec_memRd ..
  · exact exec_memWr ..
  · exact exec_memClnEvct ..
  · exact exec_cxlIoMemoryRequest ..
  · exact exec_cxlIoMemoryRequest ..
  · exact exec_atomicOp_aligned h ld tag sram s h0 hal

end Sys2Proof.Machine

namespace Sys2Proof

open Machine

/-- Settles O40: a request that finds a credit is processed, and where its address lies decides; one that the latch turns away, and an error
message, leave nothing to settle. -/
theorem requestsAreReceived : Obligations.RequestsAreReceived := by
  unfold Obligations.RequestsAreReceived
  intro h ld tag hpa sram s hq ha hsc hp
  refine ⟨fun c kind hcr hc => ?_, fun op _ hal => exec_atomicOp_misaligned hq ha hp ld tag sram hal⟩
  have hm := counted_countRequest s.m h kind
  have hx : exec c s = .next (settle { s with m := process s.live s.latch s.m h ld tag hpa.toNat kind sram }) := by
    rw [exec_of_request s hc, request_active ha hp hsc hcr]
  refine ⟨s.m.countRequest h kind, hm.heads, hm.home, hm.dc, hm.led, ?inPart, ?outOfPart, ?latched⟩
  case inPart =>
    intro p dpa hl hv hd
    rw [hx, hl, process_active ha, hd]
    simp [hv]
  case outOfPart =>
    intro hl hd
    rw [hx, hl, process_active ha, hd]
  case latched =>
    intro hl
    rw [hx, hl, process_latched]
    exact congrArg Host.Outcome.next (settle_quiet _ (quiet_turnAway (quiet_counted hq hm) _ _ _ _))

end Sys2Proof
end

section
/-! PROOFS. What serving a request at its home does (R104, R107, R114, R119, R120, R128, R130): the equation of each of the home's functions for
a request alone at the home, on a line that no head holds and that is neither mirrored nor awaited by tally sums. -/

namespace Sys2Proof.Machine

/-! ### What serving leaves alone -/

/-- The machinery without what serving a request at its home may change. -/
def Mach.offHome (m : Mach) : Mach :=
  { m with fresh := 0, regs := [], outbox := [], home := {}, led := {}, bwg := { cycles := m.bwg.cycles }, pmu := {}, msix := {} }

/-- `t` is `m` after the home has served something: the rest of the part is as it was, and what was sent stays sent. -/
structure HomeStep (m t : Mach) : Prop where
  rest : t.offHome = m.offHome
  sent : ∀ x ∈ m.outbox, x ∈ t.outbox

namespace HomeStep
variable {m t u : Mach}

theorem refl (m : Mach) : HomeStep m m := ⟨rfl, fun _ h => h⟩

theorem trans (h : HomeStep m t) (k : HomeStep t u) : HomeStep m u := ⟨k.rest.trans h.rest, fun x hx => k.sent x (h.sent x hx)⟩

theorem of_counted (h : Counted m t) : HomeStep m t := ⟨(congrArg Mach.offHome h.rest :), h.sent⟩

theorem core (h : HomeStep m t) : t.core = m.core := (congrArg Mach.core h.rest :)
theorem raised (h : HomeStep m t) : t.raised = m.raised := (congrArg Mach.raised h.rest :)
theorem straps (h : HomeStep m t) : t.straps = m.straps := (congrArg Mach.straps h.rest :)
theorem heads (h : HomeStep m t) : t.heads = m.heads := (congrArg Mach.heads h.rest :)
theorem mcs (h : HomeStep m t) : t.mcs = m.mcs := (congrArg Mach.mcs h.rest :)
theorem scb (h : HomeStep m t) : t.scb = m.scb := (congrArg Mach.scb h.rest :)
theorem tally (h : HomeStep m t) : t.tally = m.tally := (congrArg Mach.tally h.rest :)
theorem pwr (h : HomeStep m t) : t.pwr = m.pwr := (congrArg Mach.pwr h.rest :)
theorem cycles (h : HomeStep m t) : t.bwg.cycles = m.bwg.cycles := (congrArg (fun x : Mach => x.bwg.cycles) h.rest :)

/-- The heads' records are as they were. -/
theorem head (h : HomeStep m t) (k : Nat) : t.head k = m.head k := by
  unfold Mach.head
  rw [h.straps, h.heads]

end HomeStep

theorem homeStep_home (m : Mach) (h : Home) : HomeStep m { m with home := h } := ⟨rfl, fun _ hx => hx⟩

theorem homeStep_send (m : Mach) (x : Out) : HomeStep m (m.send x) := ⟨rfl, fun _ hx => List.mem_append_left _ hx⟩

theorem mem_outbox_send (m : Mach) (x : Out) : x ∈ (m.send x).outbox := List.mem_append_right _ (List.mem_singleton.mpr rfl)

/-- A request's charge stands as it is, is refunded, or is counted (R298). -/
theorem settleCharge_cases (m : Mach) (r : Req) (free : Bool) :
    m.settleCharge r free = m ∨ m.settleCharge r free = m.refund r.mst 1 ∨ m.settleCharge r free = m.countCharge r 1 := by
  unfold Mach.settleCharge
  dsimp only
  by_cases h : (!r.settled) = true ∨ r.merging = true
  · exact .inl (if_pos h)
  · rw [if_neg h]
    exact .inr ((Classical.em _).imp (fun h => if_pos h) (fun h => if_neg h))

theorem homeStep_settleCharge (m : Mach) (r : Req) (free : Bool) : HomeStep m (m.settleCharge r free) := by
  obtain h | h | h := settleCharge_cases m r free <;> rw [h]
  · exact .refl m
  · exact ⟨rfl, fun _ hx => hx⟩
  · exact .of_counted (counted_countCharge m r 1)

@[simp] theorem settleCharge_home (m : Mach) (r : Req) (free : Bool) : (m.settleCharge r free).home = m.home := by
  obtain h | h | h := settleCharge_cases m r free <;> rw [h]
  · rfl
  · exact (counted_countCharge m r 1).home

/-! ### The end of a request (R132) -/

/-- The home after a request has ended, when no clean line waits for a way: it has left its tracker, and its filter way is given up. -/
theorem endReq_home {m : Mach} (hf : m.home.fills = []) (r : Req) (p : Bool) : (m.endReq r p).home =
    { m.home with sfRsv := m.home.sfRsv.filter (fun x => x.2 != r.id), trk := m.home.trk.filter (fun x => x.id != r.id) } := by
  unfold Mach.endReq
  dsimp only
  rw [(counted_noteEnd _ _ _).home, hf]
  rfl

theorem homeStep_endReq (m : Mach) (r : Req) (p : Bool) : HomeStep m (m.endReq r p) := by
  unfold Mach.endReq
  dsimp only
  refine HomeStep.trans ?_ (.of_counted (counted_noteEnd _ _ _))
  split <;> exact ⟨rfl, fun _ hx => hx⟩

/-- A request that is alone at the home leaves it empty as it ends. -/
structure Ended (m t : Mach) : Prop where
  step : HomeStep m t
  trk : t.home.trk = []
  fills : t.home.fills = []

/-- The last request at the home ends. -/
theorem ended_endReq {m : Mach} {r : Req} (hf : m.home.fills = []) (ht : ∀ x ∈ m.home.trk, x.id = r.id) (p : Bool) : Ended m (m.endReq r p) := by
  refine ⟨homeStep_endReq m r p, ?_, ?_⟩
  · rw [endReq_home hf]
    exact List.filter_eq_nil_iff.mpr (fun x hx => by simp [ht x hx])
  · rw [endReq_home hf, hf]

theorem Ended.after {m t u : Mach} (h : HomeStep m t) (k : Ended t u) : Ended m u := ⟨h.trans k.step, k.trk, k.fills⟩

/-- The line cache is as it was. -/
theorem endReq_lcGet {m : Mach} (hf : m.home.fills = []) (r : Req) (p : Bool) (line : Nat) : (m.endReq r p).lcGet line = m.lcGet line := by
  unfold Mach.lcGet
  rw [endReq_home hf]

/-! ### Answers of reads (R114, R119) -/

/-- A head's read is answered with its data; where no head holds the line, nothing else happens. -/
theorem deliver_read {r : Req} {mt : MetaRd} (hk : r.kind = .read mt) (hq : r.quiet = false) (L : Image) (m : Mach) (d : Line) (p : Bool)
    (mv : BitVec 2) : ∃ ans m', (dbLine L m r.line = false → m' = m) ∧
      deliver L m r d p mv = (m'.send (.memData r.head r.tag d p ans)).endReq r p := by
  unfold deliver
  simp only [hk, hq, Bool.false_eq_true, if_false]
  exact ⟨_, _, fun hdb => by cases mt <;> simp [hdb], rfl⟩

/-- A CXL.io read gets its completion. -/
theorem deliver_ioRead {r : Req} (hk : r.kind = .ioRead) (hq : r.quiet = false) (L : Image) (m : Mach) (d : Line) (p : Bool) (mv : BitVec 2) :
    deliver L m r d p mv = (m.send (.ioCpl r.head r.tag d p false)).endReq r p := by
  simp [deliver, hk, hq]

/-- The answer to an agent's read is kept for the agent. -/
theorem deliver_agRead {r : Req} (hk : r.kind = .agRead) (hs : r.src ≠ 12) (L : Image) (m : Mach) (d : Line) (p : Bool) (mv : BitVec 2) :
    deliver L m r d p mv = (m.agentDone r d p mv none).endReq r p := by
  simp [deliver, hk, hs]

/-- What an agent's access answered stands among the answers. -/
theorem agentDone_home {r : Req} (hq : r.quiet = false) (m : Mach) (d : Line) (p : Bool) (mv : BitVec 2) (ack : Option (Nat × Nat)) :
    (m.agentDone r d p mv ack).home =
      { m.home with done := m.home.done ++ [{ who := r.tag, seq := r.seq, line := r.line, kind := r.kind, data := d, p, mv, ack }] } := by
  simp [Mach.agentDone, hq]

theorem homeStep_agentDone (m : Mach) (r : Req) (d : Line) (p : Bool) (mv : BitVec 2) (ack : Option (Nat × Nat)) :
    HomeStep m (m.agentDone r d p mv ack) := by
  unfold Mach.agentDone
  split
  · exact .refl m
  · exact homeStep_home m _

/-! ### Writes (R27, R107, R109) -/

/-- A line of an extent that is not mirrored waits for no lag room (R364). -/
theorem mirrorLag_unmirrored {L : Image} {line : Nat} (h : eMirror (L.extent (line / 64 / 65536)) = false) (m : Mach) :
    mirrorLag L m line = false := by
  simp [mirrorLag, h]

/-- A change of a line of an extent that is not mirrored makes no record (R361). -/
theorem mirrorChange_unmirrored {L : Image} {line : Nat} (h : eMirror (L.extent (line / 64 / 65536)) = false) (m : Mach) (kind head cls : Nat)
    (p : Bool) (mv : BitVec 2) (d : Option Line) : mirrorChange L m kind line head cls p mv d = (none, m) := by
  simp [mirrorChange, h]

/-- A dirty line of the flat area asks nothing of the ledger (R89). -/
theorem noteDirty_flat {L : Image} {page : Nat} (h : flatPage L page = true) (m : Mach) (mst : Nat) (tag : Tag) : noteDirty L m mst tag page = m :=
  if_pos h

/-- A dirty line in its own way, or in a free one of its set. -/
abbrev HasWay (m : Mach) (line : Nat) : Prop := (m.lcGet line).isSome = true ∨ (m.lcWays line).length < 12

/-- The machine with a line written anew in the line cache. -/
def Mach.written (m : Mach) (line : Nat) (d : Line) (p : Bool) (mv : BitVec 2) : Mach :=
  (m.supersede line).lcPut line { data := d, p, mv, dirty := true }

theorem homeStep_written (m : Mach) (line : Nat) (d : Line) (p : Bool) (mv : BitVec 2) : HomeStep m (m.written line d p mv) := ⟨rfl, fun _ h => h⟩

@[simp] theorem written_trk (m : Mach) (line : Nat) (d : Line) (p : Bool) (mv : BitVec 2) : (m.written line d p mv).home.trk = m.home.trk := rfl

@[simp] theorem written_sf (m : Mach) (line : Nat) (d : Line) (p : Bool) (mv : BitVec 2) : (m.written line d p mv).home.sf = m.home.sf := rfl

theorem written_fills {m : Mach} (hf : m.home.fills = []) (line : Nat) (d : Line) (p : Bool) (mv : BitVec 2) :
    (m.written line d p mv).home.fills = [] := by
  change m.home.fills.filter _ = []
  rw [hf]
  rfl

/-- The line cache holds what was written. -/
theorem written_lcGet (m : Mach) (line : Nat) (d : Line) (p : Bool) (mv : BitVec 2) :
    (m.written line d p mv).lcGet line = some { data := d, p, mv, dirty := true, use := m.home.clock + 1 } := Tbl.find?_insert_self ..

/-- A way is found at once where the line has one, or its set has room (R109). -/
theorem install_hasWay {m : Mach} {line : Nat} (h : HasWay m line) (L : Image) (mst : Nat) (tag : Tag) (c : CLine) :
    install L m mst tag line c = (true, (if c.dirty then m.supersede line else m).lcPut line c) := by
  have way : (if (m.lcGet line).isSome then (true, m) else makeWay L m mst tag line) = (true, m) := by
    split
    · rfl
    · next hn => exact if_pos (h.resolve_left hn)
  simp [install, way]

theorem installDirty_flat {L : Image} {m : Mach} {line : Nat} (hw : HasWay m line) (hf : flatPage L (line / 64) = true) (mst : Nat) (tag : Tag)
    (d : Line) (p : Bool) (mv : BitVec 2) : installDirty L m mst tag line d p mv = (true, m.written line d p mv) := by
  unfold installDirty
  rw [install_hasWay hw]
  simp [noteDirty_flat hf, Mach.written]

/-- A line that no head holds has no filter entry. -/
theorem sfGet_of_dbLine {L : Image} {m : Mach} {line : Nat} (h : dbLine L m line = false) : m.sfGet line = none := by
  simpa [dbLine] using (Bool.or_eq_false_iff.mp h).2

/-- The filter has nothing to follow where no head holds the line. -/
theorem sfWrite_of_sfGet {m : Mach} {r : Req} (h : m.sfGet r.line = none) : m.sfWrite r = m := by
  unfold Mach.sfWrite
  rw [h]
  split
  · next he => cases he
  · rfl

/-- A head's write is installed and completed at once. -/
theorem finishWrite_plain {L : Image} {m : Mach} {r : Req} (hk : r.kind.isWrite = true) (hm : eMirror (L.extent (r.line / 64 / 65536)) = false)
    (hf : flatPage L (r.line / 64) = true) (hdb : dbLine L m r.line = false) (hw : HasWay m r.line) (d : Line) (p : Bool) (mv : BitVec 2)
    (old : BitVec 512) (oldP : Bool) : ∃ tier, finishWrite L m r d p mv old oldP = (m.written r.line d p mv).endWrite { r with tier } old p := by
  have hsf : (m.written r.line d p mv).sfGet r.line = none := sfGet_of_dbLine hdb
  unfold finishWrite
  simp only [mirrorLag_unmirrored hm, Bool.and_false, Bool.false_eq_true, if_false, hdb, installDirty_flat hw hf, Bool.not_true,
    sfWrite_of_sfGet hsf, mirrorChange_unmirrored hm, ite_self]
  revert hk
  cases r.kind with
  | write mt x y => exact fun _ => ⟨_, rfl⟩
  | ioWrite x y => exact fun _ => ⟨_, rfl⟩
  | atomic x y => exact fun _ => ⟨_, rfl⟩
  | read _ | clean | ioRead | setPoison | agRead | agWrite | agClear | take | merge | install | grant => exact fun h => Bool.noConfusion h

/-! ### The service of a request (R104, R110) -/

/-- An access without an SRAM error finds none. -/
theorem lcError_none (L : Image) (m : Mach) (h line : Nat) : lcError L m h line .none = m := by
  unfold lcError
  dsimp only
  split
  · next h => cases h
  · next h => cases h
  · rfl

/-- A hit is counted (events 0x101, partition counter 2; R510, R518). -/
def Mach.countHit (m : Mach) (r : Req) : Mach :=
  if r.src < 8 then (m.pmuEvent 0x101 (sliceOf r.line) 1).partCnt r.part 2 1 else m.pmuEvent 0x101 (sliceOf r.line) 1

theorem counted_countHit (m : Mach) (r : Req) : Counted m (m.countHit r) :=
  .ite ((counted_pmuEvent m _ _ _).trans (counted_partCnt _ _ _ _)) (counted_pmuEvent m _ _ _)

/-- A request that needs its line's data finds it in the line cache (R107). -/
theorem serve_hit {m : Mach} {r : Req} {c : CLine} (hs : r.sram = .none) (hn : r.kind.needsData = true) (hc : m.lcGet r.line = some c)
    (L : Image) : ∃ m1, m1.home = (m.lcPut r.line c).home ∧ HomeStep m m1 ∧
      serve L m r = withData L m1 { r with sram := .none, tier := 0 } (answerData r.kind c.data c.p c.asRead) c.p c.mv true := by
  have hm := counted_countHit (m.lcPut r.line c) r
  refine ⟨((m.lcPut r.line c).countHit r).settleCharge { r with sram := .none } true, ?home, ?step, ?eq⟩
  case home => rw [settleCharge_home, hm.home]
  case step => exact ((homeStep_home m _).trans (.of_counted hm)).trans (homeStep_settleCharge _ _ _)
  case eq =>
    unfold serve
    rw [hs, lcError_none]
    simp only [hn, hc, Bool.not_true, Bool.false_eq_true, if_false]
    revert hn
    cases r.kind with
    | clean | take | merge | install | grant => exact fun h => Bool.noConfusion h
    | read | write | ioRead | ioWrite | setPoison | agRead | agWrite | agClear | atomic => exact fun _ => rfl

/-- A write of a whole line needs no data (R27). -/
theorem serve_wholeWrite {m : Mach} {r : Req} (hs : r.sram = .none) (hw : r.kind.isWrite = true) (hn : r.kind.needsData = false) (L : Image) :
    serve L m r = withData L (m.settleCharge { r with sram := .none } false) { r with sram := .none } 0#512 false 0#2 true := by
  unfold serve
  rw [hs, lcError_none]
  simp only [hn, Bool.not_false, if_true]
  revert hw
  cases r.kind with
  | write | ioWrite | atomic => exact fun _ => rfl
  | read _ | clean | ioRead | setPoison | agRead | agWrite | agClear | take | merge | install | grant => exact fun h => Bool.noConfusion h

/-- A head's eviction notice of a line that no head holds is completed (R114). -/
theorem serve_clean {m : Mach} {r : Req} (hs : r.sram = .none) (hk : r.kind = .clean) (hq : r.quiet = false) (hsf : m.sfGet r.line = none)
    (L : Image) : serve L m r = (m.send (.memCmp r.head r.tag false)).endReq { r with sram := .none } false := by
  have e : (if r.src < 8 then m.sfClear r.head r.line else m) = m := by simp [Mach.sfClear, hsf]
  unfold serve
  rw [hs, lcError_none]
  simp [hk, hq, e]

/-! ### The turn of a request (R104, R114) -/

/-- A request that meets nothing on its line: no head holds the line, no sums wait for it, no snoop is out, and its SRAM has no error. -/
structure Unmet (L : Image) (m : Mach) (r : Req) : Prop where
  db : dbLine L m r.line = false
  coal : m.tally.coal.find? r.line = none
  snoops : m.home.snoops = []
  sram : r.sram = .none

/-- With no snoop to send, all have completed. -/
theorem snoopAll_nil (L : Image) (m : Mach) (line : Nat) : snoopAll L m line [] = (true, false, m) := rfl

/-- Nobody is snooped for a line that no head holds. -/
theorem needSnoops_of_sfGet {m : Mach} {r : Req} (h : m.sfGet r.line = none) : needSnoops m r = [] := by
  unfold needSnoops
  rw [h]

/-- A request that meets nothing on its line is served in its turn. -/
theorem turn_unmet {L : Image} {m : Mach} {r : Req} (h : Unmet L m r) : turn L m r = serve L m r := by
  have hsf := sfGet_of_dbLine h.db
  have hby : bypasses m r = false := by simp [bypasses, Mach.lineSnoops, h.snoops]
  have htouch : m.sfTouch r.line = m := by simp [Mach.sfTouch, hsf]
  unfold turn
  simp [h.db, h.sram, hby, h.coal, needSnoops_of_sfGet hsf, snoopAll_nil, htouch]

/-- A request alone at the home, which has not begun, may act. -/
theorem canTurn_alone {m : Mach} {r : Req} (ht : m.home.trk = [r]) (hp : r.phase = .start) (hs : m.home.snoops = []) (he : m.home.evicting = []) :
    canTurn m r = true := by
  simp [canTurn, hp, firstInLine, ht, Mach.lineSnoops, hs, he]

/-! ### The home at rest -/

theorem retryFills_nil {m : Mach} (hf : m.home.fills = []) (L : Image) : retryFills L m = m := by
  unfold retryFills
  rw [hf]
  rfl

/-- No request leaves its tracker for a line installed, when none has been answered. -/
theorem filled_eq {m : Mach} (h : ∀ r ∈ m.home.trk, r.phase ≠ .fill) : m.filled = m := by
  have e : m.home.trk.filter (fun r => r.phase != .fill || m.home.fills.any (fun f => f.line == r.line)) = m.home.trk :=
    List.filter_eq_self.mpr (fun r hr => by simp [h r hr])
  unfold Mach.filled
  rw [e]

/-- With no request and no clean line waiting, the home does nothing. -/
theorem pump_idle {m : Mach} (ht : m.home.trk = []) (hf : m.home.fills = []) (L : Image) (n : Nat) : pump L n m = m := by
  have e : pumpPass L m = m := by
    unfold pumpPass
    rw [ht, retryFills_nil hf, filled_eq (by simp [ht])]
    rfl
  cases n with
  | zero => rfl
  | succ n => simp [pump, e]

theorem pumpAll_idle {m : Mach} (ht : m.home.trk = []) (hf : m.home.fills = []) (L : Image) : m.pumpAll L = m := pump_idle ht hf L _

/-- The one request at the home acts; when that ends it, the home is at rest. -/
theorem pumpAll_alone {L : Image} {m : Mach} {r : Req} (ht : m.home.trk = [r]) (hf : m.home.fills = []) (hp : r.phase = .start)
    (hs : m.home.snoops = []) (he : m.home.evicting = []) (hend : Ended m (turn L m r)) : m.pumpAll L = turn L m r := by
  have pass : pumpPass L m = turn L m r := by
    unfold pumpPass
    rw [ht, retryFills_nil hf, filled_eq (by simp [ht, hp])]
    simp [ht, canTurn_alone ht hp hs he]
  unfold Mach.pumpAll pump
  simp only [pass]
  split
  · next h => exact h.symm
  · exact pump_idle hend.trk hend.fills L _

end Sys2Proof.Machine
end

section
/-! PROOFS. Each kind of request, alone at the home on a line that is served at once, answers and ends (R27, R107, R114, R119, R120, R128,
R130). -/

namespace Sys2Proof.Machine

/-! ### A request alone at the home -/

/-- A request that is alone at the home meets nothing on its line, is to be answered, and its line is of the flat area and not mirrored. -/
structure Ready (L : Image) (m : Mach) (r : Req) : Prop extends Unmet L m r where
  trk : ∀ x ∈ m.home.trk, x.id = r.id
  fills : m.home.fills = []
  quiet : r.quiet = false
  merging : r.merging = false
  flat : flatPage L (r.line / 64) = true
  plain : eMirror (L.extent (r.line / 64 / 65536)) = false

/-- Whether a head holds a line is known from the filter. -/
theorem dbLine_of_sf {L : Image} {m t : Mach} {line : Nat} (h : t.home.sf = m.home.sf) (hdb : dbLine L m line = false) :
    dbLine L t line = false := by
  rw [← hdb]
  unfold dbLine Mach.sfGet
  rw [h]

/-! ### Reads -/

/-- A head's read that finds its line is answered with it. -/
theorem ended_read {L : Image} {m : Mach} {r : Req} {c : CLine} {mt : MetaRd} (h : Ready L m r) (hk : r.kind = .read mt)
    (hc : m.lcGet r.line = some c) : Ended m (turn L m r) ∧
      ∃ ans, Out.memData r.head r.tag (answerData r.kind c.data c.p c.asRead) c.p ans ∈ (turn L m r).outbox := by
  obtain ⟨m1, home, step, hit⟩ := serve_hit h.sram (by rw [hk]; rfl) hc L
  have hdb : dbLine L m1 r.line = false := dbLine_of_sf (by rw [home]; rfl) h.db
  obtain ⟨ans, m2, same, sent⟩ := deliver_read (r := { r with sram := .none, tier := 0 }) hk h.quiet L m1 (answerData r.kind c.data c.p c.asRead)
    c.p c.mv
  rw [same hdb] at sent
  have data : turn L m r = (m1.send (.memData r.head r.tag (answerData r.kind c.data c.p c.asRead) c.p ans)).endReq
      { r with sram := .none, tier := 0 } c.p := by
    rw [turn_unmet h.toUnmet, hit, ← sent]
    simp [withData, hk, h.merging]
  have hend := ended_endReq (m := m1.send (.memData r.head r.tag (answerData r.kind c.data c.p c.asRead) c.p ans))
    (r := { r with sram := .none, tier := 0 }) (by rw [Mach.send_home, home]; exact h.fills) (by rw [Mach.send_home, home]; exact h.trk) c.p
  rw [data]
  exact ⟨hend.after (step.trans (homeStep_send _ _)), ans, hend.step.sent _ (mem_outbox_send _ _)⟩

/-- A CXL.io read that finds its line gets its completion with it. -/
theorem ended_ioRead {L : Image} {m : Mach} {r : Req} {c : CLine} (h : Ready L m r) (hk : r.kind = .ioRead) (hc : m.lcGet r.line = some c) :
    Ended m (turn L m r) ∧ Out.ioCpl r.head r.tag (answerData r.kind c.data c.p c.asRead) c.p false ∈ (turn L m r).outbox := by
  obtain ⟨m1, home, step, hit⟩ := serve_hit h.sram (by rw [hk]; rfl) hc L
  have data : turn L m r = (m1.send (.ioCpl r.head r.tag (answerData r.kind c.data c.p c.asRead) c.p false)).endReq
      { r with sram := .none, tier := 0 } c.p := by
    rw [turn_unmet h.toUnmet, hit, ← deliver_ioRead (r := { r with sram := .none, tier := 0 }) hk h.quiet L m1 _ _ c.mv]
    simp [withData, hk, h.merging]
  have hend := ended_endReq (m := m1.send (.ioCpl r.head r.tag (answerData r.kind c.data c.p c.asRead) c.p false))
    (r := { r with sram := .none, tier := 0 }) (by rw [Mach.send_home, home]; exact h.fills) (by rw [Mach.send_home, home]; exact h.trk) c.p
  rw [data]
  exact ⟨hend.after (step.trans (homeStep_send _ _)), hend.step.sent _ (mem_outbox_send _ _)⟩

/-- An agent's read that finds its line has its answer kept for the agent. -/
theorem ended_agRead {L : Image} {m : Mach} {r : Req} {c : CLine} (h : Ready L m r) (hk : r.kind = .agRead) (hs : r.src ≠ 12)
    (hc : m.lcGet r.line = some c) : Ended m (turn L m r) ∧ (turn L m r).home.intq = m.home.intq ∧
      ∃ d ∈ (turn L m r).home.done, d.who = r.tag ∧ d.seq = r.seq ∧ d.line = r.line ∧
      d.data = answerData r.kind c.data c.p c.asRead ∧ d.p = c.p := by
  obtain ⟨m1, home, step, hit⟩ := serve_hit h.sram (by rw [hk]; rfl) hc L
  have data : turn L m r = (m1.agentDone { r with sram := .none, tier := 0 } (answerData r.kind c.data c.p c.asRead) c.p c.mv none).endReq
      { r with sram := .none, tier := 0 } c.p := by
    rw [turn_unmet h.toUnmet, hit, ← deliver_agRead (r := { r with sram := .none, tier := 0 }) hk hs L]
    simp [withData, hk, h.merging]
  have hdone := agentDone_home (r := { r with sram := .none, tier := 0 }) h.quiet m1 (answerData r.kind c.data c.p c.asRead) c.p c.mv none
  rw [home] at hdone
  have hf : (m1.agentDone { r with sram := .none, tier := 0 } (answerData r.kind c.data c.p c.asRead) c.p c.mv none).home.fills = [] := by
    rw [hdone]; exact h.fills
  have hend := ended_endReq (r := { r with sram := .none, tier := 0 }) hf (by rw [hdone]; exact h.trk) c.p
  rw [data]
  refine ⟨hend.after (step.trans (homeStep_agentDone _ _ _ _ _ _)), ?_⟩
  rw [endReq_home hf, hdone]
  exact ⟨rfl, _, List.mem_append_right _ (List.mem_singleton.mpr rfl), rfl, rfl, rfl, rfl, rfl⟩

/-! ### Writes -/

/-- `t` is `m` after its only request has ended, leaving a line written in the line cache. -/
structure Stored (m t : Mach) (line : Nat) (d : Line) (p : Bool) : Prop extends Ended m t where
  way : ∃ y, t.lcGet line = some y ∧ y.data = d ∧ y.p = p ∧ y.dirty = true

/-- What a head is told when its write has been completed: nothing of a posted one (R27, R130). -/
def completion (r : Req) (old : BitVec 512) (p : Bool) : List Out :=
  match r.kind with
  | .write .. => [.memCmp r.head r.tag false]
  | .atomic .. => [.ioCpl r.head r.tag old p false]
  | _ => []

/-- A write's completion is sent, and it ends. -/
theorem endWrite_eq {r : Req} (hq : r.quiet = false) (m : Mach) (old : BitVec 512) (p : Bool) :
    m.endWrite r old p = ((completion r old p).foldl Mach.send m).endReq r p := by
  unfold Mach.endWrite completion
  cases r.kind <;> simp [hq]

/-- A sequence of messages leaves the rest of the part alone, and is sent. -/
theorem send_all (l : List Out) (m : Mach) :
    HomeStep m (l.foldl Mach.send m) ∧ (l.foldl Mach.send m).home = m.home ∧ ∀ x ∈ l, x ∈ (l.foldl Mach.send m).outbox := by
  induction l generalizing m with
  | nil => exact ⟨.refl m, rfl, fun x hx => absurd hx (List.not_mem_nil)⟩
  | cons a l ih =>
    obtain ⟨step, home, sent⟩ := ih (m.send a)
    refine ⟨(homeStep_send m a).trans step, home, fun x hx => ?_⟩
    obtain rfl | hx := List.mem_cons.mp hx
    · exact step.sent _ (mem_outbox_send m x)
    · exact sent x hx

/-- A head's write whose line has a way is installed and completed. -/
theorem stored_finishWrite {L : Image} {m : Mach} {r : Req} (h : Ready L m r) (hk : r.kind.isWrite = true) (hw : HasWay m r.line) (d : Line)
    (p : Bool) (mv : BitVec 2) (old : BitVec 512) (oldP : Bool) : Stored m (finishWrite L m r d p mv old oldP) r.line d p ∧
      ∀ x ∈ completion r old p, x ∈ (finishWrite L m r d p mv old oldP).outbox := by
  obtain ⟨tier, e⟩ := finishWrite_plain hk h.plain h.flat h.db hw d p mv old oldP
  rw [endWrite_eq (r := { r with tier }) h.quiet] at e
  obtain ⟨step, home, sent⟩ := send_all (completion { r with tier } old p) (m.written r.line d p mv)
  have hf : ((completion { r with tier } old p).foldl Mach.send (m.written r.line d p mv)).home.fills = [] := by
    rw [home]; exact written_fills h.fills _ _ _ _
  have hend := ended_endReq (r := { r with tier }) hf (by rw [home]; exact h.trk) p
  rw [e]
  refine ⟨⟨hend.after ((homeStep_written _ _ _ _ _).trans step), ?_⟩, fun x hx => hend.step.sent x (sent x hx)⟩
  rw [endReq_lcGet hf]
  exact ⟨_, (congrArg (fun t : Home => Tbl.find? t.lc r.line) home).trans (written_lcGet m r.line d p mv), rfl, rfl, rfl⟩

/-- A request is as ready on a home that differs in what it keeps of the line cache and of the charges. -/
theorem Ready.after {L : Image} {m t : Mach} {r : Req} (h : Ready L m r) (step : HomeStep m t) (hsf : t.home.sf = m.home.sf)
    (htrk : t.home.trk = m.home.trk) (hfills : t.home.fills = m.home.fills) (hsn : t.home.snoops = m.home.snoops) (tier : Nat) :
    Ready L t { r with sram := .none, tier } where
  db := dbLine_of_sf hsf h.db
  coal := by rw [step.tally]; exact h.coal
  snoops := by rw [hsn]; exact h.snoops
  sram := rfl
  trk := by rw [htrk]; exact h.trk
  fills := by rw [hfills]; exact h.fills
  quiet := h.quiet
  merging := h.merging
  flat := h.flat
  plain := h.plain

theorem Stored.after {m t u : Mach} {line : Nat} {d : Line} {p : Bool} (h : HomeStep m t) (k : Stored t u line d p) : Stored m u line d p :=
  ⟨k.toEnded.after h, k.way⟩

/-- A hit leaves the line its way. -/
theorem hasWay_of_hit {m m1 : Mach} {line : Nat} {c : CLine} (h : m1.home = (m.lcPut line c).home) : HasWay m1 line := by
  left
  unfold Mach.lcGet
  rw [h]
  exact Option.isSome_iff_exists.mpr ⟨_, Tbl.find?_insert_self ..⟩

/-- A write that needs its line's data and finds it writes what it makes of it. -/
theorem stored_hit {L : Image} {m : Mach} {r : Req} {c : CLine} {d : Line} {p : Bool} {mv : BitVec 2} {old : BitVec 512} {oldP : Bool}
    (h : Ready L m r) (hk : r.kind.isWrite = true) (hn : r.kind.needsData = true) (hc : m.lcGet r.line = some c)
    (hd : ∀ (t : Mach) (q : Req), q.kind = r.kind → q.merging = false →
      withData L t q (answerData r.kind c.data c.p c.asRead) c.p c.mv true = finishWrite L t q d p mv old oldP) :
    Stored m (turn L m r) r.line d p ∧ ∀ x ∈ completion r old p, x ∈ (turn L m r).outbox := by
  obtain ⟨m1, home, step, hit⟩ := serve_hit h.sram hn hc L
  rw [turn_unmet h.toUnmet, hit, hd m1 { r with sram := .none, tier := 0 } rfl h.merging]
  have ready := h.after step (by rw [home]; rfl) (by rw [home]; rfl) (by rw [home]; rfl) (by rw [home]; rfl) 0
  obtain ⟨stored, sent⟩ := stored_finishWrite ready hk (hasWay_of_hit home) d p mv old oldP
  exact ⟨stored.after step, sent⟩

/-- A write of a whole line that has a way, or finds one, writes it. -/
theorem stored_whole {L : Image} {m : Mach} {r : Req} {d : Line} {p : Bool} {mv : BitVec 2} {old : BitVec 512} {oldP : Bool}
    (h : Ready L m r) (hk : r.kind.isWrite = true) (hn : r.kind.needsData = false) (hw : HasWay m r.line)
    (hd : ∀ (t : Mach) (q : Req), q.kind = r.kind → q.merging = false → withData L t q 0#512 false 0#2 true = finishWrite L t q d p mv old oldP) :
    Stored m (turn L m r) r.line d p ∧ ∀ x ∈ completion r old p, x ∈ (turn L m r).outbox := by
  have step := homeStep_settleCharge m { r with sram := .none } false
  have home := settleCharge_home m { r with sram := .none } false
  rw [turn_unmet h.toUnmet, serve_wholeWrite h.sram hk hn, hd _ { r with sram := .none } rfl h.merging]
  have ready := h.after step (by rw [home]) (by rw [home]) (by rw [home]) (by rw [home]) r.tier
  have way : HasWay (m.settleCharge { r with sram := .none } false) r.line := by
    unfold HasWay Mach.lcGet Mach.lcWays
    rw [home]
    exact hw
  obtain ⟨stored, sent⟩ := stored_finishWrite ready hk way d p mv old oldP
  exact ⟨stored.after step, sent⟩

/-- A host's write of a line (R27). -/
theorem stored_write {L : Image} {m : Mach} {r : Req} {mt : Meta} {d : Line} {p : Bool} (h : Ready L m r) (hk : r.kind = .write mt d p)
    (hw : HasWay m r.line) : Stored m (turn L m r) r.line d p ∧ Out.memCmp r.head r.tag false ∈ (turn L m r).outbox := by
  obtain ⟨stored, sent⟩ := stored_whole (d := d) (p := p) (mv := mvCode mt) (old := 0#512) (oldP := false) h (by rw [hk]; rfl) (by rw [hk]; rfl)
    hw (fun t q hq hm => by simp [withData, hm, hq, hk])
  exact ⟨stored, sent _ (by simp [completion, hk])⟩

/-- A merge of all bytes takes nothing of the old line. -/
theorem mergeBytes_whole {be : BitVec 64} (h : wholeLine be = true) (d a b : Line) : mergeBytes be d a = mergeBytes be d b := by
  have hbe : be = BitVec.allOnes 64 := by simpa [wholeLine] using h
  refine congrArg (ofBytes 512) (List.map_congr_left fun i hi => ?_)
  have hi' : be.getLsbD i = true := by
    rw [hbe, BitVec.getLsbD_allOnes]
    exact decide_eq_true (List.mem_range.mp hi)
  rw [if_pos hi', if_pos hi']

/-- A CXL.io write merges its bytes into a line that stands in the line cache (R120, R128). -/
theorem stored_ioWrite {L : Image} {m : Mach} {r : Req} {c : CLine} {d : Line} {be : BitVec 64} (h : Ready L m r) (hk : r.kind = .ioWrite d be)
    (hc : m.lcGet r.line = some c) : Stored m (turn L m r) r.line (mergeBytes be d c.data) (c.p && !wholeLine be) := by
  have hw : r.kind.isWrite = true := by rw [hk]; rfl
  have hn : r.kind.needsData = !wholeLine be := by rw [hk]; rfl
  by_cases hb : wholeLine be = true
  · refine (stored_whole (mv := 0#2) (old := 0#512) (oldP := false) h hw (by rw [hn, hb]; rfl) (.inl (by simp [hc])) ?_).1
    intro t q hq hm
    simp [withData, hm, hq, hk, hb, mergeBytes_whole hb d c.data 0#512]
  · have hb' : wholeLine be = false := Bool.eq_false_iff.mpr hb
    refine (stored_hit (mv := 0#2) (old := c.data) (oldP := c.p) h hw (by rw [hn, hb']; rfl) hc ?_).1
    intro t q hq hm
    simp [withData, hm, hq, hk, answerData, ReqKind.reads]

/-- An atomic operation on a good line that stands in the line cache returns the operand and leaves the new one (R128-R130). -/
theorem stored_atomic {L : Image} {m : Mach} {r : Req} {c : CLine} {op : Atomic} {b : Nat} (h : Ready L m r) (hk : r.kind = .atomic op b)
    (hc : m.lcGet r.line = some c) (hp : c.p = false) : Stored m (turn L m r) r.line (atomicLine op b c.data).1 false ∧
      Out.ioCpl r.head r.tag (atomicLine op b c.data).2 false false ∈ (turn L m r).outbox := by
  obtain ⟨stored, sent⟩ := stored_hit (d := (atomicLine op b c.data).1) (p := false) (mv := 0#2) (old := (atomicLine op b c.data).2) (oldP := false)
    h (by rw [hk]; rfl) (by rw [hk]; rfl) hc (fun t q hq hm => by simp [withData, hm, hq, hk, hp, answerData])
  exact ⟨stored, sent _ (by simp [completion, hk])⟩

/-! ### Eviction notices -/

/-- A host's eviction notice is completed (R114). -/
theorem ended_clean {L : Image} {m : Mach} {r : Req} (h : Ready L m r) (hk : r.kind = .clean) :
    Ended m (turn L m r) ∧ Out.memCmp r.head r.tag false ∈ (turn L m r).outbox := by
  have hend := ended_endReq (m := m.send (.memCmp r.head r.tag false)) (r := { r with sram := .none }) h.fills h.trk false
  rw [turn_unmet h.toUnmet, serve_clean h.sram hk h.quiet (sfGet_of_dbLine h.db)]
  exact ⟨hend.after (homeStep_send _ _), hend.step.sent _ (mem_outbox_send _ _)⟩

end Sys2Proof.Machine
end

section
/-! PROOFS. A CORE cycle in which the regulator admits the one request that waits, and the home serves it (R103, R105, R300-R303). -/

namespace Sys2Proof.Machine

/-! ### The heads' records -/

/-- A head that the straps create holds the record that was set; the others hold theirs. -/
theorem head_setHead (m : Mach) (h : Nat) (x : Head) (j : Nat) :
    (m.setHead h x).head j = if m.straps.lanes j = 0 then { st := .absent } else if j = h then x else m.head j := by
  unfold Mach.head Mach.setHead
  dsimp only
  split
  · rfl
  · split
    · next hj => rw [hj, Tbl.get, Tbl.find?_insert_self]; rfl
    · next hj => rw [Tbl.get, Tbl.find?_insert_ne _ _ hj]; rfl

/-- A head that is not absent has lanes (R35). -/
theorem lanes_of_head {m : Mach} {h : Nat} (hs : (m.head h).st ≠ .absent) : m.straps.lanes h ≠ 0 := by
  intro h0
  exact hs (by simp [Mach.head, h0])

theorem head_setHead_self {m : Mach} {h : Nat} (hs : (m.head h).st ≠ .absent) (x : Head) : (m.setHead h x).head h = x := by
  simp [head_setHead, lanes_of_head hs]

theorem head_setHead_ne (m : Mach) {h j : Nat} (hj : j ≠ h) (x : Head) : (m.setHead h x).head j = m.head j := by
  rw [head_setHead, if_neg hj]
  unfold Mach.head
  split <;> rfl

/-! ### What waits for the regulator -/

/-- A head's class queues hold nothing. -/
abbrev Head.Idle (x : Head) : Prop := x.qRt = [] ∧ x.qTable = [] ∧ x.qBulk = []

/-- Where no internal source has a request, a master's queue is its head's. -/
theorem mQueue_of_intq {m : Mach} (hi : m.home.intq = []) (j : Nat) : m.mQueue j =
    if 32 ≤ j ∨ (m.head (j / 4)).st = .recovery then [] else if j % 4 = 0 then (m.head (j / 4)).qRt
    else if j % 4 = 1 then (m.head (j / 4)).qTable else if j % 4 = 2 then (m.head (j / 4)).qBulk else [] := by
  unfold Mach.mQueue
  rw [hi]
  rfl

/-- Where no head holds a request, a master's queue is what the internal sources hold for it. -/
theorem mQueue_of_heads {m : Mach} (hh : ∀ h < 8, (m.head h).Idle) (j : Nat) :
    m.mQueue j = (m.home.intq.filter (fun r => r.mst == j)).foldl (fun l r => putOrdered r l) [] := by
  have host : (if 32 ≤ j ∨ (m.head (j / 4)).st = .recovery then [] else if j % 4 = 0 then (m.head (j / 4)).qRt
      else if j % 4 = 1 then (m.head (j / 4)).qTable else if j % 4 = 2 then (m.head (j / 4)).qBulk else []) = [] := by
    by_cases hj : 32 ≤ j
    · simp [hj]
    · obtain ⟨h0, h1, h2⟩ := hh (j / 4) (by omega)
      simp [h0, h1, h2]
  unfold Mach.mQueue
  dsimp only
  rw [host]

/-- Nothing waits where the heads and the internal sources have no request. -/
theorem mQueue_nil {m : Mach} (hi : m.home.intq = []) (hh : ∀ h < 8, (m.head h).Idle) (j : Nat) : m.mQueue j = [] := by
  rw [mQueue_of_heads hh, hi]
  rfl

/-- What waits is known from the heads and the internal sources' queues. -/
theorem mQueue_congr {m t : Mach} (hi : t.home.intq = m.home.intq) (hh : ∀ h, t.head h = m.head h) (j : Nat) : t.mQueue j = m.mQueue j := by
  unfold Mach.mQueue
  rw [hi, hh]

theorem waitingMasters_nil {m : Mach} (h : ∀ j < 38, m.mQueue j = []) : m.waitingMasters = [] :=
  List.filter_eq_nil_iff.mpr (fun j hj => by simp [h j (List.mem_range.mp hj)])

/-- The one master with a request. -/
theorem waitingMasters_one {m : Mach} {k : Nat} (hk : k < 38) (hq : m.mQueue k ≠ []) (h : ∀ j < 38, j ≠ k → m.mQueue j = []) :
    m.waitingMasters = [k] := by
  have e : m.waitingMasters = (List.range 38).filter (· == k) := by
    refine List.filter_congr fun j hj => ?_
    by_cases hjk : j = k
    · simp [hjk, List.isEmpty_eq_false_iff.mpr hq]
    · simp [hjk, h j (List.mem_range.mp hj) hjk]
  rw [e, List.filter_beq, List.count_eq_one_of_mem List.nodup_range (List.mem_range.mpr hk)]
  rfl

/-! ### The pick (R300) -/

theorem pickMaster_nil {m : Mach} (h : m.waitingMasters = []) (L : Image) (passed : List Nat) : pickMaster L m passed = none := by
  simp [pickMaster, h, lowestRatio, swrr]

/-- The one master with a request is picked: at step 1 or 2, or, past its guarantee, at step 3, which nothing is reserved against. -/
theorem pickMaster_one {m : Mach} {k : Nat} (h : m.waitingMasters = [k]) (L : Image) :
    ∃ b, pickMaster L m [] = some (k, b) ∧ b.cycles = m.bwg.cycles := by
  unfold pickMaster
  simp only [h, List.contains_nil, Bool.not_false, List.filter_true]
  split
  · next hf => exact ⟨_, by rw [List.mem_singleton.mp (List.mem_of_find?_eq_some hf)], rfl⟩
  · by_cases hg : m.bwg.charged.get 0 k < winBytes L (honoured L m k)
    · exact ⟨m.bwg, by simp [lowestRatio, hg], rfl⟩
    · have hopen : step3Open L m = true := by
        simp [step3Open, h, Nat.sub_eq_zero_of_le (Nat.le_of_not_lt hg)]
      simp only [decide_eq_false hg, Bool.false_eq_true, not_false_eq_true, List.filter_cons_of_neg, List.filter_nil, lowestRatio, List.foldl_nil,
        hopen, Bool.not_true, if_false]
      by_cases hw : 1 ≤ weightOf L k
      · simp [hw, swrr]
      · simp only [hw, decide_false, Bool.false_eq_true, not_false_eq_true, List.filter_cons_of_neg, List.filter_nil, swrr, List.foldl_nil,
          List.any_cons, List.any_nil, Bool.or_self, if_false]
        by_cases hr : m.bwg.rr0 < k
        · exact ⟨{ m.bwg with rr0 := k }, by simp [hr], rfl⟩
        · exact ⟨{ m.bwg with rr0 := k }, by simp [hr], rfl⟩

/-! ### Admission (R302, R303) -/

/-- With nothing waiting the regulator admits nothing. -/
theorem admitCycle_nil {m : Mach} (h : m.waitingMasters = []) (L : Image) (n left : Nat) (passed : List Nat) : admitCycle L n left passed m = m := by
  cases n with
  | zero => rfl
  | succ n => simp [admitCycle, pickMaster_nil h]

/-- A request that touches memory: it goes to its slice, where it takes a place in its line's order (R302). -/
abbrev ReqKind.goesToSlice (k : ReqKind) : Prop := (∀ n, k ≠ .grant n) ∧ ∀ d p a, k ≠ .install d p a

theorem homeStep_charge (m : Mach) (mst n : Nat) : HomeStep m (m.charge mst n) := ⟨rfl, fun _ h => h⟩

/-- An admission is charged, and the home is not touched (R298). -/
theorem chargeAdmit_step (m : Mach) (r : Req) : HomeStep m (m.chargeAdmit r) ∧ (m.chargeAdmit r).home = m.home := by
  have counted : ∀ n, HomeStep m ((m.charge r.mst n).countCharge r n) ∧ ((m.charge r.mst n).countCharge r n).home = m.home := fun n =>
    ⟨(homeStep_charge m _ n).trans (.of_counted (counted_countCharge _ r n)), (counted_countCharge _ r n).home⟩
  unfold Mach.chargeAdmit
  split
  · exact ⟨.refl m, rfl⟩
  · exact ⟨.refl m, rfl⟩
  · exact ⟨.refl m, rfl⟩
  · exact counted 2
  · exact counted _
  · split
    · exact ⟨homeStep_charge m _ 1, rfl⟩
    · exact counted 1

/-- An admitted request stands ahead of its slice. -/
theorem letIn_step {r : Req} (hk : r.kind.goesToSlice) (m : Mach) :
    HomeStep m (m.letIn r) ∧ (m.letIn r).home = { m.home with fab := m.home.fab ++ [{ r with t0 := m.core }] } := by
  unfold Mach.letIn
  split
  · next n h => exact absurd h (hk.1 n)
  · exact ⟨⟨rfl, fun _ hx => hx⟩, rfl⟩

/-- What the regulator keeps of its own does not matter to the queues. -/
theorem dequeue_bwg {b : Bwg} {m : Mach} (hb : b.cycles = m.bwg.cycles) (r : Req) :
    HomeStep (m.dequeue r) ({ m with bwg := b }.dequeue r) ∧ ({ m with bwg := b }.dequeue r).home = (m.dequeue r).home := by
  have account : ∀ x : Mach, HomeStep { x with bwg := m.bwg } { x with bwg := b } := by
    refine fun x => ⟨?_, fun _ hx => hx⟩
    unfold Mach.offHome
    dsimp only
    rw [hb]
  unfold Mach.dequeue
  split
  · exact ⟨account { m with home := { m.home with intq := m.home.intq.filter (fun x => x.id != r.id) } }, rfl⟩
  · exact ⟨account (m.setHead r.src ((m.head r.src).setQueue r.cls (((m.head r.src).queue r.cls).filter (fun q => q.id != r.id)))), rfl⟩

theorem dequeue_core (m : Mach) (r : Req) : (m.dequeue r).core = m.core := by
  unfold Mach.dequeue
  split <;> rfl

/-- The one request that waits, as the regulator finds it: nothing else waits, before it has left its queue and after. -/
structure Waiting (m : Mach) (r : Req) : Prop where
  queue : ∃ k < 38, m.mQueue k = [r] ∧ ∀ j < 38, j ≠ k → m.mQueue j = []
  rest : ∀ j < 38, (m.dequeue r).mQueue j = []

/-- The machine after a pick has admitted a request: the regulator's own account is `b`. -/
def Mach.admitted (m : Mach) (b : Bwg) (r : Req) : Mach := (({ m with bwg := b }.dequeue r).chargeAdmit r).letIn r

/-- An admission touches the request's queue and what is ahead of the slices. -/
theorem admitted_step {m : Mach} {b : Bwg} {r : Req} (hb : b.cycles = m.bwg.cycles) (hk : r.kind.goesToSlice) :
    HomeStep (m.dequeue r) (m.admitted b r) ∧
      (m.admitted b r).home = { (m.dequeue r).home with fab := (m.dequeue r).home.fab ++ [{ r with t0 := m.core }] } := by
  obtain ⟨account, home1⟩ := dequeue_bwg hb r
  obtain ⟨charge, home2⟩ := chargeAdmit_step ({ m with bwg := b }.dequeue r) r
  obtain ⟨go, home3⟩ := letIn_step hk (({ m with bwg := b }.dequeue r).chargeAdmit r)
  refine ⟨(account.trans charge).trans go, ?_⟩
  unfold Mach.admitted
  rw [home3, home2, home1, charge.core, account.core, dequeue_core]

/-- The one request that waits is admitted. -/
theorem admitCycle_one {m : Mach} {r : Req} (h : Waiting m r) (ht : m.trackerFor r = true) (hk : r.kind.goesToSlice) (L : Image) :
    ∃ b : Bwg, b.cycles = m.bwg.cycles ∧ admitCycle L 54 16 [] m = m.admitted b r := by
  obtain ⟨k, hk38, hq, hothers⟩ := h.queue
  obtain ⟨b, hpick, hb⟩ := pickMaster_one (waitingMasters_one hk38 (by simp [hq]) hothers) L
  obtain ⟨step, home⟩ := admitted_step hb hk
  have hnil : (m.admitted b r).waitingMasters = [] := by
    refine waitingMasters_nil fun j hj => ?_
    rw [mQueue_congr (t := m.admitted b r) (m := m.dequeue r) (by rw [home]) step.head j, h.rest j hj]
  refine ⟨b, hb, ?_⟩
  rw [admitCycle]
  simp only [OfNat.ofNat_ne_zero, if_false, hpick, hq, ht, Bool.not_true, Bool.false_eq_true]
  exact admitCycle_nil hnil L _ _ _

/-! ### Entry into the slice (R132) -/

theorem sliceOf_lt (line : Nat) : sliceOf line < 16 := Nat.mod_lt _ (by decide)

/-- A sample of the flat area finds no entry (R89, R164). -/
theorem homeStep_sampleHeat {L : Image} {line : Nat} (hf : flatPage L (line / 64) = true) (m : Mach) :
    HomeStep m (sampleHeat L m line) ∧ (sampleHeat L m line).home = m.home := by
  unfold sampleHeat
  dsimp only
  rw [if_pos hf]
  split <;> exact ⟨⟨rfl, fun _ h => h⟩, rfl⟩

/-- A request as it stands at the home: with its tracker, and sampled or not (R132, R515). -/
def Req.stood (r : Req) (n : Nat) (sampled : Bool) : Req := { r with trk := n, sampled }

/-- A request takes its tracker. -/
theorem stand_step (m : Mach) (r : Req) : HomeStep m (enter.stand r m) ∧ ∃ n b pk, (enter.stand r m).home =
    { m.home with trk := m.home.trk ++ [r.stood n b], peak := pk } := by
  have hc := counted_sampleTick m { r with trk := if r.tracker then m.freeTracker (sliceOf r.line) else 0 }
  refine ⟨(HomeStep.of_counted hc).trans ((homeStep_home _ _).trans (homeStep_home _ _)),
    if r.tracker then m.freeTracker (sliceOf r.line) else 0,
    (m.sampleTick { r with trk := if r.tracker then m.freeTracker (sliceOf r.line) else 0 }).1, (enter.stand r m).home.peak, ?_⟩
  unfold enter.stand
  dsimp only
  rw [hc.home]
  rfl

/-- A request that belongs to no descriptor takes its place at the home, on a line of the flat area. -/
theorem enter_step {L : Image} {m : Mach} {r : Req} (hk : r.kind.goesToSlice) (hj : m.jobOf r = none) (hf : flatPage L (r.line / 64) = true) :
    HomeStep m (enter L m r) ∧ ∃ n b pk, (enter L m r).home =
      { m.home with trk := m.home.trk ++ [r.stood n b], peak := pk } := by
  obtain ⟨step, home⟩ := stand_step m r
  have sampled : ∀ i, HomeStep m (sampleHeat L ((enter.stand r m).partCnt r.part i 1) r.line) ∧
      (sampleHeat L ((enter.stand r m).partCnt r.part i 1) r.line).home = (enter.stand r m).home := by
    intro i
    obtain ⟨hs, hh⟩ := homeStep_sampleHeat hf ((enter.stand r m).partCnt r.part i 1)
    exact ⟨(step.trans (.of_counted (counted_partCnt _ _ _ _))).trans hs, hh.trans (counted_partCnt _ _ _ _).home⟩
  unfold enter
  rw [hj]
  split
  · next h => exact absurd h (hk.2 _ _ _)
  · next h _ => cases h
  · dsimp only
    split
    · split
      · rw [(sampled 0).2]; exact ⟨(sampled 0).1, home⟩
      · rw [(sampled 1).2]; exact ⟨(sampled 1).1, home⟩
      · exact ⟨step, home⟩
    · exact ⟨step, home⟩

/-! ### The slices (R103) -/

/-- A slice accepts the request that stands ahead of it. -/
def acceptAt (L : Image) (m : Mach) (s : Nat) : Mach :=
  match m.nextAt s with
  | some r => enter L { m with home := { m.home with fab := m.home.fab.filter (fun x => x.id != r.id) } } r
  | none => m

theorem sliceCycle_eq (L : Image) (m : Mach) : sliceCycle L m = ((List.range 16).foldl (acceptAt L) m).pumpAll L := rfl

/-- With nothing ahead of the slices they accept nothing. -/
theorem acceptAll_nil {m : Mach} (h : m.home.fab = []) (L : Image) (l : List Nat) : l.foldl (acceptAt L) m = m := by
  induction l with
  | nil => rfl
  | cons s l ih =>
    have e : acceptAt L m s = m := by simp [acceptAt, Mach.nextAt, h]
    rw [List.foldl_cons, e, ih]

/-- One request ahead of the slices is accepted by its own. -/
theorem acceptAll_one {L : Image} {m : Mach} {r : Req} (h : m.home.fab = [r])
    (hfab : (enter L { m with home := { m.home with fab := [] } } r).home.fab = []) (l : List Nat) (hl : sliceOf r.line ∈ l) :
    l.foldl (acceptAt L) m = enter L { m with home := { m.home with fab := [] } } r := by
  induction l with
  | nil => cases hl
  | cons s l ih =>
    rw [List.foldl_cons]
    by_cases hs : sliceOf r.line = s
    · have e : acceptAt L m s = enter L { m with home := { m.home with fab := [] } } r := by simp [acceptAt, Mach.nextAt, h, hs]
      rw [e, acceptAll_nil hfab]
    · have e : acceptAt L m s = m := by simp [acceptAt, Mach.nextAt, h, hs]
      rw [e]
      exact ih ((List.mem_cons.mp hl).resolve_left hs)

/-! ### The ports at the end of a cycle (R50, R53) -/

/-- No request stands in a receive buffer, and no tally write waits. -/
abbrev Mach.PortsIdle (m : Mach) : Prop := ∀ h < 8, (m.head h).rxReq = [] ∧ (m.head h).rxRwd = [] ∧ (m.head h).post = []

/-- With an empty receive buffer nothing moves. -/
theorem portMove_nil {m : Mach} {h : Nat} (h1 : (m.head h).rxReq = []) (h2 : (m.head h).rxRwd = []) (L : Image) : portMove L m h = m := by
  have e : rxOrder (m.head h) = [] := by simp [rxOrder, h1, h2]
  unfold portMove
  rw [e]
  rfl

/-- The receive buffers move, and the panic levels are taken. -/
def portsCycle (L : Image) (m : Mach) : Mach :=
  (List.range 8).foldl panicLevel ((List.range 8).foldl (fun m h => if (m.head h).st = .recovery then m else portMove L m h) m)

theorem coreCycle_eq (L : Image) (m : Mach) : coreCycle L m = portsCycle L (sliceCycle L
    (if (cycleCounts m).admits then admitCycle L 54 16 [] (cycleCounts m) else cycleCounts m)) := rfl

/-- `t` is `m` but for what the heads' records say of panic. -/
structure PanicStep (m t : Mach) : Prop where
  rest : { t with heads := [] } = { m with heads := [] }
  head : ∀ j, ∃ p, t.head j = { m.head j with panic := p }

theorem PanicStep.refl (m : Mach) : PanicStep m m := ⟨rfl, fun _ => ⟨_, rfl⟩⟩

theorem PanicStep.trans {m t u : Mach} (h : PanicStep m t) (k : PanicStep t u) : PanicStep m u := by
  refine ⟨k.rest.trans h.rest, fun j => ?_⟩
  obtain ⟨p, hp⟩ := h.head j
  obtain ⟨q, hq⟩ := k.head j
  exact ⟨q, by rw [hq, hp]⟩

theorem panicStep_panicLevel (m : Mach) (h : Nat) : PanicStep m (panicLevel m h) := by
  have set : ∀ p, PanicStep m (m.setHead h { m.head h with panic := p }) := by
    refine fun p => ⟨rfl, fun j => ?_⟩
    rw [head_setHead]
    split
    · next h0 => exact ⟨false, by simp [Mach.head, h0]⟩
    · split
      · next hj => exact ⟨p, by rw [hj]⟩
      · exact ⟨_, rfl⟩
  have level : ∀ p, PanicStep m (if p = (m.head h).panic then m else m.setHead h { m.head h with panic := p }) := by
    intro p
    split
    · exact .refl m
    · exact set p
  exact level _

theorem panicStep_panicLevels (l : List Nat) (m : Mach) : PanicStep m (l.foldl panicLevel m) := by
  induction l generalizing m with
  | nil => exact .refl m
  | cons h l ih => exact (panicStep_panicLevel m h).trans (ih _)

theorem portMoves_idle {m : Mach} (hi : m.PortsIdle) (L : Image) (l : List Nat) (hl : ∀ h ∈ l, h < 8) :
    l.foldl (fun m h => if (m.head h).st = .recovery then m else portMove L m h) m = m := by
  induction l with
  | nil => rfl
  | cons h l ih =>
    obtain ⟨h1, h2, _⟩ := hi h (hl h (List.mem_cons_self ..))
    rw [List.foldl_cons, portMove_nil h1 h2, ite_self]
    exact ih (fun j hj => hl j (List.mem_cons_of_mem _ hj))

/-- With empty receive buffers only the panic levels are taken. -/
theorem portsCycle_idle {m : Mach} (hi : m.PortsIdle) (L : Image) : PanicStep m (portsCycle L m) := by
  unfold portsCycle
  rw [portMoves_idle hi L _ (fun h hh => List.mem_range.mp hh)]
  exact panicStep_panicLevels _ m

end Sys2Proof.Machine
end

section
/-! PROOFS. A CORE cycle in which the one request that waits is admitted, served at its home and ends (R103, R300-R303). -/

namespace Sys2Proof.Machine

/-! ### The counts of a CORE cycle -/

/-- The machine with a CORE cycle gone by. -/
def Mach.clocked (m : Mach) : Mach := { m with core := m.core + 1, bwg := { m.bwg with cycles := m.bwg.cycles + 1 } }

theorem HomeStep.clocked {m t : Mach} (h : HomeStep m t) : HomeStep m.clocked t.clocked := ⟨(congrArg Mach.clocked h.rest :), h.sent⟩

theorem HomeStep.setHead {m t : Mach} (h : HomeStep m t) (k : Nat) (x : Head) : HomeStep (m.setHead k x) (t.setHead k x) :=
  ⟨(congrArg (fun y : Mach => y.setHead k x) h.rest :), h.sent⟩

/-- A CORE cycle's counts are the monitor's, the time, and the cycles for which masters were held. -/
theorem cycleCounts_eq (m : Mach) : ∃ held, cycleCounts m =
    { (cycleEvents m).clocked with bwg := { (cycleEvents m).clocked.bwg with held } } := by
  unfold cycleCounts
  generalize cycleEvents m = e
  exact ⟨_, rfl⟩

/-- A CORE cycle's counts touch what the monitor and the regulator keep (R310, R510). -/
theorem cycleCounts_step (m : Mach) : HomeStep m.clocked (cycleCounts m) ∧ (cycleCounts m).home = m.home ∧
    ∀ o, Uncounted o → (cycleCounts m).reg o = m.reg o := by
  have hc := counted_cycleEvents m
  obtain ⟨held, e⟩ := cycleCounts_eq m
  have account : ∀ x : Mach, HomeStep x { x with bwg := { x.bwg with held } } := fun x => ⟨rfl, fun _ h => h⟩
  rw [e]
  generalize cycleEvents m = c at hc
  exact ⟨(HomeStep.of_counted hc).clocked.trans (account _), hc.home, hc.reg⟩

theorem HomeStep.dqu {m t : Mach} (h : HomeStep m t) : t.dqu = m.dqu := (congrArg Mach.dqu h.rest :)

/-- A request leaves its queue in the same way of two machines that differ at most in what serving touches. -/
theorem HomeStep.dequeue {m t : Mach} (h : HomeStep m t) (hh : t.home = m.home) (r : Req) :
    HomeStep (m.dequeue r) (t.dequeue r) ∧ (t.dequeue r).home = (m.dequeue r).home := by
  unfold Mach.dequeue
  split
  · exact ⟨⟨h.rest, h.sent⟩, by rw [hh]⟩
  · refine ⟨⟨?_, h.sent⟩, hh⟩
    rw [h.head]
    exact (h.setHead _ _).rest

/-- What waits, waits as long as the home and the heads stay as they are. -/
theorem Waiting.of_step {m t : Mach} {r : Req} (w : Waiting m r) (h : HomeStep m t) (hh : t.home = m.home) : Waiting t r := by
  obtain ⟨hd, hdh⟩ := h.dequeue hh r
  have same : ∀ j, t.mQueue j = m.mQueue j := mQueue_congr (by rw [hh]) h.head
  obtain ⟨k, hk, hq, hothers⟩ := w.queue
  refine ⟨⟨k, hk, by rw [same, hq], fun j hj hne => by rw [same, hothers j hj hne]⟩, fun j hj => ?_⟩
  rw [mQueue_congr (by rw [hdh]) hd.head, w.rest j hj]

theorem Waiting.clocked {m : Mach} {r : Req} (w : Waiting m r) : Waiting m.clocked r := by
  refine ⟨w.queue, fun j hj => ?_⟩
  rw [← w.rest j hj]
  unfold Mach.dequeue
  split <;> rfl

theorem dequeue_dqu (m : Mach) (r : Req) : (m.dequeue r).dqu = m.dqu := by
  unfold Mach.dequeue
  split <;> rfl

theorem clocked_dequeue_head (m : Mach) (r : Req) (j : Nat) : (m.clocked.dequeue r).head j = (m.dequeue r).head j := by
  unfold Mach.dequeue
  split <;> rfl

/-! ### The cycle -/

/-- At an empty home a tracker is free, unless all are kept from the request (R133, R134). -/
theorem trackerFor_empty {m : Mach} (ht : m.home.trk = []) (hf : m.home.fab = []) (hrsv : m.rfld oTrkCfg 9 0 < 1024)
    (hmax : 0 < m.rfld oTrkCfg 26 16) (r : Req) : m.trackerFor r = true := by
  simp [Mach.trackerFor, Mach.sliceTrk, Mach.trackers, ht, hf, hrsv, hmax]

/-- The home is empty. -/
structure HomeEmpty (h : Home) : Prop where
  trk : h.trk = []
  fab : h.fab = []
  fills : h.fills = []
  snoops : h.snoops = []
  evicting : h.evicting = []

theorem HomeEmpty.dequeue {m : Mach} (h : HomeEmpty m.home) (r : Req) : HomeEmpty (m.dequeue r).home := by
  unfold Mach.dequeue
  split
  · exact ⟨h.trk, h.fab, h.fills, h.snoops, h.evicting⟩
  · exact h

/-- A request as it comes to the home: it has a tracker, and the cycle of its admission. -/
def Req.atHome (r : Req) (t0 n : Nat) (sampled : Bool) : Req := Req.stood { r with t0 } n sampled

/-- The request at an empty home is alone. -/
theorem home_alone {h : Home} (ht : h.trk = []) (hf : h.fab = []) (q : Req) (pk : Nat) :
    { h with fab := [], trk := h.trk ++ [q], peak := pk } = { h with trk := [q], peak := pk } := by
  simp [ht, hf]

/-- A request that waits alone with the regulator, which admits it at once; the home is empty, and the request's line is of the flat area, not
mirrored, and met by nothing. -/
structure Offered (L : Image) (m : Mach) (r : Req) : Prop extends Unmet L m r where
  admits : m.admits = true
  waits : Waiting m r
  empty : HomeEmpty m.home
  ports : (m.dequeue r).PortsIdle
  rsv : m.rfld oTrkCfg 9 0 < 1024
  imax : 0 < m.rfld oTrkCfg 26 16
  slice : r.kind.goesToSlice
  own : m.jobOf r = none
  start : r.phase = .start
  quiet : r.quiet = false
  merging : r.merging = false
  flat : flatPage L (r.line / 64) = true
  plain : eMirror (L.extent (r.line / 64 / 65536)) = false

/-- In a CORE cycle with one request waiting, that request comes to the home, and acts; when that ends it, the cycle does no more than take
the panic levels. -/
theorem coreCycle_one {L : Image} {m : Mach} {r : Req} (h : Offered L m r) : ∃ m3 t0 n b pk, HomeStep (m.clocked.dequeue r) m3 ∧
    m3.home = { (m.dequeue r).home with trk := [r.atHome t0 n b], peak := pk } ∧
    (Ended m3 (turn L m3 (r.atHome t0 n b)) → PanicStep (turn L m3 (r.atHome t0 n b)) (coreCycle L m)) := by
  obtain ⟨cstep, chome, creg⟩ := cycleCounts_step m
  obtain ⟨dstep, dhome⟩ := cstep.dequeue chome r
  have clockedHome : (m.clocked.dequeue r).home = (m.dequeue r).home := by
    unfold Mach.dequeue
    split <;> rfl
  have hempty := h.empty.dequeue r
  have hadm : (cycleCounts m).admits = true := by
    unfold Mach.admits
    rw [cstep.pwr]
    exact h.admits
  have hcfg : (cycleCounts m).reg oTrkCfg = m.reg oTrkCfg := creg _ (by decide)
  obtain ⟨b, hb, picked⟩ := admitCycle_one (h.waits.clocked.of_step cstep chome)
    (trackerFor_empty (by rw [chome, h.empty.trk]) (by rw [chome, h.empty.fab]) (by rw [Mach.rfld, hcfg]; exact h.rsv)
      (by rw [Mach.rfld, hcfg]; exact h.imax) r) h.slice L
  obtain ⟨astep, ahome⟩ := admitted_step (r := r) hb h.slice
  rw [dhome, clockedHome, hempty.fab, List.nil_append] at ahome
  generalize (cycleCounts m).admitted b r = m2 at picked astep ahome
  have mstep : HomeStep (m.clocked.dequeue r) m2 := dstep.trans astep
  have hjob : ∀ t0, { m2 with home := { m2.home with fab := [] } }.jobOf { r with t0 } = none := by
    intro t0
    rw [← h.own]
    have hd : m2.dqu = m.dqu := by
      rw [mstep.dqu, dequeue_dqu]
      rfl
    unfold Mach.jobOf
    rw [← hd]
  obtain ⟨estep, n, smp, pk, ehome⟩ := enter_step (L := L) (m := { m2 with home := { m2.home with fab := [] } })
    (r := { r with t0 := (cycleCounts m).core }) h.slice (hjob _) h.flat
  have accept := acceptAll_one (L := L) (m := m2) (r := { r with t0 := (cycleCounts m).core }) (by rw [ahome]) (by rw [ehome]) (List.range 16)
    (List.mem_range.mpr (sliceOf_lt r.line))
  generalize enter L { m2 with home := { m2.home with fab := [] } } { r with t0 := (cycleCounts m).core } = m3 at accept estep ehome
  replace ehome : m3.home = { (m.dequeue r).home with trk := [r.atHome (cycleCounts m).core n smp], peak := pk } := by
    rw [ehome, ahome]
    exact home_alone hempty.trk hempty.fab _ pk
  have step := (mstep.trans (homeStep_home _ _)).trans estep
  refine ⟨m3, (cycleCounts m).core, n, smp, pk, step, ehome, fun hend => ?_⟩
  have served : sliceCycle L m2 = turn L m3 (r.atHome (cycleCounts m).core n smp) := by
    rw [sliceCycle_eq, accept]
    refine pumpAll_alone (by rw [ehome]) (by rw [ehome]; exact hempty.fills) h.start (by rw [ehome]; exact hempty.snoops)
      (by rw [ehome]; exact hempty.evicting) hend
  rw [coreCycle_eq, if_pos hadm, picked, served]
  refine portsCycle_idle (fun j hj8 => ?_) L
  rw [hend.step.head, step.head, clocked_dequeue_head]
  exact h.ports j hj8


/-! ### Before and after the cycle -/

theorem dequeue_tally (m : Mach) (r : Req) : (m.clocked.dequeue r).tally = m.tally := by
  unfold Mach.dequeue
  split <;> rfl

/-- A request that leaves its queue leaves the filter and the line cache alone. -/
theorem dequeue_caches (m : Mach) (r : Req) : (m.dequeue r).home.sf = m.home.sf ∧ (m.dequeue r).home.lc = m.home.lc := by
  unfold Mach.dequeue
  split <;> exact ⟨rfl, rfl⟩

/-- The request of a clocked machine meets at the home what it would have met. -/
theorem ready_atHome {L : Image} {m t : Mach} {r : Req} {t0 n : Nat} {b : Bool} {pk : Nat} (h : Offered L m r)
    (step : HomeStep (m.clocked.dequeue r) t) (home : t.home = { (m.dequeue r).home with trk := [r.atHome t0 n b], peak := pk }) :
    Ready L t (r.atHome t0 n b) where
  db := dbLine_of_sf (by rw [home]; exact (dequeue_caches m r).1) h.db
  coal := by rw [step.tally, dequeue_tally]; exact h.coal
  snoops := by rw [home]; exact (h.empty.dequeue r).snoops
  sram := h.sram
  trk := by rw [home]; exact fun y hy => by rw [List.mem_singleton.mp hy]
  fills := by rw [home]; exact (h.empty.dequeue r).fills
  quiet := h.quiet
  merging := h.merging
  flat := h.flat
  plain := h.plain

/-- A request that is served at once comes to the home alone, with the line cache as it was. -/
theorem Offered.served {L : Image} {m : Mach} {r : Req} (h : Offered L m r) : ∃ t t0 n b, HomeStep (m.clocked.dequeue r) t ∧
    Ready L t (r.atHome t0 n b) ∧ (∀ line, t.lcGet line = m.lcGet line) ∧ t.home.intq = (m.dequeue r).home.intq ∧
    (Ended t (turn L t (r.atHome t0 n b)) → PanicStep (turn L t (r.atHome t0 n b)) (coreCycle L m)) := by
  obtain ⟨t, t0, n, b, pk, step, home, cycle⟩ := coreCycle_one h
  refine ⟨t, t0, n, b, step, ready_atHome h step home, fun line => ?_, by rw [home], cycle⟩
  unfold Mach.lcGet
  rw [home]
  exact congrArg (fun l => Tbl.find? l line) (dequeue_caches m r).2

theorem HomeStep.quiet {s : State} {m t : Mach} (h : HomeStep m t) (hq : Quiet { s with m }) : Quiet { s with m := t } := by
  obtain ⟨hr, hs, hu, hn⟩ := hq
  exact ⟨h.raised.trans hr, by rw [h.scb, hs], by rw [h.pwr, hu], by rw [h.mcs, hn]⟩

theorem PanicStep.quiet {s : State} {m t : Mach} (h : PanicStep m t) (hq : Quiet { s with m }) : Quiet { s with m := t } := by
  obtain ⟨hr, hs, hu, hn⟩ := hq
  have raised : t.raised = m.raised := (congrArg Mach.raised h.rest :)
  have scb : t.scb = m.scb := (congrArg Mach.scb h.rest :)
  have pwr : t.pwr = m.pwr := (congrArg Mach.pwr h.rest :)
  have mcs : t.mcs = m.mcs := (congrArg Mach.mcs h.rest :)
  exact ⟨raised.trans hr, by rw [scb, hs], by rw [pwr, hu], by rw [mcs, hn]⟩

theorem PanicStep.home {m t : Mach} (h : PanicStep m t) : t.home = m.home := (congrArg Mach.home h.rest :)

theorem PanicStep.outbox {m t : Mach} (h : PanicStep m t) : t.outbox = m.outbox := (congrArg Mach.outbox h.rest :)

theorem PanicStep.lcGet {m t : Mach} (h : PanicStep m t) (line : Nat) : t.lcGet line = m.lcGet line := by
  unfold Mach.lcGet
  rw [h.home]

theorem quiet_setHead {s : State} {m : Mach} (hq : Quiet { s with m }) (h : Nat) (x : Head) : Quiet { s with m := m.setHead h x } := hq

theorem quiet_dequeue {s : State} {m : Mach} (hq : Quiet { s with m }) (r : Req) : Quiet { s with m := m.clocked.dequeue r } := by
  unfold Mach.dequeue
  split <;> exact hq

end Sys2Proof.Machine
end

section
/-! PROOFS. A head's request that is served at once, from its arrival to its end (R25, R27, R45, R49, R50, R103), and the statement
LineCacheServesHits: O43. -/

namespace Sys2Proof.Machine

/-! ### Through the receive buffer into the class queue (R49, R50) -/

/-- The place of a class's queue among a head's three (R49). -/
def Cls.place : Cls → Nat
  | .rt => 0 | .table => 1 | _ => 2

theorem Cls.place_lt (c : Cls) : c.place < 3 := by cases c <;> decide

/-- A head that holds one request, in its class queue. -/
theorem setQueue_queue (x : Head) (c d : Cls) (l : List Req) : (x.setQueue c l).queue d = if d.place = c.place then l else x.queue d := by
  cases c <;> cases d <;> rfl

theorem setQueue_rest (x : Head) (c : Cls) (l : List Req) : (x.setQueue c l).st = x.st ∧ (x.setQueue c l).rxReq = x.rxReq ∧
    (x.setQueue c l).rxRwd = x.rxRwd ∧ (x.setQueue c l).post = x.post := by
  cases c <;> exact ⟨rfl, rfl, rfl, rfl⟩

/-- One request in the receive buffers is the next. -/
theorem rxOrder_one {x : Head} {r : Req} (h : x.rxReq ++ x.rxRwd = [r]) : rxOrder x = [r] := by
  simp [rxOrder, h]

/-- A head with nothing in its receive buffers and class queues. -/
structure Clear (x : Head) : Prop where
  rt : x.qRt = []
  table : x.qTable = []
  bulk : x.qBulk = []
  req : x.rxReq = []
  rwd : x.rxRwd = []

theorem homeStep_giveCredit (m : Mach) (h : Nat) (k : ReqKind) : HomeStep m (m.giveCredit h k) ∧ (m.giveCredit h k).home = m.home ∧
    (m.giveCredit h k).regs = m.regs := by
  unfold Mach.giveCredit
  split
  · exact ⟨homeStep_send m _, rfl, rfl⟩
  · exact ⟨.refl m, rfl, rfl⟩

/-- A request as it stands in its class queue. -/
def Req.queued (r : Req) (id h : Nat) (c : Cls) : Req := { r with id, cls := c, mst := headMaster h c }

/-- A clear head with one request in its receive buffers. -/
def Head.received (x : Head) (r : Req) : Head := if r.kind.carries then { x with rxRwd := [r] } else { x with rxReq := [r] }

theorem rxPut_clear {m : Mach} {h : Nat} (hc : Clear (m.head h)) (r : Req) : rxPut m h r =
    { m with home := { m.home with nextId := m.home.nextId + 1 } }.setHead h ((m.head h).received { r with id := m.home.nextId }) := by
  have e : (if r.kind.carries then { m.head h with rxRwd := (m.head h).rxRwd ++ [{ r with id := m.home.nextId }] }
      else { m.head h with rxReq := (m.head h).rxReq ++ [{ r with id := m.home.nextId }] }) =
      (m.head h).received { r with id := m.home.nextId } := by
    rw [hc.rwd, hc.req]
    rfl
  exact congrArg (Mach.setHead _ h) e

/-- A clear head holds no request back. -/
theorem received_moves {x : Head} (hc : Clear x) (r : Req) (c : Cls) : rxOrder (x.received r) = [r] ∧ rxExtentHeld (x.received r) r = false ∧
    rxHolds (x.received r) [] c r = false ∧ (x.received r).queue c = [] := by
  have queues : (x.received r).qRt = [] ∧ (x.received r).qTable = [] ∧ (x.received r).qBulk = [] := by
    unfold Head.received
    split <;> exact ⟨hc.rt, hc.table, hc.bulk⟩
  obtain ⟨h0, h1, h2⟩ := queues
  have hq : (x.received r).queue c = [] := by cases c <;> assumption
  refine ⟨rxOrder_one ?_, by simp [rxExtentHeld, h0, h1, h2], ?_, hq⟩
  · unfold Head.received
    split
    · simp [hc.req]
    · simp [hc.rwd]
  · have room : ¬ queueRoom c ≤ 0 := by
      unfold queueRoom
      split <;> decide
    simp [rxHolds, hq, room, Head.dataLines, h0, h1, h2]

/-- A request that leaves the receive buffers of a clear head leaves it clear but for its class queue. -/
theorem received_left {x : Head} (hc : Clear x) (r : Req) (c : Cls) (q : List Req) :
    { (x.received r).setQueue c q with rxReq := ((x.received r).setQueue c q).rxReq.filter (fun y => y.id != r.id)
                                       rxRwd := ((x.received r).setQueue c q).rxRwd.filter (fun y => y.id != r.id) } = x.setQueue c q := by
  have hreq := hc.req
  have hrwd := hc.rwd
  cases x
  dsimp only at hreq hrwd
  subst hreq hrwd
  unfold Head.received
  cases c <;> split <;> simp [Head.setQueue]

/-- A request that comes to a clear head goes through the receive buffer into its class queue. -/
theorem portMove_rxPut {m : Mach} {h : Nat} (hc : Clear (m.head h)) (hs : (m.head h).st ≠ .absent) (L : Image) (r : Req) :
    ∃ x, HomeStep ((m.setHead h x).setHead h ((m.head h).setQueue (clsOf (eCls (L.extent (r.line / 2 ^ 22))))
        [r.queued m.home.nextId h (clsOf (eCls (L.extent (r.line / 2 ^ 22))))])) (portMove L (rxPut m h r) h) ∧
      (portMove L (rxPut m h r) h).home = { m.home with nextId := m.home.nextId + 1 } ∧
      ∀ o, (portMove L (rxPut m h r) h).reg o = m.reg o := by
  generalize hcls : clsOf (eCls (L.extent (r.line / 2 ^ 22))) = c
  generalize hm1 : { m with home := { m.home with nextId := m.home.nextId + 1 } } = m1
  have hs1 : (m1.head h).st ≠ .absent := by rw [← hm1]; exact hs
  obtain ⟨order, extent, holds, queue⟩ := received_moves hc { r with id := m.home.nextId } c
  have left := received_left hc { r with id := m.home.nextId } c [r.queued m.home.nextId h c]
  have move : portMove L (rxPut m h r) h = ((m1.setHead h ((m.head h).received { r with id := m.home.nextId })).setHead h
      ((m.head h).setQueue c [r.queued m.home.nextId h c])).giveCredit h r.kind := by
    unfold portMove
    rw [rxPut_clear hc, hm1, head_setHead_self hs1, order]
    simp only [List.foldl_cons, List.foldl_nil, head_setHead_self hs1, extent, Bool.false_eq_true, if_false, hcls, holds, queue, List.nil_append]
    exact congrArg (fun y => ((m1.setHead h ((m.head h).received { r with id := m.home.nextId })).setHead h y).giveCredit h r.kind) left
  obtain ⟨step, home, regs⟩ := homeStep_giveCredit ((m1.setHead h ((m.head h).received { r with id := m.home.nextId })).setHead h
      ((m.head h).setQueue c [r.queued m.home.nextId h c])) h r.kind
  rw [move]
  refine ⟨(m.head h).received { r with id := m.home.nextId }, HomeStep.trans ?_ step, ?_, fun o => ?_⟩
  · rw [← hm1]
    exact ⟨rfl, fun _ hx => hx⟩
  · rw [home, ← hm1]
    rfl
  · unfold Mach.reg
    rw [regs, ← hm1]
    rfl

/-! ### The request waits alone -/

/-- A head whose one request has left is clear. -/
theorem setQueue_left {x : Head} (hc : Clear x) (c : Cls) (l : List Req) : (x.setQueue c l).setQueue c [] = x := by
  obtain ⟨h0, h1, h2, _, _⟩ := hc
  cases x
  dsimp only at h0 h1 h2
  subst h0 h1 h2
  cases c <;> rfl

/-- What a head's masters find of it where only the queue of class `c` holds anything. -/
theorem place_setQueue {x : Head} (hc : Clear x) (c : Cls) (l : List Req) {i : Nat} (hi : i < 4) :
    (if i = 0 then (x.setQueue c l).qRt else if i = 1 then (x.setQueue c l).qTable else if i = 2 then (x.setQueue c l).qBulk else []) =
      if i = c.place then l else [] := by
  obtain rfl | rfl | rfl | rfl : i = 0 ∨ i = 1 ∨ i = 2 ∨ i = 3 := by omega
  all_goals cases c <;> simp [Head.setQueue, Cls.place, hc.rt, hc.table, hc.bulk]

/-- The queue of a head's master where only the head's queue of class `c` holds anything. -/
theorem mQueue_setQueue {t : Mach} {h : Nat} {x : Head} {c : Cls} {l : List Req} (hlt : h < 8) (hi : t.home.intq = []) (hc : Clear x)
    (hx : x.st = .active) (hh : t.head h = x.setQueue c l) {j : Nat} (hj : j / 4 = h) : t.mQueue j = if j = 4 * h + c.place then l else [] := by
  have st : (t.head (j / 4)).st ≠ .recovery := by rw [hj, hh, (setQueue_rest x _ _).1, hx]; decide
  have hj32 : ¬ 32 ≤ j := by omega
  have same : j = 4 * h + c.place ↔ j % 4 = c.place := by
    have hplace := c.place_lt
    omega
  rw [mQueue_of_intq hi, if_neg (by simp [hj32, st]), hj, hh, place_setQueue hc c l (Nat.mod_lt _ (by decide))]
  simp only [same]

/-- A request of a clear head waits alone where the other heads and the internal sources have none. -/
theorem waiting_queued {t : Mach} {h : Nat} {x : Head} {r : Req} (hlt : h < 8) (hi : t.home.intq = []) (hc : Clear x) (hx : x.st = .active)
    (hh : t.head h = x.setQueue r.cls [r]) (hs : r.src = h) (others : ∀ j < 8, j ≠ h → (t.head j).Idle) :
    Waiting t r ∧ ∀ j, (t.dequeue r).head j = if j = h then x else t.head j := by
  have st : (t.head h).st ≠ .absent := by rw [hh, (setQueue_rest x _ _).1, hx]; decide
  have hplace := r.cls.place_lt
  have left : ∀ j, (t.dequeue r).head j = if j = h then x else t.head j := by
    intro j
    have e : t.dequeue r = t.setHead h x := by
      have hq : (x.setQueue r.cls [r]).queue r.cls = [r] := by rw [setQueue_queue, if_pos rfl]
      unfold Mach.dequeue
      simp [hs, hlt, hh, hq, setQueue_left hc]
    rw [e]
    split
    · next h' => rw [h', head_setHead_self st]
    · next h' => exact head_setHead_ne t h' x
  have apart : ∀ j < 38, j / 4 ≠ h → t.mQueue j = [] := by
    intro j _ hjh
    rw [mQueue_of_intq hi]
    by_cases hj : 32 ≤ j
    · simp [hj]
    · obtain ⟨h0, h1, h2⟩ := others (j / 4) (by omega) hjh
      simp [h0, h1, h2]
  refine ⟨⟨⟨4 * h + r.cls.place, by omega, ?_, fun j hj hne => ?_⟩, ?_⟩, left⟩
  · rw [mQueue_setQueue hlt hi hc hx hh (by omega), if_pos rfl]
  · by_cases hjh : j / 4 = h
    · rw [mQueue_setQueue hlt hi hc hx hh hjh, if_neg hne]
    · exact apart j hj hjh
  · refine fun j _ => mQueue_nil ?_ (fun k hk => ?_) j
    · unfold Mach.dequeue
      simp only [hs, Nat.not_le.mpr hlt, if_false]
      exact hi
    · rw [left]
      split
      · exact ⟨hc.rt, hc.table, hc.bulk⟩
      · next h' => exact others k hk h'

/-! ### From the arrival to the end -/

theorem portDecode_counted {m t : Mach} (h : Counted m t) (L : Image) (hd ld hpa : Nat) : portDecode L t hd ld hpa = portDecode L m hd ld hpa := by
  unfold portDecode ldPart ldKey partDpa
  rw [h.head, h.dc]

/-- The requests of a head are its own: no running descriptor's (R105). -/
theorem jobOf_head {r : Req} (h : r.src < 8) (m : Mach) : m.jobOf r = none := if_neg fun hs => absurd hs.1 (Nat.not_le.mpr h)

/-- A head that is set anew holds the last record. -/
theorem head_setHead_setHead {m : Mach} {h : Nat} (hs : (m.head h).st ≠ .absent) (x y : Head) (j : Nat) :
    ((m.setHead h x).setHead h y).head j = if j = h then y else m.head j := by
  rw [head_setHead, head_setHead]
  have hl := lanes_of_head hs
  by_cases hj : j = h
  · rw [hj]
    simp only [if_true]
    exact if_neg hl
  · simp only [if_neg hj]
    by_cases h0 : m.straps.lanes j = 0
    · simp [h0, Mach.head, Mach.setHead]
    · simp [h0, Mach.setHead]

/-- `t` is `m` after a request of head `h` has come into its class queue. -/
structure Queued (m t : Mach) (h : Nat) (q : Req) : Prop where
  head : ∀ j, t.head j = if j = h then (m.head h).setQueue q.cls [q] else m.head j
  home : t.home = { m.home with nextId := m.home.nextId + 1 }
  cfg : t.reg oTrkCfg = m.reg oTrkCfg
  pwr : t.pwr = m.pwr
  tally : t.tally = m.tally
  quiet : ∀ s : State, Quiet { s with m } → Quiet { s with m := t }

/-- The monitor counts a request before it is queued. -/
theorem Queued.of_counted {m m1 t : Mach} {h : Nat} {q : Req} (hc : Counted m m1) (k : Queued m1 t h q) : Queued m t h q where
  head j := by rw [k.head, hc.head, hc.head]
  home := by rw [k.home, hc.home]
  cfg := k.cfg.trans (hc.reg _ (by decide))
  pwr := k.pwr.trans hc.pwr
  tally := k.tally.trans hc.tally
  quiet s hq := k.quiet s (quiet_counted hq hc)

/-- A request that comes to a clear head is queued. -/
theorem queued_portMove {m : Mach} {h : Nat} (hc : Clear (m.head h)) (hs : (m.head h).st ≠ .absent) (L : Image) (r : Req) :
    Queued m (portMove L (rxPut m h r) h) h (r.queued m.home.nextId h (clsOf (eCls (L.extent (r.line / 2 ^ 22))))) := by
  obtain ⟨x, moved, home, reg⟩ := portMove_rxPut hc hs L r
  exact {
    head := fun j => by rw [moved.head, head_setHead_setHead hs]; rfl
    home
    cfg := reg _
    pwr := moved.pwr
    tally := moved.tally
    quiet := fun s hq => moved.quiet (quiet_setHead (quiet_setHead hq _ _) _ _) }

/-- A head's request for a line that is served at once, in its class queue, waits alone. -/
theorem queued_offered {s : State} {h : Fin 8} {line : Nat} {c : CLine} {t : Mach} {r : Req} {id : Nat} {cl : Cls}
    (hh : HeadHits s h line c) (k : Queued s.m t h (r.queued id h cl)) (hsrc : r.src = h) (hl : r.line = line) (hk : r.kind.goesToSlice)
    (hs : r.sram = .none) (hp : r.phase = .start) (hq : r.quiet = false) (hm : r.merging = false) : Offered s.live t (r.queued id h cl) := by
  obtain ⟨_, _, active, _, _, _, calm, plain, serves, _⟩ := hh
  obtain ⟨intq, fab, trk, fills, snoops, evicting, heads⟩ := calm
  obtain ⟨flat, db, mirror, coal, _⟩ := plain
  obtain ⟨awake, warm, _, rsv, imax⟩ := serves
  obtain ⟨qRt, qTable, qBulk, rxReq, rxRwd, _⟩ := heads h h.isLt
  obtain ⟨waits, left⟩ := waiting_queued (r := r.queued id h cl) h.isLt (by rw [k.home]; exact intq) ⟨qRt, qTable, qBulk, rxReq, rxRwd⟩ active
    (by rw [k.head, if_pos rfl]) hsrc fun j hj hne => by
      obtain ⟨h0, h1, h2, _⟩ := heads j hj
      rw [k.head, if_neg hne]
      exact ⟨h0, h1, h2⟩
  exact {
    admits := by simp [Mach.admits, k.pwr, awake, warm]
    waits
    empty := by rw [k.home]; exact ⟨trk, fab, fills, snoops, evicting⟩
    ports := fun j hj => by
      obtain ⟨_, _, _, h3, h4, h5⟩ := heads j hj
      have same : (t.dequeue (r.queued id h cl)).head j = s.m.head j := by
        rw [left, k.head]
        split
        · next hjh => rw [hjh]
        · rfl
      rw [same]
      exact ⟨h3, h4, h5⟩
    rsv := by rw [Mach.rfld, k.cfg]; exact rsv
    imax := by rw [Mach.rfld, k.cfg]; exact imax
    slice := hk
    own := jobOf_head (by change r.src < 8; rw [hsrc]; exact h.isLt) t
    start := hp
    quiet := hq
    merging := hm
    flat := by change flatPage s.live (r.line / 64) = true; rw [hl]; exact flat
    plain := by change eMirror (s.live.extent (r.line / 64 / 65536)) = false; rw [hl]; exact mirror
    db := by change dbLine s.live t r.line = false; rw [hl]; exact dbLine_of_sf (by rw [k.home]) db
    coal := by change t.tally.coal.find? r.line = none; rw [hl, k.tally]; exact coal
    snoops := by rw [k.home]; exact snoops
    sram := hs }

/-- A head's request for a line that is served at once is queued, and a CORE cycle passes. -/
theorem hit_arrives {s : State} {h : Fin 8} {ld : Fin 16} {tag : Nat} {hpa : BitVec 52} {p dpa : Nat} {c : CLine} {kind : ReqKind}
    (hd : portDecode s.live s.m h ld hpa.toNat = some (p, dpa)) (hh : HeadHits s h (dpa / 64) c) (i : Instr) :
    ∃ t id cl, Queued s.m t h (Req.queued { src := h, head := h, part := p, tag, line := dpa / 64, kind } id h cl) ∧
      request s h ld tag hpa kind .none i = .next (settle { s with m := coreCycle s.live t }) := by
  obtain ⟨_, latch, active, viral, held, scan, calm, _, ⟨awake, _⟩, _⟩ := hh
  obtain ⟨_, _, _, _, _, _, heads⟩ := calm
  obtain ⟨qRt, qTable, qBulk, rxReq, rxRwd, post⟩ := heads h h.isLt
  have credit : (s.m.head h).noCredit kind = false := by simp [Head.noCredit, Head.heldKinds, held, rxReq, rxRwd, post]
  have hm := counted_countRequest s.m h kind
  have present : ((s.m.countRequest h kind).head h).st ≠ .absent := by rw [hm.head, active]; decide
  have clear : Clear ((s.m.countRequest h kind).head h) := by rw [hm.head]; exact ⟨qRt, qTable, qBulk, rxReq, rxRwd⟩
  refine ⟨_, _, _, (queued_portMove clear present s.live { src := h, head := h, part := p, tag, line := dpa / 64, kind }).of_counted hm, ?_⟩
  have acts : process s.live s.latch s.m h ld tag hpa.toNat kind .none = coreCycle s.live (portMove s.live (rxPut (s.m.countRequest h kind) h
      { src := h, head := h, part := p, tag, line := dpa / 64, kind }) h) := by
    rw [latch, process_active active, (portDecode_counted hm s.live h ld hpa.toNat).trans hd, viral]
    rfl
  rw [request_active active awake scan credit ld tag hpa .none i, acts]

/-- A head's request for a line that is served at once comes to the home, and acts; when that ends it, nothing else happens but that the panic
levels are taken. -/
theorem exec_hit {s : State} {h : Fin 8} {ld : Fin 16} {tag : Nat} {hpa : BitVec 52} {p dpa : Nat} {c : CLine} {i : Instr} {kind : ReqKind}
    (hd : portDecode s.live s.m h ld hpa.toNat = some (p, dpa)) (hh : HeadHits s h (dpa / 64) c) (hk : kind.goesToSlice)
    (hx : exec i s = request s h ld tag hpa kind .none i) :
    ∃ m q, Ready s.live m q ∧ q.kind = kind ∧ q.head = h ∧ q.tag = tag ∧ q.line = dpa / 64 ∧ m.lcGet (dpa / 64) = some c ∧
      (Ended m (turn s.live m q) → ∃ t, exec i s = .next t ∧ PanicStep (turn s.live m q) t.m) := by
  obtain ⟨m, id, cl, queued, arrives⟩ := hit_arrives (tag := tag) (kind := kind) hd hh i
  obtain ⟨t, t0, n, b, step, ready, caches, _, cycle⟩ := (queued_offered hh queued rfl rfl hk rfl rfl rfl rfl).served
  obtain ⟨quiet, _, _, _, _, _, _, _, _, hit⟩ := hh
  refine ⟨t, _, ready, rfl, rfl, rfl, rfl, ?_, fun hend => ?_⟩
  · rw [caches, ← hit]
    unfold Mach.lcGet
    rw [queued.home]
  · have panic := cycle hend
    have settled : Quiet { s with m := coreCycle s.live m } :=
      panic.quiet (hend.step.quiet (step.quiet (quiet_dequeue (queued.quiet s quiet) _)))
    generalize coreCycle s.live m = m4 at arrives panic settled
    exact ⟨{ s with m := m4 }, by rw [hx, arrives, settle_quiet _ settled], panic⟩

/-! ### Pages without content (R25, R152) -/

/-- A head's read that has its data is answered; the controllers see nothing of it. -/
theorem withData_read {L : Image} {m : Mach} {r : Req} {mt : MetaRd} (hk : r.kind = .read mt) (hm : r.merging = false) (hq : r.quiet = false)
    (hdb : dbLine L m r.line = false) (d : Line) (p : Bool) (mv : BitVec 2) (free : Bool) :
    (∃ ans, Out.memData r.head r.tag d p ans ∈ (withData L m r d p mv free).outbox) ∧ (withData L m r d p mv free).mcs = m.mcs := by
  obtain ⟨ans, m1, same, sent⟩ := deliver_read hk hq L m d p mv
  have step := homeStep_endReq (m.send (.memData r.head r.tag d p ans)) r p
  have e : withData L m r d p mv free = (m.send (.memData r.head r.tag d p ans)).endReq r p := by
    rw [same hdb] at sent
    rw [← sent]
    simp [withData, hm, hk]
  rw [e]
  exact ⟨⟨ans, step.sent _ (mem_outbox_send _ _)⟩, step.mcs⟩

/-- The machine that serves a line of the ledger from below has counted the look-up (event 0x201). -/
def Mach.countLedger (m : Mach) (r : Req) : Mach := if r.lmiss then m else m.pmuEvent 0x201 0 1

theorem counted_countLedger (m : Mach) (r : Req) : Counted m (m.countLedger r) := .ite (.refl m) (counted_pmuEvent m _ _ _)

/-- A request served from below is counted and charged first. -/
theorem charged_below {m m1 : Mach} (h : Counted m m1) (r : Req) (free : Bool) :
    ((m1.countLedger r).settleCharge r free).home = m.home ∧ ((m1.countLedger r).settleCharge r free).mcs = m.mcs := by
  have counted := h.trans (counted_countLedger m1 r)
  exact ⟨(settleCharge_home _ _ _).trans counted.home, (homeStep_settleCharge _ _ _).mcs.trans counted.mcs⟩

/-- A line of an Unwritten page reads zeros (R25). -/
theorem below_unwritten {L : Image} {m : Mach} {r : Req} {e : LEnt} (hf : flatPage L (r.line / 64) = false) (he : m.ent? (r.line / 64) = some e)
    (h0 : e.st = 0) (hp : m.poisonDue r.line = false) : below L m r =
      withData L ((m.countLedger r).settleCharge r true) { r with tier := 1 } (answerData r.kind 0#512 false false) false 0#2 true := by
  have hp' : (m.countLedger r).poisonDue r.line = false := by
    unfold Mach.poisonDue
    rw [(counted_countLedger m r).home]
    exact hp
  unfold below
  simp only [hf, Bool.false_eq_true, if_false, he, h0, if_true]
  change withData L ((m.countLedger r).settleCharge r true) _ (answerData r.kind 0#512 ((m.countLedger r).poisonDue r.line) false)
    ((m.countLedger r).poisonDue r.line) 0#2 true = _
  rw [hp']

/-- A line of a Retired page reads poison (R152). -/
theorem below_retired {L : Image} {m : Mach} {r : Req} {e : LEnt} (hf : flatPage L (r.line / 64) = false) (he : m.ent? (r.line / 64) = some e)
    (h5 : e.st = 5) : below L m r = withData L (((m.countLedger r).settleCharge r false).retiredAccess r.head (r.line / 64))
      { r with tier := 8, poison := true } (BitVec.allOnes 512) true 0#2 true := by
  unfold below
  simp only [hf, Bool.false_eq_true, if_false, he, h5, if_true]
  rfl

/-- An access to a Retired page is recorded, and touches neither the home nor the controllers. -/
theorem retiredAccess_keeps (m : Mach) (h page : Nat) :
    (m.retiredAccess h page).home = m.home ∧ (m.retiredAccess h page).mcs = m.mcs := by
  unfold Mach.retiredAccess
  split <;> exact ⟨rfl, rfl⟩

/-- A request whose line neither the line cache nor the hold queue has is served from below (R104). -/
theorem serve_below {m : Mach} {r : Req} {mt : MetaRd} (hs : r.sram = .none) (hk : r.kind = .read mt) (hc : m.lcGet r.line = none)
    (hh : m.heldLine r.line = none) (L : Image) : ∃ m1, Counted m m1 ∧ serve L m r = below L m1 { r with sram := .none } := by
  refine ⟨if r.lmiss then m else m.pmuEvent 0x102 (sliceOf r.line) 1, .ite (.refl m) (counted_pmuEvent m _ _ _), ?_⟩
  have hn : (ReqKind.read mt).needsData = true := rfl
  unfold serve
  rw [hs, lcError_none]
  simp [hn, hc, hh, hk]

/-- A head's read of a line that only its page's ledger entry `e` can answer. -/
structure FromLedger (L : Image) (m : Mach) (r : Req) (mt : MetaRd) (e : LEnt) : Prop where
  kind : r.kind = .read mt
  quiet : r.quiet = false
  sram : r.sram = .none
  merging : r.merging = false
  db : dbLine L m r.line = false
  cache : m.lcGet r.line = none
  held : m.heldLine r.line = none
  flat : flatPage L (r.line / 64) = false
  ent : m.ent? (r.line / 64) = some e

/-- A read of an Unwritten page is answered with zeros, and no DRAM read is made (R25). -/
theorem FromLedger.unwritten {L : Image} {m : Mach} {r : Req} {mt : MetaRd} {e : LEnt} (h : FromLedger L m r mt e) (h0 : e.st = 0)
    (hp : m.poisonDue r.line = false) :
    ∃ ans, Out.memData r.head r.tag 0#512 false ans ∈ (serve L m r).outbox ∧ (serve L m r).mcs.nextId = m.mcs.nextId := by
  obtain ⟨m1, counted, served⟩ := serve_below h.sram h.kind h.cache h.held L
  obtain ⟨home, mcs⟩ := charged_below counted { r with sram := .none } true
  have ent : m1.ent? (r.line / 64) = some e := by
    unfold Mach.ent?
    rw [counted.led]
    exact h.ent
  have due : m1.poisonDue r.line = false := by
    unfold Mach.poisonDue
    rw [counted.home]
    exact hp
  rw [served, below_unwritten (r := { r with sram := .none }) h.flat ent h0 due]
  obtain ⟨⟨ans, sent⟩, same⟩ := withData_read (L := L) (r := { r with sram := .none, tier := 1 }) h.kind h.merging h.quiet
    (dbLine_of_sf (by rw [home]) h.db) 0#512 false 0#2 true
  exact ⟨ans, sent, by rw [← mcs, ← same]; rfl⟩

/-- A read of a Retired page is answered with poison, and no DRAM read is made (R152). -/
theorem FromLedger.retired {L : Image} {m : Mach} {r : Req} {mt : MetaRd} {e : LEnt} (h : FromLedger L m r mt e) (h5 : e.st = 5) :
    ∃ ans, Out.memData r.head r.tag (BitVec.allOnes 512) true ans ∈ (serve L m r).outbox ∧ (serve L m r).mcs.nextId = m.mcs.nextId := by
  obtain ⟨m1, counted, served⟩ := serve_below h.sram h.kind h.cache h.held L
  obtain ⟨home, mcs⟩ := charged_below counted { r with sram := .none } false
  obtain ⟨seenHome, seenMcs⟩ := retiredAccess_keeps ((m1.countLedger { r with sram := .none }).settleCharge { r with sram := .none } false)
    r.head (r.line / 64)
  have ent : m1.ent? (r.line / 64) = some e := by
    unfold Mach.ent?
    rw [counted.led]
    exact h.ent
  rw [served, below_retired (r := { r with sram := .none }) h.flat ent h5]
  obtain ⟨⟨ans, sent⟩, same⟩ := withData_read (L := L) (r := { r with sram := .none, tier := 8, poison := true }) h.kind h.merging h.quiet
    (dbLine_of_sf (by rw [seenHome, home]) h.db) (BitVec.allOnes 512) true 0#2 true
  exact ⟨ans, sent, by rw [← mcs, ← seenMcs, ← same]⟩

end Sys2Proof.Machine

namespace Sys2Proof

open Machine

/-- Settles O43: the request comes alone to the home, which answers it from the line cache; a page without content is answered from its ledger
entry. -/
theorem lineCacheServesHits : Obligations.LineCacheServesHits := by
  unfold Obligations.LineCacheServesHits
  refine ⟨fun h ld tag hpa p dpa c s hd hh => ⟨fun mt => ?read, fun mt d po => ?write, ?clean, fun be d => ?ioRead, fun be d => ?ioWrite,
    fun op h0 hal hp => ?atomic⟩, fun L m r mt e _ _ hk hq hs hm hdb hc hheld hpd hf he => ⟨fun h0 => ?unwritten, fun h5 => ?retired⟩⟩
  case unwritten => exact FromLedger.unwritten ⟨hk, hq, hs, hm, hdb, hc, hheld, hf, he⟩ h0 hpd
  case retired => exact FromLedger.retired ⟨hk, hq, hs, hm, hdb, hc, hheld, hf, he⟩ h5
  case read =>
    obtain ⟨m, q, ready, kind, head, tagged, line, hit, done⟩ := exec_hit hd hh ⟨by simp, by simp⟩ (exec_memRd h ld tag hpa mt .none s)
    obtain ⟨hend, ans, sent⟩ := ended_read ready kind (line ▸ hit)
    obtain ⟨t, ht, panic⟩ := done hend
    rw [kind, head, tagged] at sent
    exact ⟨t, ht, by rw [panic.home, hend.trk], ans, by rw [panic.outbox]; exact sent⟩
  case write =>
    obtain ⟨m, q, ready, kind, head, tagged, line, hit, done⟩ := exec_hit hd hh ⟨by simp, by simp⟩ (exec_memWr h ld tag hpa mt d po .none s)
    obtain ⟨stored, sent⟩ := stored_write ready kind (.inl (by rw [line, hit]; rfl))
    obtain ⟨t, ht, panic⟩ := done stored.toEnded
    rw [head, tagged] at sent
    exact ⟨t, ht, by rw [panic.home, stored.trk], by rw [panic.outbox]; exact sent, by rw [panic.lcGet, ← line]; exact stored.way⟩
  case clean =>
    obtain ⟨m, q, ready, kind, head, tagged, line, hit, done⟩ := exec_hit hd hh ⟨by simp, by simp⟩ (exec_memClnEvct h ld tag hpa .none s)
    obtain ⟨hend, sent⟩ := ended_clean ready kind
    obtain ⟨t, ht, panic⟩ := done hend
    rw [head, tagged] at sent
    exact ⟨t, ht, by rw [panic.home, hend.trk], by rw [panic.outbox]; exact sent⟩
  case ioRead =>
    obtain ⟨m, q, ready, kind, head, tagged, line, hit, done⟩ := exec_hit hd hh ⟨by simp, by simp⟩
      (exec_cxlIoMemoryRequest h ld tag hpa false be d .none s)
    obtain ⟨hend, sent⟩ := ended_ioRead ready kind (line ▸ hit)
    obtain ⟨t, ht, panic⟩ := done hend
    rw [kind, head, tagged] at sent
    exact ⟨t, ht, by rw [panic.home, hend.trk], by rw [panic.outbox]; exact sent⟩
  case ioWrite =>
    obtain ⟨m, q, ready, kind, head, tagged, line, hit, done⟩ := exec_hit hd hh ⟨by simp, by simp⟩
      (exec_cxlIoMemoryRequest h ld tag hpa true be d .none s)
    have stored := stored_ioWrite ready kind (line ▸ hit)
    obtain ⟨t, ht, panic⟩ := done stored.toEnded
    exact ⟨t, ht, by rw [panic.home, stored.trk], by rw [panic.lcGet, ← line]; exact stored.way⟩
  case atomic =>
    obtain ⟨m, q, ready, kind, head, tagged, line, hit, done⟩ := exec_hit hd hh ⟨by simp, by simp⟩
      (exec_atomicOp_aligned h ld tag .none s h0 hal)
    obtain ⟨stored, sent⟩ := stored_atomic ready kind (line ▸ hit) hp
    obtain ⟨t, ht, panic⟩ := done stored.toEnded
    rw [head, tagged] at sent
    obtain ⟨y, hy, data, _, dirty⟩ := stored.way
    exact ⟨t, ht, by rw [panic.home, stored.trk], by rw [panic.outbox]; exact sent, y, by rw [panic.lcGet, ← line]; exact hy, data, dirty⟩

end Sys2Proof
end

section
/-! PROOFS. The regulator's cycle with one access of an agent waiting (R103, R300-R303). -/

namespace Sys2Proof.Machine

/-- Outside the safe state a meaning acts. -/
theorem work_open {s : State} (h : s.latch = false) (f : Mach → Mach) : s.work f = .next (settle { s with m := f s.m }) := by
  simp [State.work, h, State.op]

theorem exec_regulatorAdmit {s : State} (h : s.latch = false) (errs : List (Nat × SramErr)) : exec (.regulatorAdmit errs) s =
    .next (settle { s with m := (regulatorCycle s.live errs s.m).drainTally s.live }) := work_open h _

/-- A CORE cycle whose accesses find no error. -/
theorem regulatorCycle_nil (L : Image) (m : Mach) : regulatorCycle L [] m = coreCycle L m := rfl

/-- With no tally write and no record waiting, nothing drains (R409, R410). -/
theorem drainTally_idle {m : Mach} (hi : m.tally.inq = []) (hp : ∀ h < 8, (m.head h).post = []) (L : Image) : m.drainTally L = m := by
  have enter : m.tallyEnter L = m := by
    unfold Mach.tallyEnter
    rw [hi]
    rfl
  have retry : ∀ l : List Nat, (∀ h ∈ l, h < 8) → l.foldl (tallyRetry L) m = m := by
    intro l hl
    induction l with
    | nil => rfl
    | cons h l ih =>
      have e : tallyRetry L m h = m := by
        unfold tallyRetry
        rw [hp h (hl h (List.mem_cons_self ..))]
        rfl
      rw [List.foldl_cons, e]
      exact ih fun j hj => hl j (List.mem_cons_of_mem _ hj)
  unfold Mach.drainTally
  rw [enter]
  exact retry _ fun h hh => List.mem_range.mp hh

/-- One request of an internal source waits alone. -/
theorem waiting_intq {m : Mach} {r : Req} (hi : m.home.intq = [r]) (hh : ∀ h < 8, (m.head h).Idle) (hs : 8 ≤ r.src) (hm : r.mst < 38) :
    Waiting m r ∧ (m.dequeue r).home.intq = [] ∧ ∀ h, (m.dequeue r).head h = m.head h := by
  have e : m.dequeue r = { m with home := { m.home with intq := m.home.intq.filter (fun x => x.id != r.id) } } := if_pos hs
  have intq : (m.dequeue r).home.intq = [] := by simp [e, hi]
  have head : ∀ h, (m.dequeue r).head h = m.head h := by rw [e]; exact fun _ => rfl
  refine ⟨⟨⟨r.mst, hm, ?_, fun j _ hne => ?_⟩, fun j _ => mQueue_nil intq (fun h hlt => by rw [head]; exact hh h hlt) j⟩, intq, head⟩
  · rw [mQueue_of_heads hh, hi]
    simp [putOrdered]
  · rw [mQueue_of_heads hh, hi]
    simp [Ne.symm hne]

theorem dequeue_clock (m : Mach) (r : Req) : (m.clocked.dequeue r).core = m.core + 1 ∧
    (m.clocked.dequeue r).bwg.cycles = m.bwg.cycles + 1 := by
  unfold Mach.dequeue
  split <;> exact ⟨rfl, rfl⟩

/-- An agent's read of a line in the line cache, alone with the regulator, is admitted and answered within the CORE cycle. -/
theorem admit_agentRead {s : State} {r : Req} {c : CLine} (quiet : Quiet s) (latch : s.latch = false) (hi : s.m.home.intq = [r])
    (calm : Calm { s.m with home := { s.m.home with intq := [] } }) (inq : s.m.tally.inq = []) (hs : 8 ≤ r.src) (hns : r.src ≠ 12)
    (hk : r.kind = .agRead) (hp : r.phase = .start) (hsr : r.sram = .none) (hq : r.quiet = false) (hm : r.merging = false) (hmst : r.mst < 38)
    (hj : s.m.jobOf r = none) (plain : PlainLine s.live s.m r.line) (serves : ServesNow s.live s.m r.mst) (hit : s.m.lcGet r.line = some c) :
    ∃ t, exec (.regulatorAdmit []) s = .next t ∧ t.m.core = s.m.core + 1 ∧ t.m.bwg.cycles = s.m.bwg.cycles + 1 ∧ t.m.home.intq = [] ∧
      t.m.home.trk = [] ∧ ∃ d ∈ t.m.home.done, d.who = r.tag ∧ d.seq = r.seq ∧ d.line = r.line ∧
        d.data = answerData .agRead c.data c.p c.asRead ∧ d.p = c.p := by
  obtain ⟨_, fab, trk, fills, snoops, evicting, heads⟩ := calm
  obtain ⟨flat, db, mirror, coal, _⟩ := plain
  obtain ⟨awake, warm, _, rsv, imax⟩ := serves
  have idle : ∀ h < 8, (s.m.head h).Idle := fun h hlt => by
    obtain ⟨h0, h1, h2, _⟩ := heads h hlt
    exact ⟨h0, h1, h2⟩
  have portsIdle : s.m.PortsIdle := fun h hlt => by
    obtain ⟨_, _, _, h3, h4, h5⟩ := heads h hlt
    exact ⟨h3, h4, h5⟩
  obtain ⟨waits, intq, head⟩ := waiting_intq hi idle hs hmst
  have ports : (s.m.dequeue r).PortsIdle := fun h hlt => by rw [head]; exact portsIdle h hlt
  obtain ⟨m3, t0, n, b, step, ready, caches, queue, cycle⟩ := Offered.served (L := s.live) (m := s.m) (r := r)
    { db, coal, snoops, sram := hsr, admits := by simp [Mach.admits, awake, warm], waits, empty := ⟨trk, fab, fills, snoops, evicting⟩, ports,
      rsv, imax, slice := by rw [hk]; exact ⟨by simp, by simp⟩, own := hj, start := hp, quiet := hq, merging := hm, flat, plain := mirror }
  obtain ⟨hend, kept, d, hd, who, seq, line, data, poison⟩ := ended_agRead ready hk hns ((caches r.line).trans hit)
  have panic := cycle hend
  have ends := step.trans hend.step
  have settled : Quiet { s with m := coreCycle s.live s.m } := panic.quiet (ends.quiet (quiet_dequeue quiet r))
  have acts := exec_regulatorAdmit latch []
  rw [regulatorCycle_nil] at acts
  generalize coreCycle s.live s.m = m4 at panic settled acts
  have tally : m4.tally = s.m.tally := (congrArg Mach.tally panic.rest :).trans (ends.tally.trans (dequeue_tally _ _))
  have posts : ∀ h < 8, (m4.head h).post = [] := by
    intro h hlt
    obtain ⟨p, hp⟩ := panic.head h
    obtain ⟨_, _, none⟩ := portsIdle h hlt
    rw [hp, ends.head, clocked_dequeue_head, head]
    exact none
  have core : m4.core = s.m.core + 1 := (congrArg Mach.core panic.rest :).trans (ends.core.trans (dequeue_clock _ _).1)
  have cycles : m4.bwg.cycles = s.m.bwg.cycles + 1 :=
    (congrArg (fun x : Mach => x.bwg.cycles) panic.rest :).trans (ends.cycles.trans (dequeue_clock _ _).2)
  rw [drainTally_idle (by rw [tally, inq]) posts, settle_quiet _ settled] at acts
  refine ⟨_, acts, core, cycles, ?_, by rw [panic.home, hend.trk], d, by rw [panic.home]; exact hd, who, seq, line, ?_, poison⟩
  · rw [panic.home, kept, queue, intq]
  · rw [data]
    exact congrArg (fun k => answerData k c.data c.p c.asRead) hk

end Sys2Proof.Machine
end

section
/-! PROOFS. The boundary of a window (R299, R308-R311), and what recording its detections leaves alone (R458-R461). -/

namespace Sys2Proof.Machine

/-! ### What the log's action leaves alone -/

/-- `t` is `m` after something that touches neither the regulator nor the registers from 0x40000 up. -/
structure Aside (m t : Mach) : Prop where
  bwg : t.bwg = m.bwg
  reg : ∀ o, 0x40000 ≤ o → t.reg o = m.reg o

namespace Aside
variable {m t u : Mach}

theorem refl (m : Mach) : Aside m m := ⟨rfl, fun _ _ => rfl⟩

theorem trans (h : Aside m t) (k : Aside t u) : Aside m u := ⟨k.bwg.trans h.bwg, fun o ho => (k.reg o ho).trans (h.reg o ho)⟩

theorem ite {c : Prop} [Decidable c] {a b : Mach} (ha : Aside m a) (hb : Aside m b) : Aside m (if c then a else b) := by
  split
  · exact ha
  · exact hb

theorem foldl {α : Type} {f : Mach → α → Mach} (hf : ∀ m a, Aside m (f m a)) (l : List α) (m : Mach) : Aside m (l.foldl f m) := by
  induction l generalizing m with
  | nil => exact refl m
  | cons a l ih => exact (hf m a).trans (ih _)

end Aside

theorem aside_setReg (m : Mach) {o : Nat} (v : Word) (h : o < 0x40000) : Aside m (m.setReg o v) :=
  ⟨rfl, fun p hp => Mach.reg_setReg_ne m v (by omega)⟩

theorem aside_irq (m : Mach) (f v : Nat) : Aside m (m.irq f v) := by
  unfold Mach.irq
  split
  · split <;> exact ⟨rfl, fun _ _ => rfl⟩
  · exact ⟨rfl, fun _ _ => rfl⟩

theorem aside_cxlEvent (m : Mach) (h log : Nat) (bytes : List Byte) : Aside m (m.cxlEvent h log bytes) := by
  have set : ∀ x, Aside m (m.setMb h x) := fun _ => ⟨rfl, fun _ _ => rfl⟩
  unfold Mach.cxlEvent
  dsimp only
  split
  · exact (set _).trans (aside_irq _ _ _)
  · exact set _

theorem aside_newRecord (L : Image) (m : Mach) (k cls : Nat) (o : Occ) (inj real : Bool) : Aside m (newRecord L m k cls o inj real) := by
  have evt : ∀ t : Mach, Aside t (t.evb oFltEvt cls) := fun t => aside_setReg t _ (by decide)
  have logged : ∀ f : Flt, Aside m { m with flt := f } := fun _ => ⟨rfl, fun _ _ => rfl⟩
  have irq : ∀ t : Mach, Aside t (if t.rbit oFltIrq (8 + cls) then t.irq mgmtFn (t.rfld oFltIrq 7 0) else t) :=
    fun t => .ite (aside_irq t _ _) (.refl t)
  have events : ∀ (l : List Nat) (b : List Byte) (t : Mach), Aside t (l.foldl (fun m h => m.cxlEvent h (cxlLog cls) b) t) :=
    fun l b t => .foldl (fun t h => aside_cxlEvent t h _ b) l t
  exact (((logged _).trans (evt _)).trans (irq _)).trans (events _ _ _)

theorem aside_takeEntry {m t : Mach} {k : Nat} (h : m.takeEntry = some (k, t)) : Aside m t := by
  unfold Mach.takeEntry at h
  split at h
  · cases h
    exact .refl m
  · split at h
    · cases h
      exact .ite (.refl m) ((aside_setReg m _ (by decide)).trans (aside_setReg _ _ (by decide)))
    · cases h

/-- The numbers of the sources that have a class (R455). -/
theorem srcClass_lt {s c : Nat} (h : srcClass s = some c) : s < 256 := by
  have mem : ∀ l : List Nat, l.contains s = true → (∀ x ∈ l, x < 256) → s < 256 := fun l hs hl => hl s (List.contains_iff_mem.mp hs)
  unfold srcClass at h
  split at h
  · next hs => exact mem _ hs (by decide)
  · split at h
    · next hs => exact mem _ hs (by decide)
    · split at h
      · next hs => exact mem _ hs (by decide)
      · split at h
        · next hs => exact mem _ hs (by decide)
        · cases h

theorem aside_record (L : Image) (m : Mach) (o : Occ) (inj real : Bool) : Aside m (record L m o inj real) := by
  unfold record
  split
  · exact .refl m
  · next cls hc =>
    have count : Aside m (m.bump (oFltCnt o.src)) := aside_setReg m _ (by have := srcClass_lt hc; unfold oFltCnt; omega)
    dsimp only
    split
    · split
      · exact count.trans ⟨rfl, fun _ _ => rfl⟩
      · exact count
    · split
      · exact count
      · split
        · next ht => exact (count.trans (aside_takeEntry ht)).trans (aside_newRecord _ _ _ _ _ _ _)
        · exact count

/-- No detection of class A waits. -/
abbrev Mach.Mild (m : Mach) : Prop := ∀ o ∈ m.raised, srcClass o.src ≠ some 0

/-- The detections that wait, none of class A, are recorded. -/
theorem take_mild (l : List Occ) (hl : ∀ o ∈ l, srcClass o.src ≠ some 0) (s : State) :
    l.foldl (fun s o => s.take o false true) s = { s with m := l.foldl (fun m o => record s.live m o false true) s.m } := by
  induction l generalizing s with
  | nil => rfl
  | cons o l ih =>
    have e : s.take o false true = { s with m := record s.live s.m o false true } := if_neg (hl o (List.mem_cons_self ..))
    rw [List.foldl_cons, e, ih (fun p hp => hl p (List.mem_cons_of_mem _ hp))]
    rfl

/-- A step that raised detections, none of class A, and left nothing else to others, records them. -/
theorem settle_mild {s : State} (hm : s.m.Mild) (hs : s.m.scb.struck = []) (hu : s.m.pwr.undo = false)
    (hn : s.m.mcs.subs.all (fun p => p.2.news.writes.isEmpty && p.2.news.fwd.isEmpty) = true) :
    settle s = { s with m := s.m.raised.foldl (fun m o => record s.live m o false true) { s.m with raised := [] } } := by
  have d : s.drainRaised = { s with m := s.m.raised.foldl (fun m o => record s.live m o false true) { s.m with raised := [] } } :=
    take_mild _ hm _
  unfold settle
  rw [wrapUp_quiet _ _ hs hu hn]
  change s.drainRaised.drainRaised = _
  rw [d]
  exact drain_quiet _ (foldl_raised _ (fun m o => record_raised _ m o _ _) _ _)

/-- Recording touches neither the regulator nor the registers from 0x40000 up. -/
theorem settle_aside {s : State} (hm : s.m.Mild) (hs : s.m.scb.struck = []) (hu : s.m.pwr.undo = false)
    (hn : s.m.mcs.subs.all (fun p => p.2.news.writes.isEmpty && p.2.news.fwd.isEmpty) = true) : Aside s.m (settle s).m := by
  have clear : Aside s.m { s.m with raised := [] } := ⟨rfl, fun _ _ => rfl⟩
  rw [settle_mild hm hs hu hn]
  exact clear.trans (.foldl (fun m o => aside_record s.live m o false true) _ _)

/-! ### Shortfalls (R310, R311) -/

/-- A bit of the registers that say which masters fell short. -/
def Mach.shortBit (m : Mach) (k : Nat) : Bool := m.rbit (if k < 32 then oShort0 else oShort1) (k % 32)

/-- `t` is `m` after shortfalls have been marked. -/
structure Marked (m t : Mach) : Prop where
  bwg : t.bwg = m.bwg
  scb : t.scb = m.scb
  pwr : t.pwr = m.pwr
  mcs : t.mcs = m.mcs
  mild : m.Mild → t.Mild
  bits : ∀ k, m.shortBit k = true → t.shortBit k = true

namespace Marked
variable {m t u : Mach}

theorem refl (m : Mach) : Marked m m := ⟨rfl, rfl, rfl, rfl, id, fun _ => id⟩

theorem trans (h : Marked m t) (k : Marked t u) : Marked m u :=
  ⟨k.bwg.trans h.bwg, k.scb.trans h.scb, k.pwr.trans h.pwr, k.mcs.trans h.mcs, k.mild ∘ h.mild, fun i => k.bits i ∘ h.bits i⟩

end Marked

/-- An event bit stands when it is set, and the others stay (R11). -/
theorem rbit_evb (m : Mach) (o b : Nat) (p i : Nat) (h : m.rbit p i = true) : (m.evb o b).rbit p i = true := by
  unfold Mach.evb Mach.evt Mach.rbit
  by_cases hp : p = o
  · rw [hp, Mach.reg_setReg_self, BitVec.getLsbD_or, ← hp]
    exact Bool.or_eq_true_iff.mpr (.inl h)
  · rw [Mach.reg_setReg_ne _ _ hp]
    exact h

theorem rbit_evb_self (m : Mach) (o : Nat) {b : Nat} (h : b < 32) : (m.evb o b).rbit o b = true := by
  unfold Mach.evb Mach.evt Mach.rbit
  rw [Mach.reg_setReg_self, BitVec.getLsbD_or]
  simp [put, BitVec.getLsbD_ofNat, h]

theorem marked_evb (m : Mach) (o b : Nat) : Marked m (m.evb o b) := ⟨rfl, rfl, rfl, rfl, id, fun _ h => rbit_evb m o b _ _ h⟩

/-- A detection that is not of class A. -/
theorem marked_raise (m : Mach) {src : Nat} (unit : Nat) (h : srcClass src ≠ some 0) : Marked m (m.raise src unit) := by
  refine ⟨rfl, rfl, rfl, rfl, fun hm o ho => ?_, fun _ h => h⟩
  obtain ho | ho := List.mem_append.mp ho
  · exact hm o ho
  · rw [List.mem_singleton.mp ho]
    exact h

theorem marked_setReg (m : Mach) {o : Nat} (v : Word) (h : o ≠ oShort0 ∧ o ≠ oShort1) : Marked m (m.setReg o v) := by
  refine ⟨rfl, rfl, rfl, rfl, id, fun k hk => ?_⟩
  rw [← hk]
  unfold Mach.shortBit Mach.rbit
  rw [Mach.reg_setReg_ne]
  split
  · exact h.1.symm
  · exact h.2.symm

/-- A shortfall marks its master (R311). -/
theorem marked_shortfall (m : Mach) (k : Nat) : Marked m (m.shortfall k) ∧ (m.shortfall k).shortBit k = true := by
  have count : Marked m (m.bump (oCntShort k)) := marked_setReg m _ (by simp only [oCntShort, oShort0, oShort1]; omega)
  have hev : ∀ t : Mach, Marked t (if k < 32 then t.hevEvt (k / 4) 1 else t) := by
    intro t
    split
    · exact ⟨rfl, rfl, rfl, rfl, id, fun _ h => h⟩
    · exact .refl t
  have eq : m.shortfall k = if (m.bump (oCntShort k)).shortBit k then m.bump (oCntShort k) else if k < 32
      then (((m.bump (oCntShort k)).evb (if k < 32 then oShort0 else oShort1) (k % 32)).raise 130 k).hevEvt (k / 4) 1
      else ((m.bump (oCntShort k)).evb (if k < 32 then oShort0 else oShort1) (k % 32)).raise 130 k := rfl
  rw [eq]
  generalize m.bump (oCntShort k) = m1 at count
  split
  · next hb => exact ⟨count, hb⟩
  · have mark := (marked_evb m1 (if k < 32 then oShort0 else oShort1) (k % 32)).trans
      (marked_raise _ k (by decide : srcClass 130 ≠ some 0))
    have set := (marked_raise _ k (by decide : srcClass 130 ≠ some 0)).bits k
      (rbit_evb_self m1 (if k < 32 then oShort0 else oShort1) (Nat.mod_lt k (by decide : 0 < 32)))
    generalize (m1.evb (if k < 32 then oShort0 else oShort1) (k % 32)).raise 130 k = m2 at mark set
    exact ⟨(count.trans mark).trans (hev m2), (hev m2).bits k set⟩

/-- The masters that fell short are marked. -/
theorem marked_shortfalls (L : Image) (l : List Nat) (m : Mach) :
    Marked m (l.foldl (fun m k => if fellShort L m.bwg k then m.shortfall k else m) m) ∧
      ∀ k ∈ l, fellShort L m.bwg k = true →
        (l.foldl (fun m k => if fellShort L m.bwg k then m.shortfall k else m) m).shortBit k = true := by
  induction l generalizing m with
  | nil => exact ⟨.refl m, fun k hk => absurd hk (List.not_mem_nil)⟩
  | cons a l ih =>
    have first : Marked m (if fellShort L m.bwg a then m.shortfall a else m) ∧
        (fellShort L m.bwg a = true → (if fellShort L m.bwg a then m.shortfall a else m).shortBit a = true) := by
      split
      · exact ⟨(marked_shortfall m a).1, fun _ => (marked_shortfall m a).2⟩
      · next h => exact ⟨.refl m, fun h' => absurd h' h⟩
    obtain ⟨rest, marks⟩ := ih (if fellShort L m.bwg a then m.shortfall a else m)
    refine ⟨first.1.trans rest, fun k hk hf => ?_⟩
    obtain rfl | hk := List.mem_cons.mp hk
    · exact rest.bits _ (first.2 hf)
    · exact marks k hk (by rw [first.1.bwg]; exact hf)

/-! ### The boundary (R299) -/

/-- The uses noted of the masters (R310). -/
theorem uses_get (f : Nat → Nat) {n k : Nat} (hk : k < n) :
    Tbl.get ((List.range n).foldl (fun (t : Tbl Nat) k => Tbl.set t 0 k (f k)) []) 0 k = f k := by
  induction n with
  | zero => omega
  | succ n ih =>
    rw [List.range_succ, List.foldl_append]
    by_cases h : k = n
    · rw [h]
      exact Tbl.get_set_self ..
    · exact (Tbl.get_set_ne _ _ _ h).trans (ih (by omega))

/-- The machine with a window begun: nothing charged, and the cut that the live floor makes (R299, R308). -/
def Mach.windowed (m : Mach) (L : Image) : Mach :=
  { m with bwg := { m.bwg with charged := [], held := [], cycles := 0, short := false, floorOld := none, cut := cutOf L m.bwg.live } }

/-- A cut that begins or ends is marked (R309). -/
theorem marked_windowBegin (L : Image) (m : Mach) : Marked (m.windowed L) (windowBegin L m) := by
  have step : ∀ (t : Mach) (b src unit : Nat), srcClass src ≠ some 0 → Marked t ((t.evb oBwgEvt b).raise src unit) :=
    fun t b src unit h => (marked_evb t oBwgEvt b).trans (marked_raise _ unit h)
  unfold windowBegin
  dsimp only
  split
  · exact step _ 0 128 _ (by decide)
  · split
    · exact step _ 1 129 _ (by decide)
    · exact .refl _

theorem Marked.windowed {m t : Mach} (h : Marked m t) (L : Image) : Marked (m.windowed L) (t.windowed L) where
  bwg := by
    unfold Mach.windowed
    rw [h.bwg]
  scb := h.scb
  pwr := h.pwr
  mcs := h.mcs
  mild := h.mild
  bits := h.bits

/-- The machine with the masters' use of a window noted (R310). -/
def Mach.withUse (m : Mach) (use : Tbl Nat) : Mach := { m with bwg := { m.bwg with use } }

theorem Marked.withUse {m t : Mach} (h : Marked m t) (use : Tbl Nat) : Marked (m.withUse use) (t.withUse use) where
  bwg := by
    unfold Mach.withUse
    rw [h.bwg]
  scb := h.scb
  pwr := h.pwr
  mcs := h.mcs
  mild := h.mild
  bits := h.bits

/-- A window that ran its whole length has its masters' use noted, and those that fell short marked (R310). -/
theorem marked_windowBoundary (L : Image) (m : Mach) : ∃ use, Marked ((m.withUse use).windowed L) (windowBoundary L m) ∧
    (m.bwg.short = false → ∀ k, k < 38 → use.get 0 k = m.bwg.charged.get 0 k / 64 ∧
      (fellShort L m.bwg k = true → (windowBoundary L m).shortBit k = true)) := by
  unfold windowBoundary
  dsimp only
  split
  · next h => exact ⟨m.bwg.use, marked_windowBegin L m, fun h' => absurd h (by rw [h']; decide)⟩
  · obtain ⟨marks, bits⟩ := marked_shortfalls L (List.range 38) m
    generalize (List.range 38).foldl (fun m k => if fellShort L m.bwg k then m.shortfall k else m) m = m1 at marks bits
    generalize huse : (List.range 38).foldl (fun (t : Tbl Nat) k => Tbl.set t 0 k (m1.bwg.charged.get 0 k / 64)) [] = use
    have last := marked_windowBegin L (m1.withUse use)
    refine ⟨use, ((marks.withUse use).windowed L).trans last, fun _ k hk => ⟨?_, fun hf => ?_⟩⟩
    · rw [← huse, uses_get _ hk, marks.bwg]
    · exact last.bits k (bits k (List.mem_range.mpr hk) hf)

theorem exec_windowBoundary {s : State} (h : s.latch = false) :
    exec .windowBoundary s = .next (settle { s with m := windowBoundary s.live s.m }) := work_open h _

/-- A window begins with nothing charged, and what fell short is marked. -/
theorem window_begins {s : State} (quiet : Quiet s) (latch : s.latch = false) : ∃ t, exec .windowBoundary s = .next t ∧ t.m.bwg.charged = [] ∧
    t.m.bwg.held = [] ∧ t.m.bwg.cycles = 0 ∧ t.m.bwg.short = false ∧ t.m.bwg.floorOld = none ∧ t.m.bwg.cut = cutOf s.live s.m.bwg.live ∧
      (s.m.bwg.short = false → ∀ k, k < 38 → t.m.bwg.use.get 0 k = s.m.bwg.charged.get 0 k / 64 ∧
        (fellShort s.live s.m.bwg k = true → t.m.rbit (if k < 32 then oShort0 else oShort1) (k % 32) = true)) := by
  obtain ⟨raised, struck, undo, news⟩ := quiet
  obtain ⟨use, marks, notes⟩ := marked_windowBoundary s.live s.m
  have acts := exec_windowBoundary latch
  generalize windowBoundary s.live s.m = m1 at marks notes acts
  have mild : m1.Mild := marks.mild fun o ho => by
    have none : ((s.m.withUse use).windowed s.live).raised = [] := raised
    rw [none] at ho
    exact absurd ho List.not_mem_nil
  have aside : Aside m1 (settle { s with m := m1 }).m :=
    settle_aside (s := { s with m := m1 }) mild (marks.scb ▸ struck) (marks.pwr ▸ undo) (marks.mcs ▸ news)
  have bwg := aside.bwg.trans marks.bwg
  refine ⟨_, acts, by rw [bwg]; rfl, by rw [bwg]; rfl, by rw [bwg]; rfl, by rw [bwg]; rfl, by rw [bwg]; rfl, by rw [bwg]; rfl, fun hs k hk => ?_⟩
  obtain ⟨used, short⟩ := notes hs k hk
  refine ⟨by rw [bwg]; exact used, fun hf => ?_⟩
  rw [← short hf]
  unfold Mach.shortBit Mach.rbit
  rw [aside.reg]
  split <;> decide

end Sys2Proof.Machine
end

section
/-! PROOFS. What the controllers' counting, their self-refresh and the entry of a write leave of their queues (R270, R289, R320, R325), and a
read that comes back (R318). -/

namespace Sys2Proof.Machine

/-! ### The subchannels' records -/

theorem sub_setSub_self (m : Mach) (k : Nat) (x : Sub) : (m.setSub k x).sub k = x := by
  unfold Mach.sub Mach.setSub Tbl.get
  rw [Tbl.find?_insert_self]
  rfl

theorem sub_setSub_ne (m : Mach) {k j : Nat} (x : Sub) (h : j ≠ k) : (m.setSub k x).sub j = m.sub j := by
  unfold Mach.sub Mach.setSub Tbl.get
  rw [Tbl.find?_insert_ne _ _ h]

/-! ### What leaves the queues alone -/

/-- Two records of a subchannel with the same queues. -/
structure SameQueues (a b : Sub) : Prop where
  wq : b.wq = a.wq
  fabric : b.fabric = a.fabric
  flight : b.flight = a.flight

/-- `t` is `m` after something that touches neither the home, the ledger and the churns nor what stands in the controllers. -/
structure QueuesKept (m t : Mach) : Prop where
  home : t.home = m.home
  led : t.led = m.led
  chn : t.chn = m.chn
  pop : t.pop = m.pop
  subs : ∀ k, SameQueues (m.sub k) (t.sub k)

namespace QueuesKept
variable {m t u : Mach}

theorem refl (m : Mach) : QueuesKept m m := ⟨rfl, rfl, rfl, rfl, fun _ => ⟨rfl, rfl, rfl⟩⟩

theorem trans (h : QueuesKept m t) (k : QueuesKept t u) : QueuesKept m u :=
  ⟨k.home.trans h.home, k.led.trans h.led, k.chn.trans h.chn, k.pop.trans h.pop, fun i => ⟨(k.subs i).wq.trans (h.subs i).wq,
    (k.subs i).fabric.trans (h.subs i).fabric, (k.subs i).flight.trans (h.subs i).flight⟩⟩

theorem of_mcs (hh : t.home = m.home) (hl : t.led = m.led) (hc : t.chn = m.chn) (hp : t.pop = m.pop) (hm : t.mcs = m.mcs) : QueuesKept m t := by
  refine ⟨hh, hl, hc, hp, fun k => ?_⟩
  unfold Mach.sub
  rw [hm]
  exact ⟨rfl, rfl, rfl⟩

theorem of_counted (h : Counted m t) : QueuesKept m t := of_mcs h.home h.led h.chn h.pop h.mcs

theorem ite {c : Prop} [Decidable c] {a b : Mach} (ha : QueuesKept m a) (hb : QueuesKept m b) : QueuesKept m (if c then a else b) := by
  split
  · exact ha
  · exact hb

end QueuesKept

theorem kept_setReg (m : Mach) (o : Nat) (v : Word) : QueuesKept m (m.setReg o v) := .of_mcs rfl rfl rfl rfl rfl

theorem kept_bump (m : Mach) (o : Nat) : QueuesKept m (m.bump o) := kept_setReg m _ _

theorem kept_evb (m : Mach) (o b : Nat) : QueuesKept m (m.evb o b) := kept_setReg m _ _

theorem kept_raiseOcc (m : Mach) (o : Occ) : QueuesKept m (m.raiseOcc o) := .of_mcs rfl rfl rfl rfl rfl

theorem kept_scb (m : Mach) (s : Scb) : QueuesKept m { m with scb := s } := .of_mcs rfl rfl rfl rfl rfl

/-- A subchannel's record with the same queues. -/
theorem kept_setSub {m : Mach} {k : Nat} {x : Sub} (h : SameQueues (m.sub k) x) : QueuesKept m (m.setSub k x) := by
  refine ⟨rfl, rfl, rfl, rfl, fun j => ?_⟩
  by_cases hj : j = k
  · rw [hj, sub_setSub_self]
    exact h
  · rw [sub_setSub_ne m x hj]
    exact ⟨rfl, rfl, rfl⟩

theorem kept_chargeNow (m : Mach) (mst n : Nat) : QueuesKept m (m.chargeNow mst n) :=
  (QueuesKept.of_mcs (m := m) (t := m.charge mst n) rfl rfl rfl rfl rfl).trans (.of_counted (counted_pmuEvent _ _ _ _))

/-! ### Counting a read (R320, R325-R327) -/

theorem kept_cxlEvent (m : Mach) (h log : Nat) (bytes : List Byte) : QueuesKept m (m.cxlEvent h log bytes) := by
  have set : ∀ x, QueuesKept m (m.setMb h x) := fun _ => .of_mcs rfl rfl rfl rfl rfl
  unfold Mach.cxlEvent
  dsimp only
  exact .ite ((set _).trans (.of_counted (counted_irq _ _ _))) (set _)

theorem kept_alertCe (m : Mach) : QueuesKept m m.alertCe := by
  have head : ∀ (t : Mach) (h : Nat), QueuesKept t (if (t.mb h).alert.getLsbD 11 && fld (t.mb h).alert 79 64 == (t.reg oCntCe).toNat
      then t.cxlEvent h 1 (Config.mboxBytes 0x4201 h [3]) else t) := fun t h => .ite (kept_cxlEvent t h 1 _) (.refl t)
  unfold Mach.alertCe
  generalize List.range 8 = l
  induction l generalizing m with
  | nil => exact .refl m
  | cons h l ih => exact (head m h).trans (ih _)

theorem kept_history (m : Mach) (a : MAddr) (j : Judged) : QueuesKept m (m.history a j) := by
  have raise : ∀ t : Mach, QueuesKept t ((t.raiseRs 99 a none j.syn).evb oScbEvt 3) := fun t => (kept_raiseOcc t _).trans (kept_evb _ _ _)
  unfold Mach.history
  dsimp only
  refine .ite (.ite ?_ ?_) (.ite (kept_scb m _) ((kept_scb m _).trans (kept_evb _ _ _)))
  · exact ((kept_scb m _).trans (raise _)).trans (kept_scb _ _)
  · exact ((kept_scb m _).trans (raise _)).trans (kept_evb _ _ _)

theorem kept_countCe (m : Mach) (a : MAddr) (j : Judged) : QueuesKept m (m.countCe a j) := by
  unfold Mach.countCe
  dsimp only
  refine QueuesKept.trans ?_ (kept_history _ a j)
  have first : QueuesKept m ((m.bump oCntCe).alertCe.evb oScbEvt 0) := ((kept_bump m _).trans (kept_alertCe _)).trans (kept_evb _ _ _)
  generalize (m.bump oCntCe).alertCe.evb oScbEvt 0 = t at first
  have counted : ∀ c : Scb, QueuesKept m { t with scb := c } := fun c => first.trans (kept_scb t c)
  split
  · exact .ite ((counted _).trans (kept_bump _ _)) ((counted _).trans (kept_raiseOcc _ _))
  · exact (counted _).trans (kept_raiseOcc _ _)

/-- What every reader of a judged line does touches no queue. -/
theorem kept_account (m : Mach) (a : MAddr) (src : Nat) (dpa : Option Nat) (j : Judged) : QueuesKept m (m.account a src dpa j) := by
  unfold Mach.account
  dsimp only
  refine QueuesKept.trans ?_ (.ite (.refl _) (kept_countCe _ _ _))
  split
  · exact ((kept_bump m _).trans (kept_evb _ _ _)).trans (.ite (.refl _) ((kept_raiseOcc _ _).trans (.of_counted (counted_tick _))))
  · exact ((kept_bump m _).trans (kept_evb _ _ _)).trans (kept_raiseOcc _ _)
  · exact .refl m

/-! ### A write at its controller (R270, R271, R289) -/

theorem kept_subOut (m : Mach) (k : Nat) : QueuesKept m (m.subOut k) :=
  (kept_setSub (x := { m.sub k with sr := .out, debt := [], due := [] }) ⟨rfl, rfl, rfl⟩).trans (.of_counted (counted_upkeep _ _ _))

/-- A request that reaches a controller touches no queue of it. -/
theorem kept_reach (m : Mach) (k : Nat) : QueuesKept m (m.reach k) := by
  have undo : ∀ t : Mach, QueuesKept t { t with pwr := { t.pwr with undo := true } } := fun _ => .of_mcs rfl rfl rfl rfl rfl
  have stop : ∀ (t : Mach) (l : List Nat), QueuesKept t { t with tst := { t.tst with stopped := l } } := fun _ _ => .of_mcs rfl rfl rfl rfl rfl
  have out : QueuesKept m (m.chanOut (k / 2)) := (kept_subOut m _).trans (kept_subOut _ _)
  unfold Mach.reach
  dsimp only
  refine .ite ?_ (.ite (.ite (out.trans (stop _ _)) out) (.refl m))
  exact (((kept_setSub (x := { m.sub k with sr := .out }) ⟨rfl, rfl, rfl⟩).trans (kept_evb _ _ _)).trans (kept_bump _ _)).trans (undo _)

theorem kept_drain (m : Mach) (k : Nat) : QueuesKept m (m.drain k) := by
  refine kept_setSub ?_
  unfold Sub.drainRule
  split
  · exact ⟨rfl, rfl, rfl⟩
  · split <;> exact ⟨rfl, rfl, rfl⟩

/-- A write that enters a queue stands in it, alone or in the place of an older one of its line (R271). -/
theorem mem_putWrite (s : Sub) (q : QEnt) : ∃ w ∈ (s.putWrite q).wq, w.frame = q.frame ∧ w.ln = q.ln ∧ w.cw = q.cw := by
  by_cases h : (s.queued q).isSome = true
  · obtain ⟨w, hw⟩ := Option.isSome_iff_exists.mp h
    have same : w.same q = true := List.find?_some (p := fun w : QEnt => w.same q) (l := s.wq) hw
    have spot : w.frame = q.frame ∧ w.ln = q.ln := by
      simp only [QEnt.same, Bool.and_eq_true, beq_iff_eq] at same
      exact same.1
    refine ⟨{ w with cw := q.cw }, ?_, spot.1, spot.2, rfl⟩
    have wq : (s.putWrite q).wq = s.wq.map (fun w => if w.same q then { w with cw := q.cw } else w) := congrArg Sub.wq (if_pos h)
    rw [wq]
    exact List.mem_map.mpr ⟨w, List.mem_of_find?_eq_some hw, if_pos same⟩
  · have wq : (s.putWrite q).wq = s.wq ++ [q] := congrArg Sub.wq (if_neg h)
    rw [wq]
    exact ⟨q, List.mem_append_right _ (List.mem_singleton.mpr rfl), rfl, rfl, rfl⟩

theorem putWrite_keeps (s : Sub) (q : QEnt) : (s.putWrite q).fabric = s.fabric ∧ (s.putWrite q).flight.length = s.flight.length := by
  unfold Sub.putWrite
  dsimp only
  split <;> exact ⟨rfl, List.length_map _⟩

/-- `t` is `m` after something that touches neither the home, the ledger and the churns nor the number of the reads in flight. -/
structure FlightKept (m t : Mach) : Prop where
  home : t.home = m.home
  led : t.led = m.led
  chn : t.chn = m.chn
  flight : ∀ k, (t.sub k).flight.length = (m.sub k).flight.length

namespace FlightKept
variable {m t u : Mach}

theorem trans (h : FlightKept m t) (k : FlightKept t u) : FlightKept m u :=
  ⟨k.home.trans h.home, k.led.trans h.led, k.chn.trans h.chn, fun i => (k.flight i).trans (h.flight i)⟩

theorem of_kept (h : QueuesKept m t) : FlightKept m t := ⟨h.home, h.led, h.chn, fun k => by rw [(h.subs k).flight]⟩

end FlightKept

theorem flightKept_setSub {m : Mach} {k : Nat} {x : Sub} (h : x.flight.length = (m.sub k).flight.length) : FlightKept m (m.setSub k x) := by
  refine ⟨rfl, rfl, rfl, fun j => ?_⟩
  by_cases hj : j = k
  · rw [hj, sub_setSub_self, h]
  · rw [sub_setSub_ne m x hj]

/-- The machine that a write meets at its controller. -/
def Mach.met (m : Mach) (q : QEnt) : Mach := if q.spot.isSome then m else m.reach (m.qSub q)

theorem kept_met (m : Mach) (q : QEnt) : QueuesKept m (m.met q) := .ite (.refl m) (kept_reach m _)

/-- The number of a write as it comes to its controller. -/
def QEnt.numbered (q : QEnt) (id : Nat) : QEnt := { q with id, wr := true }

/-- A write enters its queue, or waits ahead of it (R270). -/
theorem sendWrite_eq (m : Mach) (q : QEnt) : ∃ t : Mach, ∃ id, QueuesKept m t ∧ m.sendWrite q =
    if (t.sub (m.qSub q)).fabric.isEmpty && (t.sub (m.qSub q)).writeRoom (q.numbered id)
    then (true, (t.setSub (m.qSub q) ((t.sub (m.qSub q)).putWrite (q.numbered id))).drain (m.qSub q))
    else (false, t.setSub (m.qSub q) { t.sub (m.qSub q) with fabric := (t.sub (m.qSub q)).fabric ++ [q.numbered id] }) := by
  have next : ∀ t : Mach, QueuesKept t { t with mcs := { t.mcs with nextId := t.mcs.nextId + 1 } } :=
    fun t => ⟨rfl, rfl, rfl, rfl, fun _ => ⟨rfl, rfl, rfl⟩⟩
  exact ⟨_, (m.met q).mcs.nextId, (kept_met m q).trans (next _), rfl⟩

theorem flightKept_sendWrite (m : Mach) (q : QEnt) : FlightKept m (m.sendWrite q).2 := by
  obtain ⟨t, id, kept, e⟩ := sendWrite_eq m q
  rw [e]
  split
  · exact ((FlightKept.of_kept kept).trans (flightKept_setSub (putWrite_keeps _ _).2)).trans (.of_kept (kept_drain _ _))
  · exact (FlightKept.of_kept kept).trans (flightKept_setSub rfl)

theorem flightKept_correctBack (m : Mach) (q : QEnt) (j : Judged) : FlightKept m (m.correctBack q j) := by
  unfold Mach.correctBack
  split
  · exact .of_kept (.refl m)
  · split
    · exact .of_kept (kept_bump m _)
    · exact (flightKept_sendWrite m _).trans (.of_kept ((kept_bump _ _).trans (kept_chargeNow _ _ _)))

/-! ### A read comes back (R318) -/

theorem awaits_of_flightKept {m t : Mach} (h : FlightKept m t) (p : Purpose) : t.awaits p = m.awaits p := by
  unfold Mach.awaits Mach.decoding
  rw [h.led, h.chn]

theorem exec_dramReadDone {s : State} (h : s.latch = false) (ch : Fin 12) (sub : Fin 2) (errs : SymErr) (mis : Option Nat) :
    exec (.dramReadDone ch sub errs mis) s = .next (settle { s with m := readDone s.live s.m ch sub errs mis }) := work_open h _

/-- What a read that comes back is judged to be (R318). -/
def Mach.comesBack (m : Mach) (L : Image) (q : QEnt) (errs : SymErr) (mis : Option Nat) : Judged :=
  judge m (m.qAddr q) q.purpose.cellar ((m.readDpa q).any (fun d => flatPage L (d / 4096)))
    (applyErrs errs ((mis.map m.media.sym).getD (bytesOf q.cw 80)))

/-- The oldest read in flight leaves its place, is judged and handed on. -/
theorem readDone_taken (L : Image) {m : Mach} {ch sub : Nat} (errs : SymErr) (mis : Option Nat) {q : QEnt}
    (hq : (m.sub (2 * ch + sub)).flight.find? (fun q => !q.back) = some q) : ∃ t : Mach,
      FlightKept (m.setSub (2 * ch + sub) { m.sub (2 * ch + sub) with flight := (m.sub (2 * ch + sub)).flight.erase q }) t ∧
        readDone L m ch sub errs mis = answer L t (2 * ch + sub) q (m.comesBack L q errs mis) := by
  generalize hm1 : m.setSub (2 * ch + sub) { m.sub (2 * ch + sub) with flight := (m.sub (2 * ch + sub)).flight.erase q } = m1
  have judged : m1.judgeEnt L q (applyErrs errs ((mis.map m1.media.sym).getD (bytesOf q.cw 80))) = m.comesBack L q errs mis := by
    rw [← hm1]
    rfl
  refine ⟨(m1.account (m1.qAddr q) (m1.ueSource q.purpose) (m1.readDpa q) (m.comesBack L q errs mis)).correctBack q (m.comesBack L q errs mis),
    (FlightKept.of_kept (kept_account _ _ _ _ _)).trans (flightKept_correctBack _ _ _), ?_⟩
  rw [← judged]
  unfold readDone
  simp only [hq, hm1]
  cases mis <;> rfl

/-- The answer of a read goes to the unit that has sent it ahead and still waits for it, or to its reader (R243, R270). -/
theorem read_comes_back {s : State} (latch : s.latch = false) (ch : Fin 12) (sub : Fin 2) (errs : SymErr) (mis : Option Nat) {q : QEnt}
    (hq : (s.m.sub (2 * ch.val + sub.val)).flight.find? (fun q => !q.back) = some q) : ∃ (m : Mach) (j : Judged),
      j = judge s.m (s.m.qAddr q) q.purpose.cellar ((s.m.readDpa q).any (fun d => flatPage s.live (d / 4096)))
        (applyErrs errs ((mis.map s.m.media.sym).getD (bytesOf q.cw 80))) ∧ m.home = s.m.home ∧
      (m.sub (2 * ch.val + sub.val)).flight.length + 1 = (s.m.sub (2 * ch.val + sub.val)).flight.length ∧
      (q.purpose.ahead = true → s.m.awaits q.purpose = true →
        exec (.dramReadDone ch sub errs mis) s = .next (settle { s with m := (m.setSub (2 * ch.val + sub.val)
          { m.sub (2 * ch.val + sub.val) with flight := (m.sub (2 * ch.val + sub.val)).flight ++
            [{ q with back := true, ans := some (decipher s.live m q.purpose j) }] }) })) ∧
      (q.purpose.ahead = false → exec (.dramReadDone ch sub errs mis) s = .next (settle { s with m := handOver s.live m q j })) := by
  obtain ⟨t, kept, taken⟩ := readDone_taken s.live errs mis hq
  refine ⟨t, _, rfl, kept.home, ?_, fun ahead awaits => ?_, fun ahead => ?_⟩
  · have length := List.length_erase_add_one (List.mem_of_find?_eq_some hq)
    rw [kept.flight, sub_setSub_self]
    exact length
  · have waits : t.awaits q.purpose = true := (awaits_of_flightKept kept _).trans awaits
    rw [exec_dramReadDone latch, taken]
    simp only [answer, ahead, waits, if_true]
    rfl
  · rw [exec_dramReadDone latch, taken]
    simp only [answer, ahead, Bool.false_eq_true, if_false]
    rfl

end Sys2Proof.Machine
end

section
/-! PROOFS. What waits in the fabric enters its queue, and a dirty line leaves its way for one (R30, R154, R270). -/

namespace Sys2Proof.Machine

/-! ### The way of a line that has left (R30, R145) -/

/-- A line whose page has no entry in the ledger cache leaves nothing to note. -/
theorem wroteBack_uncached {m : Mach} {line : Nat} (h : m.ent? (line / 64) = none) : m.wroteBack line = m := by
  unfold Mach.wroteBack
  simp only [h]
  unfold Mach.noteClean
  rw [h]

theorem lcGet_lcDrop (m : Mach) (line : Nat) : (m.lcDrop line).lcGet line = none := Tbl.find?_erase_self ..

theorem ent?_of_led {m t : Mach} (h : t.led = m.led) (page : Nat) : t.ent? page = m.ent? page := by
  unfold Mach.ent?
  rw [h]

/-! ### The fabric (R270) -/

theorem exec_fabricWaitRelease {s : State} (h : s.latch = false) (ch : Fin 12) (sub : Fin 2) :
    exec (.fabricWaitRelease ch sub) s = .next (settle { s with m := fabricRelease s.live s.m (2 * ch.val + sub.val) }) := work_open h _

/-- The machine with a write taken from the fabric into its queue. -/
def Mach.pulled (m : Mach) (k : Nat) (q : QEnt) : Mach := (m.setSub k ({ m.sub k with fabric := [] }.putWrite q)).drain k

theorem pulled_keeps (m : Mach) (k : Nat) (q : QEnt) : (m.pulled k q).home = m.home ∧ (m.pulled k q).led = m.led ∧
    ((m.pulled k q).sub k).fabric = [] ∧ ((m.pulled k q).sub k).wq = ({ m.sub k with fabric := [] }.putWrite q).wq := by
  have kept := kept_drain (m.setSub k ({ m.sub k with fabric := [] }.putWrite q)) k
  refine ⟨kept.home, kept.led, ?_, ?_⟩
  · rw [Mach.pulled, (kept.subs k).fabric, sub_setSub_self, (putWrite_keeps _ _).1]
  · rw [Mach.pulled, (kept.subs k).wq, sub_setSub_self]

/-- The one request in the fabric, a write for whose queue there is room, enters it. -/
theorem fabricPull_write {m : Mach} {k : Nat} {q : QEnt} (hf : (m.sub k).fabric = [q]) (hw : q.wr = true) (hr : (m.sub k).writeRoom q = true) :
    m.fabricPull (m.sub k).fabric.length k {} = ({ writes := [q] }, m.pulled k q) := by
  rw [hf, List.length_singleton]
  unfold Mach.fabricPull
  simp only [hf, hw, hr, if_true]
  rfl

/-- A write-back that enters its queue frees its way (R30). -/
theorem entered_wback {m : Mach} {q : QEnt} {line : Nat} (hp : q.purpose = .wback line) (he : m.ent? (line / 64) = none) :
    m.entered q = if (m.lcGet line).any (·.lock) then m.lcDrop line else m := by
  have same : (m.lcDrop line).wroteBack line = m.lcDrop line := wroteBack_uncached he
  unfold Mach.entered
  simp only [hp, same]

/-- A write-back in the fabric enters its queue, and its way is free. -/
theorem fabric_enters {s : State} (latch : s.latch = false) (ch : Fin 12) (sub : Fin 2) {q : QEnt} {line : Nat}
    (hf : (s.m.sub (2 * ch.val + sub.val)).fabric = [q]) (hw : q.wr = true) (hp : q.purpose = .wback line)
    (he : s.m.ent? (line / 64) = none) (hl : (s.m.sub (2 * ch.val + sub.val)).wq.length < 64) :
    ∃ m : Mach, exec (.fabricWaitRelease ch sub) s = .next (settle { s with m := m.pumpAll s.live }) ∧
      (m.sub (2 * ch.val + sub.val)).fabric = [] ∧
      (∃ w ∈ (m.sub (2 * ch.val + sub.val)).wq, w.frame = q.frame ∧ w.ln = q.ln ∧ w.cw = q.cw) ∧
      ((s.m.lcGet line).any (·.lock) = true → m.lcGet line = none) := by
  have acts := exec_fabricWaitRelease latch ch sub
  generalize 2 * ch.val + sub.val = k at hf hl acts ⊢
  have room : (s.m.sub k).writeRoom q = true := by simp [Sub.writeRoom, hl]
  obtain ⟨home, led, fabric, wq⟩ := pulled_keeps s.m k q
  have pulls : fabricRelease s.live s.m k = ((s.m.pulled k q).entered q).pumpAll s.live := by
    unfold fabricRelease
    rw [fabricPull_write hf hw room]
    rfl
  have enters := entered_wback hp ((ent?_of_led led (line / 64)).trans he)
  have lock : (s.m.pulled k q).lcGet line = s.m.lcGet line := by
    unfold Mach.lcGet
    rw [home]
  have sub : ((s.m.pulled k q).entered q).sub k = (s.m.pulled k q).sub k := by
    rw [enters]
    split <;> rfl
  refine ⟨(s.m.pulled k q).entered q, by rw [acts, pulls], by rw [sub, fabric], by rw [sub, wq]; exact mem_putWrite _ _, fun hlock => ?_⟩
  rw [enters, lock, if_pos hlock]
  exact lcGet_lcDrop _ _

/-! ### A write-back (R30) -/

theorem exec_writeBack {s : State} (h : s.latch = false) (line : Nat) :
    exec (.writeBack line) s = .next (settle { s with m := writeBackCmd s.live s.m line }) := work_open h _

/-- A write whose queue has room, with nothing ahead of it, enters. -/
theorem sendWrite_room {m : Mach} {q : QEnt} (hf : (m.sub (m.qSub q)).fabric = []) (hl : (m.sub (m.qSub q)).wq.length < 64) :
    ∃ t : Mach, m.sendWrite q = (true, t) ∧ t.home = m.home ∧ t.led = m.led ∧
      ∃ w ∈ (t.sub (m.qSub q)).wq, w.frame = q.frame ∧ w.ln = q.ln := by
  obtain ⟨u, id, kept, e⟩ := sendWrite_eq m q
  generalize m.qSub q = k at hf hl e ⊢
  have fabric : (u.sub k).fabric.isEmpty = true := by rw [(kept.subs k).fabric, hf]; rfl
  have room : (u.sub k).writeRoom (q.numbered id) = true := by simp [Sub.writeRoom, (kept.subs k).wq, hl]
  have last := kept_drain (u.setSub k ((u.sub k).putWrite (q.numbered id))) k
  rw [fabric, room] at e
  refine ⟨_, e, last.home.trans kept.home, last.led.trans kept.led, ?_⟩
  obtain ⟨w, hw, frame, ln, _⟩ := mem_putWrite (u.sub k) (q.numbered id)
  exact ⟨w, by rw [(last.subs k).wq, sub_setSub_self]; exact hw, frame, ln⟩

/-- A dirty line of the flat area leaves its way for its write queue. -/
theorem writeBack_flat {L : Image} {m : Mach} {line : Nat} {c : CLine} (hc : m.lcGet line = some c) (hd : c.dirty = true) (hk : c.lock = false)
    (hf : flatPage L (line / 64) = true) (he : m.ent? (line / 64) = none)
    (hq : (m.sub (m.subOf (flatFrame L (line / 64)) (line % 64))).fabric = [])
    (hl : (m.sub (m.subOf (flatFrame L (line / 64)) (line % 64))).wq.length < 64) (tag : Tag) :
    ∃ t : Mach, writeBack L m line tag = some t ∧ t.lcGet line = none ∧
      ∃ w ∈ (t.sub (m.subOf (flatFrame L (line / 64)) (line % 64))).wq, w.frame = flatFrame L (line / 64) ∧ w.ln = line % 64 := by
  have sends : ∃ q : QEnt, q.frame = flatFrame L (line / 64) ∧ q.ln = line % 64 ∧ m.qSub q = m.subOf (flatFrame L (line / 64)) (line % 64) ∧
      sendLine L m (flatFrame L (line / 64)) line c tag = m.sendWrite q := ⟨_, rfl, rfl, rfl, rfl⟩
  obtain ⟨q, frame, ln, sub, sends⟩ := sends
  rw [← sub] at hq hl ⊢
  obtain ⟨t, sent, _, led, w, hw, wframe, wln⟩ := sendWrite_room hq hl
  have left : (t.lcDrop line).wroteBack line = t.lcDrop line := wroteBack_uncached ((ent?_of_led led (line / 64)).trans he)
  refine ⟨t.lcDrop line, ?_, lcGet_lcDrop _ _, w, hw, wframe.trans frame, wln.trans ln⟩
  unfold writeBack
  simp [hc, hd, hk, hf, sends, sent, left]

/-- A write-back of a dirty line takes it from its way to its write queue. -/
theorem write_leaves {s : State} (latch : s.latch = false) {line : Nat} {c : CLine} (hc : s.m.lcGet line = some c) (hd : c.dirty = true)
    (hk : c.lock = false) (ht : s.m.tracked line = false) (hf : flatPage s.live (line / 64) = true) (he : s.m.ent? (line / 64) = none)
    (hq : (s.m.sub (s.m.subOf (flatFrame s.live (line / 64)) (line % 64))).fabric = [])
    (hl : (s.m.sub (s.m.subOf (flatFrame s.live (line / 64)) (line % 64))).wq.length < 64) :
    ∃ m : Mach, exec (.writeBack line) s = .next (settle { s with m := m.pumpAll s.live }) ∧ m.lcGet line = none ∧
      ∃ w ∈ (m.sub (s.m.subOf (flatFrame s.live (line / 64)) (line % 64))).wq, w.frame = flatFrame s.live (line / 64) ∧ w.ln = line % 64 := by
  obtain ⟨t, back, left, queued⟩ := writeBack_flat hc hd hk hf he hq hl {}
  refine ⟨t, ?_, left, queued⟩
  rw [exec_writeBack latch]
  unfold writeBackCmd
  simp [ht, back]

end Sys2Proof.Machine
end

section
/-! PROOFS. A ledger line that was asked for is installed (R148, R164). -/

namespace Sys2Proof.Machine

/-- A ledger line stands in the ledger cache with its four entries, and is no longer asked for. -/
structure Fetched (m : Mach) (j : Nat) : Prop where
  asked : m.led.fetching.contains j = false
  line : ∃ l, m.led.lines.find? j = some l ∧ l.ents.length = 4

namespace Fetched
variable {m t : Mach} {j : Nat}

/-- The cache and the fetches as they were. -/
theorem of_led (h : Fetched m j) (hf : t.led.fetching = m.led.fetching) (hl : t.led.lines = m.led.lines) : Fetched t j :=
  ⟨by rw [hf]; exact h.asked, by rw [hl]; exact h.line⟩

theorem ite {c : Prop} [Decidable c] {a b : Mach} (ha : Fetched a j) (hb : Fetched b j) : Fetched (if c then a else b) j := by
  split
  · exact ha
  · exact hb

theorem foldl {f : Mach → Nat → Mach} (l : List Nat) (hf : ∀ m, ∀ p ∈ l, Fetched m j → Fetched (f m p) j) (m : Mach) (h : Fetched m j) :
    Fetched (l.foldl f m) j := by
  induction l generalizing m with
  | nil => exact h
  | cons p l ih => exact ih (fun m q hq => hf m q (List.mem_cons_of_mem _ hq)) _ (hf m p (List.mem_cons_self ..) h)

/-- Its pages have entries. -/
theorem ent? (h : Fetched m j) {page : Nat} (hp : page / 4 = j) : ∃ e, m.ent? page = some e := by
  obtain ⟨l, hl, hlen⟩ := h.line
  have hi : page % 4 < l.ents.length := by omega
  exact ⟨l.ents[page % 4], by simp [Mach.ent?, hp, hl, hi]⟩

/-- A change of an entry keeps the line. -/
theorem putEnt (h : Fetched m j) (page : Nat) (e : LEnt) (changed : Bool) : Fetched (m.putEnt page e changed) j := by
  unfold Mach.putEnt
  split
  · exact h
  · next x hx =>
    refine ⟨h.asked, ?_⟩
    obtain ⟨l, hl, hlen⟩ := h.line
    by_cases hp : page / 4 = j
    · refine ⟨_, by rw [hp]; exact Tbl.find?_insert_self .., ?_⟩
      have hxl : x = l := by
        rw [hp, hl] at hx
        exact (Option.some.inj hx).symm
      rw [List.length_set, hxl, hlen]
    · exact ⟨l, (Tbl.find?_insert_ne _ _ (Ne.symm hp)).trans hl, hlen⟩

theorem queueMove (h : Fetched m j) (page : Nat) (kind : MoveKind) (cls : Nat) (pin : Bool) : Fetched (m.queueMove page kind cls pin) j := by
  unfold Mach.queueMove
  split
  · split
    · exact h.of_led rfl rfl
    · split
      · exact h.of_led rfl rfl
      · exact h
  · exact h.of_led rfl rfl

theorem poolEmpty (h : Fetched m j) : Fetched m.poolEmpty j := .ite h (h.of_led rfl rfl)

theorem retiredAccess (h : Fetched m j) (head page : Nat) : Fetched (m.retiredAccess head page) j := .ite h (h.of_led rfl rfl)

/-- A sample of one of its pages (R164). -/
theorem addHeat (h : Fetched m j) (L : Image) {page : Nat} (hp : page / 4 = j) : Fetched (addHeat L m page) j := by
  obtain ⟨e, he⟩ := h.ent? hp
  have put := h.putEnt page { e with heat := min 63 (e.heat + 1) } true
  unfold Machine.addHeat
  rw [he]
  exact .ite (put.queueMove _ _ _ _) put

/-- A dirty line of one of its pages (R29, R151). -/
theorem noteDirty (h : Fetched m j) (L : Image) (mst : Nat) (tag : Tag) {page : Nat} (hp : page / 4 = j) : Fetched (noteDirty L m mst tag page) j := by
  obtain ⟨e, he⟩ := h.ent? hp
  have put := h.putEnt page { e with dic := true } false
  unfold Machine.noteDirty
  split
  · exact h
  · simp only [he]
    generalize m.putEnt page { e with dic := true } false = t at put
    have want : ∀ l, Fetched { t with led := { t.led with wantFrame := l } } j := fun _ => put.of_led rfl rfl
    have lines : ∀ (u : Mach) (lc : Tbl CLine), Fetched u j → Fetched { u with home := { u.home with lc } } j := fun _ _ hu => hu.of_led rfl rfl
    refine .ite (.ite put (.ite (want _).poolEmpty (want _))) (.ite ((lines _ _ (put.retiredAccess _ _)).putEnt _ _ _)
      (.ite (put.queueMove _ _ _ _) (.ite ?_ put)))
    split
    · exact .ite (put.of_led rfl rfl) put
    · exact put

end Fetched

/-! ### The installation -/

/-- The machine with a ledger line put into the ledger cache. -/
def Mach.ledPut (m : Mach) (j : Nat) (l : LLine) : Mach :=
  { m with led := { m.led with lines := m.led.lines.insert j l, fetching := m.led.fetching.filter (· != j) } }

theorem fetched_ledPut (m : Mach) (j : Nat) {l : LLine} (h : l.ents.length = 4) : Fetched (m.ledPut j l) j :=
  ⟨by simp [Mach.ledPut], l, Tbl.find?_insert_self .., h⟩

/-- The entries that a fetched line is installed with. -/
def fetchedEnts (L : Image) (m : Mach) (j : Nat) (syn : Word) (d : Option Line) : List LEnt × Mach :=
  match d with
  | some d => (lineEnts d, m)
  | none => loseLine L m j syn

theorem fetchedEnts_length (L : Image) (m : Mach) (j : Nat) (syn : Word) (d : Option Line) : (fetchedEnts L m j syn d).1.length = 4 := by
  cases d <;> rfl

/-- What waited for the line is done: the samples of its pages, and the pages with dirty lines (R29, R164). -/
def Mach.ledCaught (m : Mach) (L : Image) (j : Nat) : Mach :=
  ((List.range 4).map (4 * j + ·)).foldl (fun m p => if (m.pageDirty p).isEmpty then m else noteDirty L m mDesc {} p)
    ((m.led.heatQ.filter (fun p => p / 4 == j)).foldl (addHeat L)
      { m with led := { m.led with heatQ := m.led.heatQ.filter (fun p => p / 4 != j) } })

theorem Fetched.ledCaught {m : Mach} {j : Nat} (h : Fetched m j) (L : Image) : Fetched (m.ledCaught L j) j := by
  refine .foldl _ (fun t p hp ht => .ite ht (ht.noteDirty L _ _ ?_)) _ (.foldl _ (fun t p hp ht => ht.addHeat L ?_) _ (h.of_led rfl rfl))
  · obtain ⟨i, hi, rfl⟩ := List.mem_map.mp hp
    have := List.mem_range.mp hi
    omega
  · exact eq_of_beq (List.mem_filter.mp hp).2

/-- A ledger line whose set has room is installed. -/
theorem ledInstall_room (L : Image) {m : Mach} {j : Nat} (hr : (m.led.lines.filter (fun p => p.1 % 16384 == j % 16384)).length < 16)
    (e0 e1 : SymErr) : ∃ t, ledInstall L m j e0 e1 = some t ∧ t.led.fetching.contains j = false ∧ (t.led.lines.find? j).isSome = true := by
  by_cases hl : (m.led.lines.find? j).isSome = true
  · refine ⟨{ m with led := { m.led with fetching := m.led.fetching.filter (· != j) } }, if_pos hl, by simp, hl⟩
  · have room : m.ledRoom j = some m := if_pos hr
    have got : ∃ (d : Option Line) (syn : Word) (t : Mach), ledReadFor L m mDesc (.ledger j) (lineSpot j).1 (lineSpot j).2 true e0 e1 = (d, syn, t) :=
      ⟨_, _, _, rfl⟩
    obtain ⟨d, syn, t, read⟩ := got
    have put := fetched_ledPut (fetchedEnts L t j syn d).2 j (l := { ents := (fetchedEnts L t j syn d).1, use := (fetchedEnts L t j syn d).2.home.clock })
      (fetchedEnts_length L t j syn d)
    have caught := put.ledCaught L
    refine ⟨_, ?_, caught.asked, by obtain ⟨l, hl, _⟩ := caught.line; rw [hl]; rfl⟩
    unfold ledInstall
    rw [if_neg hl, room]
    simp only [read]
    cases d <;> rfl

theorem exec_ledgerFetchDone {s : State} (h : s.latch = false) (j : Nat) (e0 e1 : SymErr) :
    exec (.ledgerFetchDone j e0 e1) s = .next (settle { s with m := fetchDone s.live s.m j e0 e1 }) := work_open h _

/-- A ledger line that was asked for is installed. -/
theorem fetch_installs {s : State} (latch : s.latch = false) {j : Nat} (hf : s.m.led.fetching.contains j = true)
    (hr : (s.m.led.lines.filter (fun p => p.1 % 16384 == j % 16384)).length < 16) (e0 e1 : SymErr) :
    ∃ m : Mach, exec (.ledgerFetchDone j e0 e1) s = .next (settle { s with m := m.pumpAll s.live }) ∧ m.led.fetching.contains j = false ∧
      (m.led.lines.find? j).isSome = true := by
  obtain ⟨t, install, asked, line⟩ := ledInstall_room s.live hr e0 e1
  refine ⟨t, ?_, asked, line⟩
  rw [exec_ledgerFetchDone latch]
  unfold fetchDone
  simp only [hf, install, Bool.not_true, Bool.false_eq_true, if_false]

end Sys2Proof.Machine
end

section
/-! PROOFS. A decode that ends (R23, R24, R413), a write that waited at the home (R109, R364), and the statement HomeCommandsAct: O42. -/

namespace Sys2Proof.Machine

/-! ### A decode (R23, R24) -/

theorem exec_wedgeDecodeDone {s : State} (h : s.latch = false) (page : Nat) (w : Fin 8) :
    exec (.wedgeDecodeDone page w) s = .next (settle { s with m := wedgeDone s.live s.m page w }) := work_open h _

/-- A decode on a churn of its own frees the churn as it ends. -/
theorem decode_ends {s : State} (latch : s.latch = false) {page : Nat} {w : Fin 8} {c : Nat} {d : Decode}
    (hc : s.m.churnOf (.decode page w) = some c) (hd : s.m.decode? page w = some d) :
    ∃ m : Mach, m.chn.run = s.m.chn.run.erase c ∧ m.home = s.m.home ∧ m.led = s.m.led ∧
      exec (.wedgeDecodeDone page w) s = .next (settle { s with m := wedgeEnd s.live m page w d }) := by
  have counted := counted_pmuEvent (s.m.freeChurn c) 0x302 (c / 8) 1
  refine ⟨(s.m.freeChurn c).pmuEvent 0x302 (c / 8) 1, by rw [counted.chn]; rfl, by rw [counted.home]; rfl, by rw [counted.led]; rfl, ?_⟩
  rw [exec_wedgeDecodeDone latch]
  unfold wedgeDone
  simp only [hc, hd, Option.some_or, Option.isSome_some, if_true]

/-- A decoded line that reaches its slice answers the read that waits for it. -/
theorem install_answers (L : Image) {m : Mach} {q r : Req} {mt : MetaRd} {data : Line} {po ar : Bool} {page : Nat} {w : Nat}
    (hk : q.kind = .install data po ar) (ht : m.home.trk = [r]) (hl : r.line = q.line) (hp : r.phase = .decode page w) (hr : r.kind = .read mt)
    (hq : r.quiet = false) (hm : r.merging = false) :
    ∃ ans, Out.memData r.head r.tag (answerData r.kind data (po || m.poisonDue q.line) ar) (po || m.poisonDue q.line) ans ∈ (enter L m q).outbox := by
  have enters : enter L m q = wedgeEnter L m q data po ar := by
    unfold enter
    rw [hk]
  have served : ∃ t : Mach, wedgeEnter L m q data po ar =
      withData L t r (answerData r.kind data (po || m.poisonDue q.line) ar) (po || m.poisonDue q.line) 0#2 true := by
    unfold wedgeEnter
    simp only [ht, List.filter_cons, hl, hp, beq_self_eq_true, Bool.and_self, if_true, List.filter_nil, List.foldl_cons, List.foldl_nil]
    exact ⟨_, rfl⟩
  obtain ⟨t, served⟩ := served
  obtain ⟨ans, u, _, sent⟩ := deliver_read hr hq L t (answerData r.kind data (po || m.poisonDue q.line) ar) (po || m.poisonDue q.line) 0#2
  refine ⟨ans, ?_⟩
  rw [enters, served]
  have delivers : withData L t r (answerData r.kind data (po || m.poisonDue q.line) ar) (po || m.poisonDue q.line) 0#2 true =
      deliver L t r (answerData r.kind data (po || m.poisonDue q.line) ar) (po || m.poisonDue q.line) 0#2 := by
    simp [withData, hm, hr]
  rw [delivers, sent]
  exact (homeStep_endReq _ r _).sent _ (mem_outbox_send u _)

/-! ### A write that waited at the home (R109, R364) -/

theorem exec_setStallRelease {s : State} (h : s.latch = false) (id : Nat) :
    exec (.setStallRelease id) s = .next (settle { s with m := stallRelease s.live s.m id }) := work_open h _

theorem exec_lagWaitRelease {s : State} (h : s.latch = false) :
    exec .lagWaitRelease s = .next (settle { s with m := lagRelease s.live s.m }) := work_open h _

/-- The one waiting write acts on release. -/
theorem release_turns {L : Image} {m : Mach} {r : Req} (ht : m.home.trk = [r]) :
    (r.phase = .stall → stallRelease L m r.id = (turn L m r).pumpAll L) ∧
    (r.phase = .lag → mirrorLag L m r.line = false → lagRelease L m = (turn L m { r with phase := .start }).pumpAll L) := by
  refine ⟨fun hp => ?_, fun hp hl => ?_⟩
  · simp [stallRelease, ht, hp]
  · simp [lagRelease, ht, hp, hl]

/-- A write that waited at the home, alone, is installed and completed when it is released. -/
theorem release_stores {s : State} (quiet : Quiet s) (latch : s.latch = false) {r : Req} {mt : Meta} {d : Line} {p : Bool}
    (ht : s.m.home.trk = [r]) (calm : Calm { s.m with home := { s.m.home with trk := [] } }) (hk : r.kind = .write mt d p) (hq : r.quiet = false)
    (hs : r.sram = .none) (hm : r.merging = false) (plain : PlainLine s.live s.m r.line) (hw : (s.m.lcWays r.line).length < 12) {i : Instr}
    (hi : (i = Instr.setStallRelease r.id ∧ r.phase = .stall) ∨ (i = .lagWaitRelease ∧ r.phase = .lag)) :
    ∃ t, exec i s = .next t ∧ t.m.home.trk = [] ∧ Out.memCmp r.head r.tag false ∈ t.m.outbox ∧
      ∃ y, t.m.lcGet r.line = some y ∧ y.data = d ∧ y.p = p ∧ y.dirty = true := by
  obtain ⟨_, _, _, fills, snoops, _, _⟩ := calm
  obtain ⟨flat, db, mirror, coal, _⟩ := plain
  have ready : ∀ ph, Ready s.live s.m { r with phase := ph } := fun ph =>
    { db, coal, snoops, sram := hs, trk := by rw [ht]; exact fun x hx => by rw [List.mem_singleton.mp hx], fills, quiet := hq, merging := hm,
      flat, plain := mirror }
  have ends : ∀ ph, ∃ m : Mach, (turn s.live s.m { r with phase := ph }).pumpAll s.live = m ∧ Quiet { s with m } ∧ m.home.trk = [] ∧
      Out.memCmp r.head r.tag false ∈ m.outbox ∧ ∃ y, m.lcGet r.line = some y ∧ y.data = d ∧ y.p = p ∧ y.dirty = true := by
    intro ph
    obtain ⟨stored, sent⟩ := stored_write (ready ph) hk (.inr hw)
    exact ⟨_, pumpAll_idle stored.trk stored.fills s.live, stored.step.quiet quiet, stored.trk, sent, stored.way⟩
  obtain ⟨stall, lag⟩ := release_turns (L := s.live) ht
  obtain ⟨rfl, hp⟩ | ⟨rfl, hp⟩ := hi
  · obtain ⟨m, turns, settled, rest⟩ := ends r.phase
    exact ⟨{ s with m }, by rw [exec_setStallRelease latch, stall hp, ← settle_quiet _ settled, ← turns], rest⟩
  · obtain ⟨m, turns, settled, rest⟩ := ends .start
    exact ⟨{ s with m }, by rw [exec_lagWaitRelease latch, lag hp (mirrorLag_unmirrored mirror _), ← settle_quiet _ settled, ← turns], rest⟩

end Sys2Proof.Machine

namespace Sys2Proof

open Machine

/-- Settles O42: each command by the lemma that says what it does to what waits. -/
theorem homeCommandsAct : Obligations.HomeCommandsAct := by
  unfold Obligations.HomeCommandsAct
  intro s quiet latch
  refine ⟨⟨fun errs => exec_regulatorAdmit latch errs, ?agent⟩, window_begins quiet latch,
    fun ch sub errs mis q hq => read_comes_back latch ch sub errs mis hq, ?fabric, fun j e0 e1 hf hr => fetch_installs latch hf hr e0 e1,
    fun page w c d hc hd => decode_ends latch hc hd, ?install, ?writeBack, ?release⟩
  case agent =>
    intro r c hi calm inq hs hns hk hp hsr hq hm hmst hj plain serves hit
    exact admit_agentRead quiet latch hi calm inq hs hns hk hp hsr hq hm hmst hj plain serves hit
  case fabric =>
    intro ch sub q line hf hw _ hp he hl
    exact fabric_enters latch ch sub hf hw hp he hl
  case install =>
    intro m q r mt data po ar page w hk ht hl hp hr hq hm
    exact install_answers s.live hk ht hl hp hr hq hm
  case writeBack =>
    intro line c hc hd hk ht hf he hq hl
    exact write_leaves latch hc hd hk ht hf he hq hl
  case release =>
    intro r mt d p ht calm _ hk hq hs hm plain hw i hi
    exact release_stores quiet latch ht calm hk hq hs hm plain hw hi

end Sys2Proof
end

section
/-! PROOFS. Link power states and clock gates (R57, R479, R481, R483): a linked head and the management link enter and leave a power
state by one field of their own, and a gate changes the record of the gated blocks only. -/

namespace Sys2Proof.Machine

/-- A command of known effect that raises nothing leaves that effect alone. -/
theorem op_eq {s : State} {f : Mach → Mach} {m : Mach} (e : f s.m = m) (hq : Quiet { s with m }) : s.op f = .next { s with m } := by
  subst e
  exact op_quiet s f hq

/-- The management link's state is no part of what waits to be settled. -/
theorem quiet_mgmt {s : State} (hq : Quiet s) (p : Mgmt) : Quiet { s with m := { s.m with mgmt := p } } := hq

/-- The head's states in which its link can enter and leave a power state. -/
def LinkServes (x : Head) : Prop := x.st = .ioOnly ∨ x.st = .active ∨ x.st = .insecure

/-- A served head takes the power state, and nothing else changes. -/
theorem linkPower_head {m : Mach} {h : Fin 8} (hs : LinkServes (m.head h)) (p : LinkPwr) :
    linkPower m (.head h) p = m.setHead h { m.head h with lpwr := p } := if_pos hs

/-- The management link takes the power state while it is up. -/
theorem linkPower_mgmt {m : Mach} (hu : m.mgmt.up = true) (p : LinkPwr) :
    linkPower m .mgmt p = { m with mgmt := { m.mgmt with lpwr := p } } := if_pos hu

/-- On an ACTIVE part, activity on a link is its return to L0 alone. -/
theorem linkBack_active {m : Mach} {L : Image} {l : LinkId} (ha : (linkPower m l .l0).pwr.st = .active) :
    linkBack L m l = linkPower m l .l0 := touch_active L ha

/-- A block's idleness does not depend on which blocks are gated. -/
theorem blockIdle_gated (m : Mach) (g : List Block) (b : Block) :
    ({ m with pwr := { m.pwr with gated := g } } : Mach).blockIdle b = m.blockIdle b := by
  cases b <;> rfl

/-- After BLOCK_CLOCK_GATE a block is gated exactly when it is idle. -/
theorem isGated_gateBlock (m : Mach) (b : Block) : (gateBlock m b).isGated b = m.blockIdle b := by
  have idle : (gateBlock m b).blockIdle b = m.blockIdle b := blockIdle_gated m _ b
  rw [Mach.isGated, idle]
  cases hb : m.blockIdle b <;> simp [gateBlock, hb]

/-- LINK_L1_ENTRY writes the link's power state. -/
theorem exec_linkL1Entry (l : LinkId) (s : State) : exec (.linkL1Entry l) s = s.op (fun m => linkPower m l .l1) := by rfl

/-- PME_TURN_OFF likewise. -/
theorem exec_pmeTurnOff (l : LinkId) (s : State) : exec (.pmeTurnOff l) s = s.op (fun m => linkPower m l .l2) := by rfl

/-- LINK_L1_EXIT is the link's return to L0. -/
theorem exec_linkL1Exit (l : LinkId) (s : State) : exec (.linkL1Exit l) s = s.op (fun m => linkBack s.live m l) := by rfl

end Sys2Proof.Machine

namespace Sys2Proof
open Machine

/-- Settles O16: the commands on a head's link and on the management link write one field each, and a gate the list of gated blocks. -/
theorem linkPowerAndClockGates : Obligations.LinkPowerAndClockGates := by
  refine ⟨fun s h hq => ⟨fun hs => ?_, fun hu => ?_⟩, fun b s hq => ?_⟩
  · have hs : LinkServes (s.m.head h) := hs
    refine ⟨?_, ?_, fun ha => ?_⟩
    · rw [exec_linkL1Entry, op_eq (linkPower_head hs _) (quiet_setHead hq _ _)]
    · rw [exec_pmeTurnOff, op_eq (linkPower_head hs _) (quiet_setHead hq _ _)]
    · have back := linkBack_active (L := s.live) (m := s.m) (l := .head h) (by rw [linkPower_head hs]; exact ha)
      rw [exec_linkL1Exit, op_eq (back.trans (linkPower_head hs _)) (quiet_setHead hq _ _)]
  · refine ⟨?_, ?_, fun ha => ?_⟩
    · rw [exec_linkL1Entry, op_eq (linkPower_mgmt hu _) (quiet_mgmt hq _)]
    · rw [exec_pmeTurnOff, op_eq (linkPower_mgmt hu _) (quiet_mgmt hq _)]
    · have back := linkBack_active (L := s.live) (m := s.m) (l := .mgmt) (by rw [linkPower_mgmt hu]; exact ha)
      rw [exec_linkL1Exit, op_eq (back.trans (linkPower_mgmt hu _)) (quiet_mgmt hq _)]
  · exact ⟨_, _, op_quiet s (gateBlock · b) hq, rfl, isGated_gateBlock s.m b⟩

end Sys2Proof
end

section
/-! PROOFS. The mailbox's reports and settings (R44, R82, R86, R465, R549, R551): an open mailbox answers a command by the effect of its
body, and under the class A latch only the commands that read are served. -/

namespace Sys2Proof.Machine

/-- An answer of the mailbox leaves nothing to settle. -/
theorem quiet_mbRet {s : State} {m : Mach} (hq : Quiet { s with m }) (h code : Nat) (out : List Byte) :
    Quiet { s with m := m.mbRet h code out } := hq

/-- The mailbox's own registers are no part of what waits to be settled. -/
theorem quiet_setMb {s : State} {m : Mach} (hq : Quiet { s with m }) (h : Nat) (b : Mbox) : Quiet { s with m := m.setMb h b } := hq

/-- An open mailbox executes the body of a command that is served. -/
theorem mbCmd_open {s : State} {h : Fin 8} (ho : MailboxOpen s h) {reads : Bool} (hs : (s.latch && !reads) = false) (i : Instr)
    {f : Mach → Mach} {m : Mach} (e : f s.m = m) (hq : Quiet { s with m }) : mbCmd s h i reads f = .next { s with m } := by
  obtain ⟨linked, free, post, steward, awake⟩ := ho
  rw [mbCmd, received, if_neg (by simp [free])]
  refine op_eq ?_ hq
  simpa [linked, post, steward, touch_active s.live awake, Mach.answers, awake, hs] using e

/-- Under the latch a command that writes is answered Media Disabled. -/
theorem mbCmd_latched {s : State} {h : Fin 8} (hq : Quiet s) (ho : MailboxOpen s h) (hl : s.latch = true) (i : Instr) (f : Mach → Mach) :
    mbCmd s h i false f = .next { s with m := s.m.mbRet h mbMediaDisabled [] } := by
  obtain ⟨linked, free, post, steward, awake⟩ := ho
  rw [mbCmd, received, if_neg (by simp [free])]
  refine op_eq ?_ (quiet_mbRet hq _ _ _)
  simp [linked, post, steward, touch_active s.live awake, Mach.answers, awake, hl]

/-- A command of the head's mailbox whose body answers `code` and `bytes` and changes nothing else; `reads` says that it only reads. -/
def Answers (s : State) (h : Fin 8) (reads : Bool) (c : Instr) (code : Nat) (bytes : List Byte) : Prop :=
  ∃ f, exec c s = mbCmd s h c reads f ∧ f s.m = s.m.mbRet h code bytes

/-- What such a command does where it is served. -/
theorem Answers.served {s : State} {h : Fin 8} {reads : Bool} {c : Instr} {code : Nat} {bytes : List Byte}
    (hc : Answers s h reads c code bytes) (hq : Quiet s) (ho : MailboxOpen s h) (hs : (s.latch && !reads) = false) :
    exec c s = .next { s with m := s.m.mbRet h code bytes } := by
  obtain ⟨f, e, he⟩ := hc
  exact e.trans (mbCmd_open ho hs c he (quiet_mbRet hq _ _ _))

/-- The reporting commands, each with its return code and its fields. -/
theorem reports_answer (s : State) (h : Fin 8) (ld : Fin 16) (log off len : Nat) (ev : Fin 5) (op : BitVec 16) (dpa : BitVec 45) (n : Nat) :
    ∀ (c : Instr) (code : Nat) (bytes : List Byte), (c, code, bytes) ∈
      [(Instr.identifyMemoryDevice h, mbOk, Config.mboxBytes 0x4000 h ([0, s.m.wld.version.toNat] ++ (presented s.live s.m h).map s.live.pLen)),
       (.getPartitionInfo h, mbOk, Config.mboxBytes 0x4100 h (0 :: (presented s.live s.m h).map s.live.pLen)),
       (.getHealthInfo h, mbOk, Config.mboxBytes 0x4200 h [(s.m.tj + 256).toNat, (s.m.reg oCntCe).toNat, (s.m.reg oCntUe).toNat]),
       (.getSupportedLogs h, mbOk, Config.mboxBytes 0x0400 h []),
       (.getLog h log off len, mbOk, ((Config.mboxBytes 0x0401 h [log]).drop off).take len),
       (.getEventRecords h ev, mbOk, eventBytes (s.m.mb h) ev),
       (.getEventInterruptPolicy h, mbOk, bytesOf (s.m.mb h).policy 5),
       (.getAlertConfiguration h, mbOk, bytesOf (s.m.mb h).alert 12),
       (.getScanMediaCapabilities h dpa n, mbOk, Config.mboxBytes 0x4303 h [dpa.toNat, n]),
       (.getScanMediaResults h, mbOk, Config.mboxBytes 0x4305 h (if (s.m.mb h).scan.isSome then [] else (s.m.mb h).scanRes)),
       (.getFwInfo h, mbOk, Config.mboxBytes 0x0200 h [s.m.wld.version.toNat]),
       (.getTimestamp h, mbOk, bytesOfNat s.m.timeNs 8),
       (.getDynamicCapacityExtentList h ld, mbOk,
         Config.mboxBytes 0x4801 h (((dcOf s.live s.m h ld).filter (fun x => x.2.2 == 2)).map (·.2.1))),
       (.mailboxUnsupported h op, mbUnsupported, [])] → Answers s h true c code bytes := by
  intro c code bytes hc
  simp only [List.mem_cons, Prod.mk.injEq, List.not_mem_nil, or_false] at hc
  obtain ⟨rfl, rfl, rfl⟩ | ⟨rfl, rfl, rfl⟩ | ⟨rfl, rfl, rfl⟩ | ⟨rfl, rfl, rfl⟩ | ⟨rfl, rfl, rfl⟩ | ⟨rfl, rfl, rfl⟩ | ⟨rfl, rfl, rfl⟩ |
    ⟨rfl, rfl, rfl⟩ | ⟨rfl, rfl, rfl⟩ | ⟨rfl, rfl, rfl⟩ | ⟨rfl, rfl, rfl⟩ | ⟨rfl, rfl, rfl⟩ | ⟨rfl, rfl, rfl⟩ | ⟨rfl, rfl, rfl⟩ := hc <;>
    unfold Answers exec
  · unfold execIdentifyMemoryDevice mbReport; exact ⟨_, rfl, rfl⟩
  · unfold execGetPartitionInfo mbReport; exact ⟨_, rfl, rfl⟩
  · unfold execGetHealthInfo mbReport; exact ⟨_, rfl, rfl⟩
  · unfold execGetSupportedLogs mbReport; exact ⟨_, rfl, rfl⟩
  · unfold execGetLog; exact ⟨_, rfl, rfl⟩
  · unfold execGetEventRecords; exact ⟨_, rfl, rfl⟩
  · unfold execGetEventInterruptPolicy; exact ⟨_, rfl, rfl⟩
  · unfold execGetAlertConfiguration; exact ⟨_, rfl, rfl⟩
  · unfold execGetScanMediaCapabilities mbReport; exact ⟨_, rfl, rfl⟩
  · unfold execGetScanMediaResults mbReport; exact ⟨_, rfl, rfl⟩
  · unfold execGetFwInfo mbReport; exact ⟨_, rfl, rfl⟩
  · unfold execGetTimestamp; exact ⟨_, rfl, rfl⟩
  · unfold execGetDynamicCapacityExtentList mbReport; exact ⟨_, rfl, rfl⟩
  · unfold execMailboxUnsupported; exact ⟨_, rfl, rfl⟩

/-- CLEAR_EVENT_RECORDS of a whole log keeps the records of the others. -/
theorem eventsClear_all (m : Mach) (h log : Nat) (hs : List Nat) :
    eventsClear m h log true hs = (m.setMb h { m.mb h with logs := (m.mb h).logs.filter (fun r => r.1 != log) }).mbRet h mbOk [] := by
  simp only [eventsClear, Bool.not_true, Bool.false_and, Bool.false_eq_true, if_false, Bool.true_or, Bool.and_true]
  rfl

/-- With an unknown handle among those named it refuses. -/
theorem eventsClear_unknown {m : Mach} {h log x : Nat} {hs : List Nat} (hx : x ∈ hs)
    (hn : ∀ r ∈ (m.mb h).logs, r.1 = log → r.2.1 ≠ x) : eventsClear m h log false hs = m.mbRet h mbInvalidHandle [] := by
  refine if_pos ?_
  simp only [Bool.not_false, Bool.true_and, Bool.not_eq_true', List.all_eq_false, List.any_eq_true, not_exists]
  refine ⟨x, hx, fun r => ?_⟩
  simpa using hn r

end Sys2Proof.Machine

namespace Sys2Proof
open Machine

/-- Settles O35: every command is its body through `mbCmd`, which an open mailbox executes. -/
theorem mailboxReportsAndSettings : Obligations.MailboxReportsAndSettings := by
  refine ⟨fun h ld log off len ev op dpa n s hq ho c code bytes hc => ?_, fun h policy cfg ns log hs s hq ho => ⟨fun hl => ?_, fun hl => ?_⟩⟩
  · exact (reports_answer s h ld log off len ev op dpa n c code bytes hc).served hq ho (by simp)
  · have served : (s.latch && !false) = false := by simp [hl]
    refine ⟨?_, ?_, ?_, ?_, fun x hx hn => ?_⟩
    · unfold exec execSetEventInterruptPolicy
      exact mbCmd_open ho served _ rfl (quiet_mbRet (quiet_setMb hq _ _) _ _ _)
    · unfold exec execSetAlertConfiguration
      exact mbCmd_open ho served _ rfl (quiet_mbRet (quiet_setMb hq _ _) _ _ _)
    · unfold exec execSetTimestamp
      exact mbCmd_open ho served _ rfl hq
    · unfold exec execClearEventRecords
      exact mbCmd_open ho served _ (eventsClear_all s.m h log hs) (quiet_mbRet (quiet_setMb hq _ _) _ _ _)
    · unfold exec execClearEventRecords
      exact mbCmd_open ho served _ (eventsClear_unknown hx hn) (quiet_mbRet hq _ _ _)
  · intro c hc
    simp only [List.mem_cons, List.not_mem_nil, or_false] at hc
    obtain rfl | rfl | rfl | rfl := hc <;> unfold exec
    · unfold execSetEventInterruptPolicy; exact mbCmd_latched hq ho hl _ _
    · unfold execSetAlertConfiguration; exact mbCmd_latched hq ho hl _ _
    · unfold execSetTimestamp; exact mbCmd_latched hq ho hl _ _
    · unfold execClearEventRecords; exact mbCmd_latched hq ho hl _ _

end Sys2Proof
end

section
/-! PROOFS. Doorbells over the Control BAR of a part in DROWSE (R398, R480, R527): the management link brings an access that wakes the
part and waits until it is ACTIVE, so that a doorbell is then neither taken nor counted as bad. -/

namespace Sys2Proof.Machine

/-- What the management link brings to a part that dozes wakes it and is held. -/
theorem receivedVia_dozing {s : State} (hd : s.m.dozing = true) (hu : s.m.mgmt.up = true) (i : Instr)
    (act : State → Host.Outcome State Fault Refusal) : receivedVia s none i act =
      s.op (fun m => { touch s.live m with mgmt := { (touch s.live m).mgmt with held := (touch s.live m).mgmt.held ++ [i] } }) := by
  simp [receivedVia, hd, hu]

/-- A part in DROWSE whose management link is up. -/
def drowsing : State := { m := { pwr := { st := .drowse }, mgmt := { up := true } } }

/-- DOORBELL_TAIL over the Control BAR comes by way of the management link. -/
theorem exec_doorbellTail_bar (n : Fin 256) (v : Word) (s : State) : exec (.doorbellTail none n v) s =
    receivedVia s none (.doorbellTail none n v) fun s => s.work (fun m => tailWrite s.live m n (fld v 15 0)) := by rfl

/-- The part in DROWSE holds a doorbell of its ring 0. -/
theorem drowsing_holds : ∃ t, exec (.doorbellTail none 0 0#32) drowsing = .next t ∧ t.m.mgmt.held = [.doorbellTail none 0 0#32] := by
  rw [exec_doorbellTail_bar, receivedVia_dozing (s := drowsing) rfl rfl]
  exact ⟨_, op_quiet _ _ ⟨rfl, rfl, rfl, rfl⟩, rfl⟩

end Sys2Proof.Machine

namespace Sys2Proof
open Machine

/-- Refutes O52: over the Control BAR the statement lets a doorbell act whatever the part's power state, and a part in DROWSE whose
management link is up holds it (R480): ring 0 of `drowsing`, which is not active, should count a bad doorbell and hold nothing. -/
theorem not_doorbellsAndRecords : ¬ Obligations.DoorbellsAndRecords := by
  rintro ⟨bells, -⟩
  obtain ⟨-, bad, -⟩ := bells 0 0#32 0 drowsing ⟨rfl, rfl, rfl, rfl⟩ rfl
  obtain ⟨t, held, hm⟩ := drowsing_holds
  have counted := bad (by decide)
  rw [held] at counted
  obtain rfl := Host.Outcome.next.inj counted
  exact absurd hm (by decide)

end Sys2Proof
end

section
/-! PROOFS. What recording a detection leaves alone (R44, R458-R461): everything but the fault log and its registers, the mailboxes' event
logs, and what is sent. A command whose detections are none of class A leaves its own effect, recorded so. -/

namespace Sys2Proof.Machine

/-- A mailbox without its event logs. -/
def Mbox.unlogged (b : Mbox) : Mbox := { b with logs := [], nextHandle := 0 }

/-- The machine without what recording a detection changes; the registers are apart. -/
def Mach.unlogged (m : Mach) : Mach := { m with flt := {}, msix := {}, outbox := [], mbox := [], regs := [], raised := [] }

/-- Registers outside the fault block and the monitor's. -/
abbrev Unlogged (o : Nat) : Prop := o < 0x20000 ∨ 0x40000 ≤ o

/-- `t` is `m` but for what recording detections changes. -/
structure Recorded (m t : Mach) : Prop where
  rest : t.unlogged = m.unlogged
  mbox : ∀ h, (t.mb h).unlogged = (m.mb h).unlogged
  reg : ∀ o, Unlogged o → t.reg o = m.reg o

namespace Recorded
variable {m t u : Mach}

theorem refl (m : Mach) : Recorded m m := ⟨rfl, fun _ => rfl, fun _ _ => rfl⟩

theorem trans (h : Recorded m t) (k : Recorded t u) : Recorded m u :=
  ⟨k.rest.trans h.rest, fun i => (k.mbox i).trans (h.mbox i), fun o ho => (k.reg o ho).trans (h.reg o ho)⟩

theorem pwr (h : Recorded m t) : t.pwr = m.pwr := (congrArg Mach.pwr h.rest :)
theorem straps (h : Recorded m t) : t.straps = m.straps := (congrArg Mach.straps h.rest :)
theorem heads (h : Recorded m t) : t.heads = m.heads := (congrArg Mach.heads h.rest :)
theorem core (h : Recorded m t) : t.core = m.core := (congrArg Mach.core h.rest :)
theorem home (h : Recorded m t) : t.home = m.home := (congrArg Mach.home h.rest :)
theorem mgmt (h : Recorded m t) : t.mgmt = m.mgmt := (congrArg Mach.mgmt h.rest :)
theorem pci (h : Recorded m t) : t.pci = m.pci := (congrArg Mach.pci h.rest :)
theorem mcs (h : Recorded m t) : t.mcs = m.mcs := (congrArg Mach.mcs h.rest :)
theorem scb (h : Recorded m t) : t.scb = m.scb := (congrArg Mach.scb h.rest :)

/-- The heads' records are as they were. -/
theorem head (h : Recorded m t) (k : Nat) : t.head k = m.head k := by
  unfold Mach.head
  rw [h.straps, h.heads]

/-- A bit of a register outside the fault block is as it was. -/
theorem rbit (h : Recorded m t) {o : Nat} (ho : Unlogged o) (b : Nat) : t.rbit o b = m.rbit o b := by
  unfold Mach.rbit
  rw [h.reg o ho]

theorem ite {c : Prop} [Decidable c] {a b : Mach} (ha : Recorded m a) (hb : Recorded m b) : Recorded m (if c then a else b) := by
  split
  · exact ha
  · exact hb

theorem foldl {α : Type} {f : Mach → α → Mach} (hf : ∀ m a, Recorded m (f m a)) (l : List α) (m : Mach) : Recorded m (l.foldl f m) := by
  induction l generalizing m with
  | nil => exact refl m
  | cons a l ih => exact (hf m a).trans (ih _)

end Recorded

theorem recorded_setReg (m : Mach) {o : Nat} (v : Word) (h : ¬ Unlogged o) : Recorded m (m.setReg o v) :=
  ⟨rfl, fun _ => rfl, fun _ hp => Mach.reg_setReg_ne m v (fun e => h (e ▸ hp))⟩

theorem recorded_flt (m : Mach) (f : Flt) : Recorded m { m with flt := f } := ⟨rfl, fun _ => rfl, fun _ _ => rfl⟩

theorem recorded_irq (m : Mach) (f v : Nat) : Recorded m (m.irq f v) := by
  unfold Mach.irq
  split
  · split <;> exact ⟨rfl, fun _ => rfl, fun _ _ => rfl⟩
  · exact ⟨rfl, fun _ => rfl, fun _ _ => rfl⟩

/-- A mailbox that changes in its logs only. -/
theorem recorded_setMb (m : Mach) (h : Nat) {b : Mbox} (hb : b.unlogged = (m.mb h).unlogged) : Recorded m (m.setMb h b) := by
  refine ⟨rfl, fun k => ?_, fun _ _ => rfl⟩
  unfold Mach.mb Mach.setMb Tbl.get
  by_cases hk : k = h
  · rw [hk, Tbl.find?_insert_self]
    exact hb
  · rw [Tbl.find?_insert_ne _ _ hk]

theorem recorded_cxlEvent (m : Mach) (h log : Nat) (bytes : List Byte) : Recorded m (m.cxlEvent h log bytes) := by
  have put := recorded_setMb m h
    (b := { m.mb h with logs := (m.mb h).logs ++ [(log, (m.mb h).nextHandle, bytes)], nextHandle := (m.mb h).nextHandle + 1 }) rfl
  exact .ite (put.trans (recorded_irq _ _ _)) put

theorem recorded_newRecord (L : Image) (m : Mach) (k cls : Nat) (o : Occ) (inj real : Bool) : Recorded m (newRecord L m k cls o inj real) := by
  have evt : ∀ t : Mach, Recorded t (t.evb oFltEvt cls) := fun t => recorded_setReg t _ (by decide)
  have irq : ∀ t : Mach, Recorded t (if t.rbit oFltIrq (8 + cls) then t.irq mgmtFn (t.rfld oFltIrq 7 0) else t) :=
    fun t => .ite (recorded_irq t _ _) (.refl t)
  have events : ∀ (l : List Nat) (b : List Byte) (t : Mach), Recorded t (l.foldl (fun m h => m.cxlEvent h (cxlLog cls) b) t) :=
    fun l b t => .foldl (fun t h => recorded_cxlEvent t h _ b) l t
  exact (((recorded_flt m _).trans (evt _)).trans (irq _)).trans (events _ _ _)

theorem recorded_takeEntry {m t : Mach} {k : Nat} (h : m.takeEntry = some (k, t)) : Recorded m t := by
  unfold Mach.takeEntry at h
  split at h
  · cases h
    exact .refl m
  · split at h
    · cases h
      exact .ite (.refl m) ((recorded_setReg m _ (by decide)).trans (recorded_setReg _ _ (by decide)))
    · cases h

/-- The log's action on an occurrence. -/
theorem recorded_record (L : Image) (m : Mach) (o : Occ) (inj real : Bool) : Recorded m (record L m o inj real) := by
  unfold record
  split
  · exact .refl m
  · next cls hc =>
    have count : Recorded m (m.bump (oFltCnt o.src)) :=
      recorded_setReg m _ (by have := srcClass_lt hc; unfold Unlogged oFltCnt; omega)
    dsimp only
    split
    · split
      · exact count.trans (recorded_flt _ _)
      · exact count
    · split
      · exact count
      · split
        · next ht => exact (count.trans (recorded_takeEntry ht)).trans (recorded_newRecord _ _ _ _ _ _ _)
        · exact count

/-! ### Commands whose detections are none of class A -/

/-- Nothing waits to be settled but detections, none of them of class A. -/
structure Settling (m : Mach) : Prop where
  mild : m.Mild
  struck : m.scb.struck = []
  undo : m.pwr.undo = false
  news : m.mcs.subs.all (fun p => p.2.news.writes.isEmpty && p.2.news.fwd.isEmpty) = true

/-- Where nothing waits at all. -/
theorem settling_of_quiet {s : State} (hq : Quiet s) : Settling s.m := by
  obtain ⟨raised, struck, undo, news⟩ := hq
  exact ⟨fun o ho => absurd ho (by simp [raised]), struck, undo, news⟩

theorem Settling.setReg {m : Mach} (h : Settling m) (o : Nat) (v : Word) : Settling (m.setReg o v) := ⟨h.mild, h.struck, h.undo, h.news⟩

theorem Settling.setHead {m : Mach} (h : Settling m) (k : Nat) (x : Head) : Settling (m.setHead k x) := ⟨h.mild, h.struck, h.undo, h.news⟩

/-- A detection that is not of class A joins those that wait. -/
theorem Settling.raise {m : Mach} (h : Settling m) {src : Nat} (unit : Nat) (hs : srcClass src ≠ some 0) : Settling (m.raise src unit) :=
  ⟨(marked_raise m unit hs).mild h.mild, h.struck, h.undo, h.news⟩

/-- What is settled of such a machine is recorded. -/
theorem settle_recorded {s : State} (h : Settling s.m) :
    Recorded s.m (settle s).m ∧ (settle s).live = s.live ∧ (settle s).latch = s.latch := by
  obtain ⟨mild, struck, undo, news⟩ := h
  rw [settle_mild mild struck undo news]
  have clear : Recorded s.m { s.m with raised := [] } := ⟨rfl, fun _ => rfl, fun _ _ => rfl⟩
  exact ⟨clear.trans (.foldl (fun m o => recorded_record s.live m o false true) _ _), rfl, rfl⟩

/-- A command whose detections are none of class A leaves its effect, recorded. -/
theorem op_recorded {s : State} {f : Mach → Mach} (h : Settling (f s.m)) :
    ∃ t, s.op f = .next t ∧ Recorded (f s.m) t.m ∧ t.live = s.live ∧ t.latch = s.latch :=
  ⟨_, rfl, settle_recorded (s := { s with m := f s.m }) h⟩

end Sys2Proof.Machine
end

section
/-! PROOFS. A head's link (R41, R54-R62, R65): it trains, is served, falls into Recovery and returns, and becomes insecure. Each command is
told by its effect on the head's record and on the head's registers; what it detects is of class B and leaves the rest alone. -/

namespace Sys2Proof.Machine

/-! ### A head that is present -/

/-- The head's strap names it present. -/
abbrev Mach.hasHead (m : Mach) (h : Nat) : Prop := (m.head h).st ≠ .absent

theorem Mach.hasHead_of_st {m : Mach} {h : Nat} {st : HeadSt} (hs : (m.head h).st = st) (hne : st ≠ .absent) : m.hasHead h :=
  fun e => hne (hs ▸ e)

/-- A self-test that stops touches the test unit alone. -/
theorem sstStop_eq (m : Mach) (g : Nat) : ∃ tst, m.sstStop g = { m with tst } := by
  unfold Mach.sstStop
  split
  · exact ⟨_, rfl⟩
  · exact ⟨m.tst, rfl⟩

/-- A self-test that does not run is not stopped. -/
theorem sstStop_idle {m : Mach} (h : m.tst.st ≠ 2) (g : Nat) : m.sstStop g = m := if_neg fun hs => h hs.1

/-! ### Training (R55) -/

/-- A head that enters TRAINING. -/
theorem train_leaves {s : State} {m : Mach} {h : Nat} (hp : m.hasHead h) (hq : Quiet { s with m }) :
    (m.train h).head h = { m.head h with st := .training } ∧ (m.train h).reg (oHeadErr h) = 0#32 ∧
      (∀ o, o ≠ oHeadErr h → (m.train h).reg o = m.reg o) ∧ Quiet { s with m := m.train h } := by
  obtain ⟨tst, e⟩ := sstStop_eq ((m.setHead h { m.head h with st := .training }).setReg (oHeadErr h) 0#32) (if h < 4 then 1 else 2)
  have e : m.train h = _ := e
  rw [e]
  exact ⟨head_setHead_self hp _, Mach.reg_setReg_self (m.setHead h _) _ _, fun o ho => Mach.reg_setReg_ne (m.setHead h _) _ ho, hq⟩

/-- PERST_N of an enabled head that is DOWN goes high: it trains. -/
theorem perstOff_trains {m : Mach} {h : Nat} (hs : (m.head h).st = .down) (he : m.rbit (oHeadCtl h) 0 = true) :
    perstOff m h = (m.setHead h { m.head h with perst := false }).train h := by
  have present : (m.head h).st ≠ .absent := by rw [hs]; decide
  exact (if_neg present).trans (if_pos ⟨.inl hs, he⟩)

/-- A disabled head whose PERST_N is high is enabled: it trains. -/
theorem enable_trains {m : Mach} {h : Nat} (hs : (m.head h).st = .disabled) (hp : (m.head h).perst = false) :
    enable m h = (m.setReg (oHeadCtl h) (m.reg (oHeadCtl h) ||| 1#32)).train h := by
  have present : (m.head h).st ≠ .absent := by rw [hs]; decide
  exact (if_neg present).trans (if_pos ⟨.inl hs, by simp [hp]⟩)

/-! ### Service (R41, R55, R58) -/

/-- What a head that is served is told by: whether memory is ready, and its rate. -/
def Mach.servable (m : Mach) (h : Nat) : Bool := m.pwr.memReady && decide (2 ≤ (m.head h).speed)

/-- A head that is served. -/
theorem service_head {m : Mach} {h : Nat} (hp : m.hasHead h) : ∃ logged, (m.service h).head h =
    { m.head h with st := if m.servable h then .active else .ioOnly, memActive := m.servable h, refusedLogged := logged } :=
  ⟨_, head_setHead_self hp _⟩

theorem quiet_service {s : State} {m : Mach} (hq : Quiet { s with m }) (h : Nat) : Quiet { s with m := m.service h } := hq

theorem service_head_ne (m : Mach) {h k : Nat} (hk : k ≠ h) : (m.service h).head k = m.head k := head_setHead_ne m hk _

/-- The heads that wait for memory are served as it becomes ready, and no other changes. -/
theorem serviceAll_leaves (l : List Nat) (m : Mach) (k : Nat) (hl : l.Nodup) :
    let t := l.foldl (fun m h => if (m.head h).st = .ioOnly then m.service h else m) m
    ({ t with heads := [] } : Mach) = { m with heads := [] } ∧ (k ∉ l → t.head k = m.head k) ∧
      (k ∈ l → (m.head k).st = .ioOnly → m.servable k = true → (t.head k).st = .active ∧ (t.head k).memActive = true) := by
  induction l generalizing m with
  | nil => exact ⟨rfl, fun _ => rfl, fun h => absurd h List.not_mem_nil⟩
  | cons a l ih =>
    obtain ⟨ha, hl⟩ := List.nodup_cons.mp hl
    obtain ⟨rest, outside, inside⟩ := ih (if (m.head a).st = .ioOnly then m.service a else m) hl
    have first : ({ (if (m.head a).st = .ioOnly then m.service a else m) with heads := [] } : Mach) = { m with heads := [] } := by
      split <;> rfl
    have other : ∀ j, j ≠ a → (if (m.head a).st = .ioOnly then m.service a else m).head j = m.head j := by
      intro j hj
      split
      · exact service_head_ne m hj
      · rfl
    have pwr : (if (m.head a).st = .ioOnly then m.service a else m).pwr = m.pwr := (congrArg Mach.pwr first :)
    refine ⟨rest.trans first, fun hk => ?_, fun hk hst hsv => ?_⟩
    · obtain ⟨hka, hkl⟩ := not_or.mp (mt List.mem_cons.mpr hk)
      exact (outside hkl).trans (other k hka)
    · by_cases hka : k = a
      · subst hka
        obtain ⟨logged, e⟩ := service_head (Mach.hasHead_of_st hst (by decide))
        rw [List.foldl_cons, outside ha, if_pos hst, e, hsv]
        exact ⟨rfl, rfl⟩
      · have hkl := (List.mem_cons.mp hk).resolve_left hka
        refine inside hkl (by rw [other k hka]; exact hst) ?_
        unfold Mach.servable
        rw [other k hka, pwr]
        exact hsv

/-- `t` is `m` with memory ready: the heads that wait for it at 8 GT/s or more are ACTIVE, and only heads' records change besides. -/
structure Readied (m t : Mach) : Prop where
  rest : { t with heads := [] } = { m with heads := [], pwr := { m.pwr with memReady := true } }
  served : ∀ k, k < 8 → (m.head k).st = .ioOnly → 2 ≤ (m.head k).speed → (t.head k).st = .active ∧ (t.head k).memActive = true

theorem readied_memReady (m : Mach) : Readied m (memReady m) := by
  unfold memReady
  have heads (k : Nat) := serviceAll_leaves (List.range 8) { m with pwr := { m.pwr with memReady := true } } k List.nodup_range
  refine ⟨(heads 0).1, fun k hk hst hsp => ?_⟩
  obtain ⟨-, -, served⟩ := heads k
  exact served (List.mem_range.mpr hk) hst (decide_eq_true hsp)

theorem Readied.ready {m t : Mach} (h : Readied m t) : t.pwr.memReady = true := (congrArg (fun m : Mach => m.pwr.memReady) h.rest :)

/-- Memory that becomes ready leaves nothing to settle. -/
theorem Readied.quiet {s : State} {m t : Mach} (h : Readied m t) (hq : Quiet { s with m }) : Quiet { s with m := t } := by
  obtain ⟨raised, struck, undo, news⟩ := hq
  have scb : t.scb = m.scb := (congrArg Mach.scb h.rest :)
  have mcs : t.mcs = m.mcs := (congrArg Mach.mcs h.rest :)
  have pwr : t.pwr = { m.pwr with memReady := true } := (congrArg Mach.pwr h.rest :)
  exact ⟨(congrArg Mach.raised h.rest :).trans raised, by rw [scb, struck], by rw [pwr]; exact undo, by rw [mcs]; exact news⟩

/-- MEMORY_READY when nothing stands against it. -/
theorem memoryReady_ready {L : Image} {m : Mach} (hc : m.canReady = true) (hm : m.pwr.memReady = false) (hw : m.pwr.warm = none)
    (hd : m.pwr.inDeep = false) : memoryReady L false m = memReady (floorUpdate L m) := if_pos (by simp [hc, hm, hw, hd])

/-! ### A training head reaches L0 (R42, R43, R55) -/

/-- A register of a head's event block is not the home's register of unresponsive heads. -/
theorem oHeadEvt_ne_unresp (h : Nat) : oUnresp ≠ oHeadEvt h := by
  simp only [oUnresp, oHeadEvt, oHead]
  split <;> omega

/-- A cleared bit of the unresponsive heads. -/
theorem unresp_cleared (m : Mach) (h : Nat) : (m.setReg oUnresp (m.reg oUnresp &&& ~~~ put 1 h)).unresp h = false := by
  rw [Mach.unresp, Mach.reg_setReg_self, BitVec.getLsbD_and, BitVec.getLsbD_not]
  by_cases hh : h < 32
  · simp [put, BitVec.getLsbD_ofNat, hh]
  · simp [hh]

/-- What a head that reaches L0 takes from its link, whose host grants `grant` back-invalidation credits, or does without. -/
structure LinkedAs (m : Mach) (h width speed : Nat) (mld : Bool) (grant : Option Nat) (ide : Bool) (x : Head) : Prop where
  width : x.width = min width (m.straps.lanes h)
  speed : x.speed = speed
  mld : x.mld = mld
  bi : x.bi = grant.isSome
  credits : x.biCr = grant.getD 0
  ide : x.ideOn = ide

/-- Outside the safe state a training head that reaches L0, with no walk of the snoop filter left, is served. -/
theorem linkUp_serves {L : Image} {m : Mach} {h width speed : Nat} {mld : Bool} {bi : Option Nat} {ide : Bool} (hm : Settling m)
    (ht : (m.head h).st = .training) (hw : (m.head h).walk = false) :
    ∃ u, linkUp L false m h width speed mld bi ide = u.service h ∧ LinkedAs m h width speed mld bi ide (u.head h) ∧ u.hasHead h ∧
      u.pwr = m.pwr ∧ u.unresp h = false ∧ Settling u := by
  have present : m.hasHead h := Mach.hasHead_of_st ht (by decide)
  have walked : dropWalk L m h = m := if_pos (by simp [hw])
  unfold linkUp
  rw [if_neg (by simp [ht]), walked]
  dsimp only
  rw [if_neg (by decide)]
  generalize hx : ({ m.head h with
    width := min width (m.straps.lanes h), full := min width (m.straps.lanes h), speed, mld, bi := bi.isSome, biCr := bi.getD 0,
    biLogged := false, ideOn := ide, skid := ide && m.rbit (oHeadCtl h) 2, viral := (m.head h).viral || false } : Head) = x
  have linked : LinkedAs m h width speed mld bi ide x := by subst hx; exact ⟨rfl, rfl, rfl, rfl, rfl, rfl⟩
  have st : x.st = .training := by subst hx; exact ht
  have head : (m.setHead h x).head h = x := head_setHead_self present x
  have cleared := unresp_cleared (m.setHead h x) h
  have settling := (hm.setHead h x).setReg oUnresp ((m.setHead h x).reg oUnresp &&& ~~~ put 1 h)
  refine ⟨_, rfl, ?_⟩
  split
  · refine ⟨?_, ?_, rfl, ?_, ?_⟩
    · exact head.symm ▸ linked
    · exact Mach.hasHead_of_st (m := m.setHead h x) ((congrArg Head.st head).trans st) (by decide)
    · exact (congrArg (fun w : Word => w.getLsbD h) (Mach.reg_setReg_ne _ _ (oHeadEvt_ne_unresp h))).trans cleared
    · exact (settling.setReg _ _).raise (src := 9) h (by decide)
  · refine ⟨?_, ?_, rfl, cleared, settling⟩
    · exact head.symm ▸ linked
    · exact Mach.hasHead_of_st (m := m.setHead h x) ((congrArg Head.st head).trans st) (by decide)

/-! ### Recovery (R55, R61, R62) -/

/-- Two counts side by side in a word. -/
theorem fld_pair {a b : Nat} (ha : a < 2 ^ 16) (hb : b < 2 ^ 16) :
    fld (put a 0 ||| put b 16) 15 0 = a ∧ fld (put a 0 ||| put b 16) 31 16 = b := by
  have e : (put a 0 ||| put b 16).toNat = b <<< 16 + a := by
    rw [BitVec.toNat_or, Nat.shiftLeft_add_eq_or_of_lt ha, Nat.or_comm]
    simp only [put, BitVec.toNat_ofNat, Nat.shiftLeft_eq]
    rw [Nat.mod_eq_of_lt (by omega), Nat.mod_eq_of_lt (by omega)]
    simp
  unfold fld
  rw [e, Nat.shiftLeft_eq, Nat.shiftRight_eq_div_pow, Nat.shiftRight_eq_div_pow]
  omega

theorem sat16_lt (a n : Nat) : sat16 a n < 2 ^ 16 := by
  unfold sat16
  omega

/-- What the part asked for and withdraws leaves the rest of the head's record alone. -/
theorem withdraw_leaves (x : Head) : x.withdraw.st = x.st ∧ x.withdraw.l0pOwn = false ∧ x.withdraw.rtOwn = false := by
  unfold Head.withdraw
  cases h1 : x.l0pOwn <;> cases h2 : x.rtOwn <;> simp [h1, h2]

/-- The head's record as it enters Recovery. -/
def Head.recovering (x : Head) (own : Bool) : Head := if own then { x with rtOwn := true, rtLost := false } else x.withdraw

/-- The record of a head in Recovery. -/
def Head.inRecovery (x : Head) (own : Bool) : Head := { x.recovering own with st := .recovery, prev := x.st }

/-- The machine with a head in Recovery, its error counts raised. -/
def Mach.inRecovery (m : Mach) (h replays fec : Nat) (own : Bool) : Mach :=
  (((m.setHead h ((m.head h).inRecovery own)).evb (oHeadEvt h) 1).holdSnoops h true).setReg (oHeadErr h)
    (put (sat16 (fld (m.reg (oHeadErr h)) 15 0) replays) 0 ||| put (sat16 (fld (m.reg (oHeadErr h)) 31 16) fec) 16)

/-- A head that serves enters Recovery, unless it waits to ask again for a retrain of its own. -/
theorem recoveryIn_enters {m : Mach} {h replays fec : Nat} {own : Bool} (hs : (m.head h).st = .active ∨ (m.head h).st = .ioOnly)
    (ho : (own && (m.head h).rtHeld m.core) = false) :
    recoveryIn m h replays fec own = (m.inRecovery h replays fec own).pmuEvent 0x005 h replays := by
  have prev : ((m.head h).recovering own).st = (m.head h).st := by
    unfold Head.recovering
    split
    · rfl
    · exact (withdraw_leaves _).1
  unfold recoveryIn
  rw [if_pos hs.symm, if_neg (by simp [ho])]
  change (Mach.setReg (Mach.holdSnoops (Mach.evb (m.setHead h { (m.head h).recovering own with
    st := .recovery, prev := ((m.head h).recovering own).st }) _ _) _ _) _ _).pmuEvent _ _ _ = _
  rw [prev]
  rfl

/-- What that leaves. -/
theorem inRecovery_leaves {s : State} {h replays fec : Nat} {own : Bool} (hq : Quiet s) (hp : s.m.hasHead h) :
    let u := (s.m.inRecovery h replays fec own).pmuEvent 0x005 h replays
    u.head h = (s.m.head h).inRecovery own ∧
      u.reg (oHeadErr h) = (put (sat16 (fld (s.m.reg (oHeadErr h)) 15 0) replays) 0 |||
        put (sat16 (fld (s.m.reg (oHeadErr h)) 31 16) fec) 16) ∧ Quiet { s with m := u } := by
  have count := counted_pmuEvent (s.m.inRecovery h replays fec own) 0x005 h replays
  have off : Uncounted (oHeadErr h) := by
    unfold Uncounted oHeadErr oHead
    split <;> omega
  exact ⟨(count.head h).trans (head_setHead_self hp _), (count.reg _ off).trans (Mach.reg_setReg_self _ _ _),
    quiet_counted (s := { s with m := s.m.inRecovery h replays fec own }) hq count⟩

/-! ### Insecure and viral links, keys, widths (R41, R55, R61, R65) -/

/-- The machine after an event `bit` of a head that is a detection of source `src` too, with the head's new record. -/
def Mach.headFault (m : Mach) (h : Nat) (x : Head) (bit src : Nat) : Mach := ((m.setHead h x).evb (oHeadEvt h) bit).raise src h

/-- The head's record and its event are there once the command has settled. -/
theorem headFault_leaves {s : State} {f : Mach → Mach} {h bit src : Nat} {x : Head} (hq : Quiet s) (hp : s.m.hasHead h) (hb : bit < 32)
    (hs : srcClass src ≠ some 0) (e : f s.m = s.m.headFault h x bit src) :
    ∃ t, s.op f = .next t ∧ t.m.head h = x ∧ t.m.rbit (oHeadEvt h) bit = true := by
  have settling : Settling (s.m.headFault h x bit src) := (((settling_of_quiet hq).setHead h x).setReg _ _).raise h hs
  obtain ⟨t, run, left, -, -⟩ := op_recorded (s := s) (f := f) (e ▸ settling)
  rw [e] at left
  have off : Unlogged (oHeadEvt h) := by
    unfold Unlogged oHeadEvt oHead
    split <;> omega
  refine ⟨t, run, (left.head h).trans (head_setHead_self hp x), (left.rbit off bit).trans ?_⟩
  exact rbit_evb_self (s.m.setHead h x) (oHeadEvt h) hb

/-- A width change of a head at 64 GT/s completes. -/
theorem l0pDone_changes {m : Mach} {h w : Nat} (hs : (m.head h).st = .active ∨ (m.head h).st = .ioOnly) (h5 : (m.head h).speed = 5)
    (h2 : 2 ≤ w) (hf : w ≤ (m.head h).full) : l0pDone m h w =
      (m.setHead h (if w = (m.head h).l0pAsk then { m.head h with width := w, l0pOwn := false }
        else { (m.head h).withdraw.followed m.core with width := w })).evb (oHeadEvt h) 2 := by
  unfold l0pDone
  rw [if_pos ⟨hs, h5, h2, hf⟩]
  split <;> rfl

/-- An idle head at 64 GT/s asks for half its width, unless it waits to ask again for that. -/
theorem l0pRequest_asks {m : Mach} {h : Nat} (hs : (m.head h).st = .active ∨ (m.head h).st = .ioOnly) (h5 : (m.head h).speed = 5)
    (he : m.rbit (oHeadCtl h) 1 = true) (ho : (m.head h).l0pOwn = false) (hw : 4 ≤ (m.head h).width) (hi : (m.head h).Idle) :
    l0pRequest m h = l0pAskFor m h ((m.head h).width / 2) := by
  obtain ⟨rt, table, bulk⟩ := hi
  have half : halfWidth (m.head h).width = (m.head h).width / 2 := if_pos hw
  unfold l0pRequest
  rw [if_pos (by obtain hs | hs := hs <;> simp [hs, h5, he, ho])]
  simp only [rt, table, bulk, List.isEmpty_nil, Bool.and_self, if_true]
  rw [half, if_pos (by omega)]

/-- New keys, and the stream enabled again: the head is served. -/
theorem reenable_serves {m : Mach} {h : Nat} (hs : (m.head h).st = .insecure) (hk : (m.head h).keysNew = true) :
    reenable m h = (m.setHead h { m.head h with keysNew := false, ideOn := true }).service h := if_pos ⟨hs, hk⟩

/-! ### What Recovery holds, and its end (R54, R62) -/

/-- What a head sends in Recovery to an ACTIVE part, other than a request to its memory, is held. -/
theorem received_recovering {s : State} {h : Nat} {i : Instr} (hs : (s.m.head h).st = .recovery) (hd : s.m.dozing = false)
    (ht : s.m.tst.scanEn = false) (hk : hdmKind i = none) (hq : Quiet s) (act : State → Host.Outcome State Fault Refusal) :
    received s h i act = .next { s with m := s.m.setHead h { s.m.head h with held := (s.m.head h).held ++ [i] } } := by
  have holds : s.m.holdsFrom h = true := by simp [Mach.holdsFrom, hs]
  rw [received, if_pos holds]
  refine op_eq ?_ (quiet_setHead hq _ _)
  simp [hd, holdBack, ht, hk]

/-- What waits on for the partner's change leaves the rest of the head's record alone. -/
theorem followed_logged (x : Head) (c : Nat) : (x.followed c).refusedLogged = x.refusedLogged := by
  unfold Head.followed
  dsimp only
  split <;> split <;> rfl

/-- The machine with a head that leaves Recovery for ACTIVE. -/
def Mach.recovered (m : Mach) (h w : Nat) : Mach :=
  (m.setHead h { (m.head h).followed m.core with st := .active, width := min w (m.straps.lanes h), held := [], rtOwn := false }).holdSnoops h false

/-- A head that was ACTIVE is ACTIVE again. -/
theorem recoveryOut_active {m : Mach} {h : Nat} (hp : (m.head h).prev = .active) (latch : Bool) (w : Nat) :
    recoveryOut latch m h w = m.recovered h w := by
  unfold recoveryOut
  rw [if_neg (by simp [hp]), hp]
  have logged : ((m.head h).refusedLogged && HeadSt.active != .ioOnly) = ((m.head h).followed m.core).refusedLogged := by
    rw [followed_logged]
    simp
  unfold Mach.recovered
  rw [logged]

/-- The end of Recovery: what was held is processed, and a CORE cycle serves it. -/
theorem exec_recoveryExit {s : State} {h : Fin 8} {w : Nat} (hq : Quiet s) (hs : (s.m.head h).st = .recovery)
    (hp : (s.m.head h).prev = .active) {s' : State}
    (hr : s' = (s.m.head h).held.foldl replayOne { s with m := s.m.recovered h w }) :
    exec (.ltssmRecoveryExit h w false) s = .next (settle { s' with m := if s'.latch then s'.m else coreCycle s'.live s'.m }) := by
  have run : exec (.ltssmRecoveryExit h w false) s = .next (if (s.m.head h).st = .recovery then recoveryExit s h w false else s) := by rfl
  have quiet : settle { s with m := recoveryOut s.latch s.m h w } = { s with m := s.m.recovered h w } := by
    rw [recoveryOut_active hp]
    exact settle_quiet _ hq
  have replayed : recoveryExit s h w false = settle { s' with m := recoveryEnd s'.live s'.latch s'.m h false } := by
    unfold recoveryExit
    dsimp only
    rw [quiet, ← hr]
  rw [run, if_pos hs, replayed]
  simp [recoveryEnd]

/-! ### A CORE cycle at a calm part -/

theorem PanicStep.core {m t : Mach} (h : PanicStep m t) : t.core = m.core := (congrArg Mach.core h.rest :)

/-- A calm part's CORE cycle passes: time goes on, and but for the heads' panic levels nothing else that a link sees changes. -/
theorem coreCycle_calm {m : Mach} (hc : Calm m) (L : Image) :
    (coreCycle L m).core = m.core + 1 ∧ (coreCycle L m).home = m.home ∧ (∀ k, ∃ p, (coreCycle L m).head k = { m.head k with panic := p }) ∧
      ∀ s : State, Quiet { s with m } → Quiet { s with m := coreCycle L m } := by
  obtain ⟨intq, fab, trk, fills, -, -, heads⟩ := hc
  obtain ⟨counts, home, -⟩ := cycleCounts_step m
  have idle : ∀ k < 8, ((cycleCounts m).head k).Idle := fun k hk => by
    obtain ⟨rt, table, bulk, -⟩ := heads k hk
    rw [counts.head]
    exact ⟨rt, table, bulk⟩
  have ports : (cycleCounts m).PortsIdle := fun k hk => by
    obtain ⟨-, -, -, req, rwd, post⟩ := heads k hk
    rw [counts.head]
    exact ⟨req, rwd, post⟩
  have nobody : (cycleCounts m).waitingMasters = [] := waitingMasters_nil fun j _ => mQueue_nil (by rw [home]; exact intq) idle j
  have letsIn : (if (cycleCounts m).admits then admitCycle L 54 16 [] (cycleCounts m) else cycleCounts m) = cycleCounts m := by
    rw [admitCycle_nil nobody, ite_self]
  have slices : sliceCycle L (cycleCounts m) = cycleCounts m := by
    rw [sliceCycle_eq, acceptAll_nil (by rw [home]; exact fab), pumpAll_idle (by rw [home]; exact trk) (by rw [home]; exact fills)]
  have levels := portsCycle_idle ports L
  rw [coreCycle_eq, letsIn, slices]
  refine ⟨?_, levels.home.trans home, fun k => ?_, fun s hq => levels.quiet (counts.quiet hq)⟩
  · rw [levels.core, counts.core]
    rfl
  · obtain ⟨p, e⟩ := levels.head k
    exact ⟨p, by rw [e, counts.head]; rfl⟩

/-! ### The commands -/

theorem exec_perstDeassert (h : Fin 8) (s : State) : exec (.perstDeassert h) s = s.op (fun m => perstOff m h) := by rfl

theorem exec_headEnable (h : Fin 8) (s : State) : exec (.headEnable h) s = s.op (fun m => enable m h) := by rfl

theorem exec_linkL0Reached (h : Fin 8) (w : Nat) (speed : Fin 6) (mld : Bool) (bi : Option Nat) (ide : Bool) (s : State) :
    exec (.linkL0Reached h w speed mld bi ide) s = s.op (fun m => linkUp s.live s.latch m h w speed mld bi ide) := by rfl

theorem exec_memoryReady (s : State) : exec .memoryReady s = s.op (memoryReady s.live s.latch) := by rfl

theorem exec_ltssmRecoveryEnter (h : Fin 8) (replays fec : Nat) (own : Bool) (s : State) :
    exec (.ltssmRecoveryEnter h replays fec own) s = s.op (fun m => recoveryIn m h replays fec own) := by rfl

theorem exec_viralRx (h : Fin 8) (s : State) :
    exec (.viralRx h) s = received s h (.viralRx h) fun s => s.op (fun m => viralIn m h) := by rfl

theorem exec_l0pChangeDone (h : Fin 8) (w : Nat) (s : State) : exec (.l0pChangeDone h w) s = s.op (fun m => l0pDone m h w) := by rfl

theorem exec_l0pIdleRequest (h : Fin 8) (s : State) : exec (.l0pIdleRequest h) s = s.op (fun m => l0pRequest m h) := by rfl

theorem exec_ideStreamReenable (h : Fin 8) (s : State) : exec (.ideStreamReenable h) s = s.op (fun m => reenable m h) := by rfl

theorem oHeadCtl_ne_err (h : Nat) : oHeadCtl h ≠ oHeadErr h := by
  unfold oHeadCtl oHeadErr
  omega

/-! ### A calm part's head leaves Recovery -/

section
variable {m : Mach} {h : Nat} (hp : m.hasHead h) (hc : Calm m) (w : Nat)

include hp in
theorem recovered_head : (m.recovered h w).head h =
    { (m.head h).followed m.core with st := .active, width := min w (m.straps.lanes h), held := [], rtOwn := false } :=
  head_setHead_self hp _

/-- What waits on for the partner's change leaves the head's queues alone. -/
theorem followed_queues (x : Head) (c : Nat) : (x.followed c).qRt = x.qRt ∧ (x.followed c).qTable = x.qTable ∧
    (x.followed c).qBulk = x.qBulk ∧ (x.followed c).rxReq = x.rxReq ∧ (x.followed c).rxRwd = x.rxRwd ∧ (x.followed c).post = x.post := by
  unfold Head.followed
  dsimp only
  split <;> split <;> exact ⟨rfl, rfl, rfl, rfl, rfl, rfl⟩

include hc

theorem recovered_home (h w : Nat) : (m.recovered h w).home = m.home := by
  obtain ⟨-, -, -, -, snoops, -⟩ := hc
  have held : (m.recovered h w).home = { m.home with snoops := m.home.snoops.map (fun s => if s.head == h then { s with held := false } else s) } := rfl
  rw [held, snoops]
  exact congrArg (fun l => { m.home with snoops := l }) snoops.symm

include hp

theorem recovered_calm : Calm (m.recovered h w) := by
  obtain ⟨intq, fab, trk, fills, snoops, evicting, heads⟩ := hc
  refine ⟨intq, fab, trk, fills, by simp [Mach.recovered, Mach.holdSnoops, snoops], evicting, fun k hk => ?_⟩
  by_cases hkh : k = h
  · subst hkh
    obtain ⟨rt, table, bulk, req, rwd, post⟩ := followed_queues (m.head k) m.core
    rw [recovered_head hp w]
    simpa only [rt, table, bulk, req, rwd, post] using heads k hk
  · have other : (m.recovered h w).head k = m.head k := head_setHead_ne m hkh _
    rw [other]
    exact heads k hk

end

end Sys2Proof.Machine

namespace Sys2Proof
open Machine

/-- Settles O30: each command by its lemma above, what it detects being recorded beside it. -/
theorem headLinksTrainServeAndFail : Obligations.HeadLinksTrainServeAndFail := by
  refine ⟨fun h w speed mld ide bi s hq hp => ⟨fun hs he => ?_, fun hs hperst => ?_, fun hs hl hw => ?_, fun hc hl hm hw hd => ?_⟩,
    fun h w replays fec s hq => ⟨fun hs => ⟨fun own ho => ?_, fun hlost hnext => ?_, ?_, fun hd => ?_, fun h5 h2 hf => ?_,
      fun h5 he ho h4 rt table bulk => ?_⟩, fun hs hk => ?_, fun hs hd ht => ?_, fun hs hprev hl => ⟨fun s' e => ?_, fun hc held => ?_⟩⟩⟩
  · -- PERST_DEASSERT
    have present : (s.m.setHead h { s.m.head h with perst := false }).hasHead h := by
      rw [Mach.hasHead, head_setHead_self hp]
      exact hp
    obtain ⟨head, err, -, quiet⟩ := train_leaves present hq
    rw [head_setHead_self hp] at head
    rw [exec_perstDeassert, op_eq (perstOff_trains hs he) quiet]
    exact ⟨_, rfl, by rw [head], by rw [head], err, rfl, rfl⟩
  · -- HEAD_ENABLE
    obtain ⟨head, -, others, quiet⟩ := train_leaves (s := s) (m := s.m.setReg (oHeadCtl h) (s.m.reg (oHeadCtl h) ||| 1#32)) hp hq
    rw [exec_headEnable, op_eq (enable_trains hs hperst) quiet]
    refine ⟨_, rfl, by rw [head], ?_, rfl⟩
    rw [Mach.rbit, others _ (oHeadCtl_ne_err h), Mach.reg_setReg_self]
    simp
  · -- LINK_L0_REACHED
    obtain ⟨u, e, linked, present, pwr, answers, settling⟩ := linkUp_serves (L := s.live) (width := w) (speed := speed) (mld := mld)
      (bi := bi) (ide := ide) (settling_of_quiet hq) hs hw
    obtain ⟨logged, head⟩ := service_head present
    rw [exec_linkL0Reached, hl]
    obtain ⟨t, run, left, -, -⟩ := op_recorded (s := s) (f := fun m => linkUp s.live false m h w speed mld bi ide)
      (by rw [e]; exact settling.setHead h _)
    have left : Recorded (u.service h) t.m := e ▸ left
    have ready : u.servable h = (s.m.pwr.memReady && decide (2 ≤ speed.val)) := by rw [Mach.servable, pwr, linked.speed]
    refine ⟨t, run, ?_⟩
    rw [left.head, head, ready]
    refine ⟨linked.width, linked.bi, linked.credits, linked.mld, linked.ide, ?_, ?_, rfl⟩
    · rw [Mach.unresp, left.reg _ (by decide)]
      exact answers
    · simp
  · -- MEMORY_READY
    have readied := readied_memReady (floorUpdate s.live s.m)
    rw [exec_memoryReady, hl, op_eq (memoryReady_ready hc hm hw hd) (readied.quiet hq)]
    generalize memReady (floorUpdate s.live s.m) = m at readied
    exact ⟨_, rfl, readied.ready, rfl, readied.served⟩
  · -- LTSSM_RECOVERY_ENTER
    have present : s.m.hasHead h := by obtain hs | hs := hs <;> exact Mach.hasHead_of_st hs (by decide)
    obtain ⟨head, err, quiet⟩ := inRecovery_leaves (replays := replays) (fec := fec) (own := own) hq present
    have asks : (own && (s.m.head h).rtHeld s.m.core) = false := by
      obtain rfl | lost := ho
      · rfl
      · simp [Head.rtHeld, lost]
    obtain ⟨e1, e2⟩ := fld_pair (sat16_lt (fld (s.m.reg (oHeadErr h)) 15 0) replays) (sat16_lt (fld (s.m.reg (oHeadErr h)) 31 16) fec)
    rw [exec_ltssmRecoveryEnter, op_eq (recoveryIn_enters hs asks) quiet]
    refine ⟨_, rfl, ?_⟩
    rw [head, err, e1, e2]
    refine ⟨rfl, rfl, rfl, rfl, fun ho => ?_, fun ho => ?_, rfl⟩
    · subst ho
      exact (withdraw_leaves _).2
    · subst ho
      rfl
  · -- a retrain of the part's own that waits
    have waits : (s.m.head h).rtHeld s.m.core = true := by simp [Head.rtHeld, hlost, hnext]
    rw [exec_ltssmRecoveryEnter, op_eq (m := s.m) ?_ hq]
    unfold recoveryIn
    rw [if_pos hs.symm, if_pos (by simp [waits])]
  · -- IDE_INTEGRITY_FAIL
    have present : s.m.hasHead h := by obtain hs | hs := hs <;> exact Mach.hasHead_of_st hs (by decide)
    obtain ⟨t, run, head, event⟩ := headFault_leaves (bit := 3) (src := 3)
      (x := { s.m.head h with st := .insecure, memActive := false, refusedLogged := false, keysNew := false }) hq present (by decide)
      (by decide) (f := fun m => if (m.head h).st = .ioOnly ∨ (m.head h).st = .active then insecure m h else m) (if_pos hs.symm)
    exact ⟨t, run, by rw [head], by rw [head], event⟩
  · -- VIRAL_RX
    have present : s.m.hasHead h := by obtain hs | hs := hs <;> exact Mach.hasHead_of_st hs (by decide)
    have linked : (s.m.head h).st.linked = true := by obtain hs | hs := hs <;> rw [hs] <;> rfl
    have free : s.m.holdsFrom h = false := by obtain hs | hs := hs <;> simp [Mach.holdsFrom, hs, hd]
    obtain ⟨t, run, head, event⟩ := headFault_leaves (bit := 4) (src := 4) (x := { s.m.head h with viralRx := true }) hq present (by decide)
      (by decide) (f := fun m => viralIn m h) (if_pos linked)
    rw [exec_viralRx, received, if_neg (by simp [free])]
    exact ⟨t, run, by rw [head], event⟩
  · -- L0P_CHANGE_DONE
    rw [exec_l0pChangeDone, op_eq (l0pDone_changes hs h5 h2 hf) (by exact hq)]
  · -- L0P_IDLE_REQUEST
    have asks := l0pRequest_asks hs h5 he ho h4 ⟨rt, table, bulk⟩
    rw [exec_l0pIdleRequest]
    unfold l0pAskFor at asks
    by_cases waits : (s.m.head h).l0pLost = (s.m.head h).width / 2 ∧ s.m.core < (s.m.head h).l0pNext
    · rw [if_pos waits, op_eq (asks.trans (if_pos waits)) hq]
    · rw [if_neg waits, op_eq (asks.trans (if_neg waits)) (by exact hq)]
  · -- IDE_STREAM_REENABLE
    have present : (s.m.setHead h { s.m.head h with keysNew := false, ideOn := true }).hasHead h := by
      have here : s.m.hasHead h := Mach.hasHead_of_st hs (by decide)
      rw [Mach.hasHead, head_setHead_self here]
      exact here
    obtain ⟨logged, head⟩ := service_head present
    rw [exec_ideStreamReenable, op_eq (reenable_serves hs hk) (quiet_service (quiet_setHead hq _ _) _)]
    refine ⟨_, rfl, ?_⟩
    rw [head, head_setHead_self (Mach.hasHead_of_st hs (by decide))]
    refine ⟨?_, rfl⟩
    dsimp only
    split
    · exact .inl rfl
    · exact .inr rfl
  · -- VIRAL_RX in Recovery
    rw [exec_viralRx]
    exact received_recovering hs hd ht rfl hq _
  · exact exec_recoveryExit hq hs hprev e
  · -- the end of Recovery at a calm part
    have present : s.m.hasHead h := Mach.hasHead_of_st hs (by decide)
    have head := recovered_head present w
    have calm : Calm (s.m.recovered h w) := recovered_calm present hc w
    obtain ⟨core, home, heads, quiet⟩ := coreCycle_calm calm s.live
    obtain ⟨p, e⟩ := heads h
    rw [exec_recoveryExit (w := w) hq hs hprev (s' := { s with m := s.m.recovered h w }) (by rw [held]; rfl), if_neg (by simp [hl]),
      settle_quiet _ (quiet s hq)]
    refine ⟨_, rfl, ?_⟩
    rw [e, head]
    exact ⟨rfl, rfl, core, home.trans (recovered_home hc h w), rfl⟩

end Sys2Proof
end

section
/-! PROOFS. What the home, the ledger and the controllers leave alone, one lemma for each of their operations: the ports that stand around
them (straps, heads, management port, mailboxes, functions, what the power controller says of resets and temperature), and, below the home's
requests, the outstanding snoops (R106, R124, R404, R488-R493). -/

namespace Sys2Proof.Machine

/-! ### The ports -/

/-- A head's record without the mark that a missing back-invalidation credit has been logged, which the home sets. -/
def Head.port (x : Head) : Head := { x with biLogged := false }

/-- What stands around the home: straps, heads, management port, functions, mailboxes without their logs, what the power controller says of
resets and temperature, and three registers that only commands write. -/
structure Ports where
  straps : Straps
  head : Nat → Head
  mgmt : Mgmt
  pci : Pci
  mbox : Nat → Mbox
  pbusy : Bool
  pparts : List Nat
  thermtrip : Bool
  pwrCfg : Word
  mptEvt : Word
  unresp : Word

/-- The machine's ports. -/
def Mach.ports (m : Mach) : Ports :=
  { straps := m.straps, head := fun h => (m.head h).port, mgmt := m.mgmt, pci := m.pci, mbox := fun h => (m.mb h).unlogged, pbusy := m.pwr.pbusy,
    pparts := m.pwr.pparts, thermtrip := m.pwr.thermtrip, pwrCfg := m.reg oPwrCfg, mptEvt := m.reg oMptEvt, unresp := m.reg oUnresp }

/-- The ports and the outstanding snoops. -/
structure Shell where
  ports : Ports
  snoops : List Snoop

/-- The machine's shell. -/
def Mach.shell (m : Mach) : Shell := { ports := m.ports, snoops := m.home.snoops }

/-- A register that is no part of the ports. -/
def Inner (o : Nat) : Prop := o ≠ oPwrCfg ∧ o ≠ oMptEvt ∧ o ≠ oUnresp

theorem shell_setReg (m : Mach) {o : Nat} (v : Word) (h : Inner o) : (m.setReg o v).shell = m.shell := by
  obtain ⟨h1, h2, h3⟩ := h
  unfold Mach.shell Mach.ports
  rw [Mach.reg_setReg_ne _ _ h1.symm, Mach.reg_setReg_ne _ _ h2.symm, Mach.reg_setReg_ne _ _ h3.symm]
  rfl

theorem Counted.shell {m t : Mach} (h : Counted m t) : t.shell = m.shell := by
  have heads : t.head = m.head := funext h.head
  have mbs : t.mb = m.mb := (congrArg Mach.mb h.rest :)
  have mgmt : t.mgmt = m.mgmt := (congrArg Mach.mgmt h.rest :)
  have pci : t.pci = m.pci := (congrArg Mach.pci h.rest :)
  unfold Mach.shell Mach.ports
  rw [h.straps, heads, mbs, mgmt, pci, h.pwr, h.home, h.reg _ (by decide), h.reg _ (by decide), h.reg _ (by decide)]

theorem Recorded.shell {m t : Mach} (h : Recorded m t) : t.shell = m.shell := by
  have heads : t.head = m.head := funext h.head
  have mbs : (fun k => (t.mb k).unlogged) = fun k => (m.mb k).unlogged := funext h.mbox
  unfold Mach.shell Mach.ports
  rw [h.straps, heads, mbs, h.mgmt, h.pci, h.pwr, h.home, h.reg _ (by decide), h.reg _ (by decide), h.reg _ (by decide)]

/-! ### What is no part of the shell -/

section
variable (m : Mach)

@[simp ↓] theorem shell_fresh (x : Nat) : ({ m with fresh := x } : Mach).shell = m.shell := rfl
@[simp ↓] theorem shell_outbox (x : List Out) : ({ m with outbox := x } : Mach).shell = m.shell := rfl
@[simp ↓] theorem shell_raised (x : List Occ) : ({ m with raised := x } : Mach).shell = m.shell := rfl
@[simp ↓] theorem shell_led (x : Ledger) : ({ m with led := x } : Mach).shell = m.shell := rfl
@[simp ↓] theorem shell_media (x : Media) : ({ m with media := x } : Mach).shell = m.shell := rfl
@[simp ↓] theorem shell_mcs (x : Mcs) : ({ m with mcs := x } : Mach).shell = m.shell := rfl
@[simp ↓] theorem shell_scb (x : Scb) : ({ m with scb := x } : Mach).shell = m.shell := rfl
@[simp ↓] theorem shell_bwg (x : Bwg) : ({ m with bwg := x } : Mach).shell = m.shell := rfl
@[simp ↓] theorem shell_yoke (x : Yoke) : ({ m with yoke := x } : Mach).shell = m.shell := rfl
@[simp ↓] theorem shell_chn (x : Chn) : ({ m with chn := x } : Mach).shell = m.shell := rfl
@[simp ↓] theorem shell_dqu (x : Dqu) : ({ m with dqu := x } : Mach).shell = m.shell := rfl
@[simp ↓] theorem shell_tally (x : Tally) : ({ m with tally := x } : Mach).shell = m.shell := rfl
@[simp ↓] theorem shell_tst (x : Tst) : ({ m with tst := x } : Mach).shell = m.shell := rfl
@[simp ↓] theorem shell_flt (x : Flt) : ({ m with flt := x } : Mach).shell = m.shell := rfl

/-- A part of the home other than the snoops. -/
@[simp ↓] theorem shell_home {x : Home} (h : x.snoops = m.home.snoops) : ({ m with home := x } : Mach).shell = m.shell := by
  unfold Mach.shell
  rw [h]
  rfl

/-- A part of the power controller other than what the ports say of it. -/
@[simp ↓] theorem shell_pwr {x : Pwr} (h : x.pbusy = m.pwr.pbusy ∧ x.pparts = m.pwr.pparts ∧ x.thermtrip = m.pwr.thermtrip) :
    ({ m with pwr := x } : Mach).shell = m.shell := by
  obtain ⟨h1, h2, h3⟩ := h
  unfold Mach.shell Mach.ports
  dsimp only
  rw [h1, h2, h3]
  rfl

@[simp] theorem shell_tick : m.tick.shell = m.shell := rfl
@[simp] theorem shell_send (x : Out) : (m.send x).shell = m.shell := rfl
@[simp] theorem shell_raiseOcc (o : Occ) : (m.raiseOcc o).shell = m.shell := rfl
@[simp] theorem shell_raise (src unit : Nat) : (m.raise src unit).shell = m.shell := rfl
@[simp] theorem shell_raiseD (src unit d : Nat) : (m.raiseD src unit d).shell = m.shell := rfl
@[simp] theorem shell_raiseA (src unit k a : Nat) : (m.raiseA src unit k a).shell = m.shell := rfl
@[simp] theorem shell_raiseRs (src : Nat) (a : MAddr) (d : Option Nat) (syn : Word) : (m.raiseRs src a d syn).shell = m.shell := rfl
@[simp] theorem shell_raiseSram (src unit l : Nat) : (m.raiseSram src unit l).shell = m.shell := rfl
@[simp] theorem shell_setSub (k : Nat) (s : Sub) : (m.setSub k s).shell = m.shell := rfl
@[simp] theorem shell_charge (k n : Nat) : (m.charge k n).shell = m.shell := rfl
@[simp] theorem shell_lcPut (l : Nat) (c : CLine) : (m.lcPut l c).shell = m.shell := rfl
@[simp] theorem shell_markUnit (u : Nat) : (m.markUnit u).shell = m.shell := rfl
@[simp] theorem shell_poisonLater (l : Nat) : (m.poisonLater l).shell = m.shell := rfl
@[simp] theorem shell_irq (f v : Nat) : (m.irq f v).shell = m.shell := (counted_irq m f v).shell
@[simp] theorem shell_pmuEvent (c i n : Nat) : (m.pmuEvent c i n).shell = m.shell := (counted_pmuEvent m c i n).shell
@[simp] theorem shell_partCnt (p k n : Nat) : (m.partCnt p k n).shell = m.shell := (counted_partCnt m p k n).shell
@[simp] theorem shell_slotCycle (k i : Nat) : (m.slotCycle k i).shell = m.shell := (counted_slotCycle m k i).shell
@[simp] theorem shell_upkeep (k n : Nat) : (m.upkeep k n).shell = m.shell := (counted_upkeep m k n).shell
@[simp] theorem shell_cxlEvent (h l : Nat) (b : List Byte) : (m.cxlEvent h l b).shell = m.shell := (recorded_cxlEvent m h l b).shell

variable {m}

@[simp] theorem shell_evt {o : Nat} (h : Inner o) (v : Word) : (m.evt o v).shell = m.shell := shell_setReg m _ h
@[simp] theorem shell_evb {o : Nat} (h : Inner o) (b : Nat) : (m.evb o b).shell = m.shell := shell_setReg m _ h
@[simp] theorem shell_bumpBy {o : Nat} (h : Inner o) (n : Nat) : (m.bumpBy o n).shell = m.shell := shell_setReg m _ h
@[simp] theorem shell_bump {o : Nat} (h : Inner o) : (m.bump o).shell = m.shell := shell_setReg m _ h

end

/-! ### Steps told by case and in sequence -/

@[simp] theorem shell_ite (c : Prop) [Decidable c] (a b : Mach) : (if c then a else b).shell = if c then a.shell else b.shell := apply_ite ..

@[simp] theorem shell_ite_snd {α : Type} (c : Prop) [Decidable c] (a b : α × Mach) :
    (if c then a else b).2.shell = if c then a.2.shell else b.2.shell := apply_ite (fun x : α × Mach => x.2.shell) ..

@[simp] theorem shell_foldl {α : Type} {f : Mach → α → Mach} (hf : ∀ m a, (f m a).shell = m.shell) (l : List α) (m : Mach) :
    (l.foldl f m).shell = m.shell := by
  induction l generalizing m with
  | nil => rfl
  | cons a l ih => rw [List.foldl_cons, ih, hf]

/-! ### Registers that are no part of the shell -/

theorem inner_of {o : Nat} (h : o ≠ 0x10004 ∧ o ≠ 0x120004 ∧ o ≠ 0x200010) : Inner o := h

@[simp] theorem inner_oCntCe : Inner oCntCe := inner_of (by decide)
@[simp] theorem inner_oCntUe : Inner oCntUe := inner_of (by decide)
@[simp] theorem inner_oCntMisdir : Inner oCntMisdir := inner_of (by decide)
@[simp] theorem inner_oCntCwb : Inner oCntCwb := inner_of (by decide)
@[simp] theorem inner_oCntCwbDrop : Inner oCntCwbDrop := inner_of (by decide)
@[simp] theorem inner_oScbEvt : Inner oScbEvt := inner_of (by decide)
@[simp] theorem inner_oLdgEvt : Inner oLdgEvt := inner_of (by decide)
@[simp] theorem inner_oLostLo : Inner oLostLo := inner_of (by decide)
@[simp] theorem inner_oLostHi : Inner oLostHi := inner_of (by decide)
@[simp] theorem inner_oCntLeak : Inner oCntLeak := inner_of (by decide)
@[simp] theorem inner_oHomEvt : Inner oHomEvt := inner_of (by decide)
@[simp] theorem inner_oCntTo : Inner oCntTo := inner_of (by decide)
@[simp] theorem inner_oSfEvict : Inner oSfEvict := inner_of (by decide)
@[simp] theorem inner_oSetStall : Inner oSetStall := inner_of (by decide)
@[simp] theorem inner_oTlyEvt : Inner oTlyEvt := inner_of (by decide)
@[simp] theorem inner_oDquEvt : Inner oDquEvt := inner_of (by decide)
@[simp] theorem inner_oDquLast : Inner oDquLast := inner_of (by decide)
@[simp] theorem inner_oChnEvt : Inner oChnEvt := inner_of (by decide)
@[simp] theorem inner_oMcEvt (c : Nat) : Inner (oMcEvt c) := inner_of (by unfold oMcEvt oMc; omega)
@[simp] theorem inner_oMcCnt (c k : Nat) : Inner (oMcCnt c k) := inner_of (by unfold oMcCnt oMc; omega)
@[simp] theorem inner_oYkCnt (k : Nat) : Inner (oYkCnt k) := inner_of (by unfold oYkCnt; omega)
@[simp] theorem inner_oTlyCnt (k : Nat) : Inner (oTlyCnt k) := inner_of (by unfold oTlyCnt; omega)
@[simp] theorem inner_oDquCnt (k : Nat) : Inner (oDquCnt k) := inner_of (by unfold oDquCnt; omega)

@[simp] theorem inner_oHeadEvt (h : Nat) : Inner (oHeadEvt h) := by
  refine inner_of ?_
  unfold oHeadEvt oHead
  split <;> omega
@[simp] theorem inner_oFltCnt96 : Inner (oFltCnt 96) := inner_of (by decide)

end Sys2Proof.Machine
end

section
namespace Sys2Proof.Machine
@[simp] theorem shell_subOut (m : Mach) (k : Nat) : (m.subOut k).shell = m.shell := by
  simp [Mach.subOut]

@[simp] theorem shell_chanOut (m : Mach) (ch : Nat) : (m.chanOut ch).shell = m.shell := by
  simp [Mach.chanOut]

@[simp] theorem shell_reach (m : Mach) (k : Nat) : (m.reach k).shell = m.shell := by
  have woken (x : Sub) : (((m.setSub k x).evb (oMcEvt (k / 2)) 5).bump (oMcCnt (k / 2) 6)).shell = m.shell := by simp
  unfold Mach.reach
  split
  · exact (shell_pwr _ ⟨rfl, rfl, rfl⟩).trans (woken _)
  · split
    · dsimp only
      split
      · exact shell_chanOut m _
      · exact shell_chanOut m _
    · rfl

@[simp] theorem shell_sendRead (m : Mach) (q : QEnt) : ((m.sendRead q).2).shell = m.shell := by
  unfold Mach.sendRead
  dsimp only
  split <;> simp

@[simp] theorem shell_chargeNow (m : Mach) (mst n : Nat) : (m.chargeNow mst n).shell = m.shell := by
  simp [Mach.chargeNow]

@[simp] theorem shell_fetchLine (m : Mach) (j mst : Nat) (tag : Tag) : (m.fetchLine j mst tag).shell = m.shell := by
  unfold Mach.fetchLine
  split
  · rfl
  · dsimp only
    split <;> simp

@[simp] theorem shell_putEnt (m : Mach) (page : Nat) (e : LEnt) (ch : Bool) : (m.putEnt page e ch).shell = m.shell := by
  unfold Mach.putEnt
  split <;> simp

@[simp] theorem shell_poolEmpty (m : Mach) : (m.poolEmpty).shell = m.shell := by
  simp [Mach.poolEmpty]

@[simp] theorem shell_retiredAccess (m : Mach) (h page : Nat) : (m.retiredAccess h page).shell = m.shell := by
  simp [Mach.retiredAccess]

@[simp] theorem shell_queueMove (m : Mach) (page : Nat) (kind : MoveKind) (cls : Nat) (pin : Bool) : (m.queueMove page kind cls pin).shell = m.shell := by
  unfold Mach.queueMove
  split <;> simp

@[simp] theorem shell_noteDirty (L : Image) (m : Mach) (mst : Nat) (tag : Tag) (page : Nat) : (noteDirty L m mst tag page).shell = m.shell := by
  unfold noteDirty
  split
  · rfl
  · split
    · exact shell_fetchLine ..
    · next e _ =>
      have put (e : LEnt) : (m.putEnt page e false).shell = m.shell := shell_putEnt ..
      dsimp only
      split
      · split
        · exact put _
        · split
          · exact (shell_poolEmpty _).trans (put _)
          · exact put _
      · split
        · exact (shell_putEnt ..).trans ((shell_retiredAccess ..).trans (put _))
        · split
          · exact (shell_queueMove ..).trans (put _)
          · split
            · split
              · split <;> exact put _
              · exact put _
            · exact put _

@[simp] theorem shell_drain (m : Mach) (k : Nat) : (m.drain k).shell = m.shell := by
  simp [Mach.drain]

@[simp] theorem shell_fabricPull (n k : Nat) (e : Entered) (m : Mach) : ((Mach.fabricPull n k e m).2).shell = m.shell := by
  induction n generalizing e m with
  | zero => rfl
  | succ n ih =>
    unfold Mach.fabricPull
    dsimp only
    repeat' split
    all_goals simp [ih]

@[simp] theorem shell_tagReq (m : Mach) (p : Purpose) (f : Req → Req) : (m.tagReq p f).shell = m.shell := by
  unfold Mach.tagReq
  split <;> simp [Mach.tagReq.go]

@[simp] theorem shell_panicTags (m : Mach) (k : Nat) : (m.panicTags k).shell = m.shell := by
  simp [Mach.panicTags]

@[simp] theorem shell_chanEvent (m : Mach) (b : Bool) (c k n : Nat) : (m.chanEvent b c k n).shell = m.shell := by
  simp [Mach.chanEvent]

@[simp] theorem shell_raaAct (m : Mach) (k : Nat) (a : MAddr) (b : Bool) : (m.raaAct k a b).shell = m.shell := by
  simp [Mach.raaAct]

@[simp] theorem shell_issueReq (m : Mach) (k : Nat) (q : QEnt) : (m.issueReq k q).shell = m.shell := by
  simp [Mach.issueReq]

@[simp] theorem shell_issueAstray (m : Mach) (k : Nat) (q : QEnt) (v : Nat) : (m.issueAstray k q v).shell = m.shell := by
  simp [Mach.issueAstray]

@[simp] theorem shell_issue (m : Mach) (k : Nat) (c : Cand) : (m.issue k c).shell = m.shell := by
  cases c with
  | req id =>
    unfold Mach.issue
    dsimp only
    split
    · exact shell_issueReq ..
    · rfl
  | refAb lr => exact (shell_pmuEvent ..).trans (shell_setSub ..)
  | refSb lr bi => exact (shell_pmuEvent ..).trans (shell_setSub ..)
  | rfmSb lr bi =>
    have count (x : Sub) : (((m.setSub k x).bump (oMcCnt (k / 2) 4)).pmuEvent 0x40B k 1).shell = m.shell := by simp
    unfold Mach.issue
    dsimp only
    split
    · exact (shell_evb (inner_oMcEvt _) _).trans (count _)
    · exact count _

@[simp] theorem shell_idleSlot (m : Mach) (k : Nat) (w : SlotWhy) : (m.idleSlot k w).shell = m.shell := by
  cases w <;> simp [Mach.idleSlot]

@[simp] theorem shell_mcCycle (L : Image) (m : Mach) (k : Nat) (b : List Nat) (h : List (Nat × Nat)) (w : SlotWhy) (a : Option Nat) : (mcCycle L m k b h w a).shell = m.shell := by
  unfold mcCycle
  split
  · rfl
  · dsimp only
    split
    · split <;> simp
    · simp
    · simp

@[simp] theorem shell_runCycle (L : Image) (m : Mach) (k : Nat) : (runCycle L m k).shell = m.shell := by
  simp [runCycle]

@[simp] theorem shell_runUntil (L : Image) (k : Nat) (d : Sub → Bool) (n : Nat) (m : Mach) : (runUntil L k d n m).shell = m.shell := by
  induction n generalizing m with
  | zero => rfl
  | succ n ih => simp [runUntil, ih]

@[simp] theorem shell_awaitRead (L : Image) (m : Mach) (k : Nat) (q : QEnt) : ((awaitRead L m k q).2).shell = m.shell := by
  unfold awaitRead
  dsimp only
  split <;> simp

@[simp] theorem shell_sendWrite (m : Mach) (q : QEnt) : ((m.sendWrite q).2).shell = m.shell := by
  simp [Mach.sendWrite]

@[simp] theorem shell_correctBack (m : Mach) (q : QEnt) (j : Judged) : (m.correctBack q j).shell = m.shell := by
  simp [Mach.correctBack]

@[simp] theorem shell_alertCe (m : Mach) : (m.alertCe).shell = m.shell := by
  simp [Mach.alertCe]

@[simp] theorem shell_history (m : Mach) (a : MAddr) (j : Judged) : (m.history a j).shell = m.shell := by
  have evb (m : Mach) (b : Nat) : (m.evb oScbEvt b).shell = m.shell := by simp
  unfold Mach.history
  extract_lets win now h old rest ent
  split
  · split
    · exact (shell_scb _ _).trans (evb _ _)
    · exact (evb _ _).trans (evb _ _)
  · split
    · exact shell_scb _ _
    · exact (evb _ _).trans (shell_scb _ _)

/-- The counts of correctable errors of the devices. -/
def Mach.devsCounted (m : Mach) (t : Tbl Nat) : Mach := { m with scb := { m.scb with devCnt := t } }

/-- A correctable error told, once in a while for each channel. -/
def Mach.ceTold (m : Mach) (a : MAddr) (j : Judged) : Mach := match m.scb.lastCe.find? a.ch with
  | some t => if m.core - t < 1600000000 then m.bump (oFltCnt 96)
              else ({ m with scb := { m.scb with lastCe := m.scb.lastCe.insert a.ch m.core } }).raiseRs 96 a none j.syn
  | none => ({ m with scb := { m.scb with lastCe := m.scb.lastCe.insert a.ch m.core } }).raiseRs 96 a none j.syn

theorem countCe_eq (m : Mach) (a : MAddr) (j : Judged) : ∃ t, m.countCe a j = ((((m.bump oCntCe).alertCe.evb oScbEvt 0).devsCounted t).ceTold a j).history a j :=
  ⟨_, rfl⟩

@[simp] theorem shell_devsCounted (m : Mach) (t : Tbl Nat) : (m.devsCounted t).shell = m.shell := shell_scb ..

@[simp] theorem shell_ceTold (m : Mach) (a : MAddr) (j : Judged) : (m.ceTold a j).shell = m.shell := by
  have told : (({ m with scb := { m.scb with lastCe := m.scb.lastCe.insert a.ch m.core } } : Mach).raiseRs 96 a none j.syn).shell = m.shell :=
    (shell_raiseRs ..).trans (shell_scb ..)
  unfold Mach.ceTold
  split
  · split
    · exact shell_bump inner_oFltCnt96
    · exact told
  · exact told

@[simp] theorem shell_countCe (m : Mach) (a : MAddr) (j : Judged) : (m.countCe a j).shell = m.shell := by
  obtain ⟨t, eq⟩ := countCe_eq m a j
  simp [eq]

@[simp] theorem shell_account (m : Mach) (a : MAddr) (src : Nat) (d : Option Nat) (j : Judged) : (m.account a src d j).shell = m.shell := by
  have judged : (match j.v with
      | .uncorrectable =>
        if src = noSrc then (m.bump oCntUe).evb oScbEvt 1
        else (((m.bump oCntUe).evb oScbEvt 1).raiseRs src a d (((m.bump oCntUe).evb oScbEvt 1).ueSyn j)).tick
      | .misdirected => ((m.bump oCntMisdir).evb oScbEvt 2).raiseRs 98 a none j.syn
      | _ => m).shell = m.shell := by
    split <;> simp
  refine (apply_ite Mach.shell _ _ _).trans ?_
  rw [shell_countCe]
  split <;> exact judged

@[simp] theorem shell_readEnt (L : Image) (m : Mach) (q : QEnt) (c flat : Bool) (src : Nat) (dpa : Option Nat) (errs : SymErr) : ((readEnt L m q c flat src dpa errs).2).shell = m.shell := by
  unfold readEnt
  dsimp only
  split
  · split <;> simp
  · split <;> simp

@[simp] theorem shell_readFor (L : Image) (m : Mach) (p : Purpose) (f l : Nat) (c flat : Bool) (src : Nat) (dpa : Option Nat) (errs : SymErr) : ((readFor L m p f l c flat src dpa errs).2).shell = m.shell := by
  simp [readFor]

@[simp] theorem shell_readNow (L : Image) (m : Mach) (f l : Nat) (c flat : Bool) (src : Nat) (dpa : Option Nat) (errs : SymErr) : ((readNow L m f l c flat src dpa errs).2).shell = m.shell := by
  simp [readNow]

@[simp] theorem shell_writeNow (m : Mach) (f l : Nat) (cw : Codeword) : (m.writeNow f l cw).shell = m.shell := by
  simp [Mach.writeNow]

@[simp] theorem shell_poisonFrame (L : Image) (m : Mach) (line f : Nat) : (poisonFrame L m line f).shell = m.shell := by
  simp [poisonFrame]

@[simp] theorem shell_ledWrite (m : Mach) (k l : Nat) (d : Line) : (m.ledWrite k l d).shell = m.shell := by
  simp [Mach.ledWrite]

@[simp] theorem shell_ledWriteLine (m : Mach) (j : Nat) (es : List LEnt) : (m.ledWriteLine j es).shell = m.shell := by
  simp [Mach.ledWriteLine]

theorem shell_ledRoom {m t : Mach} {j : Nat} (h : m.ledRoom j = some t) : t.shell = m.shell := by
  unfold Mach.ledRoom at h
  dsimp only at h
  split at h
  · cases h
    rfl
  · split at h
    · cases h
    · cases h
      simp

@[simp] theorem shell_ledReadFor (L : Image) (m : Mach) (mst : Nat) (p : Purpose) (k l : Nat) (es : Bool) (e0 e1 : SymErr) : ((ledReadFor L m mst p k l es e0 e1).2.2).shell = m.shell := by
  unfold ledReadFor
  dsimp only
  repeat' split
  all_goals simp

@[simp] theorem shell_lostEvent (m : Mach) (j : Nat) (syn : Word) : (m.lostEvent j syn).shell = m.shell := by
  simp [Mach.lostEvent, shell_setReg]

@[simp] theorem shell_loseLine (L : Image) (m : Mach) (j : Nat) (syn : Word) : ((loseLine L m j syn).2).shell = m.shell := by
  have both (m : Mach) (l : Ledger) (x : Nat) : ({ m with led := l, fresh := x } : Mach).shell = m.shell := rfl
  unfold loseLine
  exact (both ..).trans ((shell_lostEvent ..).trans ((shell_bumpBy inner_oCntLeak _).trans ((shell_chargeNow ..).trans (shell_ledWriteLine ..))))

@[simp] theorem shell_heatPromote (L : Image) (m : Mach) (page : Nat) (e : LEnt) : (heatPromote L m page e).shell = m.shell := by
  simp [heatPromote]

@[simp] theorem shell_addHeat (L : Image) (m : Mach) (page : Nat) : (addHeat L m page).shell = m.shell := by
  unfold addHeat
  split <;> simp

@[simp] theorem shell_ledCaught (L : Image) (m : Mach) (j : Nat) : (m.ledCaught L j).shell = m.shell := by
  unfold Mach.ledCaught
  refine (shell_foldl (fun m p => ?_) _ _).trans ((shell_foldl (shell_addHeat L) _ _).trans (shell_led ..))
  rw [shell_ite, shell_noteDirty, ite_self]

@[simp] theorem shell_fetchedEnts (L : Image) (m : Mach) (j : Nat) (syn : Word) (d : Option Line) :
    (fetchedEnts L m j syn d).2.shell = m.shell := by
  cases d with
  | none => exact shell_loseLine ..
  | some d => rfl

theorem shell_ledInstall {L : Image} {m t : Mach} {j : Nat} {e0 e1 : SymErr} (h : ledInstall L m j e0 e1 = some t) : t.shell = m.shell := by
  unfold ledInstall at h
  split at h
  · cases h
    exact shell_led ..
  · split at h
    · cases h
    · next u hu =>
      have read := (shell_ledReadFor L u mDesc (.ledger j) (lineSpot j).1 (lineSpot j).2 true e0 e1).trans (shell_ledRoom hu)
      obtain ⟨d, syn, r, eq⟩ : ∃ d syn r, ledReadFor L u mDesc (.ledger j) (lineSpot j).1 (lineSpot j).2 true e0 e1 = (d, syn, r) := ⟨_, _, _, rfl⟩
      rw [eq] at read
      simp only [eq] at h
      have installed : some (((fetchedEnts L r j syn d).2.ledPut j
          { ents := (fetchedEnts L r j syn d).1, use := (fetchedEnts L r j syn d).2.home.clock }).ledCaught L j) = some t := by
        rw [← h]
        cases d <;> rfl
      cases installed
      exact (shell_ledCaught ..).trans ((shell_led ..).trans ((shell_fetchedEnts ..).trans read))

@[simp] theorem shell_ledTake (L : Image) (m : Mach) (page : Nat) : ((ledTake L m page).2).shell = m.shell := by
  unfold ledTake
  split
  · rfl
  · split
    · next h => exact shell_ledInstall h
    · rfl

@[simp] theorem shell_ledGet (L : Image) (m : Mach) (mst page : Nat) : ((ledGet L m mst page).2).shell = m.shell := by
  simp [ledGet]

@[simp] theorem shell_poisonInstall (m : Mach) (line : Nat) : (poisonInstall m line).shell = m.shell := by
  simp [poisonInstall]

@[simp] theorem shell_poisonHere (L : Image) (m : Mach) (h line : Nat) : (poisonHere L m h line).shell = m.shell := by
  have frame (m : Mach) (f : Nat) : (poisonFrame L m line f).shell = m.shell := shell_poisonFrame ..
  have got (m : Mach) : (ledGet L m (lineMaster L h line) (line / 64)).2.shell = m.shell := shell_ledGet ..
  unfold poisonHere
  split
  · exact (shell_noteDirty ..).trans (shell_lcPut ..)
  · rfl
  · dsimp only
    split
    · exact frame _ _
    · split
      · next e t ht =>
        have ht : t.shell = m.shell := (congrArg (fun p => p.2.shell) ht).symm.trans (got _)
        split
        · split
          · exact (shell_putEnt ..).trans ((frame _ _).trans ht)
          · exact (frame _ _).trans ht
        · split
          · exact ht
          · exact (shell_poisonInstall ..).trans ht
      · next t ht => exact (congrArg (fun p => p.2.shell) ht).symm.trans (got _)

@[simp] theorem shell_ykSend (m : Mach) (vc : Nat) (o : Out) : (m.ykSend vc o).shell = m.shell := by
  simp [Mach.ykSend]

@[simp] theorem shell_ykFlit (m : Mach) (vc : Nat) (o : Out) : (m.ykFlit vc o).shell = m.shell := by
  simp [Mach.ykFlit]

@[simp] theorem shell_sendRec (m : Mach) (vc kind line head cls : Nat) (p : Bool) (mv : BitVec 2) (d : Option Line) : ((m.sendRec vc kind line head cls p mv d).2).shell = m.shell := by
  simp [Mach.sendRec]

@[simp] theorem shell_mirrorChange (L : Image) (m : Mach) (kind line head cls : Nat) (p : Bool) (mv : BitVec 2) (d : Option Line) : ((mirrorChange L m kind line head cls p mv d).2).shell = m.shell := by
  unfold mirrorChange
  dsimp only
  split
  · rfl
  · split <;> simp

@[simp] theorem shell_poisonLine (L : Image) (m : Mach) (h line : Nat) : (poisonLine L m h line).shell = m.shell := by
  simp [poisonLine]

end Sys2Proof.Machine
end

section
/-! PROOFS. Snoops outstanding to a head end by its answer or fail by a timeout (R106, R114, R122, R124, R126), and the statement
SnoopsAreAnsweredOrTimeOut: O41. -/

namespace Sys2Proof.Machine

/-! ### What the snoop filter's operations leave alone -/

/-- The machine without the snoop filter and the snoops. -/
def Mach.unsnooped (m : Mach) : Mach := { m with home := { m.home with sf := [], clock := 0, snoops := [], evicting := [] } }

theorem sfPut_unsnooped (m : Mach) (line : Nat) (e : SfEnt) : (m.sfPut line e).unsnooped = m.unsnooped := by
  unfold Mach.sfPut
  split <;> rfl

theorem sfPut_snoops (m : Mach) (line : Nat) (e : SfEnt) : (m.sfPut line e).home.snoops = m.home.snoops := by
  unfold Mach.sfPut
  split <;> rfl

theorem sfClear_unsnooped (m : Mach) (h line : Nat) : (m.sfClear h line).unsnooped = m.unsnooped := by
  unfold Mach.sfClear
  split
  · exact sfPut_unsnooped ..
  · rfl

@[simp] theorem sfClear_snoops (m : Mach) (h line : Nat) : (m.sfClear h line).home.snoops = m.home.snoops := by
  unfold Mach.sfClear
  split
  · exact sfPut_snoops ..
  · rfl

@[simp] theorem shell_sfPut (m : Mach) (line : Nat) (e : SfEnt) : (m.sfPut line e).shell = m.shell := by
  unfold Mach.sfPut
  split <;> exact shell_home _ rfl

@[simp] theorem shell_sfClear (m : Mach) (h line : Nat) : (m.sfClear h line).shell = m.shell := by
  unfold Mach.sfClear
  split
  · exact shell_sfPut ..
  · rfl

theorem snoopsDone_unsnooped (m : Mach) (line : Nat) : (m.snoopsDone line).unsnooped = m.unsnooped := by
  unfold Mach.snoopsDone
  split <;> rfl

@[simp] theorem snoopsDone_sfGet (m : Mach) (line l : Nat) : (m.snoopsDone line).sfGet l = m.sfGet l := by
  unfold Mach.snoopsDone
  split <;> rfl

@[simp] theorem shell_snoopsDone (m : Mach) (line : Nat) : (m.snoopsDone line).shell = m.shell := by
  unfold Mach.snoopsDone
  split
  · rfl
  · exact shell_home _ rfl

/-- A line's entry after it was set; without presence it is freed. -/
theorem sfGet_sfPut {m : Mach} {line : Nat} {x e : SfEnt} (h : (m.sfPut line x).sfGet line = some e) : e.pres = x.pres := by
  unfold Mach.sfPut Mach.sfGet at h
  split at h
  · rw [show Tbl.find? (m.home.sf.erase line) line = none from Tbl.find?_erase_self ..] at h
    cases h
  · rw [show Tbl.find? (m.home.sf.insert line _) line = some _ from Tbl.find?_insert_self ..] at h
    cases h
    rfl

/-- A head whose presence was cleared is not present. -/
theorem sfGet_sfClear {m : Mach} {h line : Nat} {e : SfEnt} (he : (m.sfClear h line).sfGet line = some e) : e.pres.getLsbD h = false := by
  unfold Mach.sfClear at he
  split at he
  · rw [sfGet_sfPut he, BitVec.getLsbD_and, BitVec.getLsbD_not]
    by_cases hh : h < 8
    · simp [headBit, hh]
    · simp [hh]
  · next none => rw [none] at he; cases he

/-! ### An answer -/

/-- The machine without one of its snoops. -/
def Mach.answered (m : Mach) (x : Snoop) : Mach := { m with home := { m.home with snoops := m.home.snoops.erase x } }

theorem snoopOut_find {m : Mach} {h line : Nat} (ho : m.snoopOut h line = true) :
    ∃ x ∈ m.home.snoops, m.home.snoops.find? (fun s => s.head == h && s.line == line) = some x := by
  obtain ⟨x, hx⟩ := Option.isSome_iff_exists.mp (List.find?_isSome.mpr (List.any_eq_true.mp ho))
  exact ⟨x, List.mem_of_find?_eq_some hx, hx⟩

/-- What an answer does at the snoop filter: `t` is what it leaves. -/
theorem snoopAnswer_filter {m : Mach} {h line : Nat} (ho : m.snoopOut h line = true) (rsp : SnpRsp) :
    ∃ x ∈ m.home.snoops, ∃ t : Mach, m.snoopAnswer h line rsp = t.snoopsDone line ∧ t.unsnooped = m.unsnooped ∧
      t.home.snoops = m.home.snoops.erase x ∧ (rsp = .i → ∀ e, t.sfGet line = some e → e.pres.getLsbD h = false) := by
  obtain ⟨x, hx, find⟩ := snoopOut_find ho
  have cleared (m : Mach) : ∀ e, (m.sfClear h line).sfGet line = some e → e.pres.getLsbD h = false := fun _ => sfGet_sfClear
  unfold Mach.snoopAnswer
  rw [find]
  refine ⟨x, hx, _, rfl, ?_⟩
  dsimp only
  split
  · exact ⟨sfClear_unsnooped (m.answered x) h line, sfClear_snoops (m.answered x) h line, fun _ => cleared _⟩
  · cases rsp with
    | i => exact ⟨sfClear_unsnooped (m.answered x) h line, sfClear_snoops (m.answered x) h line, fun _ => cleared _⟩
    | e => exact ⟨rfl, rfl, nofun⟩
    | s =>
      dsimp only
      split
      · exact ⟨sfPut_unsnooped (m.answered x) line _, sfPut_snoops (m.answered x) line _, nofun⟩
      · exact ⟨rfl, rfl, nofun⟩

theorem snoops_of_shell {m t : Mach} (h : t.shell = m.shell) : t.home.snoops = m.home.snoops := congrArg Shell.snoops h

/-- An answer ends its snoop; the line cache and the trackers are as they were. -/
theorem snoopAnswer_ends {m : Mach} {h line : Nat} (ho : m.snoopOut h line = true) (rsp : SnpRsp) :
    (m.snoopAnswer h line rsp).home.snoops.length + 1 = m.home.snoops.length ∧ (m.snoopAnswer h line rsp).home.lc = m.home.lc ∧
      (m.snoopAnswer h line rsp).home.trk = m.home.trk ∧
      (rsp = .i → ∀ e, (m.snoopAnswer h line rsp).sfGet line = some e → e.pres.getLsbD h = false) := by
  obtain ⟨x, hx, t, eq, rest, snoops, cleared⟩ := snoopAnswer_filter ho rsp
  have rest := (snoopsDone_unsnooped t line).trans rest
  rw [eq]
  refine ⟨?_, congrArg (fun m => m.home.lc) rest, congrArg (fun m => m.home.trk) rest, fun hi e he => cleared hi e ?_⟩
  · rw [snoops_of_shell (shell_snoopsDone ..), snoops, List.length_erase_add_one hx]
  · rwa [snoopsDone_sfGet] at he

/-! ### A failure -/

/-- The snoops other than those of a head for a line. -/
def Mach.snoopsBut (m : Mach) (h line : Nat) : List Snoop := m.home.snoops.filter (fun s => !(s.head == h && s.line == line))

theorem mem_snoopsBut {m : Mach} {h line : Nat} {x : Snoop} : x ∈ m.snoopsBut h line ↔ x ∈ m.home.snoops ∧ (x.head = h → x.line ≠ line) := by
  simp only [Mach.snoopsBut, List.mem_filter, Bool.not_eq_true', Bool.and_eq_false_imp, beq_iff_eq, beq_eq_false_iff_ne]

theorem snoopFail_shell (L : Image) (m : Mach) (h line : Nat) :
    (snoopFail L m h line).shell = { ports := m.ports, snoops := m.snoopsBut h line } := by
  have before : ((if (m.sfGet line).any (fun e => e.stA && e.pres.getLsbD h) then poisonLine L m h line else m).sfClear h line).shell = m.shell := by
    simp
  generalize e : (if (m.sfGet line).any (fun e => e.stA && e.pres.getLsbD h) then poisonLine L m h line else m).sfClear h line = t at before
  have fail : snoopFail L m h line = ({ t with home := { t.home with snoops := t.snoopsBut h line } } : Mach).snoopsDone line := by
    rw [← e]
    rfl
  rw [fail, shell_snoopsDone]
  unfold Mach.shell at before ⊢
  obtain ⟨ports, snoops⟩ := Shell.mk.inj before
  unfold Mach.snoopsBut
  rw [snoops, ← ports]
  rfl

/-- The ports and the snoops of a machine, told apart. -/
theorem shell_iff {m : Mach} {p : Ports} {l : List Snoop} : m.shell = { ports := p, snoops := l } ↔ m.ports = p ∧ m.home.snoops = l := by
  simp [Mach.shell]

/-- A head's snoop for a line that fails and is counted. -/
def snoopLost (L : Image) (h : Nat) (m : Mach) (line : Nat) : Mach := (snoopFail L m h line).bump oCntTo

theorem snoopLost_shell (L : Image) (h : Nat) (m : Mach) (line : Nat) :
    (snoopLost L h m line).shell = { ports := m.ports, snoops := m.snoopsBut h line } :=
  (shell_bump inner_oCntTo).trans (snoopFail_shell L m h line)

/-- A head's snoops for several lines fail. -/
theorem snoopsLost_shell (L : Image) (h : Nat) (lines : List Nat) (m : Mach) : (lines.foldl (snoopLost L h) m).ports = m.ports ∧
    ∀ x ∈ (lines.foldl (snoopLost L h) m).home.snoops, x ∈ m.home.snoops ∧ (x.head = h → x.line ∉ lines) := by
  induction lines generalizing m with
  | nil => exact ⟨rfl, fun x hx => ⟨hx, fun _ => List.not_mem_nil⟩⟩
  | cons line lines ih =>
    obtain ⟨ports, snoops⟩ := shell_iff.mp (snoopLost_shell L h m line)
    obtain ⟨ihp, ihs⟩ := ih (snoopLost L h m line)
    refine ⟨ihp.trans ports, fun x hx => ?_⟩
    obtain ⟨mem, other⟩ := ihs x hx
    rw [snoops, mem_snoopsBut] at mem
    exact ⟨mem.1, fun hh hl => (List.mem_cons.mp hl).elim (mem.2 hh) (other hh)⟩

/-! ### A timeout -/

/-- A machine whose head is marked unresponsive. -/
def Mach.markUnresp (m : Mach) (h : Nat) : Mach := m.setReg oUnresp (m.reg oUnresp ||| put 1 h)

/-- The lines of a head's snoops other than one for `line`. -/
def Mach.otherLines (m : Mach) (h line : Nat) : List Nat := (m.home.snoops.filter (fun s => s.head == h && s.line != line)).map (·.line)

/-- A timeout told in HOM_TO_LINE and as a detection; `p` says that the line was poisoned. -/
def Mach.tellTimeout (m : Mach) (h line : Nat) (p : Bool) : Mach :=
  (((m.setReg oToLo (BitVec.ofNat 32 line)).setReg oToHi (put (line / 2 ^ 32 % 128) 0 ||| put h 8 ||| putB p 11)).evb oHomEvt 0).raiseA
    16 h 1 (line * 64)

/-- The machine with a timeout's head marked and its other snoops failed. -/
def othersLost (L : Image) (m : Mach) (h line : Nat) : Mach := ((m.markUnresp h).otherLines h line).foldl (snoopLost L h) (m.markUnresp h)

/-- What a timeout leaves of the machine `m` that its CORE cycle left, before what waited goes on. -/
def timedOut (L : Image) (m : Mach) (h line : Nat) : Mach :=
  (snoopLost L h (othersLost L m h line) line).tellTimeout h line
    (((othersLost L m h line).sfGet line).any (fun e => e.stA && e.pres.getLsbD h))

theorem snoopTimeout_timed {L : Image} {m : Mach} {h line : Nat} (ht : (coreCycle L m).snoopTimed h line = true) :
    snoopTimeout L m h line = (timedOut L (coreCycle L m) h line).pumpAll L := by
  unfold snoopTimeout
  generalize coreCycle L m = t at ht
  refine (if_neg (by rw [ht]; decide)).trans ?_
  rfl

theorem snoopTimeout_ended {L : Image} {m : Mach} {h line : Nat} (ht : (coreCycle L m).snoopTimed h line = false) :
    snoopTimeout L m h line = coreCycle L m := by
  unfold snoopTimeout
  generalize coreCycle L m = t at ht
  exact if_pos (by rw [ht]; rfl)

theorem fld_or (x y : Word) (hi lo : Nat) : fld (x ||| y) hi lo = fld x hi lo ||| fld y hi lo := by
  rw [fld, BitVec.toNat_or, Nat.shiftRight_or_distrib, Nat.or_mod_two_pow]
  rfl

/-- The head's number in HOM_TO_HI. -/
theorem fld_timeoutHi (a : Nat) {h : Nat} (hh : h < 8) (p : Bool) : fld (put (a % 128) 0 ||| put h 8 ||| putB p 11) 10 8 = h := by
  have line : fld (put (a % 128) 0) 10 8 = 0 := by
    have all : ∀ a < 128, fld (put a 0) 10 8 = 0 := by decide
    exact all _ (Nat.mod_lt _ (by decide))
  have head : ∀ h < 8, fld (put h 8) 10 8 = h := by decide
  have bit : ∀ p : Bool, fld (putB p 11) 10 8 = 0 := by decide
  rw [fld_or, fld_or, line, head h hh, bit, Nat.zero_or, Nat.or_zero]

theorem unresp_markUnresp (m : Mach) {h : Nat} (hh : h < 8) : (m.markUnresp h).unresp h = true := by
  have lt : h < 32 := by omega
  rw [Mach.unresp, Mach.markUnresp, Mach.reg_setReg_self, BitVec.getLsbD_or]
  simp [put, BitVec.getLsbD_ofNat, lt]

/-- What a timeout's telling leaves. -/
theorem tellTimeout_leaves (m : Mach) {h : Nat} (hh : h < 8) (line : Nat) (p : Bool) :
    (m.tellTimeout h line p).reg oToLo = BitVec.ofNat 32 line ∧ fld ((m.tellTimeout h line p).reg oToHi) 10 8 = h ∧
      (m.tellTimeout h line p).rbit oHomEvt 0 = true ∧ (m.tellTimeout h line p).unresp h = m.unresp h ∧
      (m.tellTimeout h line p).home = m.home := by
  have lo : (m.tellTimeout h line p).reg oToLo = BitVec.ofNat 32 line :=
    (Mach.reg_setReg_ne _ _ (by decide)).trans ((Mach.reg_setReg_ne _ _ (by decide)).trans (Mach.reg_setReg_self ..))
  have hi : (m.tellTimeout h line p).reg oToHi = put (line / 2 ^ 32 % 128) 0 ||| put h 8 ||| putB p 11 :=
    (Mach.reg_setReg_ne _ _ (by decide)).trans (Mach.reg_setReg_self ..)
  have unresp : (m.tellTimeout h line p).reg oUnresp = m.reg oUnresp :=
    (Mach.reg_setReg_ne _ _ (by decide)).trans ((Mach.reg_setReg_ne _ _ (by decide)).trans (Mach.reg_setReg_ne _ _ (by decide)))
  refine ⟨lo, ?_, rbit_evb_self _ _ (by decide), ?_, rfl⟩
  · rw [hi, fld_timeoutHi _ hh]
  · rw [Mach.unresp, unresp, Mach.unresp]

theorem unresp_ports (m : Mach) (h : Nat) : m.unresp h = m.ports.unresp.getLsbD h := rfl

/-- The head stays marked while its other snoops fail. -/
theorem othersLost_leaves (L : Image) (m : Mach) {h : Nat} (hh : h < 8) (line : Nat) : (othersLost L m h line).unresp h = true ∧
    ∀ x ∈ (othersLost L m h line).home.snoops, x.head = h → x.line = line := by
  unfold othersLost
  obtain ⟨ports, left⟩ := snoopsLost_shell L h ((m.markUnresp h).otherLines h line) (m.markUnresp h)
  refine ⟨?_, fun x hx head => ?_⟩
  · rw [unresp_ports, ports, ← unresp_ports, unresp_markUnresp m hh]
  · obtain ⟨mem, other⟩ := left x hx
    by_contra hl
    refine other head (List.mem_map.mpr ⟨x, List.mem_filter.mpr ⟨mem, ?_⟩, rfl⟩)
    simp [head, hl]

/-- A timeout marks the head unresponsive, names the snoop, and ends every snoop to the head. -/
theorem timedOut_leaves (L : Image) (m : Mach) {h : Nat} (hh : h < 8) (line : Nat) :
    (timedOut L m h line).reg oToLo = BitVec.ofNat 32 line ∧ fld ((timedOut L m h line).reg oToHi) 10 8 = h ∧
      (timedOut L m h line).rbit oHomEvt 0 = true ∧ (timedOut L m h line).unresp h = true ∧
      ∀ x ∈ (timedOut L m h line).home.snoops, x.head ≠ h := by
  obtain ⟨lo, hi, evt, unresp, home⟩ := tellTimeout_leaves (snoopLost L h (othersLost L m h line) line) hh line
    (((othersLost L m h line).sfGet line).any (fun e => e.stA && e.pres.getLsbD h))
  obtain ⟨ports, snoops⟩ := shell_iff.mp (snoopLost_shell L h (othersLost L m h line) line)
  obtain ⟨marked, left⟩ := othersLost_leaves L m hh line
  refine ⟨lo, hi, evt, ?_, fun x hx head => ?_⟩
  · unfold timedOut
    rw [unresp, unresp_ports, ports, ← unresp_ports, marked]
  · unfold timedOut at hx
    rw [home, snoops] at hx
    obtain ⟨mem, other⟩ := mem_snoopsBut.mp hx
    exact other head (left x mem head)

/-! ### The commands -/

theorem exec_birsp (h : Fin 8) (line : Nat) (rsp : SnpRsp) (s : State) : exec (.birsp h line rsp) s =
    received s h (.birsp h line rsp) (fun s => s.op (fun m => snoopRsp s.live m h line rsp)) := by rfl

theorem exec_biconflict (h : Fin 8) (line : Nat) (s : State) : exec (.biconflict h line) s =
    received s h (.biconflict h line) (fun s => s.op (fun m => snoopConflict m h line)) := by rfl

theorem exec_snoopTimeout (h : Fin 8) (line : Nat) (s : State) : exec (.snoopTimeout h line) s =
    .next (settle { s with m := snoopTimeout s.live s.m h line }) := by rfl

theorem received_unheld {s : State} {h : Nat} (hs : s.m.holdsFrom h = false) (i : Instr) (act : State → Host.Outcome State Fault Refusal) :
    received s h i act = act s := by
  rw [received, hs]
  rfl

end Sys2Proof.Machine

namespace Sys2Proof
open Machine

/-- Settles O41: a response ends the snoop, or is counted when none is outstanding; a timeout marks the head unresponsive before its snoops
fail, which keeps the mark. -/
theorem snoopsAreAnsweredOrTimeOut : Obligations.SnoopsAreAnsweredOrTimeOut := by
  intro h line rsp s hq
  have calm {m : Mach} (e1 : m.raised = s.m.raised) (e2 : m.scb = s.m.scb) (e3 : m.pwr = s.m.pwr) (e4 : m.mcs = s.m.mcs) : Quiet { s with m } := by
    unfold Quiet
    rw [e1, e2, e3, e4]
    exact hq
  refine ⟨fun linked free out => ⟨⟨s.m.snoopAnswer h line rsp, ?_, snoopAnswer_ends out rsp⟩, ?_⟩, fun linked free out c hc => ?_,
    fun timed => ⟨timedOut s.live (coreCycle s.live s.m) h line, ?_, timedOut_leaves s.live _ h.isLt line⟩, fun timed => ?_⟩
  · rw [exec_birsp, received_unheld free]
    simp [State.op, snoopRsp, linked, out]
  · rw [exec_biconflict, received_unheld free]
    refine op_eq (by simp [snoopConflict, linked, out]) (calm rfl rfl rfl rfl)
  · have late : Quiet { s with m := s.m.lateRsp } := calm rfl rfl rfl rfl
    simp only [List.mem_cons, List.not_mem_nil, or_false] at hc
    obtain rfl | rfl := hc
    · rw [exec_birsp, received_unheld free]
      exact op_eq (m := s.m.lateRsp) (by simp [snoopRsp, linked, out]) late
    · rw [exec_biconflict, received_unheld free]
      exact op_eq (m := s.m.lateRsp) (by simp [snoopConflict, linked, out]) late
  · rw [exec_snoopTimeout, snoopTimeout_timed timed]
  · rw [exec_snoopTimeout, snoopTimeout_ended timed]

end Sys2Proof
end

section
/-! PROOFS. What the serving of the requests that stand at the home leaves alone: the ports (R104-R130). -/

namespace Sys2Proof.Machine

/-! ### Snoops -/

@[simp ↓] theorem ports_home (m : Mach) (x : Home) : ({ m with home := x } : Mach).shell.ports = m.shell.ports := rfl

@[simp] theorem ports_ite (c : Prop) [Decidable c] (a b : Mach) :
    (if c then a else b).shell.ports = if c then a.shell.ports else b.shell.ports := apply_ite (fun m : Mach => m.shell.ports) ..

@[simp] theorem ports_foldl {α : Type} {f : Mach → α → Mach} (hf : ∀ m a, (f m a).shell.ports = m.shell.ports) (l : List α) (m : Mach) :
    (l.foldl f m).shell.ports = m.shell.ports := by
  induction l generalizing m with
  | nil => rfl
  | cons a l ih => rw [List.foldl_cons, ih, hf]

@[simp] theorem ports_snoopFail (L : Image) (m : Mach) (h line : Nat) : (snoopFail L m h line).shell.ports = m.shell.ports := by
  rw [snoopFail_shell]
  rfl

@[simp] theorem ports_deadSnoop (L : Image) (m : Mach) (h line : Nat) : (deadSnoop L m h line).shell.ports = m.shell.ports := by
  unfold deadSnoop
  split <;> simp

@[simp] theorem ports_snoop (m : Mach) (h line kind : Nat) : (m.snoop h line kind).shell.ports = m.shell.ports := by
  simp [Mach.snoop]

@[simp] theorem ports_snoopAll (L : Image) (m : Mach) (line : Nat) (need : List (Nat × Nat)) :
    (snoopAll L m line need).2.2.shell.ports = m.shell.ports := by
  have dead := ports_foldl (f := fun m (p : Nat × Nat) => deadSnoop L m p.1 line) (fun m p => ports_deadSnoop L m p.1 line)
    (need.filter (fun p => m.gone p.1)) m
  unfold snoopAll
  dsimp only
  split
  · exact dead
  · split
    · exact (ports_foldl (fun m (p : Nat × Nat) => ports_snoop m p.1 line p.2) _ _).trans dead
    · exact dead

@[simp] theorem ports_sfEvict (L : Image) (m : Mach) (line : Nat) : (sfEvict L m line).shell.ports = m.shell.ports := by
  have evict (m : Mach) : ((m.bump oSfEvict).pmuEvent 0x105 (sliceOf line) 1).shell.ports = m.shell.ports := by simp
  unfold sfEvict
  extract_lets c best
  split
  · rfl
  · next v _ =>
    extract_lets x m1 m2
    have snooped : m1.shell.ports = m.shell.ports := ports_snoopAll ..
    clear_value m1
    split
    · exact snooped
    · split
      · exact (evict _).trans snooped
      · exact (ports_home ..).trans ((evict _).trans snooped)

@[simp] theorem ports_sfSpace (L : Image) (m : Mach) (r : Req) : (sfSpace L m r).2.shell.ports = m.shell.ports := by
  unfold sfSpace
  dsimp only
  split
  · rfl
  · split
    · split
      · rfl
      · exact ports_sfEvict ..
    · exact ports_home ..

@[simp] theorem shell_setReq (m : Mach) (r : Req) : (m.setReq r).shell = m.shell := shell_home _ rfl

@[simp] theorem ports_sfFailed (L : Image) (m : Mach) (r : Req) : (sfFailed L m r).shell.ports = m.shell.ports := by
  unfold sfFailed
  dsimp only
  split
  · rfl
  · simp

/-! ### The end of a request -/

@[simp] theorem shell_refund (m : Mach) (k n : Nat) : (m.refund k n).shell = m.shell := shell_bwg ..

@[simp] theorem shell_countCharge (m : Mach) (r : Req) (n : Nat) : (m.countCharge r n).shell = m.shell := by
  unfold Mach.countCharge
  split <;> simp

@[simp] theorem shell_settleCharge (m : Mach) (r : Req) (free : Bool) : (m.settleCharge r free).shell = m.shell := by
  obtain h | h | h := settleCharge_cases m r free <;> rw [h]
  · exact shell_refund ..
  · exact shell_countCharge ..

@[simp] theorem shell_freeReq (m : Mach) (r : Req) : (m.freeReq r).shell = m.shell := shell_home _ rfl

@[simp ↓] theorem shell_pmu (m : Mach) (x : Pmu) : ({ m with pmu := x } : Mach).shell = m.shell := rfl

@[simp] theorem shell_sampleWrite (m : Mach) (bytes : List Byte) : (m.sampleWrite bytes).shell = m.shell := by
  unfold Mach.sampleWrite
  dsimp only
  split
  · split <;> exact shell_pmu ..
  · split
    · exact (shell_irq ..).trans (shell_pmu ..)
    · exact shell_pmu ..

@[simp] theorem shell_sampleDone (m : Mach) (r : Req) (p : Bool) : (m.sampleDone r p).shell = m.shell := by
  unfold Mach.sampleDone
  split <;> simp

@[simp] theorem shell_noteEnd (m : Mach) (r : Req) (p : Bool) : (m.noteEnd r p).shell = m.shell := by
  unfold Mach.noteEnd
  dsimp only
  split
  · split <;> simp
  · simp

@[simp] theorem shell_endReq (m : Mach) (r : Req) (p : Bool) : (m.endReq r p).shell = m.shell := by
  unfold Mach.endReq
  dsimp only
  split
  · exact (shell_noteEnd ..).trans ((shell_setReq ..).trans (shell_home _ rfl))
  · exact (shell_noteEnd ..).trans ((shell_freeReq ..).trans (shell_home _ rfl))

/-! ### Lines of the line cache -/

@[simp] theorem shell_lcDrop (m : Mach) (line : Nat) : (m.lcDrop line).shell = m.shell := shell_home _ rfl

@[simp] theorem shell_lcError (L : Image) (m : Mach) (h line : Nat) (err : SramErr) : (lcError L m h line err).shell = m.shell := by
  unfold lcError
  dsimp only
  split
  · simp
  · split <;> simp
  · rfl

@[simp] theorem shell_coalDrop (m : Mach) (line : Nat) : (m.coalDrop line).shell = m.shell := shell_tally ..

@[simp] theorem shell_sendLine (L : Image) (m : Mach) (f line : Nat) (c : CLine) (tag : Tag) : (sendLine L m f line c tag).2.shell = m.shell := by
  simp [sendLine]

@[simp] theorem shell_through (m : Mach) (page : Nat) : (m.through page).shell = m.shell := by
  unfold Mach.through
  split
  · exact (shell_chargeNow ..).trans ((shell_ledWriteLine ..).trans (shell_led ..))
  · rfl

@[simp] theorem shell_noteClean (m : Mach) (page : Nat) : (m.noteClean page).shell = m.shell := by
  unfold Mach.noteClean
  split <;> simp

@[simp] theorem shell_wroteBack (m : Mach) (line : Nat) : (m.wroteBack line).shell = m.shell := by
  unfold Mach.wroteBack
  dsimp only
  split <;> simp

theorem shell_writeBack {L : Image} {m t : Mach} {line : Nat} {tag : Tag} (h : writeBack L m line tag = some t) : t.shell = m.shell := by
  unfold writeBack at h
  split at h
  · cases h
  · next c _ =>
    have sent (f : Nat) : (sendLine L m f line c tag).2.shell = m.shell := shell_sendLine ..
    have send {f : Nat} {t : Mach} (e : (if (sendLine L m f line c tag).1 then some (((sendLine L m f line c tag).2.lcDrop line).wroteBack line)
        else some ((sendLine L m f line c tag).2.lcPut line { c with lock := true })) = some t) : t.shell = m.shell := by
      split at e
      · cases e
        exact (shell_wroteBack ..).trans ((shell_lcDrop ..).trans (sent f))
      · cases e
        exact (shell_lcPut ..).trans (sent f)
    dsimp only at h
    split at h
    · cases h
    · split at h
      · exact send h
      · split at h
        · cases h
        · split at h
          · exact send h
          · split at h
            · cases h
              exact shell_lcDrop ..
            · split at h
              · split at h
                · cases h
                  exact (shell_lcDrop ..).trans (shell_led ..)
                · cases h
              · cases h

@[simp] theorem shell_evictDirty (L : Image) (m : Mach) (mst : Nat) (tag : Tag) (line : Nat) (ways : List (Nat × CLine)) :
    (evictDirty L m mst tag line ways).2.shell = m.shell := by
  unfold evictDirty
  dsimp only
  split
  · rfl
  · split
    · rfl
    · split
      · exact shell_fetchLine ..
      · split
        · next h => exact shell_writeBack h
        · rfl

@[simp] theorem shell_makeWay (L : Image) (m : Mach) (mst : Nat) (tag : Tag) (line : Nat) : (makeWay L m mst tag line).2.shell = m.shell := by
  unfold makeWay
  dsimp only
  split
  · rfl
  · split
    · exact shell_lcDrop ..
    · exact shell_evictDirty ..

@[simp] theorem shell_supersede (m : Mach) (line : Nat) : (m.supersede line).shell = m.shell := rfl

@[simp] theorem shell_install (L : Image) (m : Mach) (mst : Nat) (tag : Tag) (line : Nat) (c : CLine) :
    (install L m mst tag line c).2.shell = m.shell := by
  have way : (if (m.lcGet line).isSome then (true, m) else makeWay L m mst tag line).2.shell = m.shell := by
    rw [shell_ite_snd, shell_makeWay, ite_self]
  unfold install
  dsimp only
  generalize (if (m.lcGet line).isSome then (true, m) else makeWay L m mst tag line) = r at way ⊢
  split
  · exact (shell_lcPut ..).trans (by rw [shell_ite, shell_supersede, ite_self, way])
  · exact way

@[simp] theorem shell_installDirty (L : Image) (m : Mach) (mst : Nat) (tag : Tag) (line : Nat) (data : Line) (p : Bool) (mv : BitVec 2) :
    (installDirty L m mst tag line data p mv).2.shell = m.shell := by
  unfold installDirty
  dsimp only
  split
  · exact (shell_noteDirty ..).trans (shell_install ..)
  · exact shell_install ..

/-! ### Answers -/

@[simp] theorem shell_setStall (m : Mach) (line : Nat) : (m.setStall line).shell = m.shell := by
  simp [Mach.setStall]

@[simp] theorem shell_mergeWith (L : Image) (m : Mach) (q : Req) (d : Line) (p free : Bool) : (mergeWith L m q d p free).2.shell = m.shell := by
  have paid (m : Mach) (n : Nat) : (if n = 0 then m else m.chargeNow mTally n).shell = m.shell := by
    rw [shell_ite, shell_chargeNow, ite_self]
  unfold mergeWith
  dsimp only
  split
  · rfl
  · next c _ =>
    split
    · rfl
    · split
      · refine (shell_raiseA ..).trans ((shell_bumpBy (inner_oTlyCnt _) _).trans ((shell_evb inner_oTlyEvt _).trans ((shell_coalDrop ..).trans (paid _ _))))
      · have put := shell_installDirty L m mTally q.tagged q.line (mergeInto c d).1 false 0#2
        generalize installDirty L m mTally q.tagged q.line (mergeInto c d).1 false 0#2 = i at put ⊢
        split
        · exact put
        · refine (shell_mirrorChange ..).trans ((shell_pmuEvent ..).trans ((shell_bump (inner_oTlyCnt _)).trans ?_))
          rw [shell_ite, shell_evb inner_oTlyEvt, ite_self, shell_bumpBy (inner_oTlyCnt _), shell_coalDrop, paid, put]

@[simp] theorem shell_holdWrite (m : Mach) (r : Req) (why : Merged) : (m.holdWrite r why).shell = m.shell := by
  cases why with
  | done => rfl
  | lag => exact (shell_bump (inner_oYkCnt _)).trans (shell_setReq ..)
  | stall =>
    unfold Mach.holdWrite
    dsimp only
    split
    · exact shell_setReq ..
    · exact (shell_setStall ..).trans (shell_setReq ..)

@[simp] theorem shell_copyLine (m : Mach) (line : Nat) (d : Line) (p : Bool) (mv : BitVec 2) : (m.copyLine line d p mv).shell = m.shell := by
  unfold Mach.copyLine
  split
  · exact shell_sendRec ..
  · rfl

@[simp] theorem shell_agentDone (m : Mach) (r : Req) (data : Line) (p : Bool) (mv : BitVec 2) (ack : Option (Nat × Nat)) :
    (m.agentDone r data p mv ack).shell = m.shell := by
  unfold Mach.agentDone
  split
  · rfl
  · exact shell_home _ rfl

/-- The answer of a read with metadata, and the presence that it records. -/
def readAnswer (L : Image) (m : Mach) (r : Req) (mv : BitVec 2) : Option Meta × Mach :=
  match r.kind with
    | .read want =>
      if dbLine L m r.line then
        if m.caches r.head then
          let e := (m.sfGet r.line).getD {}
          match want with
          | .val .a => (some .a, m.sfPut r.line { pres := headBit r.head, stA := true })
          | .val .s =>
            if e.stA && e.pres == headBit r.head then (some .a, m)
            else (some .s, m.sfPut r.line { pres := e.pres ||| headBit r.head, stA := false })
          | _ => (some .i, m)
        else (some .i, m)
      else match want with
        | .val _ => (some (metaOf mv), m)
        | .noOp => (none, m)
    | _ => (none, m)

/-- An answer sent to whom the request came from. -/
def Mach.sendAnswer (m : Mach) (r : Req) (d : Line) (p : Bool) (mv : BitVec 2) (ans : Option Meta) : Mach :=
  match r.kind with
    | .agRead => if r.src = 12 then m.copyLine r.line d p mv else m.agentDone r d p mv none
    | .ioRead => if r.quiet then m else m.send (.ioCpl r.head r.tag d p false)
    | _ => if r.quiet then m else m.send (.memData r.head r.tag d p ans)

theorem deliver_eq (L : Image) (m : Mach) (r : Req) (d : Line) (p : Bool) (mv : BitVec 2) :
    deliver L m r d p mv = ((readAnswer L m r mv).2.sendAnswer r d p mv (readAnswer L m r mv).1).endReq r p := rfl

@[simp] theorem shell_readAnswer (L : Image) (m : Mach) (r : Req) (mv : BitVec 2) : (readAnswer L m r mv).2.shell = m.shell := by
  unfold readAnswer
  dsimp only
  split
  · split
    · split
      · split
        · exact shell_sfPut ..
        · split
          · rfl
          · exact shell_sfPut ..
        · rfl
      · rfl
    · split <;> rfl
  · rfl

@[simp] theorem shell_sendAnswer (m : Mach) (r : Req) (d : Line) (p : Bool) (mv : BitVec 2) (ans : Option Meta) :
    (m.sendAnswer r d p mv ans).shell = m.shell := by
  unfold Mach.sendAnswer
  split <;> split
  · exact shell_copyLine ..
  · exact shell_agentDone ..
  all_goals rfl

@[simp] theorem shell_deliver (L : Image) (m : Mach) (r : Req) (d : Line) (p : Bool) (mv : BitVec 2) : (deliver L m r d p mv).shell = m.shell := by
  simp [deliver_eq]

@[simp] theorem shell_sfWrite (m : Mach) (r : Req) : (m.sfWrite r).shell = m.shell := by
  unfold Mach.sfWrite
  split
  · split
    · split
      · exact shell_sfClear ..
      · split
        · exact shell_sfPut ..
        · rfl
      · rfl
    · rfl
  · rfl

@[simp] theorem shell_endWrite (m : Mach) (r : Req) (old : BitVec 512) (p : Bool) : (m.endWrite r old p).shell = m.shell := by
  unfold Mach.endWrite
  refine (shell_endReq ..).trans ?_
  split
  · rfl
  · split <;> rfl

end Sys2Proof.Machine
end

section
/-! PROOFS. What the home's turns, and what comes back from memory for it, leave alone: the ports (R104-R130, R164, R270, R318-R321). -/

namespace Sys2Proof.Machine

/-! ### Data for a request -/

@[simp] theorem shell_finishWrite (L : Image) (m : Mach) (r : Req) (d : Line) (p : Bool) (mv : BitVec 2) (old : BitVec 512) (oldP : Bool) :
    (finishWrite L m r d p mv old oldP).shell = m.shell := by
  unfold finishWrite
  split
  · exact shell_holdWrite ..
  · extract_lets mv' i t r'
    have put : i.2.shell = m.shell := shell_installDirty ..
    split
    · exact (shell_holdWrite ..).trans put
    · have ht : t.shell = m.shell := (shell_sfWrite ..).trans put
      clear_value t r'
      have changed : (if r'.kind.ours then mirrorChange L t 1 r'.line r'.head (clsNat r'.cls) p mv' (some d) else (none, t)).2.shell = m.shell := by
        rw [shell_ite_snd, shell_mirrorChange, ite_self, ht]
      generalize (if r'.kind.ours then mirrorChange L t 1 r'.line r'.head (clsNat r'.cls) p mv' (some d) else (none, t)) = x at changed ⊢
      obtain ⟨s, u⟩ := x
      dsimp only at changed ⊢
      have done : (match r'.kind with
          | .agWrite .. | .agClear _ => u.agentDone r' old oldP mv' s
          | _ => u).shell = m.shell := by
        split
        · exact (shell_agentDone ..).trans changed
        · exact (shell_agentDone ..).trans changed
        · exact changed
      split
      · split
        · exact (shell_setReq ..).trans done
        · exact (shell_endWrite ..).trans done
      · exact (shell_endWrite ..).trans done

@[simp] theorem shell_withData (L : Image) (m : Mach) (r : Req) (d : Line) (p : Bool) (mv : BitVec 2) (free : Bool) :
    (withData L m r d p mv free).shell = m.shell := by
  unfold withData
  split
  · extract_lets x
    have merged : x.2.shell = m.shell := shell_mergeWith ..
    clear_value x
    split
    · exact (shell_setReq ..).trans merged
    · exact (shell_holdWrite ..).trans merged
  · split
    case h_7 =>
      split
      · exact (shell_endReq ..).trans (shell_agentDone ..)
      · exact shell_finishWrite ..
    case h_8 =>
      split
      · refine (shell_endReq ..).trans ?_
        split <;> rfl
      · exact shell_finishWrite ..
    all_goals simp

@[simp] theorem shell_installClean (L : Image) (m : Mach) (f : Fill) : (installClean L m f).2.shell = m.shell := by
  unfold installClean
  split
  · rfl
  · exact shell_install ..

@[simp] theorem shell_fillLine (L : Image) (m : Mach) (f : Fill) : (fillLine L m f).shell = m.shell := by
  unfold fillLine
  dsimp only
  split
  · exact shell_installClean ..
  · exact (shell_setStall ..).trans ((shell_home _ rfl).trans (shell_installClean ..))

@[simp] theorem shell_judgedFor (L : Image) (m : Mach) (r : Req) (j : Judged) : (judgedFor L m r j).shell = m.shell := by
  unfold judgedFor
  refine (shell_withData ..).trans ?_
  simp only [shell_ite, shell_fillLine, shell_settleCharge, ite_self]

/-! ### The way below -/

@[simp] theorem shell_readFrame (L : Image) (m : Mach) (r : Req) (f : Nat) : (readFrame L m r f).shell = m.shell := by
  have sent (r : Req) (q : QEnt) : ((m.setReq r).sendRead q).2.shell = m.shell := (shell_sendRead ..).trans (shell_setReq ..)
  unfold readFrame
  dsimp only
  split
  · exact (shell_judgedFor ..).trans (sent _ _)
  · exact sent _ _

@[simp] theorem shell_sendAhead (L : Image) (m : Mach) (q : QEnt) (c : Bool) : (sendAhead L m q c).shell = m.shell := by
  have sent := shell_sendRead m q
  unfold sendAhead
  dsimp only
  generalize m.sendRead q = x at sent ⊢
  obtain ⟨fate, t⟩ := x
  split
  · next e => cases e; exact (shell_setSub ..).trans sent
  · next e => cases e; exact sent

@[simp] theorem shell_startDecode (L : Image) (m : Mach) (r : Req) (page : Nat) (e : LEnt) (w : Nat) : (startDecode L m r page e w).shell = m.shell := by
  unfold startDecode
  exact (shell_foldl (fun _ _ => shell_sendAhead ..) _ _).trans ((shell_chn ..).trans (shell_chargeNow ..))

@[simp] theorem shell_below (L : Image) (m : Mach) (r : Req) : (below L m r).shell = m.shell := by
  unfold below
  dsimp only
  split
  · exact shell_readFrame ..
  · split
    · simp
    · have counted : (if r.lmiss then m else m.pmuEvent 0x201 0 1).shell = m.shell := by rw [shell_ite, shell_pmuEvent, ite_self]
      generalize (if r.lmiss then m else m.pmuEvent 0x201 0 1) = t at counted ⊢
      split
      · exact (shell_withData ..).trans ((shell_settleCharge ..).trans counted)
      · split
        · exact (shell_withData ..).trans ((shell_retiredAccess ..).trans ((shell_settleCharge ..).trans counted))
        · split
          · exact (shell_readFrame ..).trans counted
          · have settled := (shell_settleCharge t r true).trans counted
            split
            · exact (shell_setReq ..).trans settled
            · exact (shell_setReq ..).trans ((shell_startDecode ..).trans settled)

@[simp] theorem shell_sfTouch (m : Mach) (line : Nat) : (m.sfTouch line).shell = m.shell := by
  unfold Mach.sfTouch
  split
  · exact shell_sfPut ..
  · rfl

@[simp] theorem shell_serve (L : Image) (m : Mach) (r : Req) : (serve L m r).shell = m.shell := by
  have found := shell_lcError L m r.head r.line r.sram
  unfold serve
  extract_lets s t r'
  have found : t.shell = m.shell := found
  clear_value t r'
  split
  · refine (shell_endReq ..).trans ?_
    have cleared : (if r'.src < 8 then t.sfClear r'.head r'.line else t).shell = m.shell := by rw [shell_ite, shell_sfClear, ite_self, found]
    split
    · exact cleared
    · exact (shell_send ..).trans cleared
  · exact (shell_setReq ..).trans found
  · exact (shell_endReq ..).trans found
  · exact found
  · exact found
  · split
    · exact (shell_withData ..).trans ((shell_settleCharge ..).trans found)
    · split
      · next c _ =>
        refine (shell_withData ..).trans ((shell_settleCharge ..).trans ?_)
        split
        · exact (shell_partCnt ..).trans ((shell_pmuEvent ..).trans ((shell_lcPut ..).trans found))
        · exact (shell_pmuEvent ..).trans ((shell_lcPut ..).trans found)
      · split
        · exact (shell_withData ..).trans ((shell_settleCharge ..).trans found)
        · refine (shell_below ..).trans ?_
          split
          · exact found
          · exact (shell_pmuEvent ..).trans found

@[simp] theorem shell_mergeFirst (L : Image) (m : Mach) (r : Req) : (mergeFirst L m r).shell = m.shell := by
  unfold mergeFirst
  split
  · exact shell_withData ..
  · exact shell_below ..

/-! ### Turns -/

/-- The mark that a head's missing back-invalidation credit has been logged is no part of the ports. -/
@[simp] theorem shell_biLogged (m : Mach) (h : Nat) (b : Bool) : (m.setHead h { m.head h with biLogged := b }).shell = m.shell := by
  have heads : (fun k => ((m.setHead h { m.head h with biLogged := b }).head k).port) = fun k => (m.head k).port := by
    funext k
    by_cases hk : k = h
    · subst hk
      unfold Mach.head Mach.setHead
      dsimp only
      split
      · rfl
      · rw [Tbl.get, Tbl.find?_insert_self]
        rfl
    · unfold Mach.head Mach.setHead Tbl.get
      rw [Tbl.find?_insert_ne _ _ hk]
  unfold Mach.shell Mach.ports
  rw [heads]
  rfl

theorem ports_ite_of {c : Prop} [Decidable c] {a b : Mach} {p : Ports} (ha : a.shell.ports = p) (hb : b.shell.ports = p) :
    (if c then a else b).shell.ports = p := by
  rw [ports_ite, ha, hb, ite_self]

@[simp] theorem ports_turn (L : Image) (m : Mach) (r : Req) : (turn L m r).shell.ports = m.shell.ports := by
  have space (m : Mach) : (sfSpace L m r).2.shell.ports = m.shell.ports := ports_sfSpace ..
  unfold turn
  extract_lets own db x head u v y merges need z w k
  have hu : u.shell = m.shell := by
    unfold u
    split
    · exact (shell_raise ..).trans ((shell_evb inner_oHomEvt _).trans (shell_biLogged ..))
    · rfl
  have hw : w.shell.ports = m.shell.ports := (ports_snoopAll ..).trans (congrArg Shell.ports hu)
  have hv : v.shell = m.shell := (shell_settleCharge ..).trans ((shell_evb inner_oHomEvt _).trans hu)
  have serves {t : Mach} (ht : t.shell.ports = m.shell.ports) : (serve L (t.sfTouch r.line) r).shell.ports = m.shell.ports := by
    rw [shell_serve, shell_sfTouch, ht]
  refine ports_ite_of (ports_ite_of ?_ (space m)) (ports_ite_of ?_ (ports_ite_of (serves (congrArg Shell.ports hu)) (ports_ite_of
    (ports_ite_of ?_ hw) (ports_ite_of ?_ (ports_ite_of (ports_ite_of (serves ?_) ?_) (serves hw))))))
  · exact (ports_sfFailed ..).trans (space m)
  · rw [shell_endReq]
    unfold y
    split
    · rw [hv]
    · split <;> exact congrArg Shell.ports hv
  · rw [shell_setReq, hw]
  · rw [shell_mergeFirst, hw]
  · exact (space w).trans hw
  · exact (space w).trans hw

@[simp] theorem shell_filled (m : Mach) : m.filled.shell = m.shell := shell_home _ rfl

@[simp] theorem shell_retryFills (L : Image) (m : Mach) : (retryFills L m).shell = m.shell := by
  unfold retryFills
  refine shell_foldl (fun m f => ?_) _ _
  dsimp only
  split
  · exact (shell_home _ rfl).trans (shell_installClean ..)
  · exact shell_installClean ..

@[simp] theorem ports_pumpPass (L : Image) (m : Mach) : (pumpPass L m).shell.ports = m.shell.ports := by
  unfold pumpPass
  refine (ports_foldl (fun m id => ?_) _ _).trans ?_
  · split
    · split
      · exact ports_turn ..
      · rfl
    · rfl
  · rw [shell_filled, shell_retryFills]

theorem ports_pump (L : Image) (n : Nat) (m : Mach) : (pump L n m).shell.ports = m.shell.ports := by
  induction n generalizing m with
  | zero => rfl
  | succ n ih =>
    unfold pump
    dsimp only
    split
    · rfl
    · rw [ih, ports_pumpPass]

@[simp] theorem ports_pumpAll (L : Image) (m : Mach) : (m.pumpAll L).shell.ports = m.shell.ports := ports_pump ..

end Sys2Proof.Machine
end

section
/-! PROOFS. What comes back from memory, what a class A detection does, and the end of a command leave of the part: the heads keep their
links and take nothing in, and all else around the home is as it was (R458-R466, R480, R483). -/

namespace Sys2Proof.Machine

/-! ### What is kept -/

/-- The requests that wait at a head. -/
def Head.waiting (x : Head) : List Req := x.rxReq ++ (x.qRt ++ x.qTable ++ x.qBulk ++ x.rxRwd)

/-- A head's link is as it was, and what waits there waited there. -/
structure Head.Kept (x y : Head) : Prop where
  st : y.st = x.st
  width : y.width = x.width
  memActive : y.memActive = x.memActive
  walk : y.walk = x.walk
  held : y.held = x.held
  arrived : ∀ r ∈ y.rxReq, r ∈ x.rxReq
  waiting : ∀ r ∈ y.waiting, ∃ q ∈ x.waiting, r.quiet = q.quiet ∧ r.kind = q.kind

theorem Head.Kept.refl (x : Head) : x.Kept x := ⟨rfl, rfl, rfl, rfl, rfl, fun _ h => h, fun r h => ⟨r, h, rfl, rfl⟩⟩

theorem Head.Kept.trans {x y z : Head} (h : x.Kept y) (k : y.Kept z) : x.Kept z where
  st := k.st.trans h.st
  width := k.width.trans h.width
  memActive := k.memActive.trans h.memActive
  walk := k.walk.trans h.walk
  held := k.held.trans h.held
  arrived r hr := h.arrived r (k.arrived r hr)
  waiting r hr := by
    obtain ⟨q, hq, e1, e2⟩ := k.waiting r hr
    obtain ⟨p, hp, e3, e4⟩ := h.waiting q hq
    exact ⟨p, hp, e1.trans e3, e2.trans e4⟩

/-- A head's record with the same port. -/
theorem Head.Kept.of_port {x y : Head} (h : y.port = x.port) : x.Kept y := by
  have waits : y.waiting = x.waiting := (congrArg Head.waiting h :)
  have rxReq : y.rxReq = x.rxReq := (congrArg Head.rxReq h :)
  exact ⟨(congrArg Head.st h :), (congrArg Head.width h :), (congrArg Head.memActive h :), (congrArg Head.walk h :), (congrArg Head.held h :),
    fun r hr => rxReq ▸ hr, fun r hr => ⟨r, waits ▸ hr, rfl, rfl⟩⟩

/-- The ports without the heads. -/
def Ports.headless (p : Ports) : Ports := { p with head := fun _ => {} }

/-- The heads keep their links and take nothing in; the other ports are as they were. -/
structure Kept (m t : Mach) : Prop where
  rest : t.ports.headless = m.ports.headless
  head : ∀ h, (m.head h).Kept (t.head h)

namespace Kept
variable {m t u : Mach}

theorem refl (m : Mach) : Kept m m := ⟨rfl, fun _ => .refl _⟩

theorem trans (h : Kept m t) (k : Kept t u) : Kept m u := ⟨k.rest.trans h.rest, fun i => (h.head i).trans (k.head i)⟩

theorem of_ports (h : t.shell.ports = m.shell.ports) : Kept m t :=
  ⟨congrArg Ports.headless h, fun i => .of_port (congrFun (congrArg Ports.head h) i)⟩

theorem of_shell (h : t.shell = m.shell) : Kept m t := .of_ports (congrArg Shell.ports h)

theorem ite {c : Prop} [Decidable c] {a b : Mach} (ha : Kept m a) (hb : Kept m b) : Kept m (if c then a else b) := by
  split
  · exact ha
  · exact hb

theorem foldl {α : Type} {f : Mach → α → Mach} (hf : ∀ m a, Kept m (f m a)) (l : List α) (m : Mach) : Kept m (l.foldl f m) := by
  induction l generalizing m with
  | nil => exact refl m
  | cons a l ih => exact (hf m a).trans (ih _)

theorem mgmt (h : Kept m t) : t.mgmt = m.mgmt := (congrArg Ports.mgmt h.rest :)
theorem pci (h : Kept m t) : t.pci = m.pci := (congrArg Ports.pci h.rest :)
theorem pbusy (h : Kept m t) : t.pwr.pbusy = m.pwr.pbusy := (congrArg Ports.pbusy h.rest :)
theorem pparts (h : Kept m t) : t.pwr.pparts = m.pwr.pparts := (congrArg Ports.pparts h.rest :)
theorem thermtrip (h : Kept m t) : t.pwr.thermtrip = m.pwr.thermtrip := (congrArg Ports.thermtrip h.rest :)
theorem pwrCfg (h : Kept m t) : t.reg oPwrCfg = m.reg oPwrCfg := (congrArg Ports.pwrCfg h.rest :)
theorem mptEvt (h : Kept m t) : t.reg oMptEvt = m.reg oMptEvt := (congrArg Ports.mptEvt h.rest :)
theorem mbox (h : Kept m t) (k : Nat) : (t.mb k).unlogged = (m.mb k).unlogged := congrFun (congrArg Ports.mbox h.rest :) k

end Kept

theorem head_setHead_cases (m : Mach) (h : Nat) (x : Head) : (m.setHead h x).head h = m.head h ∨ (m.setHead h x).head h = x := by
  unfold Mach.head Mach.setHead
  dsimp only
  split
  · exact .inl rfl
  · rw [Tbl.get, Tbl.find?_insert_self]
    exact .inr rfl

/-- A head's record that keeps its link. -/
theorem Kept.setHead {m t : Mach} (ht : Kept m t) (h : Nat) {x : Head} (hx : (m.head h).Kept x) : Kept m (t.setHead h x) := by
  refine ⟨ht.rest, fun k => ?_⟩
  by_cases hk : k = h
  · subst hk
    obtain e | e := head_setHead_cases t k x <;> rw [e]
    · exact ht.head k
    · exact hx
  · rw [head_setHead_ne t hk]
    exact ht.head k

theorem kept_setHead (m : Mach) (h : Nat) {x : Head} (hx : (m.head h).Kept x) : Kept m (m.setHead h x) := (Kept.refl m).setHead h hx

/-! ### What comes back from memory -/

@[simp] theorem ports_handOver (L : Image) (m : Mach) (q : QEnt) (j : Judged) : (handOver L m q j).shell.ports = m.shell.ports := by
  unfold handOver
  split
  · split
    · rw [ports_pumpAll, shell_judgedFor]
    · rfl
  · rfl

@[simp] theorem ports_answer (L : Image) (m : Mach) (k : Nat) (q : QEnt) (j : Judged) : (answer L m k q j).shell.ports = m.shell.ports := by
  unfold answer
  split
  · split
    · rw [shell_setSub]
    · rfl
  · exact ports_handOver ..

@[simp] theorem shell_entered (m : Mach) (q : QEnt) : (m.entered q).shell = m.shell := by
  unfold Mach.entered
  split
  · split
    · exact (shell_wroteBack ..).trans (shell_lcDrop ..)
    · rfl
  · rfl

@[simp] theorem ports_takeEntered (L : Image) (m : Mach) (k : Nat) (e : Entered) : (takeEntered L m k e).shell.ports = m.shell.ports :=
  (ports_foldl (fun _ _ => ports_answer ..) _ _).trans (congrArg Shell.ports (shell_foldl shell_entered _ _))

@[simp] theorem ports_takeNews (L : Image) (n : Nat) (m : Mach) : (takeNews L n m).shell.ports = m.shell.ports := by
  induction n generalizing m with
  | zero => rfl
  | succ n ih =>
    unfold takeNews
    split
    · rfl
    · refine (ih _).trans ((ports_pumpAll ..).trans (ports_foldl (fun m k => ?_) _ _))
      rw [ports_takeEntered, shell_setSub]

/-! ### What an access undoes -/

@[simp] theorem shell_exitSr (m : Mach) (k : Nat) : (m.exitSr k).shell = m.shell := by
  unfold Mach.exitSr
  split
  · exact shell_subOut ..
  · rfl

@[simp] theorem shell_exitSrAll (m : Mach) : m.exitSrAll.shell = m.shell := shell_foldl shell_exitSr _ _

@[simp] theorem shell_freeMarks (L : Image) (m : Mach) : (freeMarks L m).shell = m.shell := by
  unfold freeMarks
  dsimp only
  split
  · exact (shell_raise ..).trans ((shell_evb inner_oLdgEvt _).trans (shell_led ..))
  · exact shell_led ..

@[simp] theorem shell_giveFrame (L : Image) (m : Mach) (f : Nat) : (giveFrame L m f).shell = m.shell := by
  unfold giveFrame
  split
  · exact (shell_freeMarks ..).trans (shell_led ..)
  · exact shell_led ..

@[simp] theorem shell_deepBack (L : Image) (m : Mach) : (deepBack L m).shell = m.shell := shell_foldl (shell_giveFrame L) _ _

/-- Parts of the scrubber and of the power controller other than what the ports say of it. -/
theorem shell_scb_pwr (m : Mach) (b : Scb) (p : Pwr) (h : p.pbusy = m.pwr.pbusy ∧ p.pparts = m.pwr.pparts ∧ p.thermtrip = m.pwr.thermtrip) :
    ({ m with scb := b, pwr := p } : Mach).shell = m.shell := by
  obtain ⟨h1, h2, h3⟩ := h
  unfold Mach.shell Mach.ports
  dsimp only
  rw [h1, h2, h3]
  rfl

@[simp] theorem shell_undoEntry (L : Image) (m : Mach) : (undoEntry L m).shell = m.shell := by
  unfold undoEntry
  split
  · rfl
  · extract_lets m1 m2 pwr scb m3
    have h1 : m1.shell = m.shell := shell_foldl (fun m k => by rw [shell_ite, shell_reach, ite_self]) _ _
    have h2 : m2.shell = m1.shell := shell_exitSrAll m1
    clear_value m2
    have h3 : m3.shell = m2.shell := shell_scb_pwr _ _ _ ⟨rfl, rfl, rfl⟩
    exact (shell_bump (inner_of (by decide))).trans ((shell_deepBack ..).trans (h3.trans (h2.trans h1)))

@[simp] theorem ports_wrapUp (L : Image) (m : Mach) : (wrapUp L m).shell.ports = m.shell.ports := by
  unfold wrapUp
  dsimp only
  split
  · exact (congrArg Shell.ports (shell_undoEntry ..)).trans (ports_takeNews L newsRounds m)
  · exact ports_takeNews ..

/-! ### What is raised -/

@[simp] theorem shell_vote (m : Mach) (u : Upset) : (vote m u).shell = m.shell := by
  have voted (w : Word) : (((m.evb oScbEvt 6).bump oCntVote).setReg oVoteLast w).shell = m.shell :=
    (shell_setReg _ _ (inner_of (by decide))).trans ((shell_bump (inner_of (by decide))).trans (shell_evb inner_oScbEvt _))
  unfold vote
  dsimp only
  split
  · rfl
  · split
    · exact (shell_raiseOcc ..).trans (voted _)
    · exact shell_raiseOcc ..

@[simp] theorem shell_voteStruck (m : Mach) : (voteStruck m).shell = m.shell := (shell_foldl shell_vote _ _).trans (shell_scb ..)

@[simp] theorem shell_firstA (m : Mach) (src : Nat) (inj : Bool) : (m.firstA src inj).shell = m.shell := by
  unfold Mach.firstA
  split
  · rfl
  · exact shell_setReg _ _ (inner_of (by decide))

@[simp] theorem shell_record (L : Image) (m : Mach) (o : Occ) (inj real : Bool) : (record L m o inj real).shell = m.shell :=
  (recorded_record L m o inj real).shell

/-! ### The safe state -/

@[simp] theorem shell_wokenByA (m : Mach) : m.wokenByA.shell = m.shell := by
  have cause (w : Word) : (m.setReg oWakeCause w).shell = m.shell := shell_setReg _ _ (inner_of (by decide))
  unfold Mach.wokenByA
  split
  · exact cause _
  · exact cause _
  · exact cause _
  · rfl
  · rfl

@[simp] theorem shell_refuse (m : Mach) (h tag : Nat) (kind : ReqKind) (err : Bool) : (m.refuse h tag kind err).shell = m.shell := by
  unfold Mach.refuse
  split <;> rfl

@[simp] theorem shell_safeAnswer (m : Mach) (r : Req) : (m.safeAnswer r).shell = m.shell := by
  unfold Mach.safeAnswer
  split
  · rfl
  · exact shell_refuse ..

/-- A part of the home other than the snoops, and the ledger. -/
theorem shell_home_led (m : Mach) {x : Home} (h : x.snoops = m.home.snoops) (l : Ledger) : ({ m with home := x, led := l } : Mach).shell = m.shell :=
  (shell_led { m with home := x } l).trans (shell_home m h)

@[simp] theorem shell_safeHome (m : Mach) : (safeHome m).shell = m.shell := by
  unfold safeHome
  dsimp only
  rw [shell_foldl shell_safeAnswer]
  refine shell_home_led m ?_ _
  rfl

@[simp] theorem shell_giveCredit (m : Mach) (h : Nat) (k : ReqKind) : (m.giveCredit h k).shell = m.shell := by
  unfold Mach.giveCredit
  split <;> rfl

/-- A head whose requests are taken from it. -/
theorem Head.kept_emptied (x : Head) (l : List Post) :
    x.Kept { x with post := l, qRt := [], qTable := [], qBulk := [], rxReq := [], rxRwd := [], panic := false } where
  st := rfl
  width := rfl
  memActive := rfl
  walk := rfl
  held := rfl
  arrived _ hr := absurd hr List.not_mem_nil
  waiting _ hr := absurd hr List.not_mem_nil

/-- A head whose requests and link are as they were. -/
theorem Head.Kept.of_eq {x y : Head} (hw : y.waiting = x.waiting) (hr : y.rxReq = x.rxReq) (hs : y.st = x.st) (h1 : y.width = x.width)
    (h2 : y.memActive = x.memActive) (h3 : y.walk = x.walk) (h4 : y.held = x.held) : x.Kept y :=
  ⟨hs, h1, h2, h3, h4, fun _ h => hr ▸ h, fun r h => ⟨r, hw ▸ h, rfl, rfl⟩⟩

theorem kept_safeHead (m : Mach) (h : Nat) : Kept m (safeHead m h) := by
  have posted : Kept m (if (m.head h).post.isEmpty then m else m.setHead h { m.head h with post := [] }) :=
    .ite (.refl m) (kept_setHead m h (.of_eq rfl rfl rfl rfl rfl rfl rfl))
  unfold safeHead
  dsimp only
  generalize (if (m.head h).post.isEmpty then m else m.setHead h { m.head h with post := [] }) = t at posted ⊢
  have credited (l : List Req) : Kept m (l.foldl (fun m r => if r.quiet then m else m.giveCredit h r.kind) t) :=
    posted.trans (.of_shell (shell_foldl (fun m r => by rw [shell_ite, shell_giveCredit, ite_self]) _ _))
  have credited := credited (rxOrder { m.head h with post := [] })
  generalize (rxOrder { m.head h with post := [] }).foldl (fun m r => if r.quiet then m else m.giveCredit h r.kind) t = u at credited ⊢
  exact .ite credited ((credited.trans (.of_shell (shell_foldl shell_safeAnswer _ _))).setHead h (Head.kept_emptied ..))

theorem kept_safeViral (m : Mach) (h : Nat) : Kept m (safeViral m h) := by
  have viral : (m.head h).Kept { m.head h with viral := true } := .of_eq rfl rfl rfl rfl rfl rfl rfl
  exact .ite ((kept_setHead m h viral).trans (.of_shell (shell_send ..))) (.refl m)

@[simp] theorem shell_drainQueues (L : Image) (m : Mach) (k : Nat) : (drainQueues L m k).shell = m.shell := shell_runUntil ..

@[simp] theorem shell_writeCanaries (m : Mach) (ch sub : Nat) : (writeCanaries m ch sub).shell = m.shell :=
  (shell_foldl (fun _ _ => shell_sendWrite ..) _ _).trans (shell_setSub ..)

@[simp] theorem shell_payDebt (m : Mach) (k : Nat) : (m.payDebt k).shell = m.shell :=
  shell_foldl (fun _ _ => shell_foldl (fun _ _ => (shell_upkeep ..).trans (shell_issue ..)) _ _) _ _

@[simp] theorem shell_drainWrites (L : Image) (m : Mach) (k : Nat) : (drainWrites L m k).shell = m.shell :=
  shell_foldl (fun m _ => by rw [shell_ite, shell_mcCycle, ite_self]) _ _

@[simp] theorem shell_enterSr (L : Image) (m : Mach) (k : Nat) (calm : Bool) : (enterSr L m k calm).shell = m.shell := by
  unfold enterSr
  split
  · rfl
  · dsimp only
    rw [shell_setSub, shell_upkeep]
    split
    · simp
    · simp

@[simp] theorem shell_enterSrAll (L : Image) (m : Mach) (calm : Bool) : (enterSrAll L m calm).shell = m.shell :=
  (shell_foldl (fun _ _ => (shell_enterSr ..).trans (shell_enterSr ..)) _ _).trans (shell_mcs ..)

@[simp] theorem shell_safeSub (L : Image) (m : Mach) (k : Nat) : (safeSub L m k).shell = m.shell :=
  (shell_setSub ..).trans (shell_drainWrites ..)

theorem kept_safeMach (L : Image) (m : Mach) : Kept m (safeMach L m) := by
  unfold safeMach
  extract_lets m1 m2 m3 yoke m4 m5 scb tally pwr tst m6 r flt
  have h1 : Kept m m1 := .of_shell (shell_wokenByA m)
  have h2 : Kept m m2 := h1.trans ((Kept.foldl kept_safeHead _ _).trans (.of_shell (shell_safeHome _)))
  have h3 : Kept m m3 := h2.trans (.foldl kept_safeViral _ _)
  have h4 : m4.shell = m3.shell := (shell_ykFlit ..).trans (shell_yoke ..)
  have h5 : m5.shell = m4.shell := (shell_enterSrAll ..).trans (shell_foldl (shell_safeSub L) _ _)
  clear_value m5
  have h6 : m6.shell = m5.shell := rfl
  clear_value m6
  have kept : Kept m m6 := h3.trans (.of_shell (h6.trans (h5.trans h4)))
  exact .ite (kept.trans (.of_shell (shell_flt ..))) kept

/-! ### The end of a command -/

theorem kept_take (s : State) (o : Occ) (inj real : Bool) : Kept s.m (s.take o inj real).m := by
  have logged : Kept s.m (record s.live (s.m.firstA o.src inj) o inj real) := .of_shell ((shell_record ..).trans (shell_firstA ..))
  unfold State.take
  split
  · dsimp only
    generalize record s.live (s.m.firstA o.src inj) o inj real = t at logged ⊢
    split
    · exact logged
    · have safe := kept_safeMach s.live (deepBack s.live t)
      generalize safeMach s.live (deepBack s.live t) = u at safe ⊢
      exact (logged.trans (.of_shell (shell_deepBack s.live t))).trans safe
  · exact .of_shell (shell_record s.live s.m o inj real)

theorem kept_takes (l : List Occ) {m : Mach} {s : State} (h : Kept m s.m) : Kept m (l.foldl (fun s o => s.take o false true) s).m := by
  induction l generalizing s with
  | nil => exact h
  | cons o l ih => exact ih (h.trans (kept_take s o false true))

theorem kept_drainRaised {m : Mach} {s : State} (h : Kept m s.m) : Kept m s.drainRaised.m := by
  unfold State.drainRaised
  exact kept_takes _ (h.trans (.of_shell (shell_raised s.m [])))

/-- The end of a command keeps the heads' links and the other ports. -/
theorem kept_settle (s : State) : Kept s.m (settle s).m := by
  have wrapped : Kept s.m (wrapUp s.live (voteStruck s.m)) := .of_ports ((ports_wrapUp ..).trans (congrArg Shell.ports (shell_voteStruck s.m)))
  generalize eq : wrapUp s.live (voteStruck s.m) = t at wrapped
  unfold settle
  rw [eq]
  exact kept_drainRaised (kept_drainRaised wrapped)

end Sys2Proof.Machine
end

section
/-! PROOFS. A CORE cycle keeps the heads' links and the other ports (R50, R51, R103, R105, R300-R303). -/

namespace Sys2Proof.Machine

/-! ### The cycle's counts -/

@[simp] theorem shell_clockEvents (m : Mach) : (clockEvents m).shell = m.shell := by
  have busy (n : Nat) : (if n = 0 then m else m.chn.run.foldl (fun m p => m.pmuEvent 0x301 (p.1 / 8) n) m).shell = m.shell := by
    rw [shell_ite, shell_foldl (fun _ _ => shell_pmuEvent ..), ite_self]
  exact (shell_foldl (fun m vc => by rw [shell_ite, shell_pmuEvent, ite_self]) _ _).trans (busy _)

@[simp] theorem shell_cycleEvents (m : Mach) : (cycleEvents m).shell = m.shell := by
  unfold cycleEvents
  refine (shell_foldl (fun _ _ => shell_pmuEvent ..) _ _).trans ((shell_clockEvents _).trans ((shell_foldl (fun m s => ?_) _ _).trans
    (shell_foldl (fun m h => ?_) _ _)))
  · dsimp only
    rw [shell_ite, shell_pmuEvent, ite_self]
  · dsimp only
    rw [shell_ite, shell_pmuEvent, ite_self, shell_ite, shell_pmuEvent, ite_self]

@[simp] theorem shell_cycleCounts (m : Mach) : (cycleCounts m).shell = m.shell := by
  have told (m : Mach) (b : Bwg) : ({ m with core := m.core + 1, bwg := b } : Mach).shell = m.shell := rfl
  exact (told _ _).trans (shell_cycleEvents m)

/-! ### Acceptance at a slice -/

@[simp] theorem shell_wedgeEnter (L : Image) (m : Mach) (r : Req) (data : Line) (poison asRead : Bool) :
    (wedgeEnter L m r data poison asRead).shell = m.shell :=
  (shell_foldl (fun _ _ => shell_withData ..) _ _).trans (shell_fillLine ..)

@[simp] theorem shell_sampleTick (m : Mach) (r : Req) : (m.sampleTick r).2.shell = m.shell := by
  unfold Mach.sampleTick
  dsimp only
  split
  · rfl
  · split
    · exact (shell_pmu ..).trans ((shell_pmu ..).trans (shell_tick m))
    · exact shell_pmu ..

@[simp] theorem shell_sampleHeat (L : Image) (m : Mach) (line : Nat) : (sampleHeat L m line).shell = m.shell := by
  unfold sampleHeat
  dsimp only
  split
  · exact shell_led ..
  · split
    · exact shell_led ..
    · exact (shell_addHeat ..).trans (shell_led ..)

@[simp] theorem shell_stand (r : Req) (m : Mach) : (enter.stand r m).shell = m.shell := by
  unfold enter.stand
  exact (shell_home _ rfl).trans ((shell_home _ rfl).trans (shell_sampleTick ..))

@[simp] theorem shell_enter (L : Image) (m : Mach) (r : Req) : (enter L m r).shell = m.shell := by
  have stood : (enter.stand r m).shell = m.shell := shell_stand r m
  unfold enter
  split
  · exact shell_wedgeEnter ..
  · dsimp only
    split
    · refine (shell_home _ rfl).trans ?_
      split
      · exact shell_bump (inner_oDquCnt _)
      · rfl
    · exact stood
  · split
    · split
      · exact (shell_sampleHeat ..).trans ((shell_partCnt ..).trans stood)
      · exact (shell_sampleHeat ..).trans ((shell_partCnt ..).trans stood)
      · exact stood
    · exact stood

@[simp] theorem ports_sliceCycle (L : Image) (m : Mach) : (sliceCycle L m).shell.ports = m.shell.ports := by
  rw [sliceCycle_eq, ports_pumpAll, shell_foldl]
  intro m s
  unfold acceptAt
  split
  · exact (shell_enter ..).trans (shell_home _ rfl)
  · rfl

/-! ### Admission -/

@[simp] theorem shell_chargeAdmit (m : Mach) (r : Req) : (m.chargeAdmit r).shell = m.shell := by
  unfold Mach.chargeAdmit
  split
  case h_6 => split <;> simp
  all_goals simp

@[simp] theorem shell_letIn (m : Mach) (r : Req) : (m.letIn r).shell = m.shell := by
  unfold Mach.letIn
  split <;> exact shell_home _ rfl

theorem mem_waiting_of_queue {x : Head} {c : Cls} {r : Req} (h : r ∈ x.queue c) : r ∈ x.waiting := by
  simp only [Head.waiting, List.mem_append]
  cases c <;> simp only [Head.queue] at h <;> tauto

theorem mem_waiting_setQueue {x : Head} {c : Cls} {l : List Req} {r : Req} (h : r ∈ (x.setQueue c l).waiting) : r ∈ l ∨ r ∈ x.waiting := by
  simp only [Head.waiting, List.mem_append] at h ⊢
  cases c <;> simp only [Head.setQueue] at h <;> tauto

/-- A class queue that holds nothing new. -/
theorem Head.Kept.setQueue {y x : Head} (hk : y.Kept x) (c : Cls) {l : List Req}
    (hl : ∀ r ∈ l, ∃ q ∈ y.waiting, r.quiet = q.quiet ∧ r.kind = q.kind) : y.Kept (x.setQueue c l) := by
  obtain ⟨st, rxReq⟩ : (x.setQueue c l).st = x.st ∧ (x.setQueue c l).rxReq = x.rxReq := by cases c <;> exact ⟨rfl, rfl⟩
  obtain ⟨width, mem, walk, held⟩ : (x.setQueue c l).width = x.width ∧ (x.setQueue c l).memActive = x.memActive ∧
      (x.setQueue c l).walk = x.walk ∧ (x.setQueue c l).held = x.held := by cases c <;> exact ⟨rfl, rfl, rfl, rfl⟩
  exact ⟨st.trans hk.st, width.trans hk.width, mem.trans hk.memActive, walk.trans hk.walk, held.trans hk.held,
    fun r h => hk.arrived r (rxReq ▸ h), fun r h => (mem_waiting_setQueue h).elim (hl r) (hk.waiting r)⟩

theorem kept_dequeue (m : Mach) (r : Req) : Kept m (m.dequeue r) := by
  refine .ite (.of_shell (shell_home _ rfl)) (kept_setHead m r.src ((Head.Kept.refl _).setQueue _ fun q hq => ⟨q, ?_, rfl, rfl⟩))
  exact mem_waiting_of_queue (List.mem_filter.mp hq).1

theorem kept_admitCycle (L : Image) (n left : Nat) (passed : List Nat) (m : Mach) : Kept m (admitCycle L n left passed m) := by
  induction n generalizing left passed m with
  | zero => exact .refl m
  | succ n ih =>
    unfold admitCycle
    refine .ite (.refl m) ?_
    split
    · exact .refl m
    · next k b _ =>
      split
      · exact .refl m
      · next r _ _ =>
        refine .ite (.trans (.of_shell (shell_pmuEvent ..)) (ih ..)) (.trans ?_ (ih ..))
        exact (Kept.of_shell (shell_bwg m b)).trans ((kept_dequeue _ r).trans (.of_shell ((shell_letIn ..).trans (shell_chargeAdmit ..))))

/-! ### The receive buffers -/

theorem mem_waiting_of_rxOrder {x : Head} {r : Req} (h : r ∈ rxOrder x) : r ∈ x.waiting := by
  obtain ⟨i, -, hi⟩ := List.mem_filterMap.mp h
  have mem := List.mem_of_find?_eq_some hi
  simp only [Head.waiting, List.mem_append] at mem ⊢
  tauto

/-- Receive buffers that hold fewer requests. -/
theorem Head.Kept.taken {y x : Head} (hk : y.Kept x) (p : Req → Bool) :
    y.Kept { x with rxReq := x.rxReq.filter p, rxRwd := x.rxRwd.filter p } := by
  refine ⟨hk.st, hk.width, hk.memActive, hk.walk, hk.held, fun r h => hk.arrived r (List.mem_filter.mp h).1, fun r h => hk.waiting r ?_⟩
  simp only [Head.waiting, List.mem_append, List.mem_filter] at h ⊢
  tauto

/-- A request that moves into a class queue: what it is and whether it is answered are as before. -/
theorem Head.Kept.queued {y x : Head} (hk : y.Kept x) (c : Cls) {r q : Req} (hq : q ∈ y.waiting) (he : r.quiet = q.quiet ∧ r.kind = q.kind) :
    y.Kept (x.setQueue c (x.queue c ++ [r])) := by
  refine hk.setQueue c fun p hp => ?_
  obtain hp | hp := List.mem_append.mp hp
  · exact hk.waiting p (mem_waiting_of_queue hp)
  · exact ⟨q, hq, (List.mem_singleton.mp hp) ▸ he⟩

/-- A step over requests that a head holds keeps what it keeps. -/
theorem Kept.foldl_waiting {m : Mach} {h : Nat} {α : Type} {f : α × Mach → Req → α × Mach}
    (hf : ∀ a r, r ∈ (m.head h).waiting → Kept m a.2 → Kept m (f a r).2) (l : List Req) (hl : ∀ r ∈ l, r ∈ (m.head h).waiting) (a : α × Mach)
    (ha : Kept m a.2) : Kept m (l.foldl f a).2 := by
  induction l generalizing a with
  | nil => exact ha
  | cons r l ih =>
    obtain ⟨hr, hl⟩ := List.forall_mem_cons.mp hl
    exact ih hl _ (hf a r hr ha)

theorem kept_portMove (L : Image) (m : Mach) (h : Nat) : Kept m (portMove L m h) := by
  refine Kept.foldl_waiting (fun a r hr ha => ?_) _ (fun r => mem_waiting_of_rxOrder) _ (.refl m)
  dsimp only
  split
  · exact ha
  · split
    · exact ha
    · refine (ha.setHead h (Head.Kept.taken ?_ _)).trans (.of_shell (shell_giveCredit ..))
      exact (ha.head h).queued _ hr ⟨rfl, rfl⟩

theorem kept_panicLevel (m : Mach) (h : Nat) : Kept m (panicLevel m h) := by
  unfold panicLevel
  exact .ite (.refl m) (kept_setHead m h (.of_eq rfl rfl rfl rfl rfl rfl rfl))

/-- A CORE cycle keeps the heads' links and the other ports. -/
theorem kept_coreCycle (L : Image) (m : Mach) : Kept m (coreCycle L m) := by
  have counts : Kept m (cycleCounts m) := .of_shell (shell_cycleCounts m)
  rw [coreCycle_eq]
  generalize cycleCounts m = t at counts
  exact counts.trans ((Kept.ite (kept_admitCycle L 54 16 [] t) (.refl t)).trans ((Kept.of_ports (ports_sliceCycle ..)).trans
    ((Kept.foldl (fun m h => .ite (.refl m) (kept_portMove L m h)) _ _).trans (.foldl kept_panicLevel _ _))))

end Sys2Proof.Machine
end

section
/-! PROOFS. The accesses of the part's own agents, and the fall of a function's rings, keep the heads' links and the other ports (R393, R404). -/

namespace Sys2Proof.Machine

@[simp ↓] theorem shell_hev (m : Mach) (x : Tbl Word) : ({ m with hev := x } : Mach).shell = m.shell := rfl

/-! ### Accesses of an agent -/

@[simp] theorem shell_issueAll (m : Mach) (l : List Req) : (m.issueAll l).shell = m.shell := by
  refine shell_foldl (fun m r => ?_) _ _
  refine shell_home_led m ?_ _
  rfl

theorem kept_cyclesFor (L : Image) (who n left : Nat) (m : Mach) : Kept m (cyclesFor L who n left m) := by
  induction n generalizing left m with
  | zero => exact .refl m
  | succ n ih => exact .ite ((kept_coreCycle L m).trans (ih ..)) (.refl m)

theorem kept_agentGo (L : Image) (m : Mach) (who : Nat) (l : List Req) : Kept m (agentGo L m who l) :=
  (Kept.of_shell (shell_issueAll m l)).trans ((kept_coreCycle L _).trans (kept_cyclesFor ..))

theorem kept_mergeWhere (L : Image) (m : Mach) (p : Nat → Bool) : Kept m (mergeWhere L m p).2 := .ite (.refl m) (kept_agentGo ..)

@[simp] theorem shell_untake (m : Mach) (who : Nat) : (m.untake who).shell = m.shell := shell_home_led m rfl _

@[simp] theorem shell_agentClear (m : Mach) (who : Nat) : (m.agentClear who).shell = m.shell := by
  unfold Mach.agentClear
  dsimp only
  split
  · exact (shell_untake ..).trans (shell_home _ rfl)
  · exact shell_home _ rfl

@[simp] theorem ports_agentForget (L : Image) (m : Mach) (who : Nat) : (agentForget L m who).shell.ports = m.shell.ports := by
  unfold agentForget
  dsimp only
  rw [ports_pumpAll]
  exact (ports_home ..).trans (congrArg Shell.ports (shell_agentClear m who))

/-! ### Tally records -/

@[simp] theorem shell_outOfPart (m : Mach) (h kind addr : Nat) : (m.outOfPart h kind addr).shell = m.shell :=
  (shell_raiseA ..).trans ((shell_hev ..).trans (shell_evb (inner_oHeadEvt h) _))

@[simp] theorem shell_coalPut (m : Mach) (r : TRec) : (m.coalPut r).shell = m.shell := by
  unfold Mach.coalPut
  dsimp only
  split
  · exact shell_tally ..
  · exact (shell_partCnt ..).trans ((shell_pmuEvent ..).trans ((shell_bump (inner_oTlyCnt _)).trans (shell_tally ..)))

theorem kept_coalEnter (L : Image) (m : Mach) (r : TRec) : Kept m (coalEnter L m r) :=
  (Kept.of_shell (shell_coalPut m r)).trans (.ite (kept_mergeWhere ..) (.refl _))

theorem kept_coalAdd (L : Image) (m : Mach) (r : TRec) : Kept m (coalAdd L m r).2 := by
  have merged (line : Nat) : Kept m (if (mergeLine L m line).1 then (true, coalEnter L (mergeLine L m line).2 r) else mergeLine L m line).2 := by
    have merge : Kept m (mergeLine L m line).2 := kept_mergeWhere ..
    generalize mergeLine L m line = x at merge ⊢
    split
    · exact merge.trans (kept_coalEnter ..)
    · exact merge
  unfold coalAdd
  split
  · exact .refl m
  · split
    · split
      · exact merged _
      · exact kept_coalEnter ..
    · split
      · exact merged _
      · exact kept_coalEnter ..

theorem kept_tallyDrain (L : Image) (n : Nat) (m : Mach) : Kept m (tallyDrain L n m) := by
  induction n generalizing m with
  | zero => exact .refl m
  | succ n ih =>
    unfold tallyDrain
    split
    · exact .refl m
    · next r t _ =>
      have add := kept_coalAdd L m r
      generalize coalAdd L m r = x at add ⊢
      obtain ⟨b, u⟩ := x
      cases b with
      | true => exact (add.trans (.of_shell (shell_tally u _))).trans (ih _)
      | false => exact add

theorem kept_tallyTake (L : Image) (m : Mach) (h p off : Nat) (w : BitVec 64) (whole : Bool) : Kept m (tallyTake L m h p off w whole) := by
  refine .of_shell ?_
  unfold tallyTake
  split
  · exact (shell_bump (inner_oTlyCnt _)).trans (shell_evb inner_oTlyEvt _)
  · split
    · exact shell_tally ..
    · exact shell_outOfPart ..

theorem kept_tallyAccept (L : Image) (m : Mach) (h off : Nat) (recs : List (BitVec 64 × Bool)) : Kept m (tallyAccept L m h off recs) := by
  unfold tallyAccept
  dsimp only
  split
  · exact .of_shell (shell_outOfPart ..)
  · split
    · exact .of_shell (shell_outOfPart ..)
    · exact (Kept.foldl (fun m i => kept_tallyTake L m h ..) _ _).trans (kept_tallyDrain ..)

theorem kept_takePost (L : Image) (m : Mach) (h : Nat) (w : Post) : Kept m (takePost L m h w).2 := by
  unfold takePost
  split
  · exact .of_shell ((shell_bump (inner_oTlyCnt _)).trans (shell_evb inner_oTlyEvt _))
  · split
    · exact kept_tallyAccept ..
    · exact .refl m

theorem kept_takePosts (L : Image) (h : Nat) (l : List Post) (m : Mach) : Kept m (takePosts L h l m) := by
  induction l generalizing m with
  | nil => exact .refl m
  | cons w l ih =>
    unfold takePosts
    have take := kept_takePost L m h w
    generalize takePost L m h w = x at take ⊢
    obtain ⟨b, u⟩ := x
    cases b with
    | true =>
      have left : (u.head h).Kept { u.head h with post := l } := .of_eq rfl rfl rfl rfl rfl rfl rfl
      exact (take.trans (kept_setHead u h left)).trans (ih _)
    | false => exact take

theorem kept_drainTally (L : Image) (m : Mach) : Kept m (m.drainTally L) :=
  (kept_tallyDrain L _ m).trans (.foldl (fun m h => kept_takePosts L h _ m) _ _)

/-! ### The jobs of a ring -/

@[simp] theorem shell_setRing (m : Mach) (n : Nat) (r : Ring) : (m.setRing n r).shell = m.shell := shell_dqu ..

@[simp] theorem shell_dquEvent (m : Mach) (ring bit : Nat) : (m.dquEvent ring bit).shell = m.shell :=
  (shell_setReg _ _ inner_oDquLast).trans (shell_evb inner_oDquEvt _)

@[simp] theorem shell_dropStale (m : Mach) (id : Nat) : (m.dropStale id).shell = m.shell := (shell_bumpBy (inner_oDquCnt _) _).trans (shell_home _ rfl)

@[simp] theorem shell_wantChurn (m : Mach) (w : Running) : (m.wantChurn w).shell = m.shell := by
  unfold Mach.wantChurn
  split
  · dsimp only
    split
    · rfl
    · split <;> rfl
  · rfl

@[simp] theorem shell_chnEnter (m : Mach) (k : Nat) : (m.chnEnter k).shell = m.shell := by
  unfold Mach.chnEnter
  split
  · split
    · exact (shell_wantChurn ..).trans ((shell_chn ..).trans (shell_chn ..))
    · rfl
  · rfl

@[simp] theorem shell_unrunJob (m : Mach) (id : Nat) : (m.unrunJob id).shell = m.shell := (shell_foldl shell_chnEnter _ _).trans (shell_chn ..)

@[simp] theorem shell_setJob (m : Mach) (j : Job) : (m.setJob j).shell = m.shell := shell_dqu ..

theorem kept_giveBack (L : Image) (m : Mach) (took : List Took) : Kept m (giveBack L m took) := by
  refine (Kept.of_shell (shell_foldl (fun m t => ?_) _ _)).trans (kept_drainTally ..)
  dsimp only
  split
  · exact shell_tally ..
  · exact shell_bump (inner_oTlyCnt _)

theorem kept_endJob (L : Image) (m : Mach) (id status result : Nat) : Kept m (endJob L m id status result) := by
  unfold endJob
  split
  · exact .refl m
  · next j _ =>
    split
    · exact .refl m
    · extract_lets took m1 n chn m2 m3 m4 m5 dqu m6 m7 m8
      have h1 : Kept m m1 := by
        refine .of_ports ((ports_agentForget ..).trans ?_)
        rw [ports_ite, shell_dropStale, shell_unrunJob, ite_self]
      have h3 : Kept m m3 := h1.trans (.of_shell ((shell_setJob ..).trans (shell_chn ..)))
      have h4 : Kept m m4 := .ite (h3.trans (kept_giveBack ..)) h3
      have h5 : Kept m m5 := .ite (h4.trans (.of_shell ((shell_dquEvent ..).trans (shell_bump (inner_oDquCnt _))))) h4
      have h6 : Kept m m6 := .ite (h5.trans (.of_shell (shell_dqu ..))) h5
      have h7 : Kept m m7 := .ite (h6.trans (.of_shell (shell_bump (inner_oDquCnt _)))) h6
      have h8 : Kept m m8 := .ite (h7.trans (.of_shell (shell_evb inner_oChnEvt _))) h7
      exact .ite h8 (h8.trans (.of_shell (shell_dqu ..)))

theorem kept_stopJob (L : Image) (m : Mach) (id status : Nat) : Kept m (stopJob L m id status) := by
  unfold stopJob
  split
  · exact kept_endJob ..
  · exact .refl m

theorem kept_stopRing (L : Image) (m : Mach) (n status : Nat) : Kept m (stopRing L m n status) := by
  refine .foldl (fun m j => ?_) _ _
  split
  · exact .refl m
  · exact kept_stopJob ..

theorem ports_ringForget (L : Image) (m : Mach) (n : Nat) : (ringForget L m n).shell.ports = m.shell.ports :=
  (ports_foldl (fun _ _ => ports_agentForget ..) _ _).trans (ports_agentForget ..)

theorem kept_ringFall (L : Image) (m : Mach) (n : Nat) : Kept m (ringFall L m n) := by
  have forgot (r : Ring) : Kept m (ringForget L (m.setRing n r) n) := .of_ports ((ports_ringForget ..).trans (congrArg Shell.ports (shell_setRing ..)))
  have fell {t : Mach} (ht : Kept m t) (q : Dqu) : Kept m (((stopRing L { t with dqu := q } n 10).dquEvent n 2).raise 153 n) :=
    ((ht.trans (.of_shell (shell_dqu t q))).trans (kept_stopRing ..)).trans (.of_shell ((shell_raise ..).trans (shell_dquEvent ..)))
  unfold ringFall
  dsimp only
  split
  · exact fell (forgot _) _
  · exact fell (forgot _) _
  · exact fell (forgot _) _
  · exact .refl m

/-- The fall of a function's rings keeps the heads' links and the other ports. -/
theorem kept_ringsFall (L : Image) (m : Mach) (fn : Nat) : Kept m (ringsFall L m fn) := .foldl (fun m n => .ite (kept_ringFall L m n) (.refl m)) _ _

end Sys2Proof.Machine
end

section
/-! PROOFS. A head whose link is lost keeps only whole writes that nobody is answered for (R39, R55, R66-R68, R404), and the statement
LostLinksAreDropped: O31. -/

namespace Sys2Proof.Machine

/-! ### A lost head -/

/-- A head without its link: what waits there are whole writes that nobody is answered for. -/
structure Head.Lost (x : Head) (st : HeadSt) : Prop where
  st : x.st = st
  width : x.width = 0
  memActive : x.memActive = false
  rxReq : x.rxReq = []
  held : x.held = []
  writes : ∀ r ∈ x.waiting, r.quiet = true ∧ r.kind.isLineWrite = true

/-- What keeps a head's link keeps it lost. -/
theorem Head.Lost.kept {x y : Head} {st : HeadSt} (h : x.Lost st) (k : x.Kept y) : y.Lost st where
  st := k.st.trans h.st
  width := k.width.trans h.width
  memActive := k.memActive.trans h.memActive
  rxReq := List.eq_nil_iff_forall_not_mem.mpr fun r hr => List.not_mem_nil (h.rxReq ▸ k.arrived r hr)
  held := k.held.trans h.held
  writes r hr := by
    obtain ⟨q, hq, e1, e2⟩ := k.waiting r hr
    rw [e1, e2]
    exact h.writes q hq

/-- The writes of a list, with nobody to answer. -/
theorem quiet_writes {l : List Req} {r : Req} (h : r ∈ (l.filter (fun r => r.kind.isLineWrite)).map (fun r => { r with quiet := true })) :
    r.quiet = true ∧ r.kind.isLineWrite = true := by
  obtain ⟨q, hq, rfl⟩ := List.mem_map.mp h
  exact ⟨rfl, (List.mem_filter.mp hq).2⟩

theorem dropped_writes (x : Head) : ∀ r ∈ x.dropped.waiting, r.quiet = true ∧ r.kind.isLineWrite = true := by
  intro r hr
  simp only [Head.waiting, Head.dropped, List.nil_append, List.mem_append] at hr
  obtain ((h | h) | h) | h := hr <;> exact quiet_writes h

/-! ### The drop -/

@[simp] theorem shell_forgetReqs (m : Mach) (l : List Req) : (m.forgetReqs l).shell = m.shell := shell_home _ rfl

@[simp] theorem shell_hush (m : Mach) (h : Nat) : (m.hush h).shell = m.shell := shell_home _ rfl

/-- A drop changes the head's record at its instant; what follows from it keeps the heads' links. -/
theorem kept_dropHead (L : Image) (m : Mach) (h : Nat) (d : DropEnv) : Kept (m.setHead h (m.head h).dropped) (dropHead L m h d) := by
  unfold dropHead
  extract_lets x queued mine gone skid written lost reads m1 poisoned m2 m3 y m4
  have h1 : m1.shell = (m.setHead h x.dropped).shell := (shell_hush ..).trans ((shell_forgetReqs ..).trans (shell_evb (inner_oHeadEvt h) _))
  have h2 : m2.shell.ports = m1.shell.ports := ports_foldl (fun _ _ => ports_snoopFail ..) _ _
  have h3 : m3.shell = m2.shell := shell_foldl (fun _ _ => shell_poisonLine ..) _ _
  have before : Kept (m.setHead h x.dropped) m3 := .of_ports ((congrArg Shell.ports h3).trans (h2.trans (congrArg Shell.ports h1)))
  have recorded : Kept m3 m4 := kept_setHead m3 h (.of_eq rfl rfl rfl rfl rfl rfl rfl)
  exact before.trans (recorded.trans (.of_ports (ports_pumpAll ..)))

/-- The other heads keep their links, and the other ports are as they were. -/
structure KeptBut (h : Nat) (m t : Mach) : Prop where
  rest : t.ports.headless = m.ports.headless
  head : ∀ k, k ≠ h → (m.head k).Kept (t.head k)

namespace KeptBut
variable {h : Nat} {m t u : Mach}

theorem of_kept (k : Kept m t) : KeptBut h m t := ⟨k.rest, fun i _ => k.head i⟩

theorem trans (a : KeptBut h m t) (b : KeptBut h t u) : KeptBut h m u := ⟨b.rest.trans a.rest, fun i hi => (a.head i hi).trans (b.head i hi)⟩

theorem setHead (m : Mach) (h : Nat) (x : Head) : KeptBut h m (m.setHead h x) :=
  ⟨rfl, fun _ hk => by rw [head_setHead_ne m hk]; exact .refl _⟩

end KeptBut

/-- A head's record when its link has been dropped. -/
def Head.linkless (x : Head) (st : HeadSt) : Head :=
  { x with st, memActive := false, width := 0, skid := false, viralRx := x.viralRx && st != .down, lpwr := .l0,
           l0pOwn := false, l0pLost := 0, rtOwn := false, rtLost := false }

theorem linkLost_linked {m : Mach} {h : Nat} (hl : (m.head h).st.linked = true) (L : Image) (st : HeadSt) (d : DropEnv) :
    linkLost L m h st d = coreCycle L ((dropHead L m h d).setHead h (((dropHead L m h d).head h).linkless st)) := by
  unfold linkLost
  simp only [hl, if_true]
  rfl

/-- A lost link leaves its head lost, and the other heads and ports as they were. -/
theorem linkLost_leaves {m : Mach} {h : Nat} (hl : (m.head h).st.linked = true) (L : Image) (st : HeadSt) (d : DropEnv) :
    ((linkLost L m h st d).head h).Lost st ∧ KeptBut h m (linkLost L m h st d) := by
  have present : (m.head h).st ≠ .absent := by
    intro e
    rw [e] at hl
    cases hl
  have drop := kept_dropHead L m h d
  have dropped := drop.head h
  rw [head_setHead_self present] at dropped
  rw [linkLost_linked hl]
  generalize dropHead L m h d = t at drop dropped
  have hst : (t.head h).st = (m.head h).st := dropped.st
  have lost : ((t.setHead h ((t.head h).linkless st)).head h).Lost st := by
    rw [head_setHead_self (hst ▸ present)]
    have writes := dropped_writes (m.head h)
    refine ⟨rfl, rfl, rfl, List.eq_nil_iff_forall_not_mem.mpr fun r hr => List.not_mem_nil (dropped.arrived r hr), dropped.held, fun r hr => ?_⟩
    obtain ⟨q, hq, e1, e2⟩ := dropped.waiting r hr
    rw [e1, e2]
    exact writes q hq
  have cycle := kept_coreCycle L (t.setHead h ((t.head h).linkless st))
  exact ⟨lost.kept (cycle.head h), ((KeptBut.setHead m h _).trans (.of_kept drop)).trans ((KeptBut.setHead t h _).trans (.of_kept cycle))⟩

/-! ### The commands that lose a link -/

theorem present_of_linked {x : Head} (hl : x.st.linked = true) : x.st ≠ .absent := by
  intro e
  rw [e] at hl
  cases hl

/-- The fall of the rings that a head carries keeps the heads' links. -/
theorem kept_withFall (L : Image) (h : Nat) (f : Mach → Mach) (m : Mach) : Kept (f m) (withFall L h f m) := .ite (kept_ringsFall L (f m) h) (.refl _)

theorem withFall_leaves {m : Mach} {h : Nat} {st : HeadSt} {f : Mach → Mach} (L : Image) (hf : ((f m).head h).Lost st) :
    ((withFall L h f m).head h).Lost st := hf.kept ((kept_withFall L h f m).head h)

/-- What a head that lost its link is when the command ends. -/
theorem lost_settles {s : State} {h : Nat} {u : Mach} {st : HeadSt} (hu : (u.head h).Lost st) : ∃ t, (.next (settle { s with m := u }) :
    Host.Outcome State Fault Refusal) = .next t ∧ (t.m.head h).st = st ∧ (t.m.head h).width = 0 ∧ (t.m.head h).memActive = false ∧ t.live = s.live ∧
      (t.m.head h).rxReq = [] ∧ (t.m.head h).held = [] ∧
      ∀ r ∈ (t.m.head h).qRt ++ (t.m.head h).qTable ++ (t.m.head h).qBulk ++ (t.m.head h).rxRwd, r.quiet = true ∧ r.kind.isLineWrite = true := by
  obtain ⟨h1, h2, h3, h4, h5, h6⟩ := hu.kept ((kept_settle { s with m := u }).head h)
  exact ⟨_, rfl, h1, h2, h3, settle_live _, h4, h5, fun r hr => h6 r (List.mem_append_right _ hr)⟩

theorem exec_linkDown (h : Fin 8) (d : DropEnv) (s : State) : exec (.linkDown h d) s =
    .next (settle { s with m := if (s.m.head h).st.linked then withFall s.live h (fun m => linkLost s.live m h .down d) s.m else s.m }) := by rfl

theorem exec_headDisable (h : Fin 8) (d : DropEnv) (s : State) : exec (.headDisable h d) s =
    .next (settle { s with m := withFall s.live h (fun m => disable s.live m h d) s.m }) := by rfl

theorem exec_refclkLoss (which : RefClk) (back : List (Fin 8)) (d : DropEnv) (s : State) : exec (.refclkLoss which back d) s =
    .next (settle { s with m := refclkLoss s.live s.m which back d }) := by rfl

/-- ENABLE written 0 leaves a linked head DISABLED. -/
theorem disable_leaves {m : Mach} {h : Nat} (hl : (m.head h).st.linked = true) (L : Image) (d : DropEnv) :
    ((disable L m h d).head h).Lost .disabled := by
  have enabled : (m.head h).st ≠ .disabled := by
    intro e
    rw [e] at hl
    cases hl
  unfold disable
  rw [if_neg (present_of_linked hl)]
  dsimp only
  rw [if_neg enabled]
  exact (linkLost_leaves (m := m.setReg (oHeadCtl h) (m.reg (oHeadCtl h) &&& ~~~ 1#32)) hl L .disabled d).1

/-- PERST_N asserted leaves a linked head DOWN; the power controller's configuration is as it was. -/
theorem perstOn_leaves {m : Mach} {h : Nat} (hl : (m.head h).st.linked = true) (L : Image) (d : DropEnv) :
    ((perstOn L m h d).head h).Lost .down ∧ (perstOn L m h d).reg oPwrCfg = m.reg oPwrCfg := by
  obtain ⟨lost, others⟩ := linkLost_leaves hl L .down d
  have present : ((linkLost L m h .down d).head h).st ≠ .absent := by
    rw [lost.st]
    decide
  unfold perstOn
  rw [if_neg (present_of_linked hl)]
  generalize linkLost L m h .down d = t at lost others present
  have reset : ((funcReset t h).head h).Lost .down := by
    have set := head_setHead_self present { t.head h with decoders := [], keys := [], keysNew := false, keyGo := none, ideOn := false }
    have same : (funcReset t h).head h = { t.head h with decoders := [], keys := [], keysNew := false, keyGo := none, ideOn := false } := set
    rw [same]
    exact ⟨lost.st, lost.width, lost.memActive, lost.rxReq, lost.held, lost.writes⟩
  refine ⟨?_, (congrArg Ports.pwrCfg others.rest :)⟩
  have kept : ((funcReset t h).head h).Kept { (funcReset t h).head h with perst := true } := .of_eq rfl rfl rfl rfl rfl rfl rfl
  exact reset.kept ((kept_setHead _ h kept).head h)

theorem exec_perstAssert {s : State} {h : Fin 8} {d : DropEnv}
    (hw : (settle { s with m := withFall s.live h (fun m => perstOn s.live m h d) s.m }).m.rbit oPwrCfg 11 = false) :
    exec (.perstAssert h d) s = .next (settle { s with m := withFall s.live h (fun m => perstOn s.live m h d) s.m }) := by
  have e : exec (.perstAssert h d) s = execPerstAssert h d s := by rfl
  rw [e]
  unfold execPerstAssert
  extract_lets edge t all
  rw [if_neg]
  rw [show t.m.rbit oPwrCfg 11 = false from hw]
  simp

/-- A head of a port whose reference clock is lost for good. -/
def clockLost (L : Image) (d : DropEnv) (m : Mach) (h : Nat) : Mach :=
  if !(m.head h).st.linked then (if (m.head h).st = .training then m.setHead h { m.head h with st := .down } else m)
  else withFall L h (fun m => linkLost L m h .down d) m

theorem clockLost_leaves {m : Mach} {h : Nat} (hl : (m.head h).st.linked = true) (L : Image) (d : DropEnv) :
    ((clockLost L d m h).head h).Lost .down := by
  unfold clockLost
  rw [if_neg (by rw [hl]; decide)]
  exact withFall_leaves (f := fun m => linkLost L m h .down d) L (linkLost_leaves hl L .down d).1

theorem clockLost_others (L : Image) (d : DropEnv) (m : Mach) (k : Nat) : KeptBut k m (clockLost L d m k) := by
  unfold clockLost
  split
  · split
    · exact .setHead ..
    · exact .of_kept (.refl m)
  · next hl =>
    exact (linkLost_leaves (by simpa using hl) L .down d).2.trans (.of_kept (kept_withFall L k (fun m => linkLost L m k .down d) m))

theorem clocksLost_others (L : Image) (d : DropEnv) {h : Nat} (l : List Nat) (hl : h ∉ l) (m : Mach) :
    (m.head h).Kept ((l.foldl (clockLost L d) m).head h) := by
  induction l generalizing m with
  | nil => exact .refl _
  | cons k l ih =>
    obtain ⟨hk, hl⟩ := not_or.mp (fun h => hl (List.mem_cons.mpr h))
    exact ((clockLost_others L d m k).head h hk).trans (ih hl _)

theorem clocksLost_leaves (L : Image) (d : DropEnv) {h : Nat} (l : List Nat) (hn : l.Nodup) (hm : h ∈ l) (m : Mach)
    (hl : (m.head h).st.linked = true) : ((l.foldl (clockLost L d) m).head h).Lost .down := by
  induction l generalizing m with
  | nil => cases hm
  | cons k l ih =>
    obtain ⟨hk, hn⟩ := List.nodup_cons.mp hn
    by_cases e : h = k
    · subst e
      exact (clockLost_leaves hl L d).kept (clocksLost_others L d l hk _)
    · refine ih hn ((List.mem_cons.mp hm).resolve_left e) _ ?_
      rw [((clockLost_others L d m k).head h e).st]
      exact hl

theorem refclkLoss_eq (L : Image) (m : Mach) (d : DropEnv) : refclkLoss L m .a [] d = [0, 1, 2, 3].foldl (clockLost L d) m ∧
    refclkLoss L m .b [] d = [4, 5, 6, 7].foldl (clockLost L d) m := ⟨by rfl, by rfl⟩

theorem refclkLoss_leaves {m : Mach} {h : Fin 8} (hl : (m.head h).st.linked = true) (L : Image) (d : DropEnv) :
    ((refclkLoss L m (if h.val < 4 then .a else .b) [] d).head h).Lost .down := by
  have hh := h.isLt
  obtain ⟨a, b⟩ := refclkLoss_eq L m d
  split
  · rw [a]
    exact clocksLost_leaves L d _ (by decide) (by simp; omega) m hl
  · rw [b]
    exact clocksLost_leaves L d _ (by decide) (by simp; omega) m hl

/-! ### The walk and the record of a drop -/

theorem exec_dropFilterWalkDone (h : Fin 8) (s : State) : exec (.dropFilterWalkDone h) s =
    .next (settle { s with m := (dropWalk s.live s.m h).pumpAll s.live }) := by rfl

theorem exec_dropEntriesFreed (h : Fin 8) (s : State) : exec (.dropEntriesFreed h) s = s.op (fun m => dropRecord m h) := by rfl

theorem walk_setHead (m : Mach) (h : Nat) (x : Head) (hx : x.walk = false) : ((m.setHead h x).head h).walk = false := by
  rw [head_setHead]
  split
  · rfl
  · rw [if_pos rfl, hx]

theorem dropWalk_leaves {m : Mach} {h : Nat} (hw : (m.head h).walk = true) (L : Image) : ((dropWalk L m h).head h).walk = false := by
  unfold dropWalk
  rw [hw]
  exact walk_setHead _ _ _ rfl

/-- A head's record that holds a drop, written to its registers. -/
def Mach.dropTold (m : Mach) (h wc wd rd po : Nat) : Mach :=
  ((m.setHead h { m.head h with drop := none }).setReg (oDrop0 h) (put (min 0xFFFF wc) 0 ||| put (min 0xFFFF wd) 16)).setReg (oDrop1 h)
    (put (min 0xFFFF rd) 0 ||| put (min 0xFFFF po) 16)

theorem dropRecord_freed {m : Mach} {h wc wd rd po : Nat} (hd : (m.head h).drop = some (wc, wd, rd, po)) (hf : m.dropping h = false) :
    dropRecord m h = if 0 < po ∨ 0 < wd ∨ 0 < rd then (m.dropTold h wc wd rd po).raiseD 5 h po else (m.dropTold h wc wd rd po).raise 6 h := by
  unfold dropRecord
  simp only [hd, hf, Bool.false_eq_true, if_false]
  rfl

/-- The record of a drop raises no detection of class A. -/
theorem dropRecord_settling {s : State} (hq : Quiet s) {h wc wd rd po : Nat} (hd : (s.m.head h).drop = some (wc, wd, rd, po))
    (hf : s.m.dropping h = false) : Settling (dropRecord s.m h) := by
  have told : Settling (s.m.dropTold h wc wd rd po) := (((settling_of_quiet hq).setHead h _).setReg _ _).setReg _ _
  rw [dropRecord_freed hd hf]
  split
  · obtain ⟨mild, struck, undo, news⟩ := told
    refine ⟨fun o ho => ?_, struck, undo, news⟩
    obtain ho | ho := List.mem_append.mp ho
    · exact mild o ho
    · rw [List.mem_singleton.mp ho]
      exact (by decide : srcClass 5 ≠ some 0)
  · exact told.raise h (by decide)

theorem dropTold_leaves (m : Mach) (h wc wd rd po : Nat) : ((m.dropTold h wc wd rd po).head h).drop = none ∧
    (m.dropTold h wc wd rd po).reg (oDrop0 h) = (put (min 0xFFFF wc) 0 ||| put (min 0xFFFF wd) 16) ∧
    (m.dropTold h wc wd rd po).reg (oDrop1 h) = (put (min 0xFFFF rd) 0 ||| put (min 0xFFFF po) 16) := by
  have apart : oDrop0 h ≠ oDrop1 h := by unfold oDrop0 oDrop1; omega
  refine ⟨?_, (Mach.reg_setReg_ne _ _ apart).trans (Mach.reg_setReg_self ..), Mach.reg_setReg_self ..⟩
  have set := head_setHead m h { m.head h with drop := none } h
  refine (congrArg Head.drop (show (m.dropTold h wc wd rd po).head h = _ from set)).trans ?_
  split
  · rfl
  · rw [if_pos rfl]

end Sys2Proof.Machine

namespace Sys2Proof
open Machine

/-- Settles O31: a drop leaves its head nothing but whole writes; what follows it - the CORE cycle, the fall of the head's rings, the end of
the command - keeps the heads' links and takes nothing in. -/
theorem lostLinksAreDropped : Obligations.LostLinksAreDropped := by
  intro h d s hq hw
  refine ⟨fun linked c st hc => ?_, fun walk => ?_, fun wc wd rd po drop free => ?_⟩
  · simp only [List.mem_cons, Prod.mk.injEq, List.not_mem_nil, or_false] at hc
    obtain ⟨rfl, rfl⟩ | ⟨rfl, rfl⟩ | ⟨rfl, rfl⟩ | ⟨rfl, rfl⟩ := hc
    · rw [exec_linkDown, if_pos linked]
      exact lost_settles (withFall_leaves s.live (linkLost_leaves linked s.live .down d).1)
    · obtain ⟨lost, cfg⟩ := perstOn_leaves linked s.live d
      rw [exec_perstAssert]
      · exact lost_settles (withFall_leaves s.live lost)
      · have fell := (kept_withFall s.live h (fun m => perstOn s.live m h d) s.m).pwrCfg
        rw [← hw, Mach.rbit, Mach.rbit, (kept_settle _).pwrCfg, fell, cfg]
    · rw [exec_headDisable]
      exact lost_settles (withFall_leaves s.live (disable_leaves linked s.live d))
    · rw [exec_refclkLoss]
      exact lost_settles (refclkLoss_leaves linked s.live d)
  · rw [exec_dropFilterWalkDone]
    refine ⟨_, rfl, ?_, settle_live _⟩
    have pumped : Kept (dropWalk s.live s.m h) ((dropWalk s.live s.m h).pumpAll s.live) := .of_ports (ports_pumpAll ..)
    exact ((pumped.trans (kept_settle { s with m := (dropWalk s.live s.m h).pumpAll s.live })).head h).walk.trans (dropWalk_leaves walk s.live)
  · rw [exec_dropEntriesFreed]
    obtain ⟨none, lo, hi⟩ := dropTold_leaves s.m h wc wd rd po
    have told := dropRecord_freed drop free
    obtain ⟨t, ht, kept, -, -⟩ := op_recorded (s := s) (f := fun m => dropRecord m h) (dropRecord_settling hq drop free)
    obtain ⟨head, lo', hi'⟩ : (dropRecord s.m h).head h = (s.m.dropTold h wc wd rd po).head h ∧
        (dropRecord s.m h).reg (oDrop0 h) = (s.m.dropTold h wc wd rd po).reg (oDrop0 h) ∧
        (dropRecord s.m h).reg (oDrop1 h) = (s.m.dropTold h wc wd rd po).reg (oDrop1 h) := by
      rw [told]
      split <;> exact ⟨rfl, rfl, rfl⟩
    refine ⟨t, ht, ?_, ?_, ?_⟩
    · rw [kept.head, head, none]
    · rw [kept.reg _ (by unfold Unlogged oDrop0 oHead; split <;> omega), lo', lo]
    · rw [kept.reg _ (by unfold Unlogged oDrop1 oHead; split <;> omega), hi', hi]

end Sys2Proof
end

section
/-! PROOFS. The management link (R72, R73, R404), the reset of partitions (R489, R493) and the die sensors (R549), and the statement
ManagementLinkResetsAndSensors: O32. -/

namespace Sys2Proof.Machine

/-! ### The management link -/

theorem exec_mgmtLinkUp (w : Nat) (speed : Fin 5) (s : State) : exec (.mgmtLinkUp w speed) s = s.op (fun m => mgmtRise m w speed) := by rfl

theorem exec_mgmtLinkDown (s : State) : exec .mgmtLinkDown s = s.op (mgmtFall s.live) := by rfl

theorem exec_mpPerstNAssert (s : State) : exec .mpPerstNAssert s =
    s.op (fun m => { mgmtFall s.live m with pci := (mgmtFall s.live m).pci.gone mgmtFn }) := by rfl

theorem mgmtFall_down {m : Mach} (h : m.mgmt.up = false) (L : Image) : mgmtFall L m = m := by
  unfold mgmtFall
  rw [h]
  rfl

/-- A management link that falls is down, and nothing else of the ports changes. -/
theorem mgmtFall_up {m : Mach} (h : m.mgmt.up = true) (L : Image) : (mgmtFall L m).mgmt.up = false ∧ (mgmtFall L m).mgmt.width = 0 ∧
    (mgmtFall L m).rbit oMptEvt 0 = true ∧ (∀ k, ((mgmtFall L m).head k).st = (m.head k).st) ∧ (mgmtFall L m).pci = m.pci := by
  have down : mgmtDown m = ((({ m with mgmt := { m.mgmt with up := false, width := 0, lpwr := .l0, held := [] } }).evb oMptEvt 0).raise 8 0) := by
    unfold mgmtDown
    rw [h]
    rfl
  have falls : mgmtFall L m = ringsFall L (mgmtDown m) mgmtFn := by
    unfold mgmtFall
    rw [h]
    rfl
  have told : (mgmtDown m).rbit oMptEvt 0 = true := by
    rw [down]
    exact rbit_evb_self _ _ (by decide)
  obtain ⟨mgmt, head, pci⟩ : (mgmtDown m).mgmt = { m.mgmt with up := false, width := 0, lpwr := .l0, held := [] } ∧
      (∀ k, (mgmtDown m).head k = m.head k) ∧ (mgmtDown m).pci = m.pci := by
    rw [down]
    exact ⟨rfl, fun _ => rfl, rfl⟩
  have kept := kept_ringsFall L (mgmtDown m) mgmtFn
  rw [falls]
  generalize ringsFall L (mgmtDown m) mgmtFn = t at kept
  refine ⟨?_, ?_, ?_, fun k => ?_, kept.pci.trans pci⟩
  · rw [kept.mgmt, mgmt]
  · rw [kept.mgmt, mgmt]
  · rw [Mach.rbit, kept.mptEvt]
    exact told
  · rw [(kept.head k).st, head]

/-- The end of a command that lowered the management link. -/
theorem mgmtFall_settles {s : State} {m : Mach} (h : s.m.mgmt.up = true) (hk : ∃ p, m = { mgmtFall s.live s.m with pci := p }) :
    ∃ t, (.next (settle { s with m }) : Host.Outcome State Fault Refusal) = .next t ∧ t.m.mgmt.up = false ∧ t.m.mgmt.width = 0 ∧
      t.m.rbit oMptEvt 0 = true ∧ (∀ k, k < 8 → (t.m.head k).st = (s.m.head k).st) ∧ t.live = s.live := by
  obtain ⟨p, rfl⟩ := hk
  obtain ⟨up, width, told, heads, -⟩ := mgmtFall_up h s.live
  have kept := kept_settle { s with m := { mgmtFall s.live s.m with pci := p } }
  refine ⟨_, rfl, ?_, ?_, ?_, fun k _ => ?_, settle_live _⟩
  · rw [kept.mgmt]
    exact up
  · rw [kept.mgmt]
    exact width
  · rw [Mach.rbit, kept.mptEvt]
    exact told
  · rw [(kept.head k).st]
    exact heads k

theorem mgmtFall_pci (L : Image) (m : Mach) : (mgmtFall L m).pci = m.pci := by
  cases h : m.mgmt.up with
  | true =>
    obtain ⟨-, -, -, -, pci⟩ := mgmtFall_up h L
    exact pci
  | false => rw [mgmtFall_down h]

/-! ### Partitions -/

theorem exec_flr (h : Fin 8) (s : State) : exec (.flr h) s = received s h (.flr h) fun s => s.work (fun m =>
    if (m.head h).st = .absent then m else partsReset s.live m (s.live.boundTo h)) := by rfl

theorem exec_partition (key : BitVec 24) (s : State) : exec (.partition key) s = s.work (fun m =>
    if key = rstKey ∧ !m.pwr.pbusy then partsReset s.live m [m.rfld oRstArg 5 0] else m) := by rfl

theorem exec_partitionResetDone (s : State) : exec .partitionResetDone s = s.work (partsDone s.live) := by rfl

/-- The reset of partitions begins: they join those being reset. -/
theorem partsReset_leaves (L : Image) (m : Mach) (ps : List Nat) : (partsReset L m ps).pwr.pbusy = true ∧ ∀ p ∈ ps, p ∈ (partsReset L m ps).pwr.pparts := by
  unfold partsReset
  dsimp only
  generalize (mergeWhere L (((List.range 256).filter (fun n => L.rEn n && ps.contains (L.rOwner n))).foldl (ringReset L) m) _).2 = t
  exact ⟨rfl, fun p hp => List.mem_eraseDups.mpr (List.mem_append_right _ hp)⟩

/-- The end of a command that began the reset of partitions. -/
theorem partsReset_settles {s : State} {u : Mach} {ps : List Nat} (busy : u.pwr.pbusy = true) (parts : ∀ p ∈ ps, p ∈ u.pwr.pparts) :
    ∃ t, (.next (settle { s with m := u }) : Host.Outcome State Fault Refusal) = .next t ∧ t.m.pwr.pbusy = true ∧
      (∀ p ∈ ps, p ∈ t.m.pwr.pparts) ∧ t.live = s.live ∧ t.epoch = s.epoch := by
  have kept := kept_settle { s with m := u }
  refine ⟨_, rfl, kept.pbusy.trans busy, fun p hp => ?_, settle_live _, settle_epoch _⟩
  rw [kept.pparts]
  exact parts p hp

theorem mergeWhere_nil {m : Mach} (h : m.tally.coal = []) (L : Image) (p : Nat → Bool) : (mergeWhere L m p).2 = m := by
  simp [mergeWhere, h]

/-- The reset of partitions ends once none of their rings resets and nothing of them waits in the coalescer. -/
theorem partsDone_ends {L : Image} {m : Mach} (hb : m.pwr.pbusy = true) (hc : m.tally.coal = [])
    (hr : ∀ n, n < 256 → m.pwr.pparts.contains (L.rOwner n) = true → (m.ring n).st ≠ .resetting) :
    partsDone L m = { m with pwr := { m.pwr with pbusy := false, pparts := [] } } := by
  have rings : (List.range 256).any (fun n => m.pwr.pparts.contains (L.rOwner n) && (m.ring n).st == .resetting) = false := by
    refine List.any_eq_false.mpr fun n hn => ?_
    have := hr n (List.mem_range.mp hn)
    simpa using this
  unfold partsDone
  simp only [hb, mergeWhere_nil hc, rings, hc, List.any_nil, Bool.or_false, Bool.not_true, Bool.false_eq_true, if_false]

/-! ### Sensors -/

theorem exec_thermalSample (ts : List Int) (s : State) : exec (.thermalSample ts) s = .next (settle { s with m := thermalSample s.m ts }) := by rfl

/-- The machine with the readings of its sensors. -/
def Mach.sampled (m : Mach) (ts : List Int) : Mach := { m with pwr := { m.pwr with temps := ts } }

theorem thermalSample_eq (m : Mach) {ts : List Int} (h : ts.length = 16) :
    thermalSample m ts = tjAlerts m.tj (ts.zipIdx.foldl (fun m p => sensor m p.2 p.1) (m.sampled ts)) := by
  unfold thermalSample
  rw [List.take_of_length_le (by omega)]
  rfl

/-- Without an alert enabled the heads hear of no temperature. -/
theorem tjAlerts_none {m : Mach} (h : ∀ k, k < 8 → (m.mb k).alert = 0#96) (was : Int) : tjAlerts was m = m := by
  have each (l : List Nat) (hl : ∀ k ∈ l, k < 8) : l.foldl (fun m k =>
      let a := (m.mb k).alert
      let m := if a.getLsbD 9 && decide (was < alertTemp a 32 ∧ alertTemp a 32 ≤ m.tj) then m.cxlEvent k 1 (Config.mboxBytes 0x4201 k [1]) else m
      if a.getLsbD 10 && decide (alertTemp a 48 < was ∧ m.tj ≤ alertTemp a 48) then m.cxlEvent k 1 (Config.mboxBytes 0x4201 k [2]) else m) m = m := by
    induction l with
    | nil => rfl
    | cons k l ih =>
      obtain ⟨hk, hl⟩ := List.forall_mem_cons.mp hl
      rw [List.foldl_cons]
      simp only [h k hk, BitVec.getLsbD_zero, Bool.false_and, Bool.false_eq_true, if_false]
      exact ih hl
  exact each _ fun k => List.mem_range.mp

/-- The warnings of the sensors that have cooled down. -/
theorem sensor_cool {m : Mach} {t : Int} (ht : t < 98) (hw : m.pwr.tempWarn = []) (u : Nat) : sensor m u t = m := by
  have warm : ¬ (100 : Int) ≤ t := by omega
  have hot : ¬ (120 : Int) ≤ t := by omega
  unfold sensor
  simp only [ht, if_true, hw, warm, hot, if_false, false_and, List.filter_nil]
  rw [← hw]

theorem sensors_cool {m : Mach} (hw : m.pwr.tempWarn = []) (l : List (Int × Nat)) (hl : ∀ p ∈ l, p.1 < 98) :
    l.foldl (fun m p => sensor m p.2 p.1) m = m := by
  induction l with
  | nil => rfl
  | cons p l ih =>
    obtain ⟨hp, hl⟩ := List.forall_mem_cons.mp hl
    rw [List.foldl_cons, sensor_cool hp hw, ih hl]

/-- The part is too hot: the trip is set, and its detection of class A waits. -/
structure Tripped (m : Mach) : Prop where
  thermtrip : m.pwr.thermtrip = true
  raised : ∃ o ∈ m.raised, srcClass o.src = some 0

namespace Tripped
variable {m : Mach}

theorem ite {c : Prop} [Decidable c] {a b : Mach} (ha : Tripped a) (hb : Tripped b) : Tripped (if c then a else b) := by
  split
  · exact ha
  · exact hb

theorem warn (h : Tripped m) (l : List Nat) : Tripped { m with pwr := { m.pwr with tempWarn := l } } := ⟨h.thermtrip, h.raised⟩

theorem raise (h : Tripped m) (src u : Nat) : Tripped (m.raise src u) := by
  obtain ⟨o, ho, hc⟩ := h.raised
  exact ⟨h.thermtrip, o, List.mem_append_left _ ho, hc⟩

/-- A sensor at 120 °C or more trips. -/
theorem trip (m : Mach) (u : Nat) : Tripped (({ m with pwr := { m.pwr with thermtrip := true } } : Mach).raise 185 u) :=
  ⟨rfl, _, List.mem_append_right _ (List.mem_singleton.mpr rfl), (by decide : srcClass 185 = some 0)⟩

theorem sensor (h : Tripped m) (u : Nat) (t : Int) : Tripped (sensor m u t) := by
  have cooled : Tripped (if t < 98 then { m with pwr := { m.pwr with tempWarn := m.pwr.tempWarn.filter (· != u) } } else m) := .ite (h.warn _) h
  unfold Machine.sensor
  dsimp only
  generalize (if t < 98 then { m with pwr := { m.pwr with tempWarn := m.pwr.tempWarn.filter (· != u) } } else m : Mach) = v at cooled ⊢
  have warned : Tripped (if 100 ≤ t ∧ (!m.pwr.tempWarn.contains u) = true then
      ({ v with pwr := { v.pwr with tempWarn := v.pwr.tempWarn ++ [u] } } : Mach).raise 184 u else v) := .ite ((cooled.warn _).raise _ _) cooled
  exact .ite (trip _ u) warned

theorem of_sensor (m : Mach) (u : Nat) {t : Int} (ht : 120 ≤ t) : Tripped (Machine.sensor m u t) := by
  unfold Machine.sensor
  dsimp only
  rw [if_pos ht]
  exact trip _ u

theorem sensors (h : Tripped m) (l : List (Int × Nat)) : Tripped (l.foldl (fun m p => Machine.sensor m p.2 p.1) m) := by
  induction l generalizing m with
  | nil => exact h
  | cons p l ih => exact ih (h.sensor p.2 p.1)

theorem of_sensors (l : List (Int × Nat)) (hl : ∃ p ∈ l, 120 ≤ p.1) (m : Mach) : Tripped (l.foldl (fun m p => Machine.sensor m p.2 p.1) m) := by
  induction l generalizing m with
  | nil =>
    obtain ⟨p, hp, -⟩ := hl
    cases hp
  | cons p l ih =>
    by_cases hp : 120 ≤ p.1
    · exact (of_sensor m p.2 hp).sensors l
    · obtain ⟨q, hq, ht⟩ := hl
      obtain rfl | hq := List.mem_cons.mp hq
      · exact absurd ht hp
      · exact ih ⟨q, hq, ht⟩ _

end Tripped

/-- A detection of class A among those that are taken sets the latch. -/
theorem takes_latch (l : List Occ) (hl : ∃ o ∈ l, srcClass o.src = some 0) (s : State) : (l.foldl (fun s o => s.take o false true) s).latch = true := by
  induction l generalizing s with
  | nil =>
    obtain ⟨o, ho, -⟩ := hl
    cases ho
  | cons o l ih =>
    by_cases hc : srcClass o.src = some 0
    · have set : (s.take o false true).latch = true := by
        unfold State.take
        rw [if_pos hc]
        dsimp only
        split
        · assumption
        · rfl
      exact (takes_latched l _ set).1
    · obtain ⟨q, hq, h0⟩ := hl
      obtain rfl | hq := List.mem_cons.mp hq
      · exact absurd h0 hc
      · exact ih ⟨q, hq, h0⟩ _

/-- A command that raises a detection of class A, and leaves nothing else to settle, ends with the latch set. -/
theorem settle_latches {s : State} (ha : ∃ o ∈ s.m.raised, srcClass o.src = some 0) (hs : s.m.scb.struck = []) (hu : s.m.pwr.undo = false)
    (hn : s.m.mcs.subs.all (fun p => p.2.news.writes.isEmpty && p.2.news.fwd.isEmpty) = true) : (settle s).latch = true := by
  unfold settle
  rw [wrapUp_quiet _ _ hs hu hn]
  refine (drain_latched _ ?_).1
  exact takes_latch _ ha _

/-- What a sensor leaves alone. -/
structure Sensed (m t : Mach) : Prop where
  struck : t.scb = m.scb
  undo : t.pwr.undo = m.pwr.undo
  mcs : t.mcs = m.mcs
  mbox : t.mbox = m.mbox

namespace Sensed
variable {m t u : Mach}

theorem refl (m : Mach) : Sensed m m := ⟨rfl, rfl, rfl, rfl⟩

theorem trans (h : Sensed m t) (k : Sensed t u) : Sensed m u :=
  ⟨k.struck.trans h.struck, k.undo.trans h.undo, k.mcs.trans h.mcs, k.mbox.trans h.mbox⟩

theorem ite {c : Prop} [Decidable c] {a b : Mach} (ha : Sensed m a) (hb : Sensed m b) : Sensed m (if c then a else b) := by
  split
  · exact ha
  · exact hb

theorem sensor (m : Mach) (u : Nat) (t : Int) : Sensed m (sensor m u t) := by
  have cooled : Sensed m (if t < 98 then { m with pwr := { m.pwr with tempWarn := m.pwr.tempWarn.filter (· != u) } } else m) :=
    .ite ⟨rfl, rfl, rfl, rfl⟩ (refl m)
  unfold Machine.sensor
  dsimp only
  generalize (if t < 98 then { m with pwr := { m.pwr with tempWarn := m.pwr.tempWarn.filter (· != u) } } else m : Mach) = v at cooled ⊢
  have warned : Sensed m (if 100 ≤ t ∧ (!m.pwr.tempWarn.contains u) = true then
      ({ v with pwr := { v.pwr with tempWarn := v.pwr.tempWarn ++ [u] } } : Mach).raise 184 u else v) :=
    .ite (cooled.trans ⟨rfl, rfl, rfl, rfl⟩) cooled
  exact .ite (warned.trans ⟨rfl, rfl, rfl, rfl⟩) warned

theorem sensors (m : Mach) (l : List (Int × Nat)) : Sensed m (l.foldl (fun m p => Machine.sensor m p.2 p.1) m) := by
  induction l generalizing m with
  | nil => exact refl m
  | cons p l ih => exact (sensor m p.2 p.1).trans (ih _)

end Sensed

theorem mem_zipIdx_of_mem {l : List Int} {t : Int} (h : t ∈ l) : ∃ p ∈ l.zipIdx, p.1 = t := by
  obtain ⟨i, hi, rfl⟩ := List.getElem_of_mem h
  exact ⟨(l[i], i), List.mem_zipIdx_iff_getElem?.mpr (by simp [hi]), rfl⟩

/-- Readings below 98 °C with no sensor warned and no alert enabled are taken, and nothing else changes. -/
theorem thermalSample_cool {m : Mach} {ts : List Int} (len : ts.length = 16) (alert : ∀ k, k < 8 → (m.mb k).alert = 0#96)
    (cool : ∀ t ∈ ts, t < 98) (warned : m.pwr.tempWarn = []) : thermalSample m ts = m.sampled ts := by
  rw [thermalSample_eq m len, sensors_cool (m := m.sampled ts) warned _ fun p hp => cool p.1 (List.fst_mem_of_mem_zipIdx hp)]
  exact tjAlerts_none (m := m.sampled ts) alert _

/-- A reading of 120 °C or more trips the part. -/
theorem thermalSample_hot {m : Mach} {ts : List Int} (len : ts.length = 16) (alert : ∀ k, k < 8 → (m.mb k).alert = 0#96)
    (hot : ∃ t ∈ ts, 120 ≤ t) : Tripped (thermalSample m ts) ∧ Sensed m (thermalSample m ts) := by
  obtain ⟨t, ht, h120⟩ := hot
  obtain ⟨p, hp, rfl⟩ := mem_zipIdx_of_mem ht
  have tripped := Tripped.of_sensors ts.zipIdx ⟨p, hp, h120⟩ (m.sampled ts)
  have sensed := Sensed.sensors (m.sampled ts) ts.zipIdx
  rw [thermalSample_eq m len, tjAlerts_none fun k hk => ?_]
  · exact ⟨tripped, Sensed.trans (t := m.sampled ts) ⟨rfl, rfl, rfl, rfl⟩ sensed⟩
  · rw [Mach.mb, sensed.mbox]
    exact alert k hk

/-! ### The end of each command -/

theorem quiet_of_kept {s : State} {m : Mach} (hq : Quiet s) (e1 : m.raised = s.m.raised) (e2 : m.scb = s.m.scb) (e3 : m.pwr.undo = s.m.pwr.undo)
    (e4 : m.mcs = s.m.mcs) : Quiet { s with m } := by
  unfold Quiet
  rw [e1, e2, e3, e4]
  exact hq

/-- What MP_PERST_N_ASSERT and MGMT_LINK_DOWN do. -/
theorem mgmtLink_falls {s : State} {c : Instr} (hc : c ∈ [Instr.mpPerstNAssert, .mgmtLinkDown]) :
    (s.m.mgmt.up = true → ∃ t, exec c s = .next t ∧ t.m.mgmt.up = false ∧ t.m.mgmt.width = 0 ∧ t.m.rbit oMptEvt 0 = true ∧
      (∀ h, h < 8 → (t.m.head h).st = (s.m.head h).st) ∧ t.live = s.live) ∧
    (c = .mpPerstNAssert → ∃ t, exec c s = .next t ∧ t.m.pci = s.m.pci.gone mgmtFn) := by
  simp only [List.mem_cons, List.not_mem_nil, or_false] at hc
  obtain rfl | rfl := hc
  · rw [exec_mpPerstNAssert]
    refine ⟨fun up => mgmtFall_settles up ⟨_, rfl⟩, fun _ => ⟨_, rfl, ?_⟩⟩
    rw [(kept_settle _).pci]
    exact congrArg (Pci.gone · mgmtFn) (mgmtFall_pci s.live s.m)
  · rw [exec_mgmtLinkDown]
    exact ⟨fun up => mgmtFall_settles up ⟨(mgmtFall s.live s.m).pci, rfl⟩, nofun⟩

/-- A management link that is down does not fall. -/
theorem mgmtLink_down {s : State} (hq : Quiet s) (down : s.m.mgmt.up = false) : exec .mgmtLinkDown s = .next s ∧
    exec .mpPerstNAssert s = .next { s with m := { s.m with pci := s.m.pci.gone mgmtFn } } := by
  constructor
  · rw [exec_mgmtLinkDown]
    exact op_eq (mgmtFall_down down s.live) hq
  · rw [exec_mpPerstNAssert]
    refine op_eq ?_ (quiet_of_kept hq rfl rfl rfl rfl)
    rw [mgmtFall_down down]

end Sys2Proof.Machine

namespace Sys2Proof
open Machine

/-- Settles O32: the ports around the home keep what the management link, the power controller and the sensors put there, through the fall of
the rings and the end of the command. -/
theorem managementLinkResetsAndSensors : Obligations.ManagementLinkResetsAndSensors := by
  refine ⟨fun w speed s hq => ⟨fun idle => ?_, fun c hc => mgmtLink_falls hc, mgmtLink_down hq⟩,
    fun h s hq latch => ⟨fun present free => ?_, fun idle => ?_, fun busy coal rings => ?_⟩,
    fun ts s hq len alert => ⟨fun cool warned => ?_, fun hot => ?_⟩⟩
  · rw [exec_mgmtLinkUp]
    exact op_eq (sstStop_idle (m := { s.m with mgmt := { s.m.mgmt with up := true, width := min w 4, speed := speed.val } }) idle 4)
      (quiet_of_kept hq rfl rfl rfl rfl)
  · rw [exec_flr, received_unheld free, work_open latch, if_neg present]
    obtain ⟨busy, parts⟩ := partsReset_leaves s.live s.m (s.live.boundTo h)
    exact partsReset_settles busy parts
  · rw [exec_partition, work_open latch, if_pos ⟨rfl, by rw [idle]; rfl⟩]
    obtain ⟨busy, parts⟩ := partsReset_leaves s.live s.m [s.m.rfld oRstArg 5 0]
    obtain ⟨t, ht, busy, parts, live, epoch⟩ := partsReset_settles (s := s) busy parts
    exact ⟨t, ht, busy, parts _ (List.mem_singleton.mpr rfl), live, epoch⟩
  · rw [exec_partitionResetDone, work_open latch, partsDone_ends busy coal rings]
    exact congrArg Host.Outcome.next (settle_quiet _ (quiet_of_kept hq rfl rfl rfl rfl))
  · rw [exec_thermalSample, thermalSample_cool len alert cool warned]
    exact congrArg Host.Outcome.next (settle_quiet _ (quiet_of_kept hq rfl rfl rfl rfl))
  · obtain ⟨tripped, scb, undo, mcs, -⟩ := thermalSample_hot len alert hot
    obtain ⟨-, struck, unentered, news⟩ := hq
    rw [exec_thermalSample]
    generalize thermalSample s.m ts = u at tripped scb undo mcs
    refine ⟨_, rfl, (kept_settle _).thermtrip.trans tripped.thermtrip, settle_latches tripped.raised ?_ (undo.trans unentered) ?_, settle_live _⟩
    · exact (congrArg Scb.struck scb).trans struck
    · dsimp only
      rw [mcs]
      exact news

end Sys2Proof
end

section
/-! PROOFS. The mailbox's background commands, firmware and Dynamic Capacity (R44, R87, R442, R444, R452, R551). -/

namespace Sys2Proof.Machine

/-! ### Tables and mailboxes after a write -/

theorem get_insert_self {α : Type} (t : Tbl α) (d : α) (k : Nat) (v : α) : (t.insert k v).get d k = v := by
  rw [Tbl.get, Tbl.find?_insert_self]
  rfl

theorem get_insert_ne {α : Type} (t : Tbl α) (d : α) {k j : Nat} (v : α) (h : j ≠ k) : (t.insert k v).get d j = t.get d j := by
  rw [Tbl.get, Tbl.find?_insert_ne _ _ h]
  rfl

theorem mb_setMb (m : Mach) (h : Nat) (b : Mbox) : (m.setMb h b).mb h = b := get_insert_self m.mbox {} h b

/-- A key that is not among those written is as it was. -/
theorem get_foldl_insert_of_notMem {α : Type} (d : α) (f : Nat → α) {l : List Nat} {k : Nat} (hk : k ∉ l) (t : Tbl α) :
    (l.foldl (fun t k => t.insert k (f k)) t).get d k = t.get d k := by
  induction l generalizing t with
  | nil => rfl
  | cons a l ih =>
    obtain ⟨hne, hk⟩ := not_or.mp (mt List.mem_cons.mpr hk)
    rw [List.foldl_cons, ih hk, get_insert_ne t d _ hne]

/-- A key among those written holds what was written. -/
theorem get_foldl_insert_of_mem {α : Type} (d : α) (f : Nat → α) {l : List Nat} {k : Nat} (hk : k ∈ l) (t : Tbl α) :
    (l.foldl (fun t k => t.insert k (f k)) t).get d k = f k := by
  induction l generalizing t with
  | nil => cases hk
  | cons a l ih =>
    rw [List.foldl_cons]
    by_cases hl : k ∈ l
    · exact ih hl _
    · obtain rfl := (List.mem_cons.mp hk).resolve_right hl
      rw [get_foldl_insert_of_notMem d f hl, get_insert_self]

/-! ### Background commands -/

/-- A background command starts where none runs. -/
theorem mbStart_idle {m : Mach} {h : Nat} (hb : (m.mb h).busy = false) (f : Mbox → Mbox) :
    mbStart m h f = (m.setMb h (f (m.mb h))).mbRet h mbBackground [] := if_neg (by simp [hb])

/-- ACTIVATE_FW without the Keeper fails. -/
theorem fwStart_keeperOff {m : Mach} (hk : m.keeperOn = false) (h : Nat) : fwStart m h = m.mbRet h mbActivationFailed [] :=
  if_pos (by simp [hk])

/-- ACTIVATE_FW of a package, with the Keeper up and no background command running. -/
theorem fwStart_package {m : Mach} {h : Nat} (hb : (m.mb h).busy = false) (hk : m.keeperOn = true) {v : BitVec 24} {good : Bool}
    (hr : (m.mb h).fwReady = some (v, good)) : fwStart m h =
      if good then (m.setMb h { m.mb h with fwAct := true }).mbRet h mbBackground [] else m.mbRet h mbActivationFailed [] := by
  unfold fwStart
  rw [if_neg (by simp [hk]), if_neg (by simp [hb]), hr]
  cases good
  · rfl
  · exact mbStart_idle hb _

/-- The flash controller passes to a world and back. -/
theorem settling_flashTo {m : Mach} (hm : Settling m) (keeper : Bool) : Settling (m.flashTo keeper) :=
  Settling.raise (m := ((m.blockReset 5).setOwn 5 { keeper }).evb oWldEvt 6) ⟨hm.mild, hm.struck, hm.undo, hm.news⟩ 5 (by decide)

theorem settling_flashUse {m : Mach} (hm : Settling m) : Settling m.flashUse := by
  unfold Mach.flashUse
  split
  · exact settling_flashTo hm false
  · exact settling_flashTo (settling_flashTo hm true) false

theorem flashTo_leaves (m : Mach) (keeper : Bool) : (m.flashTo keeper).wld.version = m.wld.version ∧ ∀ h, (m.flashTo keeper).mb h = m.mb h :=
  ⟨rfl, fun _ => rfl⟩

/-- The use of the flash controller leaves the version and the mailboxes. -/
theorem flashUse_leaves (m : Mach) : m.flashUse.wld.version = m.wld.version ∧ ∀ h, m.flashUse.mb h = m.mb h := by
  obtain ⟨back, backMb⟩ := flashTo_leaves (m.flashTo true) false
  obtain ⟨gone, goneMb⟩ := flashTo_leaves m true
  unfold Mach.flashUse
  split
  · exact flashTo_leaves m false
  · exact ⟨back.trans gone, fun h => (backMb h).trans (goneMb h)⟩

/-- The machine with a package's version active, and measurements 3 and 5 retaken (R452). -/
def Mach.activated (m : Mach) (v : BitVec 24) : Mach :=
  { m with wld := { m.wld with version := v, meas := (m.wld.meas.insert 3 (Config.digest 3 v.toNat)).insert 5 (Config.digest 5 v.toNat) } }

/-- ACTIVATE_FW_DONE of a package that verifies. -/
theorem fwDone_package {m : Mach} {h : Nat} {v : BitVec 24} (ha : (m.mb h).fwAct = true) (hr : (m.mb h).fwReady = some (v, true))
    (hk : m.keeperOn = true) :
    fwDone m h = ((m.setMb h { m.mb h with fwAct := false, fwReady := none }).activated v).flashUse := by
  unfold fwDone
  rw [if_neg (by simp [ha])]
  simp only [hr]
  exact if_pos hk

/-- It makes the package's version the active one. -/
theorem fwDone_activates {m : Mach} {h : Nat} {v : BitVec 24} (ha : (m.mb h).fwAct = true) (hr : (m.mb h).fwReady = some (v, true))
    (hk : m.keeperOn = true) (hm : Settling m) :
    Settling (fwDone m h) ∧ (fwDone m h).wld.version = v ∧ ((fwDone m h).mb h).fwAct = false := by
  have hb := congrArg Mbox.fwAct (mb_setMb m h { m.mb h with fwAct := false, fwReady := none })
  rw [fwDone_package ha hr hk]
  have hu : Settling ((m.setMb h { m.mb h with fwAct := false, fwReady := none }).activated v) := ⟨hm.mild, hm.struck, hm.undo, hm.news⟩
  obtain ⟨version, mbox⟩ := flashUse_leaves ((m.setMb h { m.mb h with fwAct := false, fwReady := none }).activated v)
  exact ⟨settling_flashUse hu, version, (congrArg Mbox.fwAct (mbox h)).trans hb⟩

theorem exec_activateFwDone (h : Fin 8) (s : State) :
    exec (.activateFwDone h) s = s.op (fun m => if m.stewardOn then fwDone m h else m) := by rfl

theorem exec_transferFwDone (h : Fin 8) (s : State) :
    exec (.transferFwDone h) s = s.op (fun m => if m.stewardOn then m.setMb h { m.mb h with fwXfer := false } else m) := by rfl

/-! ### Dynamic Capacity -/

/-- The machine with states of map entries written. -/
def Mach.dcPut (m : Mach) (l : List Nat) (f : Nat → Nat) : Mach := { m with dc := l.foldl (fun t k => t.insert k (f k)) m.dc }

/-- An answer to the oldest offered set. -/
theorem dcAnswer_offered {L : Image} {m : Mach} {h ld p : Nat} {o : Nat × List Nat} {es : List Nat} (hp : ldPart L m h ld = some p)
    (ho : (m.mb h).offered.find? (fun o => o.1 == L.pLd p) = some o) (he : es.all o.2.contains = true) : dcAnswer L m h ld es =
      ((m.dcPut o.2 (fun k => if es.contains k then 2 else 3)).setMb h { m.mb h with offered := (m.mb h).offered.erase o }).mbRet h mbOk [] := by
  unfold dcAnswer
  simp only [hp, Option.bind_some, ho]
  exact if_neg (by simp [he])

/-- A head that reaches no such logical device is refused. -/
theorem dcAnswer_none {L : Image} {m : Mach} {h ld : Nat} (hp : ldPart L m h ld = none) (es : List Nat) :
    dcAnswer L m h ld es = m.mbRet h mbInvalidInput [] := by
  unfold dcAnswer
  simp only [hp, Option.bind_none]

/-- Accepted entries are released. -/
theorem dcRelease_accepted {L : Image} {m : Mach} {h ld : Nat} {es : List Nat}
    (he : es.all (fun k => ((dcOf L m h ld).filter (fun x => x.2.2 == 2)).any (fun x => x.1 == k)) = true) :
    dcRelease L m h ld es = (m.dcPut es (fun _ => 3)).mbRet h mbOk [] := if_neg (by rw [he]; decide)

/-- The two fields of a logical device's configuration: its capacity without and with Dynamic Capacity. -/
def dcFields (L : Image) (m : Mach) (h ld : Nat) : Nat × Nat :=
  match ldPart L m h ld with
  | some p => (L.pLen p - (dcOf L m h ld).length, (dcOf L m h ld).length)
  | none => (0, 0)

theorem dcFields_some {L : Image} {m : Mach} {h ld p : Nat} (hp : ldPart L m h ld = some p) :
    dcFields L m h ld = (L.pLen p - (dcOf L m h ld).length, (dcOf L m h ld).length) := by
  unfold dcFields
  rw [hp]

theorem dcConfiguration_answers (s : State) (h : Fin 8) (ld : Fin 16) : Answers s h true (.getDynamicCapacityConfiguration h ld) mbOk
    (Config.mboxBytes 0x4800 h [(dcFields s.live s.m h ld).1, (dcFields s.live s.m h ld).2]) := by
  unfold Answers exec execGetDynamicCapacityConfiguration mbReport
  refine ⟨_, rfl, ?_⟩
  unfold dcFields
  cases hp : ldPart s.live s.m h ld <;> simp only [hp]

/-! ### The commands -/

/-- TRANSFER_FW. -/
theorem firmware_transfers {s : State} {h : Fin 8} (hq : Quiet s) (ho : MailboxOpen s h) (hl : s.latch = false) (hb : (s.m.mb h).busy = false)
    (version : BitVec 24) (last good : Bool) : exec (.transferFw h version last good) s = .next { s with m :=
      (s.m.setMb h { s.m.mb h with fwXfer := true, fwReady := if last then some (version, good) else none }).mbRet h mbBackground [] } := by
  unfold exec execTransferFw
  exact mbCmd_open ho (by simp [hl]) _ (mbStart_idle hb _) (quiet_mbRet (quiet_setMb hq _ _) _ _ _)

/-- ACTIVATE_FW. -/
theorem firmware_starts {s : State} {h : Fin 8} (hq : Quiet s) (ho : MailboxOpen s h) (hl : s.latch = false) (hb : (s.m.mb h).busy = false)
    (hk : s.m.keeperOn = true) {v : BitVec 24} {good : Bool} (hr : (s.m.mb h).fwReady = some (v, good)) : exec (.activateFw h) s = .next { s with
      m := if good then (s.m.setMb h { s.m.mb h with fwAct := true }).mbRet h mbBackground [] else s.m.mbRet h mbActivationFailed [] } := by
  unfold exec execActivateFw
  refine mbCmd_open ho (by simp [hl]) _ (fwStart_package hb hk hr) ?_
  split
  · exact quiet_mbRet (quiet_setMb hq _ _) _ _ _
  · exact quiet_mbRet hq _ _ _

/-- ACTIVATE_FW without the Keeper. -/
theorem firmware_fails {s : State} {h : Fin 8} (hq : Quiet s) (ho : MailboxOpen s h) (hl : s.latch = false) (hk : s.m.keeperOn = false) :
    exec (.activateFw h) s = .next { s with m := s.m.mbRet h mbActivationFailed [] } := by
  unfold exec execActivateFw
  exact mbCmd_open ho (by simp [hl]) _ (fwStart_keeperOff hk h) (quiet_mbRet hq _ _ _)

/-- TRANSFER_FW_DONE. -/
theorem firmware_transferred {s : State} {h : Fin 8} (hq : Quiet s) (ho : MailboxOpen s h) :
    exec (.transferFwDone h) s = .next { s with m := s.m.setMb h { s.m.mb h with fwXfer := false } } := by
  obtain ⟨-, -, -, steward, -⟩ := ho
  rw [exec_transferFwDone]
  exact op_eq (if_pos steward) (quiet_setMb hq _ _)

/-- ACTIVATE_FW_DONE. -/
theorem firmware_activated {s : State} {h : Fin 8} (hq : Quiet s) (ho : MailboxOpen s h) {v : BitVec 24} (ha : (s.m.mb h).fwAct = true)
    (hr : (s.m.mb h).fwReady = some (v, true)) (hk : s.m.keeperOn = true) :
    ∃ t, exec (.activateFwDone h) s = .next t ∧ t.m.wld.version = v ∧ (t.m.mb h).fwAct = false ∧ t.live = s.live := by
  obtain ⟨-, -, -, steward, -⟩ := ho
  obtain ⟨settling, version, act⟩ := fwDone_activates ha hr hk (settling_of_quiet hq)
  have e : (if s.m.stewardOn then fwDone s.m h else s.m) = fwDone s.m h := if_pos steward
  rw [exec_activateFwDone]
  obtain ⟨t, ht, recorded, live, -⟩ := op_recorded (s := s) (f := fun m => if m.stewardOn then fwDone m h else m) (e.symm ▸ settling)
  rw [e] at recorded
  refine ⟨t, ht, ?_, ?_, live⟩
  · exact (congrArg (fun m : Mach => m.wld.version) recorded.rest :).trans version
  · exact (congrArg Mbox.fwAct (recorded.mbox h) :).trans act

/-- ADD_DYNAMIC_CAPACITY_RESPONSE to the oldest offered set. -/
theorem capacity_accepted {s : State} {h : Fin 8} {ld : Fin 16} (hq : Quiet s) (ho : MailboxOpen s h) (hl : s.latch = false) {p : Nat}
    {o : Nat × List Nat} {es : List Nat} (hp : ldPart s.live s.m h ld = some p)
    (hf : (s.m.mb h).offered.find? (fun o => o.1 == s.live.pLd p) = some o) (he : es.all o.2.contains = true) :
    ∃ t, exec (.addDynamicCapacityResponse h ld es) s = .next t ∧ Out.mbox h mbOk [] ∈ t.m.outbox ∧
      ∀ k ∈ o.2, t.m.dc.get 0 k = if es.contains k then 2 else 3 := by
  unfold exec execAddDynamicCapacityResponse
  exact ⟨_, mbCmd_open ho (by simp [hl]) _ (dcAnswer_offered hp hf he) hq, mem_outbox_send _ _, fun k hk => get_foldl_insert_of_mem 0 _ hk _⟩

/-- ADD_DYNAMIC_CAPACITY_RESPONSE of a logical device that the head does not reach. -/
theorem capacity_refused {s : State} {h : Fin 8} {ld : Fin 16} (hq : Quiet s) (ho : MailboxOpen s h) (hl : s.latch = false)
    (hp : ldPart s.live s.m h ld = none) (es : List Nat) :
    exec (.addDynamicCapacityResponse h ld es) s = .next { s with m := s.m.mbRet h mbInvalidInput [] } := by
  unfold exec execAddDynamicCapacityResponse
  exact mbCmd_open ho (by simp [hl]) _ (dcAnswer_none hp es) (quiet_mbRet hq _ _ _)

/-- RELEASE_DYNAMIC_CAPACITY. -/
theorem capacity_released {s : State} {h : Fin 8} {ld : Fin 16} (hq : Quiet s) (ho : MailboxOpen s h) (hl : s.latch = false) {es : List Nat}
    (he : es.all (fun k => ((dcOf s.live s.m h ld).filter (fun x => x.2.2 == 2)).any (fun x => x.1 == k)) = true) :
    ∃ t, exec (.releaseDynamicCapacity h ld es) s = .next t ∧ (∀ k ∈ es, t.m.dc.get 0 k = 3) ∧
      (∀ k, k ∉ es → t.m.dc.get 0 k = s.m.dc.get 0 k) := by
  unfold exec execReleaseDynamicCapacity
  exact ⟨_, mbCmd_open ho (by simp [hl]) _ (dcRelease_accepted he) hq, fun k hk => get_foldl_insert_of_mem 0 _ hk _,
    fun k hk => get_foldl_insert_of_notMem 0 _ hk _⟩

/-- GET_DYNAMIC_CAPACITY_CONFIGURATION. -/
theorem capacity_reported {s : State} {h : Fin 8} {ld : Fin 16} (hq : Quiet s) (ho : MailboxOpen s h) : ∃ x y,
    exec (.getDynamicCapacityConfiguration h ld) s = .next { s with m := s.m.mbRet h mbOk (Config.mboxBytes 0x4800 h [x, y]) } ∧
      (∀ p, ldPart s.live s.m h ld = some p → y = (dcOf s.live s.m h ld).length ∧ x = s.live.pLen p - y) :=
  ⟨_, _, (dcConfiguration_answers s h ld).served hq ho (by simp), fun p hp => by rw [dcFields_some hp]; exact ⟨rfl, rfl⟩⟩

end Sys2Proof.Machine
end

section
/-! PROOFS. One request of an internal source at a calm part (R132, R134, R300-R303): the regulator admits it in the CORE cycle, and it is
granted its leave, or comes alone to its slice and acts there. -/

namespace Sys2Proof.Machine

/-- One request of an internal source waits with the regulator of a part that is calm otherwise; the regulator admits it. -/
structure Alone (m : Mach) (r : Req) : Prop where
  intq : m.home.intq = [r]
  calm : Calm { m with home := { m.home with intq := [] } }
  src : 8 ≤ r.src
  mst : r.mst < 38
  admits : m.admits = true
  rsv : m.rfld oTrkCfg 9 0 < 1024
  imax : 0 < m.rfld oTrkCfg 26 16

namespace Alone
variable {m : Mach} {r : Req}

theorem idle (h : Alone m r) : ∀ k < 8, (m.head k).Idle := fun k hk => by
  obtain ⟨-, -, -, -, -, -, heads⟩ := h.calm
  obtain ⟨rt, table, bulk, -⟩ := heads k hk
  exact ⟨rt, table, bulk⟩

theorem ports (h : Alone m r) : m.PortsIdle := fun k hk => by
  obtain ⟨-, -, -, -, -, -, heads⟩ := h.calm
  obtain ⟨-, -, -, req, rwd, post⟩ := heads k hk
  exact ⟨req, rwd, post⟩

/-- The request leaves its queue. -/
theorem dequeue (h : Alone m r) : m.dequeue r = { m with home := { m.home with intq := [] } } := by
  unfold Mach.dequeue
  rw [if_pos h.src, h.intq]
  simp

/-- The counts of a CORE cycle keep it waiting. -/
theorem counted (h : Alone m r) : Alone (cycleCounts m) r := by
  obtain ⟨step, home, reg⟩ := cycleCounts_step m
  obtain ⟨-, fab, trk, fills, snoops, evicting, heads⟩ := h.calm
  have cfg := reg oTrkCfg (by decide)
  generalize cycleCounts m = t at step home cfg
  refine ⟨by rw [home]; exact h.intq, ⟨rfl, by rw [home]; exact fab, by rw [home]; exact trk, by rw [home]; exact fills, by rw [home]; exact snoops,
    by rw [home]; exact evicting, fun k hk => ?_⟩, h.src, h.mst, ?_, by rw [Mach.rfld, cfg]; exact h.rsv, by rw [Mach.rfld, cfg]; exact h.imax⟩
  · have e : Mach.head { t with home := { t.home with intq := [] } } k = m.head k := step.head k
    rw [e]
    exact heads k hk
  · unfold Mach.admits
    rw [step.pwr]
    exact h.admits

end Alone

/-- A request that is issued at a calm part waits alone. -/
theorem alone_issueAll {L : Image} {m : Mach} (hc : Calm m) {mst : Nat} (hs : ServesNow L m mst) {r : Req} (src : 8 ≤ r.src) (hm : r.mst < 38) :
    Alone (m.issueAll [r]) { r with id := m.home.nextId } := by
  obtain ⟨intq, fab, trk, fills, snoops, evicting, heads⟩ := hc
  obtain ⟨awake, warm, -, rsv, imax⟩ := hs
  refine ⟨?_, ⟨rfl, fab, trk, fills, snoops, evicting, heads⟩, src, hm, ?_, rsv, imax⟩
  · change m.home.intq ++ _ = _
    rw [intq]
    rfl
  · change ((m.pwr.st == .active || m.pwr.st == .entering) && m.pwr.warm.isNone) = true
    simp [awake, warm]

/-! ### Its admission -/

theorem letIn_leaves (m : Mach) (r : Req) : HomeStep m (m.letIn r) ∧ (m.letIn r).home.intq = m.home.intq := by
  unfold Mach.letIn
  split <;> exact ⟨homeStep_home _ _, rfl⟩

/-- An admission leaves the queue as the request leaves it. -/
theorem admitted_leaves {m : Mach} {b : Bwg} (hb : b.cycles = m.bwg.cycles) (r : Req) :
    HomeStep (m.dequeue r) (m.admitted b r) ∧ (m.admitted b r).home.intq = (m.dequeue r).home.intq := by
  obtain ⟨account, home1⟩ := dequeue_bwg hb r
  obtain ⟨charge, home2⟩ := chargeAdmit_step ({ m with bwg := b }.dequeue r) r
  obtain ⟨go, intq⟩ := letIn_leaves (({ m with bwg := b }.dequeue r).chargeAdmit r) r
  exact ⟨(account.trans charge).trans go, by rw [Mach.admitted, intq, home2, home1]⟩

/-- It is admitted, and then nothing waits. -/
theorem admitCycle_alone {m : Mach} {r : Req} (h : Alone m r) (L : Image) :
    ∃ b : Bwg, b.cycles = m.bwg.cycles ∧ admitCycle L 54 16 [] m = m.admitted b r := by
  obtain ⟨waits, -, -⟩ := waiting_intq h.intq h.idle h.src h.mst
  obtain ⟨k, hk38, hq, hothers⟩ := waits.queue
  obtain ⟨-, fab, trk, -⟩ := h.calm
  have ht := trackerFor_empty trk fab h.rsv h.imax r
  obtain ⟨b, hpick, hb⟩ := pickMaster_one (waitingMasters_one hk38 (by simp [hq]) hothers) L
  obtain ⟨step, intq⟩ := admitted_leaves hb r
  have none : (m.admitted b r).waitingMasters = [] := waitingMasters_nil fun j hj => by
    rw [mQueue_congr intq step.head, waits.rest j hj]
  refine ⟨b, hb, ?_⟩
  rw [admitCycle]
  simp only [OfNat.ofNat_ne_zero, if_false, hpick, hq]
  rw [if_neg (by simp [show m.trackerFor r = true from ht])]
  exact admitCycle_nil none L _ _ _

/-- The CORE cycle begins with the admission. -/
theorem coreCycle_alone {m : Mach} {r : Req} (h : Alone m r) (L : Image) : ∃ b : Bwg, b.cycles = (cycleCounts m).bwg.cycles ∧
    coreCycle L m = portsCycle L (sliceCycle L ((cycleCounts m).admitted b r)) := by
  obtain ⟨b, hb, admits⟩ := admitCycle_alone h.counted L
  exact ⟨b, hb, by rw [coreCycle_eq, if_pos h.counted.admits, admits]⟩

/-! ### The regulator's leave (R302) -/

/-- What asks for leave has it at the end of the CORE cycle. -/
theorem coreCycle_grants {m : Mach} {r : Req} (h : Alone m r) {n : Nat} (hk : r.kind = .grant n) (L : Image) :
    (coreCycle L m).home.intq = [] ∧ (coreCycle L m).home.fab = [] ∧
      ∃ d ∈ (coreCycle L m).home.done, d.who = r.tag ∧ d.seq = r.seq ∧ d.line = r.line ∧ d.kind = .grant n := by
  obtain ⟨b, hb, cycle⟩ := coreCycle_alone h L
  obtain ⟨-, home, -⟩ := cycleCounts_step m
  have counted := h.counted
  generalize cycleCounts m = c at hb cycle home counted
  obtain ⟨-, home1⟩ := dequeue_bwg (m := c) hb r
  obtain ⟨-, home2⟩ := chargeAdmit_step ({ c with bwg := b }.dequeue r) r
  obtain ⟨-, fab, trk, fills, -⟩ := counted.calm
  have granted : (c.admitted b r).home = { m.home with intq := [], done := m.home.done ++
      [{ who := r.tag, seq := r.seq, line := r.line, kind := .grant n, data := 0#512, p := false }] } := by
    unfold Mach.admitted Mach.letIn
    rw [hk]
    dsimp only
    rw [home2, home1, counted.dequeue, home]
  have heads := (admitted_leaves hb r).1.head
  have ports : (c.admitted b r).PortsIdle := fun k hk => by
    rw [heads, counted.dequeue]
    exact counted.ports k hk
  generalize c.admitted b r = t at granted ports cycle
  dsimp only at fab trk fills
  rw [home] at fab trk fills
  have slices : sliceCycle L t = t := by
    rw [sliceCycle_eq, acceptAll_nil (by rw [granted]; exact fab), pumpAll_idle (by rw [granted]; exact trk) (by rw [granted]; exact fills)]
  rw [cycle, slices, (portsCycle_idle ports L).home, granted]
  exact ⟨rfl, fab, _, List.mem_append_right _ (List.mem_singleton.mpr rfl), rfl, rfl, rfl, rfl⟩

/-- An answer that is kept is found. -/
theorem answer?_of_mem {m : Mach} {d : Done} (hd : d ∈ m.home.done) : (m.answer? d.who d.seq d.line d.kind).isSome = true := by
  unfold Mach.answer?
  exact List.find?_isSome.mpr ⟨d, hd, by simp⟩

/-- The regulator gives its leave at once at a calm part that it serves. -/
theorem grant_calm {L : Image} {m : Mach} (hc : Calm m) {a : Agent} (hs : ServesNow L m a.mst) (src : 8 ≤ a.src) (hm : a.mst < 38) (seq n : Nat) :
    (grant L m a seq n).1 = true := by
  have none : m.asked a.who seq = false := by
    obtain ⟨intq, fab, trk, -⟩ := hc
    simp [Mach.asked, Mach.requests, intq, fab, trk]
  obtain ⟨intq, fab, d, hd, who, same, line, kind⟩ := coreCycle_grants (alone_issueAll hc hs (r := a.ask seq 0 (.grant n)) src hm) rfl L
  have found := answer?_of_mem hd
  rw [who, same, line, kind] at found
  have found : ((coreCycle L (m.issueAll [a.ask seq 0 (.grant n)])).answer? a.who seq 0 (.grant n)).isSome = true := found
  have gone : agentGo L m a.who [a.ask seq 0 (.grant n)] = coreCycle L (m.issueAll [a.ask seq 0 (.grant n)]) := by
    unfold agentGo cyclesFor
    simp [intq, fab]
  unfold grant
  dsimp only
  split
  · rfl
  · rw [if_neg (by simp [none]), gone]
    generalize coreCycle L (m.issueAll [a.ask seq 0 (.grant n)]) = t at found
    exact found

end Sys2Proof.Machine
end

section
/-! PROOFS. A quiet write of the mailbox at its home (R45, R105): poison set, or a line written anew, in the CORE cycle in which it is admitted. -/

namespace Sys2Proof.Machine

/-! ### To its slice (R103) -/

/-- A request that goes to its slice comes there alone and acts; when that ends it, the cycle does no more than take the panic levels. -/
theorem coreCycle_slice {L : Image} {m : Mach} {r : Req} (h : Alone m r) (hk : r.kind.goesToSlice) (hj : m.jobOf r = none)
    (hf : flatPage L (r.line / 64) = true) (hp : r.phase = .start) : ∃ t t0 n b pk, HomeStep m.clocked t ∧
      t.home = { m.home with intq := [], trk := [r.atHome t0 n b], peak := pk } ∧
      (Ended t (turn L t (r.atHome t0 n b)) → PanicStep (turn L t (r.atHome t0 n b)) (coreCycle L m)) := by
  obtain ⟨b, hb, cycle⟩ := coreCycle_alone h L
  obtain ⟨cstep, home, -⟩ := cycleCounts_step m
  have counted := h.counted
  generalize cycleCounts m = c at hb cycle cstep home counted
  obtain ⟨astep, ahome⟩ := admitted_step (r := r) hb hk
  rw [counted.dequeue] at astep ahome
  generalize c.admitted b r = m2 at astep ahome cycle
  obtain ⟨-, fab, trk, fills, snoops, evicting, -⟩ := h.calm
  dsimp only at fab trk fills snoops evicting
  dsimp only at ahome
  rw [home, fab, List.nil_append] at ahome
  have mstep : HomeStep m.clocked m2 := (cstep.trans (homeStep_home c _)).trans astep
  have job : Mach.jobOf { m2 with home := { m2.home with fab := [] } } { r with t0 := c.core } = none := by
    have dqu : m2.dqu = m.dqu := mstep.dqu
    rw [← hj]
    unfold Mach.jobOf
    dsimp only
    rw [dqu]
  obtain ⟨estep, n, smp, pk, ehome⟩ := enter_step (L := L) (m := { m2 with home := { m2.home with fab := [] } })
    (r := { r with t0 := c.core }) hk job hf
  have accept := acceptAll_one (L := L) (m := m2) (r := { r with t0 := c.core }) (by rw [ahome]) (by rw [ehome]) (List.range 16)
    (List.mem_range.mpr (sliceOf_lt r.line))
  generalize enter L { m2 with home := { m2.home with fab := [] } } { r with t0 := c.core } = m3 at accept estep ehome
  have alone : m3.home = { m.home with intq := [], trk := [r.atHome c.core n smp], peak := pk } := by
    rw [ehome, ahome]
    simp [fab, trk, Req.atHome]
  have step : HomeStep m.clocked m3 := (mstep.trans (homeStep_home _ _)).trans estep
  refine ⟨m3, c.core, n, smp, pk, step, alone, fun hend => ?_⟩
  have served : sliceCycle L m2 = turn L m3 (r.atHome c.core n smp) := by
    rw [sliceCycle_eq, accept]
    exact pumpAll_alone (by rw [alone]) (by rw [alone]; exact fills) hp (by rw [alone]; exact snoops) (by rw [alone]; exact evicting) hend
  rw [cycle, served]
  refine portsCycle_idle (fun k hk => ?_) L
  rw [hend.step.head, step.head]
  exact h.ports k hk

/-! ### A line from its bytes (R10) -/

/-- `n` bytes of a bit vector from byte `k`, as a number. -/
theorem natOfBytes_from {w : Nat} (x : BitVec w) (n k : Nat) :
    natOfBytes ((List.range n).map (fun i => byteAt x (k + i))) = x.toNat / 2 ^ (8 * k) % 2 ^ (8 * n) := by
  induction n generalizing k with
  | zero => simp [natOfBytes, Nat.mod_one]
  | succ n ih =>
    have rest : (List.range n).map ((fun i => byteAt x (k + i)) ∘ Nat.succ) = (List.range n).map (fun i => byteAt x (k + 1 + i)) :=
      List.map_congr_left fun i _ => congrArg (byteAt x) (by simp only [Nat.succ_eq_add_one]; omega)
    have first : (byteAt x k).toNat = x.toNat / 2 ^ (8 * k) % 256 := by simp [byteAt, Nat.shiftRight_eq_div_pow]
    rw [List.range_succ_eq_map, List.map_cons, List.map_map, rest]
    simp only [natOfBytes, Nat.add_zero]
    rw [ih, first, show 8 * (k + 1) = 8 * k + 8 by omega, show 8 * (n + 1) = 8 + 8 * n by omega, Nat.pow_add, Nat.pow_add, ← Nat.div_div_eq_div_mul,
      Nat.mod_mul]

/-- A whole write leaves the line it brings. -/
theorem mergeBytes_allOnes (d a : Line) : mergeBytes (BitVec.allOnes 64) d a = d := by
  have all : mergeBytes (BitVec.allOnes 64) d d = ofBytes 512 ((List.range 64).map (fun i => byteAt d (0 + i))) := by
    unfold mergeBytes
    simp only [ite_self, Nat.zero_add]
  rw [mergeBytes_whole (by decide) d a d, all, ofBytes, natOfBytes_from]
  refine BitVec.eq_of_toNat_eq ?_
  rw [BitVec.toNat_ofNat]
  have := d.isLt
  omega

/-! ### A quiet write (R45) -/

/-- A write that answers nobody, alone at the home: it meets nothing on its line, which is of the flat area and not mirrored. -/
structure Hushed (L : Image) (m : Mach) (r : Req) : Prop extends Unmet L m r where
  trk : ∀ x ∈ m.home.trk, x.id = r.id
  fills : m.home.fills = []
  quiet : r.quiet = true
  merging : r.merging = false
  flat : flatPage L (r.line / 64) = true
  plain : eMirror (L.extent (r.line / 64 / 65536)) = false

/-- It is as ready on a home that differs in what it keeps of the line cache and of the charges. -/
theorem Hushed.after {L : Image} {m t : Mach} {r : Req} (h : Hushed L m r) (step : HomeStep m t) (hsf : t.home.sf = m.home.sf)
    (htrk : t.home.trk = m.home.trk) (hfills : t.home.fills = m.home.fills) (hsn : t.home.snoops = m.home.snoops) (tier : Nat) :
    Hushed L t { r with sram := .none, tier } where
  db := dbLine_of_sf hsf h.db
  coal := by rw [step.tally]; exact h.coal
  snoops := by rw [hsn]; exact h.snoops
  sram := rfl
  trk := by rw [htrk]; exact h.trk
  fills := by rw [hfills]; exact h.fills
  quiet := h.quiet
  merging := h.merging
  flat := h.flat
  plain := h.plain

/-- What the mailbox writes with: poison for a line, or a line's data. -/
def ReqKind.mends (k : ReqKind) : Prop := k = .setPoison ∨ ∃ d be, k = .ioWrite d be

/-- What waits for the home, and its snoops and evictions, are as they were. -/
structure Spared (m t : Mach) : Prop where
  intq : t.home.intq = m.home.intq
  fab : t.home.fab = m.home.fab
  snoops : t.home.snoops = m.home.snoops
  evicting : t.home.evicting = m.home.evicting

theorem Spared.of_home {m t : Mach} (h : t.home = m.home) : Spared m t := ⟨by rw [h], by rw [h], by rw [h], by rw [h]⟩

theorem Spared.trans {m t u : Mach} (h : Spared m t) (k : Spared t u) : Spared m u :=
  ⟨k.intq.trans h.intq, k.fab.trans h.fab, k.snoops.trans h.snoops, k.evicting.trans h.evicting⟩

theorem spared_endReq {m : Mach} (hf : m.home.fills = []) (r : Req) (p : Bool) : Spared m (m.endReq r p) := by
  constructor <;> rw [endReq_home hf]

/-- Its line is installed, and it ends. -/
theorem finishWrite_hushed {L : Image} {m : Mach} {r : Req} (h : Hushed L m r) (hk : r.kind.mends) (hw : HasWay m r.line) (d : Line) (p : Bool)
    (mv : BitVec 2) (old : BitVec 512) (oldP : Bool) :
    finishWrite L m r d p mv old oldP = (m.written r.line d p mv).endReq { r with tier := 6 } p := by
  have hsf : (m.written r.line d p mv).sfGet r.line = none := sfGet_of_dbLine h.db
  unfold finishWrite
  simp only [mirrorLag_unmirrored h.plain, Bool.and_false, Bool.false_eq_true, if_false, h.db, installDirty_flat hw h.flat, Bool.not_true,
    sfWrite_of_sfGet hsf, mirrorChange_unmirrored h.plain, ite_self]
  obtain hk | ⟨x, y, hk⟩ := hk <;> simp only [hk, Mach.endWrite, h.quiet, if_true]

theorem stored_hushed {L : Image} {m : Mach} {r : Req} (h : Hushed L m r) (hk : r.kind.mends) (hw : HasWay m r.line) (d : Line) (p : Bool)
    (mv : BitVec 2) (old : BitVec 512) (oldP : Bool) : Stored m (finishWrite L m r d p mv old oldP) r.line d p ∧
      Spared m (finishWrite L m r d p mv old oldP) := by
  have fills := written_fills h.fills r.line d p mv
  have hend := ended_endReq (m := m.written r.line d p mv) (r := { r with tier := 6 }) fills h.trk p
  rw [finishWrite_hushed h hk hw]
  refine ⟨⟨hend.after (homeStep_written _ _ _ _ _), ?_⟩, Spared.trans (t := m.written r.line d p mv) ⟨rfl, rfl, rfl, rfl⟩ (spared_endReq fills _ p)⟩
  rw [endReq_lcGet fills]
  exact ⟨_, written_lcGet m r.line d p mv, rfl, rfl, rfl⟩

/-- A line in the line cache takes poison, and keeps its data (R45). -/
theorem stored_setPoison {L : Image} {m : Mach} {r : Req} {c : CLine} (h : Hushed L m r) (hk : r.kind = .setPoison) (hc : m.lcGet r.line = some c) :
    Stored m (turn L m r) r.line c.data true ∧ Spared m (turn L m r) := by
  obtain ⟨m1, home, step, hit⟩ := serve_hit h.sram (by rw [hk]; rfl) hc L
  have data : withData L m1 { r with sram := .none, tier := 0 } (answerData r.kind c.data c.p c.asRead) c.p c.mv true =
      finishWrite L m1 { r with sram := .none, tier := 0 } c.data true 0#2 c.data c.p := by
    simp [withData, hk, h.merging, answerData, ReqKind.reads]
  have ready := h.after step (by rw [home]; rfl) (by rw [home]; rfl) (by rw [home]; rfl) (by rw [home]; rfl) 0
  rw [turn_unmet h.toUnmet, hit, data]
  obtain ⟨stored, spared⟩ := stored_hushed ready (.inl hk) (hasWay_of_hit home) c.data true 0#2 c.data c.p
  exact ⟨stored.after step, .trans ⟨by rw [home]; rfl, by rw [home]; rfl, by rw [home]; rfl, by rw [home]; rfl⟩ spared⟩

/-- A line in the line cache is written whole, without poison (R45). -/
theorem stored_wholeLine {L : Image} {m : Mach} {r : Req} {c : CLine} {d : Line} (h : Hushed L m r) (hk : r.kind = .ioWrite d (BitVec.allOnes 64))
    (hc : m.lcGet r.line = some c) : Stored m (turn L m r) r.line d false ∧ Spared m (turn L m r) := by
  have step := homeStep_settleCharge m { r with sram := .none } false
  have home := settleCharge_home m { r with sram := .none } false
  have data (t : Mach) : withData L t { r with sram := .none } 0#512 false 0#2 true =
      finishWrite L t { r with sram := .none } d false 0#2 0#512 false := by
    simp [withData, hk, h.merging, mergeBytes_allOnes, -BitVec.reduceAllOnes]
  have ready := h.after step (by rw [home]) (by rw [home]) (by rw [home]) (by rw [home]) r.tier
  have way : HasWay (m.settleCharge { r with sram := .none } false) r.line := by
    unfold HasWay Mach.lcGet
    rw [home]
    exact .inl (by simp [show m.home.lc.find? r.line = some c from hc])
  rw [turn_unmet h.toUnmet, serve_wholeWrite h.sram (by rw [hk]; rfl) (by rw [hk]; rfl), data]
  obtain ⟨stored, spared⟩ := stored_hushed ready (.inr ⟨_, _, hk⟩) way d false 0#2 0#512 false
  exact ⟨stored.after step, (Spared.of_home home).trans spared⟩

end Sys2Proof.Machine
end

section
/-! PROOFS. The mailbox's poison commands and Scan Media (R45, R105, R302, R342), and the statement MailboxPoisonFirmwareCapacity: O36. -/

namespace Sys2Proof.Machine

/-- An open mailbox executes the body of a command that is served, and what it raised is settled. -/
theorem mbCmd_served {s : State} {h : Fin 8} (ho : MailboxOpen s h) {reads : Bool} (hs : (s.latch && !reads) = false) (i : Instr)
    (f : Mach → Mach) : mbCmd s h i reads f = .next (settle { s with m := f s.m }) := by
  obtain ⟨linked, free, post, steward, awake⟩ := ho
  rw [mbCmd, received, if_neg (by simp [free]), State.op]
  simp [linked, post, steward, touch_active s.live awake, Mach.answers, awake, hs]

/-! ### Poison (R45) -/

/-- The request of INJECT_POISON and CLEAR_POISON. -/
def poisonReq (h line : Nat) (k : ReqKind) : Req :=
  { src := 15, head := h, line, kind := k, tag := whoMailbox, mst := mDesc, cls := .engine, quiet := true }

/-- An address in the head's partitions, with memory ready: the request is issued, and two CORE cycles pass. -/
theorem mbPoison_inside {L : Image} {m : Mach} {h dpa : Nat} (hin : headHolds L h (dpa / 2 ^ 28) = true) (hr : m.pwr.memReady = true)
    (k : ReqKind) : mbPoison L m h dpa k =
      (coreCycle L (coreCycle L (m.issueAll [poisonReq h (dpa / 64) k]))).mbRet h mbOk [] := by
  unfold mbPoison
  dsimp only
  rw [if_neg (by rw [hin]; decide), if_neg (by simp [hr])]
  rfl

/-- An address outside them is refused. -/
theorem mbPoison_outside {L : Image} {h dpa : Nat} (hout : headHolds L h (dpa / 2 ^ 28) = false) (m : Mach) (k : ReqKind) :
    mbPoison L m h dpa k = m.mbRet h mbInvalidInput [] := if_pos (by rw [hout]; rfl)

theorem scanStart_outside {L : Image} {h dpa : Nat} (hout : headHolds L h (dpa / 2 ^ 28) = false) (m : Mach) (n : Nat) :
    scanStart L m h dpa n = m.mbRet h mbInvalidInput [] := if_pos (by rw [hout]; rfl)

/-- A scan starts where no background command runs. -/
theorem scanStart_inside {L : Image} {m : Mach} {h dpa : Nat} (hin : headHolds L h (dpa / 2 ^ 28) = true) (hr : m.pwr.memReady = true)
    (hb : (m.mb h).busy = false) (n : Nat) : scanStart L m h dpa n =
      (m.setMb h { m.mb h with scan := some (dpa / 64, n), scanRes := [] }).mbRet h mbBackground [] := by
  unfold scanStart
  rw [if_neg (by rw [hin]; decide), if_neg (by simp [hr])]
  exact mbStart_idle hb _

/-- `c` is the mailbox command that issues a request of kind `k`. -/
def Poisons (h : Fin 8) (dpa : BitVec 45) (c : Instr) (k : ReqKind) : Prop :=
  ∀ s, exec c s = mbCmd s h c false (fun m => mbPoison s.live m h dpa.toNat k)

theorem poisons_injectPoison (h : Fin 8) (dpa : BitVec 45) : Poisons h dpa (.injectPoison h dpa) .setPoison := by
  intro s
  unfold exec
  rfl

theorem poisons_clearPoison (h : Fin 8) (dpa : BitVec 45) (data : Line) :
    Poisons h dpa (.clearPoison h dpa data) (.ioWrite data (BitVec.allOnes 64)) := by
  intro s
  unfold exec
  rfl

theorem mends_goesToSlice {k : ReqKind} (hk : k.mends) : k.goesToSlice := by
  obtain rfl | ⟨d, be, rfl⟩ := hk <;> exact ⟨by simp, by simp⟩

/-- At a calm part the request is admitted, served and ended within the CORE cycle, which leaves the part calm. -/
theorem coreCycle_mends {L : Image} {m : Mach} {r : Req} {c : CLine} {k : ReqKind} {d : Line} {p : Bool} (hc : Calm m) (hs : ServesNow L m r.mst)
    (plain : PlainLine L m r.line) (hit : m.lcGet r.line = some c) (src : 12 ≤ r.src) (mst : r.mst < 38) (start : r.phase = .start)
    (sram : r.sram = .none) (quiet : r.quiet = true) (merging : r.merging = false) (hk : r.kind = k) (mends : k.mends)
    (acts : ∀ t q, Hushed L t q → q.kind = k → t.lcGet q.line = some c → Stored t (turn L t q) q.line d p ∧ Spared t (turn L t q)) :
    Calm (coreCycle L (m.issueAll [r])) ∧ (∃ y, (coreCycle L (m.issueAll [r])).lcGet r.line = some y ∧ y.data = d ∧ y.p = p ∧ y.dirty = true) ∧
      ∀ s : State, Quiet { s with m } → Quiet { s with m := coreCycle L (m.issueAll [r]) } := by
  have alone := alone_issueAll hc hs (r := r) (by omega) mst
  have job : (m.issueAll [r]).jobOf { r with id := m.home.nextId } = none := if_neg (by dsimp only; omega)
  obtain ⟨-, fab, -, fills, snoops, evicting, heads⟩ := hc
  obtain ⟨flat, db, mirror, coal, -⟩ := plain
  obtain ⟨t, t0, n, b, pk, step, home, cycle⟩ := coreCycle_slice alone (by rw [hk]; exact mends_goesToSlice mends) job flat start
  have hushed : Hushed L t (Req.atHome { r with id := m.home.nextId } t0 n b) :=
    { db := dbLine_of_sf (m := m) (by rw [home]; rfl) db, coal := by rw [step.tally]; exact coal, snoops := by rw [home]; exact snoops, sram,
      trk := by rw [home]; exact fun x hx => by rw [List.mem_singleton.mp hx], fills := by rw [home]; exact fills, quiet, merging, flat,
      plain := mirror }
  have cached : t.lcGet r.line = some c := by
    unfold Mach.lcGet
    rw [home]
    exact hit
  obtain ⟨stored, spared⟩ := acts t _ hushed hk cached
  have panic := cycle stored.toEnded
  obtain ⟨hend, way⟩ := stored
  have ends := step.trans hend.step
  generalize turn L t (Req.atHome { r with id := m.home.nextId } t0 n b) = u at hend way spared panic ends
  generalize coreCycle L (m.issueAll [r]) = v at panic
  have same := panic.home
  refine ⟨⟨?_, ?_, by rw [same]; exact hend.trk, by rw [same]; exact hend.fills, ?_, ?_, fun j hj => ?_⟩, ?_, fun s hq => ?_⟩
  · rw [same, spared.intq, home]
  · rw [same, spared.fab, home]; exact fab
  · rw [same, spared.snoops, home]; exact snoops
  · rw [same, spared.evicting, home]; exact evicting
  · obtain ⟨x, e⟩ := panic.head j
    rw [e, ends.head]
    exact heads j hj
  · rw [panic.lcGet]
    exact way
  · exact panic.quiet (ends.quiet (m := (m.issueAll [r]).clocked) hq)

/-- INJECT_POISON and CLEAR_POISON of an address outside the head's partitions are refused. -/
theorem poison_refused {s : State} {h : Fin 8} {dpa : BitVec 45} {c : Instr} {k : ReqKind} (hq : Quiet s) (ho : MailboxOpen s h)
    (hl : s.latch = false) (hout : headHolds s.live h (dpa.toNat / 2 ^ 28) = false) (hc : Poisons h dpa c k) :
    exec c s = .next { s with m := s.m.mbRet h mbInvalidInput [] } := by
  rw [hc s]
  exact mbCmd_open ho (by simp [hl]) c (mbPoison_outside hout s.m k) (quiet_mbRet hq _ _ _)

/-- Inside, they are requests of an internal source, and are answered success. -/
theorem poison_requested {s : State} {h : Fin 8} {dpa : BitVec 45} {c : Instr} {k : ReqKind} (ho : MailboxOpen s h) (hl : s.latch = false)
    (hin : headHolds s.live h (dpa.toNat / 2 ^ 28) = true) (hr : s.m.pwr.memReady = true) (hc : Poisons h dpa c k) : exec c s =
      .next (settle { s with m := (coreCycle s.live (coreCycle s.live (s.m.issueAll [poisonReq h (dpa.toNat / 64) k]))).mbRet h mbOk [] }) := by
  rw [hc s, mbCmd_served ho (by simp [hl]), mbPoison_inside hin hr]

/-- A cached line that nothing stands on is poisoned, or written without poison, at once. -/
theorem poison_lands {s : State} {h : Fin 8} {dpa : BitVec 45} {c : Instr} {k : ReqKind} {x : CLine} {d : Line} {p : Bool} (hq : Quiet s)
    (ho : MailboxOpen s h) (hl : s.latch = false) (hin : headHolds s.live h (dpa.toNat / 2 ^ 28) = true) (hr : s.m.pwr.memReady = true)
    (hc : Poisons h dpa c k) (calm : Calm s.m) (plain : PlainLine s.live s.m (dpa.toNat / 64)) (serves : ServesNow s.live s.m mDesc)
    (hit : s.m.lcGet (dpa.toNat / 64) = some x) (mends : k.mends)
    (acts : ∀ t q, Hushed s.live t q → q.kind = k → t.lcGet q.line = some x → Stored t (turn s.live t q) q.line d p ∧ Spared t (turn s.live t q)) :
    ∃ t y, exec c s = .next t ∧ Out.mbox h mbOk [] ∈ t.m.outbox ∧ t.m.lcGet (dpa.toNat / 64) = some y ∧ y.dirty = true ∧ y.p = p ∧ y.data = d ∧
      t.m.home.trk = [] ∧ t.m.home.intq = [] := by
  obtain ⟨once, ⟨y, way, data, poison, dirty⟩, quiet⟩ := coreCycle_mends (r := poisonReq h (dpa.toNat / 64) k) calm serves plain hit
    (show 12 ≤ 15 by decide) (show 33 < 38 by decide) rfl rfl rfl rfl rfl mends acts
  rw [poison_requested ho hl hin hr hc]
  generalize coreCycle s.live (s.m.issueAll [poisonReq h (dpa.toNat / 64) k]) = u at once way quiet
  obtain ⟨-, home, -, twice⟩ := coreCycle_calm once s.live
  have settled := twice s (quiet s hq)
  generalize coreCycle s.live u = v at home settled
  obtain ⟨intq, -, trk, -⟩ := once
  refine ⟨_, y, congrArg Host.Outcome.next (settle_quiet _ (quiet_mbRet settled h mbOk [])), mem_outbox_send _ _, ?_, dirty, poison, data, ?_, ?_⟩
  · refine Eq.trans ?_ way
    exact congrArg (fun t : Home => t.lc.find? (dpa.toNat / 64)) home
  · exact (congrArg Home.trk home).trans trk
  · exact (congrArg Home.intq home).trans intq

/-! ### Scan Media (R302, R342) -/

/-- A scan with nothing left ends. -/
theorem scanPages_end {L : Image} {h line : Nat} {m : Mach} (hs : (m.mb h).scan = some (line, 0)) (n : Nat) :
    ((scanPages L h (n + 1) m).mb h).scan = none := by
  unfold scanPages
  rw [hs]
  exact congrArg Mbox.scan (mb_setMb m h _)

/-- The machine after a scan has read the last `k` lines of its range, from `line` on, with the regulator's leave. -/
def Mach.lastScanned (m : Mach) (L : Image) (h line k : Nat) : Mach :=
  let t := scrubPage L m (line / 64) (fun l => decide (line ≤ l ∧ l < line + k))
  let u := t.agentClear (whoScan h)
  u.setMb h { u.mb h with scan := some (line + k, 0), scanRes := (u.mb h).scanRes ++ poisonedIn L t h line k }

theorem lastScanned_scan (m : Mach) (L : Image) (h line k : Nat) : ((m.lastScanned L h line k).mb h).scan = some (line + k, 0) :=
  congrArg Mbox.scan (mb_setMb _ h _)

/-- A scan of lines of one page of the flat area has nothing left once the regulator has given its leave. -/
theorem scanPages_page {L : Image} {h line left : Nat} {m : Mach} (hs : (m.mb h).scan = some (line, left)) (hn : left ≠ 0)
    (hf : flatPage L (line / 64) = true) (hh : headHolds L h (line / 64 / 65536) = true) (hw : line % 64 + left ≤ 64)
    (hg : ∀ k, (grant L m (scrubAgent (whoScan h)) (line / 64) k).1 = true) (n : Nat) :
    ∃ t : Mach, scanPages L h (n + 1) m = scanPages L h n (t.lastScanned L h line left) := by
  obtain ⟨j, rfl⟩ := Nat.exists_eq_succ_of_ne_zero hn
  have all : min (j + 1) (64 - line % 64) = j + 1 := by omega
  have granted := hg (m.backing L (line / 64) {} (fun l => decide (line ≤ l ∧ l < line + (j + 1)))).length
  obtain ⟨t, leave⟩ : ∃ t, grant L m (scrubAgent (whoScan h)) (line / 64)
      (m.backing L (line / 64) {} (fun l => decide (line ≤ l ∧ l < line + (j + 1)))).length = (true, t) := ⟨_, Prod.ext granted rfl⟩
  refine ⟨t, ?_⟩
  rw [scanPages, hs]
  simp only [hf, if_true, hh, Bool.not_true, Bool.false_eq_true, if_false, Nat.succ_eq_add_one, all, leave, Nat.sub_self]
  rfl

/-- The scan of a range in one page of the flat area ends. -/
theorem scanDone_page {L : Image} {m : Mach} {h : Fin 8} {line n : Nat} (hs : (m.mb h).scan = some (line, n)) (hp : m.scb.paused = false)
    (hr : m.pwr.memReady = true) (hf : flatPage L (line / 64) = true) (hh : headHolds L h (line / 64 / 65536) = true) (hw : line % 64 + n ≤ 64)
    (calm : Calm m) (serves : ServesNow L m mScrub) (errs : List (Nat × SymErr)) : ((scanDone L m h errs).mb h).scan = none := by
  have e : scanDone L m h errs = m.withErrs errs (scanPages L h ((line + n + 63) / 64 - line / 64 + 1)) := by
    unfold scanDone
    rw [hs]
    exact if_neg (by simp [hp, hr])
  rw [e]
  change ((scanPages L h _ { m with errs }).mb h).scan = none
  have hs' : (Mach.mb { m with errs } h).scan = some (line, n) := hs
  by_cases hn : n = 0
  · subst hn
    exact scanPages_end hs' _
  · have fuel : (line + n + 63) / 64 - line / 64 = 1 := by omega
    obtain ⟨u, pages⟩ := scanPages_page (m := { m with errs }) hs' hn hf hh hw
      (fun k => grant_calm (m := { m with errs }) calm serves (show 8 ≤ 13 by decide) (show 34 < 38 by decide) _ k) 1
    rw [fuel, pages]
    exact scanPages_end (lastScanned_scan u L h line n) 0

theorem exec_scanMediaDone (h : Fin 8) (errs : List (Nat × SymErr)) (s : State) :
    exec (.scanMediaDone h errs) s = s.work (fun m => scanDone s.live m h errs) := by rfl

/-- SCAN_MEDIA_DONE of such a range ends the background command. -/
theorem scan_ends {s : State} {h : Fin 8} (hl : s.latch = false) {errs : List (Nat × SymErr)}
    (hd : ((scanDone s.live s.m h errs).mb h).scan = none) :
    ∃ t, exec (.scanMediaDone h errs) s = .next t ∧ (t.m.mb h).scan = none ∧ t.live = s.live := by
  rw [exec_scanMediaDone, work_open hl]
  refine ⟨_, rfl, ?_, settle_live _⟩
  have kept := kept_settle { s with m := scanDone s.live s.m h errs }
  exact (congrArg Mbox.scan (kept.mbox h) :).trans hd

/-- GET_POISON_LIST. -/
theorem poisonList_answers {s : State} (hr : s.m.pwr.memReady = true) (h : Fin 8) (dpa : BitVec 45) (n : Nat) :
    Answers s h true (.getPoisonList h dpa n) mbOk (Config.mboxBytes 0x4300 h (poisonedIn s.live s.m h (dpa.toNat / 64) n)) := by
  unfold Answers exec execGetPoisonList
  exact ⟨_, rfl, if_neg (by simp [hr])⟩

theorem scan_refused {s : State} {h : Fin 8} {dpa : BitVec 45} (hq : Quiet s) (ho : MailboxOpen s h) (hl : s.latch = false)
    (hout : headHolds s.live h (dpa.toNat / 2 ^ 28) = false) (n : Nat) :
    exec (.scanMedia h dpa n) s = .next { s with m := s.m.mbRet h mbInvalidInput [] } := by
  unfold exec execScanMedia
  exact mbCmd_open ho (by simp [hl]) _ (scanStart_outside hout s.m n) (quiet_mbRet hq _ _ _)

theorem scan_starts {s : State} {h : Fin 8} {dpa : BitVec 45} (hq : Quiet s) (ho : MailboxOpen s h) (hl : s.latch = false)
    (hin : headHolds s.live h (dpa.toNat / 2 ^ 28) = true) (hr : s.m.pwr.memReady = true) (hb : (s.m.mb h).busy = false) (n : Nat) :
    exec (.scanMedia h dpa n) s =
      .next { s with m := (s.m.setMb h { s.m.mb h with scan := some (dpa.toNat / 64, n), scanRes := [] }).mbRet h mbBackground [] } := by
  unfold exec execScanMedia
  exact mbCmd_open ho (by simp [hl]) _ (scanStart_inside hin hr hb n) (quiet_mbRet (quiet_setMb hq _ _) _ _ _)

end Sys2Proof.Machine

namespace Sys2Proof
open Machine

/-- Settles O36: each command by the lemma that says what an open mailbox does with it. -/
theorem mailboxPoisonFirmwareCapacity : Obligations.MailboxPoisonFirmwareCapacity := by
  refine ⟨fun h dpa data n s hq ho hl => ⟨fun hout c hc => ?refused, fun hin hr => ⟨fun c k hc => ?poison, ?list, fun hb => ?start⟩,
    fun line hs hp hr hf hh hw calm serves errs => ?scan⟩, fun h ld version last good es s hq ho hl => ?capacity⟩
  case refused =>
    simp only [List.mem_cons, List.not_mem_nil, or_false] at hc
    obtain rfl | rfl | rfl := hc
    · exact poison_refused hq ho hl hout (poisons_injectPoison h dpa)
    · exact poison_refused hq ho hl hout (poisons_clearPoison h dpa data)
    · exact scan_refused hq ho hl hout n
  case poison =>
    simp only [List.mem_cons, Prod.mk.injEq, List.not_mem_nil, or_false] at hc
    obtain ⟨rfl, rfl⟩ | ⟨rfl, rfl⟩ := hc
    · have poisons := poisons_injectPoison h dpa
      refine ⟨fun r hreq => hreq ▸ poison_requested ho hl hin hr poisons, fun x calm plain serves hit => ?_⟩
      exact poison_lands hq ho hl hin hr poisons calm plain serves hit (.inl rfl) fun t q hh hk hc => stored_setPoison hh hk hc
    · have poisons := poisons_clearPoison h dpa data
      refine ⟨fun r hreq => hreq ▸ poison_requested ho hl hin hr poisons, fun x calm plain serves hit => ?_⟩
      exact poison_lands hq ho hl hin hr poisons calm plain serves hit (.inr ⟨_, _, rfl⟩) fun t q hh hk hc => stored_wholeLine hh hk hc
  case list => exact (poisonList_answers hr h dpa n).served hq ho (by simp)
  case start => exact scan_starts hq ho hl hin hr hb n
  case scan => exact scan_ends hl (scanDone_page hs hp hr hf hh hw calm serves errs)
  case capacity =>
    exact ⟨fun hb => ⟨firmware_transfers hq ho hl hb version last good, fun ready keeper => firmware_starts hq ho hl hb keeper ready,
        fun ready keeper => firmware_starts hq ho hl hb keeper ready⟩, fun keeper => firmware_fails hq ho hl keeper, firmware_transferred hq ho,
      fun act ready keeper => firmware_activated hq ho act ready keeper, fun p o hp hf he => capacity_accepted hq ho hl hp hf he,
      fun hp => capacity_refused hq ho hl hp es, fun he => capacity_released hq ho hl he, capacity_reported hq ho⟩

end Sys2Proof
end

section
/-! PROOFS. The stage as registers write and read it (R75, R80, R87, R94, R375): what a write stores while BUSY = 0 and what it loses while
BUSY = 1, and the statements StagedWritesAreStored and BusyWritesAreLostAndWindowsRead: O10, O11. -/

namespace Sys2Proof.Machine

/-! ### The commands -/

theorem exec_stagedWrite (off : BitVec 26) (v : Word) (s : State) : exec (.stagedWrite off v) s = .next (stagedPut s off.toNat v) := rfl
theorem exec_extDataHiWrite (v : Word) (s : State) : exec (.extDataHiWrite v) s = .next (extHiWrite s v) := rfl
theorem exec_extFill (v : Word) (s : State) : exec (.extFill v) s = .next (extFillWrite s v) := rfl
theorem exec_mapDataWrite (v : Word) (s : State) : exec (.mapDataWrite v) s = .next (mapWrite s v) := rfl
theorem exec_check (s : State) : exec .check s = .next (stageCtl s (checkStart false)) := rfl
theorem exec_pairedCheck (s : State) : exec .pairedCheck s = .next (stageCtl s (checkStart true)) := rfl
theorem exec_checkDone (s : State) : exec .checkDone s = .next (checkDone s) := rfl
theorem exec_apply (key : BitVec 24) (s : State) :
    exec (.apply key) s = .next (stageCtl s (fun s => applyJudge s key s.commit.checked applyGo)) := rfl
theorem exec_pairedApply (key : BitVec 24) (s : State) :
    exec (.pairedApply key) s = .next (stageCtl s (fun s => applyJudge s key (s.commit.checked && s.commit.pairedPass) pairedGo)) := rfl
theorem exec_discard (s : State) : exec .discard s = .next (stageCtl s discard) := rfl

/-! ### BUSY -/

theorem Commit.busy_of_idle {c : Commit} (h : c.op = .idle) : c.busy = false := by
  simp [Commit.busy, h]

/-- A write of GLB_STAGE_CTL is ignored while BUSY = 1. -/
theorem stageCtl_busy {s : State} (h : s.commit.busy = true) (f : State → State) : stageCtl s f = s := by
  simp [stageCtl, h]

/-- A write of GLB_STAGE_CTL acts while BUSY = 0 outside the safe state. -/
theorem stageCtl_idle {s : State} (h : s.commit.op = .idle) (hl : s.latch = false) (f : State → State) : stageCtl s f = f s := by
  simp [stageCtl, Commit.busy_of_idle h, hl]

/-! ### Writes that are stored -/

/-- What a stored write does to the stage machinery: CHECKED and the standing of a paired PASS go. -/
def State.staged (s : State) (f : Image → Image) : State :=
  { s with stage := f s.stage, commit := { s.commit with checked := false, pairedPass := false } }

theorem stageWrite_idle {s : State} (h : s.commit.op = .idle) (f : Image → Image) : s.stageWrite f = s.staged f := by
  simp [State.stageWrite, State.staged, Commit.busy_of_idle h]

/-- A staged register other than the windows. -/
theorem stagedPut_reg {s : State} {off : Nat} (v : Word) (hu : s.m.unusedReg off = false) (hm : stMask off ≠ 0#32) (h1 : off ≠ oExtLo)
    (h2 : off ≠ oExtHi) (h3 : off ≠ oExtFill) (h4 : off ≠ oMapData) :
    stagedPut s off v = s.stageWrite (fun i => i.setReg off (v &&& stMask off)) := by
  simp only [stagedPut, hu, Bool.false_eq_true, if_false, h1, h2, h3, h4, hm]

/-- The refresh set-up of a channel that is not used takes no write. -/
theorem stagedPut_unused {s : State} {off : Nat} (v : Word) (hu : s.m.unusedReg off = true) : stagedPut s off v = s := by
  simp [stagedPut, hu]

theorem unusedReg_extLo (m : Mach) : m.unusedReg oExtLo = false := Mach.unusedReg_of_mcReg (by decide)

theorem stagedPut_extLo (s : State) (v : Word) : stagedPut s oExtLo v = extLoWrite s v := by
  simp [stagedPut, unusedReg_extLo]

theorem extLoWrite_idle {s : State} (h : s.commit.op = .idle) (hx : s.m.ixLive oExtIndex = false) (v : Word) :
    extLoWrite s v = { s with commit := { s.commit with holdLo := v } } := by
  simp [extLoWrite, Commit.busy_of_idle h, hx]

theorem extHiWrite_idle {s : State} (h : s.commit.op = .idle) (hx : s.m.ixLive oExtIndex = false) (v : Word) :
    extHiWrite s v = { s with stage := s.stage.setExtent (s.m.ixNo oExtIndex) (extWord s.commit.holdLo v),
                              commit := { s.commit with checked := false, pairedPass := false, holdHi := v }, m := s.m.ixAuto oExtIndex } := by
  simp [extHiWrite, Commit.busy_of_idle h, hx, stageWrite_idle h, State.staged]

theorem extFillWrite_idle {s : State} (h : s.commit.op = .idle) (hx : s.m.ixLive oExtIndex = false) {v : Word}
    (hn : s.m.ixNo oExtIndex + fld v 17 0 ≤ 131072) :
    extFillWrite s v =
      { s with stage := (List.range (fld v 17 0)).foldl
                 (fun i t => i.setExtent (s.m.ixNo oExtIndex + t) (extWord s.commit.holdLo s.commit.holdHi)) s.stage,
               commit := { s.commit with checked := false, pairedPass := false },
               m := s.m.ixAdd oExtIndex (fld v 17 0) } := by
  simp [extFillWrite, Commit.busy_of_idle h, hx, Nat.not_lt.mpr hn, stageWrite_idle h, State.staged]

theorem mapWrite_idle {s : State} (h : s.commit.op = .idle) (hx : s.m.ixLive oMapIndex = false) (v : Word) :
    mapWrite s v = { s with stage := { s.stage with map := s.stage.map.set 0 (s.m.ixNo oMapIndex) (fld v 16 0) },
                            commit := { s.commit with checked := false, pairedPass := false }, m := s.m.ixAuto oMapIndex } := by
  simp [mapWrite, Commit.busy_of_idle h, hx, stageWrite_idle h, State.staged]

/-! ### Writes that are lost -/

/-- A paired APPLY that ends unapplied keeps the images and the epoch. -/
theorem pairAbort_images (s : State) : (pairAbort s).stage = s.stage ∧ (pairAbort s).live = s.live ∧ (pairAbort s).epoch = s.epoch := by
  unfold pairAbort
  split <;> exact ⟨rfl, rfl, rfl⟩

/-- An armed APPLY that ends unapplied reports PAIR_ABORTED. -/
theorem pairAbort_armed {s : State} (h : s.commit.op = .armed) : (pairAbort s).commit = { s.commit with op := .idle, code := 0x31#8 } := by
  unfold pairAbort
  rw [if_pos h]

theorem pairAbort_lost (s : State) : (pairAbort s).commit.lost = s.commit.lost := by
  unfold pairAbort
  split <;> rfl

/-- An ignored write changes no image, is noted, and aborts an armed pair. -/
structure State.Loses (s t : State) : Prop where
  images : t.stage = s.stage ∧ t.live = s.live ∧ t.epoch = s.epoch
  lost : t.commit.lost = true
  armed : s.commit.op = .armed → t.commit.op = .idle ∧ t.commit.code = 0x31#8

theorem lostWrite_loses (s : State) : s.Loses s.lostWrite where
  images := pairAbort_images _
  lost := pairAbort_lost _
  armed h := by
    have ended := pairAbort_armed (s := { s with commit := { s.commit with lost := true } }) h
    exact ⟨congrArg Commit.op ended, congrArg Commit.code ended⟩

theorem stageWrite_busy {s : State} (h : s.commit.busy = true) (f : Image → Image) : s.stageWrite f = s.lostWrite := if_pos h
theorem extLoWrite_busy {s : State} (h : s.commit.busy = true) (v : Word) : extLoWrite s v = s.lostWrite := if_pos h
theorem extHiWrite_busy {s : State} (h : s.commit.busy = true) (v : Word) : extHiWrite s v = s.lostWrite := if_pos h
theorem extFillWrite_busy {s : State} (h : s.commit.busy = true) (v : Word) : extFillWrite s v = s.lostWrite := if_pos h
theorem mapWrite_busy {s : State} (h : s.commit.busy = true) (v : Word) : mapWrite s v = s.lostWrite := if_pos h

/-- While BUSY = 1 a write at a staged offset is lost; another, and one to the refresh set-up of a channel that is not used, is ignored. -/
theorem stagedPut_busy {s : State} (h : s.commit.busy = true) (off : Nat) (v : Word) :
    stagedPut s off v = if s.m.unusedReg off = true ∨ stMask off = 0#32 ∧ off ≠ oExtLo ∧ off ≠ oExtHi ∧ off ≠ oExtFill ∧ off ≠ oMapData
      then s else s.lostWrite := by
  unfold stagedPut
  rw [extLoWrite_busy h, extHiWrite_busy h, extFillWrite_busy h, mapWrite_busy h, stageWrite_busy h]
  split_ifs <;> simp_all

/-- While BUSY = 1 a write at a staged offset changes no image. -/
theorem stagedPut_busy_images {s : State} (h : s.commit.busy = true) (off : Nat) (v : Word) :
    (stagedPut s off v).stage = s.stage ∧ (stagedPut s off v).live = s.live ∧ (stagedPut s off v).epoch = s.epoch := by
  rw [stagedPut_busy h]
  split
  · exact ⟨rfl, rfl, rfl⟩
  · exact (lostWrite_loses s).images

theorem stagedPut_busy_staged {s : State} (h : s.commit.busy = true) {off : Nat} (hm : stMask off ≠ 0#32) (hu : s.m.unusedReg off = false)
    (v : Word) : stagedPut s off v = s.lostWrite := by
  rw [stagedPut_busy h, if_neg (by simp [hm, hu])]

/-! ### CHECK after a lost write -/

theorem checkLow_lost (I L : Image) (m : Mach) : checkLow I L m true = some (0x05, 0, 0) := rfl

/-- A CHECK whose first failure lies below the cultures ends with it. -/
theorem checkDone_low {s : State} {paired : Bool} (hc : s.commit.op = .check paired) {r : Nat × Nat × Nat}
    (hr : checkLow s.stage s.live s.m s.commit.lost = some r) : checkDone s = checkEnd s paired (some r) := by
  simp [checkDone, hc, hr]

/-! ### The windows -/

theorem exec_extDataHiRead (s : State) : exec .extDataHiRead s =
    .next { s with m := (s.m.send (.regData .mgmt [(extRead s).extractLsb' 32 32])).ixAuto oExtIndex } := rfl

theorem exec_mapDataRead (s : State) : exec .mapDataRead s =
    .next { s with m := (s.m.send (.regData .mgmt [mapRead s])).ixAuto oMapIndex } := rfl

theorem mapRead_stage {s : State} (h : s.m.ixLive oMapIndex = false) : mapRead s = put (s.stage.mapEnt (s.m.ixNo oMapIndex)) 0 := by
  simp [mapRead, h]

theorem mapRead_live {s : State} (h : s.m.ixLive oMapIndex = true) :
    mapRead s = put (s.live.mapEnt (s.m.ixNo oMapIndex)) 0 ||| put (s.m.dc.get 0 (s.m.ixNo oMapIndex)) 17 := by
  simp [mapRead, h]

end Sys2Proof.Machine

namespace Sys2Proof

open Machine

/-- Settles O10: each write by the lemma that says what it stores while BUSY = 0. -/
theorem stagedWritesAreStored : Obligations.StagedWritesAreStored := by
  refine ⟨fun off v s => ⟨fun hu => ?unused, fun hu hb hm h1 h2 h3 h4 => ?register⟩, fun v s hb => ⟨fun hx => ⟨?low, ?high, fun hn => ?fill⟩,
    fun hx => ?map⟩⟩
  case unused => rw [exec_stagedWrite, stagedPut_unused v hu]
  case register => rw [exec_stagedWrite, stagedPut_reg v hu hm h1 h2 h3 h4, stageWrite_idle hb, State.staged]
  case low =>
    rw [exec_stagedWrite]
    exact congrArg Host.Outcome.next ((stagedPut_extLo s v).trans (extLoWrite_idle hb hx v))
  case high => rw [exec_extDataHiWrite, extHiWrite_idle hb hx]
  case fill => rw [exec_extFill, extFillWrite_idle hb hx hn]
  case map => rw [exec_mapDataWrite, mapWrite_idle hb hx]

/-- Settles O11: while BUSY = 1 each write is the lost write or none; a window reads the entry at its INDEX. -/
theorem busyWritesAreLostAndWindowsRead : Obligations.BusyWritesAreLostAndWindowsRead := by
  refine ⟨fun off v key s hb => ⟨fun c hc => ?images, fun c hc => ?ctl, fun c hc => ?lost, fun ho hlost => ?check⟩, fun s => ⟨?ext, fun hx => ?stage,
    fun hx => ?live⟩⟩
  case images =>
    have lost := (lostWrite_loses s).images
    simp only [List.mem_cons, List.not_mem_nil, or_false] at hc
    obtain rfl | rfl | rfl | rfl := hc
    · exact ⟨_, exec_stagedWrite .., stagedPut_busy_images hb ..⟩
    · exact ⟨_, exec_extDataHiWrite .., by rwa [extHiWrite_busy hb]⟩
    · exact ⟨_, exec_extFill .., by rwa [extFillWrite_busy hb]⟩
    · exact ⟨_, exec_mapDataWrite .., by rwa [mapWrite_busy hb]⟩
  case ctl =>
    simp only [List.mem_cons, List.not_mem_nil, or_false] at hc
    obtain rfl | rfl | rfl | rfl | rfl := hc
    · rw [exec_check, stageCtl_busy hb]
    · rw [exec_pairedCheck, stageCtl_busy hb]
    · rw [exec_apply, stageCtl_busy hb]
    · rw [exec_pairedApply, stageCtl_busy hb]
    · rw [exec_discard, stageCtl_busy hb]
  case lost =>
    have loses := lostWrite_loses s
    simp only [List.mem_cons, List.not_mem_nil, or_false] at hc
    obtain (rfl | rfl | rfl) | ⟨rfl, hm, hu⟩ := hc
    · exact ⟨_, by rw [exec_extDataHiWrite, extHiWrite_busy hb], loses.lost, loses.armed⟩
    · exact ⟨_, by rw [exec_extFill, extFillWrite_busy hb], loses.lost, loses.armed⟩
    · exact ⟨_, by rw [exec_mapDataWrite, mapWrite_busy hb], loses.lost, loses.armed⟩
    · exact ⟨_, by rw [exec_stagedWrite, stagedPut_busy_staged hb hm hu], loses.lost, loses.armed⟩
  case check =>
    refine ⟨_, by rw [exec_checkDone, checkDone_low ho (by rw [hlost]; exact checkLow_lost ..)], rfl, rfl⟩
  case ext => exact exec_extDataHiRead s
  case stage => rw [exec_mapDataRead, mapRead_stage hx]
  case live => rw [exec_mapDataRead, mapRead_live hx]

end Sys2Proof
end

section
/-! PROOFS. What only an APPLY's instant and a start of the part change (R92, R97-R99): no other command changes the live image or the
epoch; and the statements LiveImageChangesAtInstants and EpochCountsInstants: O7, O8. -/

namespace Sys2Proof.Machine

/-! ### What is fixed between instants -/

/-- The queue, the live image, the epoch and the life cycle's current state. -/
def State.fixed (s : State) : List Instr × Image × Word × Nat := (s.pending, s.live, s.epoch, s.lcCur)

/-- A meaning answers a next state with the same queue, live image, epoch and life-cycle state. -/
def Keeps (s : State) (o : Host.Outcome State Fault Refusal) : Prop := ∃ t, o = .next t ∧ t.fixed = s.fixed

theorem fixed_live {s t : State} (h : t.fixed = s.fixed) : t.live = s.live := congrArg (·.2.1) h
theorem fixed_epoch {s t : State} (h : t.fixed = s.fixed) : t.epoch = s.epoch := congrArg (·.2.2.1) h

@[simp] theorem fixed_settle (s : State) : (settle s).fixed = s.fixed := by
  simp [State.fixed]

@[simp] theorem fixed_take (s : State) (o : Occ) (i r : Bool) : (s.take o i r).fixed = s.fixed :=
  congrArg (fun c : List Instr × Image × Image × Word × Nat × Nat => (c.1, c.2.1, c.2.2.2.1, c.2.2.2.2.1)) (take_core s o i r)

/-- A change of the machinery. -/
@[simp] theorem fixed_mach (s : State) (m : Mach) : ({ s with m } : State).fixed = s.fixed := rfl

/-- A change of the stage machinery. -/
@[simp] theorem fixed_commit (s : State) (commit : Commit) : ({ s with commit } : State).fixed = s.fixed := rfl

@[simp] theorem fixed_ykOn (s : State) (f : Mach → Mach) : (s.ykOn f).fixed = s.fixed := rfl

theorem fixed_foldl {α : Type} {f : State → α → State} (hf : ∀ s a, (f s a).fixed = s.fixed) (l : List α) (s : State) :
    (l.foldl f s).fixed = s.fixed := by
  induction l generalizing s with
  | nil => rfl
  | cons a l ih => rw [List.foldl_cons, ih, hf]

/-- A step told by case. -/
theorem fixed_ite {c : Prop} [Decidable c] {a b s : State} (ha : a.fixed = s.fixed) (hb : b.fixed = s.fixed) :
    (if c then a else b).fixed = s.fixed := by
  split
  · exact ha
  · exact hb

/-! ### The stage -/

@[simp] theorem fixed_pairAbort (s : State) : (pairAbort s).fixed = s.fixed := fixed_ite rfl rfl

@[simp] theorem fixed_lostWrite (s : State) : s.lostWrite.fixed = s.fixed := fixed_pairAbort _

@[simp] theorem fixed_stageWrite (s : State) (f : Image → Image) : (s.stageWrite f).fixed = s.fixed := fixed_ite (fixed_lostWrite s) rfl

@[simp] theorem fixed_extLoWrite (s : State) (v : Word) : (extLoWrite s v).fixed = s.fixed :=
  fixed_ite (fixed_lostWrite s) (fixed_ite rfl rfl)

@[simp] theorem fixed_extHiWrite (s : State) (v : Word) : (extHiWrite s v).fixed = s.fixed :=
  fixed_ite (fixed_lostWrite s) (fixed_ite rfl (fixed_stageWrite s _))

@[simp] theorem fixed_extFillWrite (s : State) (v : Word) : (extFillWrite s v).fixed = s.fixed :=
  fixed_ite (fixed_lostWrite s) (fixed_ite rfl (fixed_stageWrite s _))

@[simp] theorem fixed_mapWrite (s : State) (v : Word) : (mapWrite s v).fixed = s.fixed :=
  fixed_ite (fixed_lostWrite s) (fixed_ite rfl (fixed_stageWrite s _))

@[simp] theorem fixed_stagedPut (s : State) (off : Nat) (v : Word) : (stagedPut s off v).fixed = s.fixed :=
  fixed_ite rfl (fixed_ite (fixed_extLoWrite s v) (fixed_ite (fixed_extHiWrite s v) (fixed_ite (fixed_extFillWrite s v)
    (fixed_ite (fixed_mapWrite s v) (fixed_ite rfl (fixed_stageWrite s _))))))

@[simp] theorem fixed_stageImage (s : State) (j : Job) : (stageImage s j).fixed = s.fixed := by
  simp [stageImage]

/-! ### CHECK, APPLY before its instant, DISCARD, the copy of cultures -/

theorem fixed_stageCtl {s : State} {f : State → State} (h : (f s).fixed = s.fixed) : (stageCtl s f).fixed = s.fixed := fixed_ite rfl h

theorem fixed_checkStart (p : Bool) (s : State) : (checkStart p s).fixed = s.fixed := fixed_ite rfl rfl

theorem fixed_checkEnd (s : State) (p : Bool) (r : Option (Nat × Nat × Nat)) : (checkEnd s p r).fixed = s.fixed := by
  cases r <;> rfl

theorem fixed_checkDone (s : State) : (checkDone s).fixed = s.fixed := by
  unfold checkDone
  split
  · split
    · exact fixed_checkEnd ..
    · split
      · exact fixed_settle _
      · extract_lets t
        have ht : t.fixed = s.fixed := fixed_settle _
        clear_value t
        split
        · refine fixed_ite ht ?_
          exact (fixed_checkEnd ..).trans ht
        · exact ht
  · rfl

theorem fixed_applyJudge {s : State} (key : BitVec 24) (pass : Bool) {go : State → State} (h : (go s).fixed = s.fixed) :
    (applyJudge s key pass go).fixed = s.fixed := fixed_ite rfl (fixed_ite rfl h)

theorem fixed_applyGo (s : State) : (applyGo s).fixed = s.fixed := fixed_settle _

@[simp] theorem fixed_pairMatch (s : State) : (pairMatch s).fixed = s.fixed := by
  unfold pairMatch
  split
  · exact fixed_ite (fixed_pairAbort s) (fixed_ite rfl rfl)
  · rfl

@[simp] theorem fixed_pairArm (s : State) : (pairArm s).fixed = s.fixed := by
  unfold pairArm
  split
  · rfl
  · split
    · exact fixed_settle _
    · extract_lets y m t
      have ht : t.fixed = s.fixed := fixed_settle _
      clear_value t
      exact fixed_ite ((fixed_pairMatch _).trans ht) ht

theorem fixed_pairedGo (s : State) : (pairedGo s).fixed = s.fixed := fixed_ite rfl (fixed_pairArm _)

theorem fixed_cultureCopied (s : State) (n : Nat) : (cultureCopied s n).fixed = s.fixed := by
  unfold cultureCopied
  split
  · rfl
  · split
    · exact fixed_settle _
    · extract_lets c m1 c1 m2 t
      have ht : t.fixed = s.fixed := fixed_settle _
      clear_value t
      split
      · exact fixed_ite ht ht
      · exact ht

/-! ### The yoke -/

@[simp] theorem fixed_pairLost (s : State) : (pairLost s).fixed = s.fixed := fixed_ite rfl rfl

@[simp] theorem fixed_yk (s : State) (f : Mach → Mach) : (s.yk f).fixed = s.fixed := (fixed_pairLost _).trans (fixed_settle _)

theorem fixed_armRx (s : State) (c : Word) : (armRx s c).fixed = s.fixed := (fixed_pairMatch _).trans (fixed_pairArm _)
theorem fixed_goRx (s : State) (f : Nat) : (goRx s f).fixed = s.fixed := fixed_ite rfl rfl
theorem fixed_goAckRx (s : State) (f : Nat) : (goAckRx s f).fixed = s.fixed := fixed_ite rfl rfl
theorem fixed_abortRx (s : State) : (abortRx s).fixed = s.fixed := fixed_ite rfl rfl

/-- A change of the machinery after what kept the rest. -/
theorem fixed_ykOn_of {s t : State} (h : t.fixed = s.fixed) (f : Mach → Mach) : (t.ykOn f).fixed = s.fixed := h

theorem fixed_vecReqRx (s : State) (b : Bool) : (vecReqRx s b).fixed = s.fixed := fixed_mach s _

theorem fixed_vc2Msg (s : State) (b : List Byte) : (vc2Msg s b).fixed = s.fixed := by
  unfold vc2Msg
  extract_lets n L ty t
  have ht : t.fixed = s.fixed := fixed_ykOn s _
  clear_value t ty
  refine fixed_ite rfl (fixed_ite (fixed_ykOn s _) (fixed_ite (fixed_ykOn s _) (fixed_ite rfl ?_)))
  split
  case h_3 => exact (fixed_vecReqRx ..).trans ht
  case h_5 => exact (fixed_armRx ..).trans ht
  case h_6 => exact (fixed_goRx ..).trans ht
  case h_7 => exact (fixed_goAckRx ..).trans ht
  case h_8 => exact (fixed_abortRx _).trans ht
  all_goals exact fixed_ykOn_of ht _

theorem fixed_flitDeliver (s : State) (f : BitVec 2048) : (flitDeliver s f).fixed = s.fixed := by
  unfold flitDeliver
  extract_lets vc bs msg hold t
  have ht : t.fixed = s.fixed := fixed_ykOn s _
  clear_value t
  refine fixed_ite (fixed_ykOn_of (fixed_ite ht ?_) _) (fixed_ite (fixed_ykOn_of ?_ _) (fixed_ite ht (fixed_ykOn_of ht _)))
  · exact (fixed_foldl (fun s _ => fixed_ykOn s _) _ _).trans ht
  · exact (fixed_foldl (fun _ _ => fixed_vc2Msg ..) _ _).trans ht

theorem fixed_flitDeliverAll (n : Nat) (s : State) : (flitDeliverAll n s).fixed = s.fixed := by
  induction n generalizing s with
  | zero => rfl
  | succ n ih =>
    unfold flitDeliverAll
    dsimp only
    split
    · rfl
    · exact (ih _).trans (fixed_flitDeliver ..)

/-- A flit that the link brings. -/
theorem fixed_flitRx (s : State) (f : BitVec 2048) : (flitRx s f).fixed = s.fixed := by
  unfold flitRx
  extract_lets L acked nak vc credited heard y q ahead top windowed delivered
  have hn : nak.fixed = s.fixed := fixed_ykOn_of (fixed_ykOn s _) _
  have hc : credited.fixed = s.fixed := fixed_ykOn_of hn _
  clear_value nak credited
  have hh : heard.fixed = s.fixed := fixed_ite (fixed_ykOn_of hc _) hc
  clear_value heard
  have hw : windowed.fixed = s.fixed := fixed_ykOn_of hh _
  clear_value windowed
  have hd : delivered.fixed = s.fixed := (fixed_flitDeliverAll 512 windowed).trans hw
  clear_value delivered
  have fatal (c : Nat) : (heard.ykOn fun m => ykFatal L m c).fixed = s.fixed := fixed_ykOn_of hh _
  refine fixed_ite rfl (fixed_ite (fixed_ykOn s _) (fixed_ite hn (fixed_ite ?_ ?_)))
  · exact fixed_ite hh (fixed_ite (fatal _) (fixed_ykOn_of hh _))
  · exact fixed_ite hh (fixed_ite (fatal _) (fixed_ite (fatal _) (fixed_ite (fixed_ykOn_of hd _) hd)))

/-! ### The other states that a meaning makes -/

theorem fixed_keyDone (s : State) : (keyDone s).fixed = s.fixed := by
  unfold keyDone
  split
  · rfl
  · refine fixed_ite ?_ (fixed_mach s _)
    split <;> exact fixed_mach s _

theorem fixed_tokenEnd (s : State) : (tokenEnd s).fixed = s.fixed := by
  unfold tokenEnd
  exact fixed_ite rfl rfl

theorem fixed_forcePresent (s : State) (src : Nat) (real : Option Occ) : (forcePresent s src real).fixed = s.fixed := by
  unfold forcePresent
  split
  · rfl
  · exact (fixed_take ..).trans (fixed_mach s _)

theorem fixed_rw (s : State) (off : Nat) (v : Word) : (s.rw off v).fixed = s.fixed := fixed_ite rfl (fixed_mach s _)

theorem fixed_warmStage (s : State) : (warmStage s).fixed = s.fixed := by
  unfold warmStage
  exact fixed_pairLost s

theorem fixed_warmStart (s : State) (kind : Nat) (d : DropEnv) : (warmStart s kind d).fixed = s.fixed := by
  unfold warmStart
  split
  · rfl
  · rw [fixed_warmStage, fixed_settle, fixed_mach]

theorem fixed_headRead (s : State) (h off : Nat) : (headRead s h off).2.fixed = s.fixed := by
  unfold headRead
  dsimp only
  split_ifs <;> rfl

theorem fixed_readDw (s : State) (p : Path) (bar : Bar) (off : Nat) : (readDw s p bar off).2.fixed = s.fixed := by
  unfold readDw
  split
  · exact fixed_headRead ..
  · exact fixed_ite rfl (fixed_mach s _)

theorem fixed_readRequest (s : State) (a : ReadReq) : (readRequest s a).fixed = s.fixed := by
  unfold readRequest
  extract_lets t r
  have ht : t.fixed = s.fixed := fixed_mach s _
  clear_value t
  have words (l : List Nat) (x : List Word × State) (hx : x.2.fixed = t.fixed) : (l.foldl (fun (acc : List Word × State) i =>
      let x := readDw acc.2 a.path a.bar ((a.off.toNat / 4 + i) % 2 ^ 24 * 4)
      (acc.1 ++ [x.1], x.2)) x).2.fixed = t.fixed := by
    induction l generalizing x with
    | nil => exact hx
    | cons i l ih => exact ih _ ((fixed_readDw ..).trans hx)
  exact fixed_ite rfl (fixed_ite ht (fixed_ite ht (fixed_ite ht (fixed_ite ht ((words _ _ rfl).trans ht)))))

/-! ### The forms of meanings -/

theorem keeps_next {s t : State} (h : t.fixed = s.fixed) : Keeps s (.next t) := ⟨t, rfl, h⟩

theorem keeps_ite {s : State} {c : Prop} [Decidable c] {a b : Host.Outcome State Fault Refusal} (ha : Keeps s a) (hb : Keeps s b) :
    Keeps s (if c then a else b) := by
  split
  · exact ha
  · exact hb

theorem keeps_op (s : State) (f : Mach → Mach) : Keeps s (s.op f) := keeps_next (fixed_settle _)

theorem keeps_work (s : State) (f : Mach → Mach) : Keeps s (s.work f) := keeps_ite (keeps_next rfl) (keeps_op s f)

theorem keeps_received {s : State} {act : State → Host.Outcome State Fault Refusal} (h : Nat) (i : Instr) (ha : Keeps s (act s)) :
    Keeps s (received s h i act) := keeps_ite (keeps_op ..) ha

theorem keeps_receivedVia {s : State} {act : State → Host.Outcome State Fault Refusal} (via : Option (Fin 8)) (i : Instr)
    (ha : Keeps s (act s)) : Keeps s (receivedVia s via i act) := by
  unfold receivedVia
  split
  · exact keeps_received _ i ha
  · exact keeps_ite (keeps_op ..) ha

theorem keeps_request (s : State) (h : Fin 8) (ld : Fin 16) (tag : Nat) (hpa : BitVec 52) (kind : ReqKind) (sram : SramErr) (i : Instr) :
    Keeps s (request s h ld tag hpa kind sram i) := keeps_received _ i (keeps_op ..)

theorem keeps_mbCmd (s : State) (h : Fin 8) (i : Instr) (reads : Bool) (f : Mach → Mach) : Keeps s (mbCmd s h i reads f) :=
  keeps_received _ i (keeps_op ..)

theorem keeps_mbReport (s : State) (h : Fin 8) (i : Instr) (op : Nat) (fields : Mach → List Nat) : Keeps s (mbReport s h i op fields) := by
  unfold mbReport
  exact keeps_mbCmd ..

theorem keeps_ykOp (s : State) (f : Mach → Mach) : Keeps s (ykOp s f) := keeps_next (fixed_yk s f)

theorem keeps_ykTake {s : State} {f : State → State} (h : (f s).fixed = s.fixed) : Keeps s (ykTake s f) :=
  keeps_ite (keeps_next rfl) (keeps_next ((fixed_yk _ _).trans h))

theorem keeps_ykMgmt {s : State} {f : State → State} (h : ∀ t, (f t).fixed = t.fixed) : Keeps s (ykMgmt s f) :=
  keeps_ykTake (h _)

/-! ### The commands that no form tells -/

theorem keeps_atomicOp (h : Fin 8) (ld : Fin 16) (tag : Nat) (hpa : BitVec 52) (op : Atomic) (sram : SramErr) (s : State) :
    Keeps s (execAtomicOp h ld tag hpa op s sram) := keeps_ite (keeps_received _ _ (keeps_op ..)) (keeps_request ..)

theorem keeps_perstAssert (h : Fin 8) (d : DropEnv) (s : State) : Keeps s (execPerstAssert h d s) := by
  unfold execPerstAssert
  extract_lets edge t all
  have ht : t.fixed = s.fixed := fixed_settle _
  clear_value t
  exact keeps_next (fixed_ite ((fixed_warmStart ..).trans ht) ht)

theorem keeps_provisioningRequest (h : Fin 8) (n : Fin 4) (root : BitVec 384) (s : State) :
    Keeps s (execProvisioningRequest h n root s) := by
  refine keeps_received _ _ (keeps_next ?_)
  unfold provision
  exact fixed_ite rfl rfl

theorem keeps_cultureTrain (job : Nat) (s : State) : Keeps s (execCultureTrain job s) := by
  unfold execCultureTrain
  refine keeps_ite (keeps_next rfl) ?_
  extract_lets m fresh t
  have ht : t.fixed = s.fixed := fixed_settle _
  clear_value t
  split
  · split
    · exact keeps_next (fixed_ite ((fixed_stageImage ..).trans ht) ht)
    · exact keeps_next ht
  · exact keeps_next ht

theorem keeps_pairedArmTimeout (s : State) : Keeps s (execPairedArmTimeout s) :=
  keeps_next ((fixed_yk _ id).trans (fixed_ite (fixed_pairAbort s) rfl))

theorem keeps_heartbeatSend (s : State) : Keeps s (execHeartbeatSend s) := keeps_next ((fixed_pairArm _).trans (fixed_yk ..))

end Sys2Proof.Machine
end

section
/-! PROOFS. The instants (R92, R97, R99) and the commands that are none: the statements LiveImageChangesAtInstants and EpochCountsInstants:
O7, O8. -/

namespace Sys2Proof.Machine

/-! ### The instants -/

@[simp] theorem instant_live (s : State) (p : Bool) : (instant s p).live = appliedImage s.live s.stage := settle_live _
@[simp] theorem instant_stage (s : State) (p : Bool) : (instant s p).stage = appliedImage s.live s.stage := settle_stage _
@[simp] theorem instant_epoch (s : State) (p : Bool) : (instant s p).epoch = s.epoch + 1 := settle_epoch _

/-- APPLY_INSTANT: the instant of what the merge leaves, or nothing that is fixed changes. -/
theorem applyInstant_cases (s : State) : (applyInstant s).fixed = s.fixed ∨ ∃ t, t.fixed = s.fixed ∧ applyInstant s = instant t false := by
  unfold applyInstant
  extract_lets t
  have ht : t.fixed = s.fixed := fixed_pairArm s
  clear_value t
  split
  · exact .inl ht
  · split
    · exact .inl ((fixed_settle _).trans ht)
    · extract_lets u
      have hu : u.fixed = s.fixed := (fixed_settle _).trans ht
      clear_value u
      split
      · exact .inr ⟨u, hu, rfl⟩
      · exact .inl hu

/-- PAIRED_FRAME_F likewise. -/
theorem pairedFrame_cases (s : State) : (pairedFrame s).fixed = s.fixed ∨ ∃ t, t.fixed = s.fixed ∧ pairedFrame s = instant t true := by
  unfold pairedFrame
  split
  · exact .inl rfl
  · split
    · exact .inl (fixed_pairAbort s)
    · extract_lets t
      have ht : t.fixed = s.fixed := fixed_settle _
      clear_value t
      split
      · exact .inl ht
      · exact .inr ⟨_, (fixed_mach t _).trans ht, rfl⟩

/-- The epoch stays, or advances by one as the stage becomes equal to the live image. -/
def EpochSteps (s t : State) : Prop := t.epoch = s.epoch ∨ t.epoch = s.epoch + 1 ∧ t.stage = t.live

theorem epochSteps_of_cases {s t : State} {p : Bool} (h : t.fixed = s.fixed ∨ ∃ u, u.fixed = s.fixed ∧ t = instant u p) : EpochSteps s t := by
  obtain h | ⟨u, hu, rfl⟩ := h
  · exact .inl (fixed_epoch h)
  · exact .inr ⟨by rw [instant_epoch, fixed_epoch hu], by rw [instant_stage, instant_live]⟩

/-- A command that is an instant steps the epoch at most once. -/
theorem exec_epochSteps {c : Instr} (hc : c.isInstant = true) {s t : State} (h : exec c s = .next t) : EpochSteps s t := by
  have frozen : EpochSteps s s := .inl rfl
  cases c with
  | applyInstant =>
    obtain rfl : (if s.latch then s else applyInstant s) = t := by
      have e : exec .applyInstant s = if s.latch then .next s else .next (applyInstant s) := rfl
      rw [e, ← apply_ite] at h
      exact Host.Outcome.next.inj h
    split
    · exact frozen
    · exact epochSteps_of_cases (applyInstant_cases s)
  | pairedFrameF =>
    obtain rfl : (if s.latch then s else pairedFrame s) = t := by
      have e : exec .pairedFrameF s = if s.latch then .next s else .next (pairedFrame s) := rfl
      rw [e, ← apply_ite] at h
      exact Host.Outcome.next.inj h
    split
    · exact frozen
    · exact epochSteps_of_cases (pairedFrame_cases s)
  | _ => exact absurd hc (by simp [Instr.isInstant])

/-! ### Every other command -/

/-- A command that is no instant and cannot start the part anew keeps the queue, the live image, the epoch and the life cycle's current
state. -/
theorem exec_keeps {c : Instr} (hi : c.isInstant = false) (hc : c.mayColdStart = false) (s : State) : Keeps s (exec c s) := by
  unfold exec
  cases c with
  | snoopTimeout | perstDeassert | headDisable | headEnable | linkL0Reached | memoryReady | ltssmRecoveryEnter | linkDown
  | dropFilterWalkDone | dropEntriesFreed | ideIntegrityFail | ideStreamReenable | l0pIdleRequest | l0pChangeDone | mpPerstNAssert
  | mgmtLinkDown | transferFwDone | activateFwDone | chnEnWrite | mr4Poll | zqCalibration | dqsOscRead | spdTempPoll | channelTrainingDone
  | scbStickyPop | internalBusAccess | blockRelease | keeperClaim | stewardAsk | quiesceReport | quiesceTimerExpire | handoverResetDone
  | gateRequest | secureWatchdogExpire | normalWatchdogExpire | restartKeeper | keeperRestartDone | restartSteward | stewardRestartDone
  | tokenSubmit | tokenClear | faultSpill | fltClr | fltForceWrite | fltSpillCfgWrite | pwrTargetDrowse | pwrTargetDeep | pwrDisarm
  | powerConditionCheck | armToExpire | l1IdleRequest | powerInstantE | wake | blockClockGate | warmResetDone | refclkLoss | clockLoss
  | railOut | thermalSample | run | sstAbort | sstConditionFail | sstDone | bypass | idcode | dbg | samplePreload | extest | clamp | highz
  | tctl | scanEnable | snap | freeze | counterWrite | counterWrap | samplingEnable | mgmtLinkUp | linkL1Entry | linkL1Exit | pmeTurnOff
  | mgmtPllLoss | pldmRequest | recoveryImageDelivery => exact keeps_op ..
  | regulatorAdmit | windowBoundary | ledgerFetchDone | wedgeDecodeDone | dramReadDone | writeBack | fabricWaitRelease | setStallRelease
  | frameAllocate | mediaSettled | coalescerAgeMerge | tallyMerge | scanMediaDone | format | formatDone | recountWalkDone | moveStart
  | promotionDone | demotionDone | sweepVisit | frameClear | retire | releaseFrame | releaseCellar | ringReset | ringResetDone
  | descriptorFetch | retiringDone | scrubRange | fence | nop | completionRecordWrite | ringItimeExpire | ringError | workEnqueue | churnFree
  | churnLend | jobCheckpoint | localMemoryUe | contextSlotFree | translationFault | priPageRequest | priTimeout | dramCmdIssue
  | urgencyRaise | refreshDue | caParityAlert | selfRefreshExit | canaryCheck | scrubLine | suspectScrub | remap | remapDone | sppr | spprDone
  | hppr | hpprDone | mark | unmark | retireCh | retireChDone | relocationDone | unretireCh | unretireChDone | lagWaitRelease | partition
  | partitionResetDone | copy | fill | compress | decompress | checksum | promote | demote | pin | unpin | forget | tallyBatch | tallyRead
  | strain | strainInsert | strainDelete => exact keeps_work ..
  | memRd | memWr | memClnEvct | cxlIoMemoryRequest => exact keeps_request ..
  | atomicOp => exact keeps_atomicOp ..
  | birsp | biconflict | viralRx | tallyRecordPost | spdmRequest | kekInstall | query | keyProg | kSetGo | kSetStop | hdmDecoderCommit =>
    exact keeps_received _ _ (keeps_op ..)
  | flr => exact keeps_received _ _ (keeps_work ..)
  | provisioningRequest => exact keeps_provisioningRequest ..
  | doorbellTail | doorbellCqHead | prgResponse => exact keeps_receivedVia _ _ (keeps_work ..)
  | counterLoRead => exact keeps_receivedVia _ _ (keeps_next ((fixed_settle _).trans (fixed_readRequest ..)))
  | getLog | getEventRecords | clearEventRecords | getEventInterruptPolicy | setEventInterruptPolicy | getAlertConfiguration
  | setAlertConfiguration | getPoisonList | injectPoison | clearPoison | scanMedia | transferFw | activateFw | getTimestamp | setTimestamp
  | addDynamicCapacityResponse | releaseDynamicCapacity | mailboxUnsupported => exact keeps_mbCmd ..
  | identifyMemoryDevice | getPartitionInfo | getHealthInfo | getSupportedLogs | getScanMediaCapabilities | getScanMediaResults | getFwInfo
  | getDynamicCapacityConfiguration | getDynamicCapacityExtentList => exact keeps_mbReport ..
  | qcfgWrite | homTrkCfgWrite | homSnpToWrite | mcQcfgWrite | mcLatWrite | scbCtlWrite => exact keeps_next (fixed_rw ..)
  | extDataHiRead | mapDataRead | smpData0Read | smpData7Read => exact keeps_next (fixed_mach s _)
  | stagedWrite => exact keeps_next (fixed_stagedPut ..)
  | extDataHiWrite => exact keeps_next (fixed_extHiWrite ..)
  | extFill => exact keeps_next (fixed_extFillWrite ..)
  | mapDataWrite => exact keeps_next (fixed_mapWrite ..)
  | check | pairedCheck => exact keeps_next (fixed_stageCtl (fixed_checkStart ..))
  | checkDone => exact keeps_next (fixed_checkDone s)
  | apply => exact keeps_next (fixed_stageCtl (fixed_applyJudge _ _ (fixed_applyGo s)))
  | pairedApply => exact keeps_next (fixed_stageCtl (fixed_applyJudge _ _ (fixed_pairedGo s)))
  | discard => exact keeps_next (fixed_stageCtl rfl)
  | cultureTrain => exact keeps_cultureTrain ..
  | cultureCopyDone => exact keeps_ite (keeps_next rfl) (keeps_next (fixed_cultureCopied ..))
  | keyLoad | keyClear => exact keeps_next (fixed_ite rfl rfl)
  | keyRequestDone => exact keeps_next (fixed_keyDone s)
  | voteAudit => exact keeps_ite (keeps_op ..) (keeps_next (fixed_mach s _))
  | faultOccurrence => exact keeps_ite (keeps_next rfl) (keeps_op ..)
  | classADetect => exact keeps_ite (keeps_op ..) (keeps_next rfl)
  | forcePresent => exact keeps_next ((fixed_settle _).trans (fixed_forcePresent ..))
  | tokenDone => exact keeps_next (fixed_tokenEnd s)
  | yokeTrainingDone | yokeRoleRetry | ykEnWrite | ykRetrain | ykWidthReq | yokeRetrainDone | laneErrorCheck | yokeHbTimeout | yokeLaneLoss
  | heartbeat | eyeMarginLow | partnerRetrainRequest | yokePartnerTraining => exact keeps_ykOp ..
  | ykCmdTakeSource | fullResync | unitCopyDone => exact keeps_ite (keeps_next rfl) (keeps_ykOp ..)
  | yokeFlitRx => exact keeps_next ((fixed_yk _ id).trans (fixed_flitRx ..))
  | heartbeatSend => exact keeps_heartbeatSend s
  | pairedArmTimeout => exact keeps_pairedArmTimeout s
  | writeRecord | poisonRecord | forgetPageRecord | resyncLineRecord => exact keeps_ykTake (fixed_ykOn ..)
  | ack0 | ack3 | reject0 | reject3 | status | vec | map | classA | takeSource | resyncDone => exact keeps_ykMgmt fun t => fixed_ykOn t _
  | arm => exact keeps_ykMgmt fun t => fixed_armRx t _
  | go => exact keeps_ykMgmt fun t => fixed_goRx t _
  | goAck => exact keeps_ykMgmt fun t => fixed_goAckRx t _
  | abort => exact keeps_ykMgmt fun t => fixed_abortRx t
  | vecReq => exact keeps_ykMgmt fun t => fixed_vecReqRx t _
  | perstAssert => exact keeps_perstAssert ..
  | warm => exact keeps_next (fixed_ite (fixed_warmStart ..) rfl)
  | applyInstant | pairedFrameF => exact absurd hi (by decide)
  | regWrite | ltssmRecoveryExit | drowseExitDone | deepExitDone | powerOnReset | cold => exact absurd hc (by simp [Instr.mayColdStart])
end Sys2Proof.Machine

namespace Sys2Proof

open Machine

/-- Settles O7: no meaning but that of an instant or of a cold start changes what is fixed. -/
theorem liveImageChangesAtInstants : Obligations.LiveImageChangesAtInstants := by
  intro c s t hi hc h
  obtain ⟨u, hu, fixed⟩ := exec_keeps hi hc s
  obtain rfl : u = t := Host.Outcome.next.inj (hu.symm.trans h)
  exact fixed_live fixed

/-- Settles O8: at an instant the epoch advances with the new live image; every other command keeps what is fixed. -/
theorem epochCountsInstants : Obligations.EpochCountsInstants := by
  intro c s t hc h
  cases hi : c.isInstant with
  | false =>
    obtain ⟨u, hu, fixed⟩ := exec_keeps hi hc s
    obtain rfl : u = t := Host.Outcome.next.inj (hu.symm.trans h)
    exact .inl (fixed_epoch fixed)
  | true => exact (exec_epochSteps hi h).imp_right fun stepped => ⟨rfl, stepped⟩

end Sys2Proof
end

section
/-! PROOFS. HDM decoders (R83-R85) and the images that the waiting boot takes (R494, R495), and the statement DecodersMapHostAddresses: O60. -/

namespace Sys2Proof.Machine

/-! ### What a lone decoder maps (R83) -/

theorem decOffset_single (d : Decoder) (hpa : Nat) : decOffset [d] hpa =
    if d.base ≤ hpa ∧ hpa < d.base + d.size then
      some (d.skip + (hpa - d.base) / (d.gran * d.ways) * d.gran + (hpa - d.base) % d.gran) else none := by
  simp [decOffset, decBase, List.range_succ]

theorem decOffset_inside {d : Decoder} {hpa : Nat} (h1 : d.base ≤ hpa) (h2 : hpa < d.base + d.size) :
    decOffset [d] hpa = some (d.skip + (hpa - d.base) / (d.gran * d.ways) * d.gran + (hpa - d.base) % d.gran) := by
  rw [decOffset_single, if_pos ⟨h1, h2⟩]

theorem decOffset_outside {d : Decoder} {hpa : Nat} (h : hpa < d.base ∨ d.base + d.size ≤ hpa) : decOffset [d] hpa = none := by
  rw [decOffset_single, if_neg (by omega)]

/-- Two offsets in one granule: the later lies as far into the granule beyond the earlier as between them. -/
theorem mod_of_same_granule {x y g : Nat} (hxy : x ≤ y) (h : x / g = y / g) : y % g = x % g + (y - x) := by
  have hx := Nat.div_add_mod x g
  have hy := Nat.div_add_mod y g
  rw [h] at hx
  omega

/-- Addresses in one granule keep their distance (R83). -/
theorem decOffset_same_granule {d : Decoder} {a b : Nat} (ha : d.base ≤ a) (hab : a ≤ b) (hb : b < d.base + d.size)
    (h : (a - d.base) / d.gran = (b - d.base) / d.gran) : ∃ x, decOffset [d] a = some x ∧ decOffset [d] b = some (x + (b - a)) := by
  refine ⟨_, decOffset_inside ha (by omega), ?_⟩
  have stripe : (b - d.base) / (d.gran * d.ways) = (a - d.base) / (d.gran * d.ways) := by
    rw [← Nat.div_div_eq_div_mul, ← Nat.div_div_eq_div_mul, h]
  have within := mod_of_same_granule (by omega : a - d.base ≤ b - d.base) h
  rw [decOffset_inside (by omega) hb, stripe, within]
  congr 1
  omega

/-! ### The commit of the first decoder (R83, R84) -/

theorem exec_hdmDecoderCommit (h : Fin 8) (ld : Fin 16) (d : Decoder) (s : State) : exec (.hdmDecoderCommit h ld d) s =
    received s h (.hdmDecoderCommit h ld d) (fun s => s.op (fun m => decCommit s.live m h ld d)) := by rfl

theorem dplOf_pos (L : Image) (h : Nat) : 0 < dplOf L h := Nat.two_pow_pos _

/-- With none committed, decoder 0 is taken. -/
theorem decCommit_first {L : Image} {m : Mach} {h ld : Nat} {d : Decoder} (hl : (m.head h).st.linked = true) (hp : (m.head h).post = [])
    (hb : (ldPart L m h ld).isSome = true) (hn : (m.head h).decoders = []) (hi : d.idx = 0) (hs : 0 < d.size) :
    decCommit L m h ld d = m.setHead h { m.head h with decoders := [(ldKey m h ld, d)] } := by
  simp [decCommit, hl, hp, hb, hn, hi, hs, dplOf_pos]

/-- A head whose link is not up takes none. -/
theorem decCommit_unlinked {m : Mach} {h : Nat} (hl : (m.head h).st.linked = false) (L : Image) (ld : Nat) (d : Decoder) :
    decCommit L m h ld d = m := by
  simp [decCommit, hl]

/-- A head whose link is not up holds nothing back. -/
theorem holdsFrom_unlinked {m : Mach} {h : Nat} (hl : (m.head h).st.linked = false) : m.holdsFrom h = false := by
  have recovery : (m.head h).st ≠ .recovery := fun e => by simp [e, HeadSt.linked] at hl
  simp [Mach.holdsFrom, recovery, hl]

/-! ### Images delivered to the boot (R494, R495) -/

theorem exec_recoveryImageDelivery (ok : Bool) (version : BitVec 24) (s : State) : exec (.recoveryImageDelivery ok version) s =
    s.op (fun m => if m.wld.waitImage ∧ ok then worldsUp s.lcCur version m else m) := by rfl

/-- Images that do not verify leave the boot waiting. -/
theorem delivery_fails {s : State} (hq : Quiet s) (version : BitVec 24) : exec (.recoveryImageDelivery false version) s = .next s := by
  rw [exec_recoveryImageDelivery]
  exact op_eq (if_neg (by simp)) hq

/-- Images that verify bring both worlds up. -/
theorem delivery_starts {s : State} (hq : Quiet s) (hw : s.m.wld.waitImage = true) (version : BitVec 24) :
    exec (.recoveryImageDelivery true version) s = .next { s with m := worldsUp s.lcCur version s.m } := by
  rw [exec_recoveryImageDelivery]
  exact op_eq (if_pos ⟨hw, rfl⟩) hq

theorem worldsUp_keeper (lc : Nat) (version : BitVec 24) (m : Mach) :
    (worldsUp lc version m).wld.keeper = if lc ≠ 5 then .up else .down := by
  simp [worldsUp]

end Sys2Proof.Machine

namespace Sys2Proof

open Machine

/-- Settles O60: the commit by its two cases, a lone decoder by the range of the address, the images by whether they verify. -/
theorem decodersMapHostAddresses : Obligations.DecodersMapHostAddresses := by
  intro h ld d s hq
  refine ⟨fun hl hf hp hb hn hi hs => ?commit, fun hl => ?unlinked, fun hpa => decOffset_inside, fun hpa => decOffset_outside,
    fun a b ha hab hb _ _ => decOffset_same_granule ha hab hb, fun version hw => ⟨delivery_fails hq version, ?images⟩⟩
  case commit =>
    rw [exec_hdmDecoderCommit, received_unheld hf]
    exact op_eq (decCommit_first hl hp hb hn hi hs) (quiet_setHead hq _ _)
  case unlinked =>
    rw [exec_hdmDecoderCommit, received_unheld (holdsFrom_unlinked hl)]
    exact op_eq (decCommit_unlinked hl _ _ _) hq
  case images => exact ⟨_, delivery_starts hq hw version, rfl, rfl, rfl, worldsUp_keeper ..⟩

end Sys2Proof
end

section
/-! PROOFS. The end of a CHECK (R93-R96, R374), and the statement CheckReportsFirstFailure: O12. -/

namespace Sys2Proof.Machine

/-! ### The end of a piece of work -/

/-- A piece of work that ends changes the home and the pages taken, alone. -/
theorem agentClear_eq (m : Mach) (who : Nat) : ∃ home locked, m.agentClear who = { m with home, led := { m.led with locked } } := by
  unfold Mach.agentClear
  dsimp only
  split
  · exact ⟨_, _, rfl⟩
  · exact ⟨_, m.led.locked, rfl⟩

/-- The end of a piece of work leaves nothing to settle. -/
theorem quiet_agentClear {s : State} (hq : Quiet s) (who : Nat) : Quiet { s with m := s.m.agentClear who } := by
  obtain ⟨home, locked, e⟩ := agentClear_eq s.m who
  rw [e]
  exact quiet_of_kept hq rfl rfl rfl rfl

/-- Work that asks nothing more ends at once. -/
theorem runWork_ok {α : Type} {f : Mach → Attempt α} {m m' : Mach} {a : α} (h : f m = .ok a m') (L : Image) (who n : Nat) :
    runWork L who f (n + 1) m = (some a, m'.agentClear who) := by
  simp only [runWork, h]

/-! ### A CHECK with no culture image staged -/

theorem checkHigh_agentClear (I L : Image) (m : Mach) (who : Nat) (good : List (Nat × Bool)) (paired : Bool) :
    checkHigh I L (m.agentClear who) good paired = checkHigh I L m good paired := by
  obtain ⟨home, locked, e⟩ := agentClear_eq m who
  rw [e]
  rfl

/-- With no image staged there is none to read. -/
theorem readImages_none {I : Image} (h : ∀ n, n < 64 → cultAct I n ≠ 1) (L : Image) (latch : Bool) (m : Mach) :
    readImages I L latch m = (some [], m) ∨ readImages I L latch m = (some [], m.agentClear whoImage) := by
  have slots : (List.range 64).filter (fun n => cultAct I n == 1) = [] := by
    simpa [List.filter_eq_nil_iff] using h
  unfold readImages
  rw [slots]
  dsimp only
  split
  · exact .inl rfl
  · exact .inr (runWork_ok rfl L whoImage _)

/-- The machinery after a CHECK's reads, which were none. -/
theorem readImages_quiet {s : State} (hq : Quiet s) (h : ∀ n, n < 64 → cultAct s.stage n ≠ 1) :
    ∃ m, readImages s.stage s.live s.latch s.m = (some [], m) ∧ Quiet { s with m } ∧ m.yoke = s.m.yoke ∧
      checkHigh s.stage s.live m [] false = checkHigh s.stage s.live s.m [] false := by
  obtain e | e := readImages_none h s.live s.latch s.m
  · exact ⟨_, e, hq, rfl, rfl⟩
  · refine ⟨_, e, quiet_agentClear hq _, ?_, checkHigh_agentClear ..⟩
    obtain ⟨home, locked, cleared⟩ := agentClear_eq s.m whoImage
    rw [cleared]

/-- A CHECK that finds no failure ends with PASS. -/
theorem checkDone_pass {s : State} (hq : Quiet s) (hc : s.commit.op = .check false) (ha : ∀ n, n < 64 → cultAct s.stage n ≠ 1)
    (hl : checkLow s.stage s.live s.m s.commit.lost = none) (hh : checkHigh s.stage s.live s.m [] false = none) :
    ∃ m : Mach, m.yoke = s.m.yoke ∧ checkDone s = checkEnd { s with m } false none := by
  obtain ⟨m, read, quiet, yoke, high⟩ := readImages_quiet hq ha
  refine ⟨m, yoke, ?_⟩
  simp only [checkDone, hc, hl, read, settle_quiet _ quiet, high, hh, Bool.false_and, Bool.false_eq_true, if_false]

end Sys2Proof.Machine

namespace Sys2Proof

open Machine

/-- Settles O12: a CHECK starts while BUSY = 0, ends with its first low failure, or finds none and no image to read. -/
theorem checkReportsFirstFailure : Obligations.CheckReportsFirstFailure := by
  intro s hq
  refine ⟨fun hi hl => ⟨?start, ?paired⟩, fun paired code kind index hc hf => ?fails, fun hc ha hlow hhigh => ?passes⟩
  case start =>
    rw [exec_check, stageCtl_idle hi hl]
    rfl
  case paired =>
    rw [exec_pairedCheck, stageCtl_idle hi hl]
    rfl
  case fails =>
    rw [exec_checkDone, checkDone_low hc hf]
    rfl
  case passes =>
    obtain ⟨m, yoke, pass⟩ := checkDone_pass hq hc ha hlow hhigh
    exact ⟨_, (exec_checkDone s).trans (congrArg Host.Outcome.next pass), rfl, rfl, rfl,
      congrArg (fun y : Yoke => { y with vecWant := false }) yoke, rfl⟩

end Sys2Proof
end

section
/-! PROOFS. What settling leaves of an APPLY (R465), the image that an instant makes live (R97, R99, R170), and the statement
InstantMakesStageLive: O14. -/

namespace Sys2Proof.Machine

/-! ### The stage machinery at the end of a step -/

@[simp] theorem Commit.halt_halt (c : Commit) : c.halt.halt = c.halt := by
  cases h : c.op <;> simp [Commit.halt, Commit.applied, h]

/-- A stage machinery stands as it was, or was halted by a class A detection. -/
def Commit.Stands (c d : Commit) : Prop := d = c ∨ d = c.halt

theorem Commit.Stands.trans {a b c : Commit} (h : a.Stands b) (g : b.Stands c) : a.Stands c := by
  obtain rfl | rfl := h
  · exact g
  · exact .inr (g.elim id (fun e => e.trans (Commit.halt_halt a)))

theorem take_commit (s : State) (o : Occ) (i r : Bool) : s.commit.Stands (s.take o i r).commit := by
  unfold State.take
  split
  · dsimp only
    split
    · exact .inl rfl
    · exact .inr rfl
  · exact .inl rfl

theorem takes_commit (l : List Occ) (s : State) : s.commit.Stands (l.foldl (fun s o => s.take o false true) s).commit := by
  induction l generalizing s with
  | nil => exact .inl rfl
  | cons o t ih => exact (take_commit s o false true).trans (ih _)

theorem drain_commit (s : State) : s.commit.Stands s.drainRaised.commit := takes_commit s.m.raised { s with m := { s.m with raised := [] } }

/-- Settling leaves the stage machinery as it was, or halts it. -/
theorem settle_commit (s : State) : s.commit.Stands (settle s).commit :=
  (drain_commit { s with m := wrapUp s.live (voteStruck s.m) }).trans (drain_commit _)

/-- A machinery whose PASS is gone has none after it. -/
theorem Commit.Stands.unchecked {c d : Commit} (h : c.Stands d) (hc : c.checked = false) : d.checked = false := by
  obtain rfl | rfl := h
  · exact hc
  · unfold Commit.halt
    split <;> simp [Commit.applied, hc]

/-- One with no APPLY in progress and none waiting for copies stands. -/
theorem Commit.Stands.of_idle {c d : Commit} (h : c.Stands d) (hc : c.op = .idle) : d = c := by
  obtain rfl | rfl := h
  · rfl
  · simp [Commit.halt, hc]

/-- One that waits for copies stands, or has ended as applied. -/
theorem Commit.Stands.of_copy {c d : Commit} (h : c.Stands d) {code : Byte} (hc : c.op = .copy code) : d = c ∨ d = c.applied code := by
  obtain rfl | rfl := h
  · exact .inl rfl
  · simp [Commit.halt, hc]

/-! ### The image that becomes live -/

theorem Image.reg_setReg_ne (i : Image) {o p : Nat} (v : Word) (h : p ≠ o) : (i.setReg o v).reg p = i.reg p :=
  Mach.reg_setReg_ne ({ regs := i.regs } : Mach) v h

/-- The live image's load registers of one culture slot. -/
def appliedSlot (old stage I : Image) (n : Nat) : Image :=
  if cultAct stage n = 1 then I.setReg (oCultLo n) (stage.reg (oCultLo n) &&& 0xFFFFF000#32)
  else if cultAct stage n = 2 then (I.setReg (oCultLo n) 0#32).setReg (oCultHi n) 0#32
  else (I.setReg (oCultLo n) (old.reg (oCultLo n))).setReg (oCultHi n) (old.reg (oCultHi n))

theorem appliedImage_eq (old stage : Image) : appliedImage old stage = (List.range 64).foldl (appliedSlot old stage) stage := by rfl

/-- An image agrees with the stage but for the culture load registers (R170). -/
structure Image.Staged (stage I : Image) : Prop where
  ext : I.ext = stage.ext
  map : I.map = stage.map
  reg (off : Nat) (h : ∀ n, n < 64 → off ≠ oCultLo n ∧ off ≠ oCultHi n) : I.reg off = stage.reg off

/-- A culture slot's registers alone change. -/
theorem appliedSlot_staged {old stage I : Image} {n : Nat} (hn : n < 64) (h : stage.Staged I) : stage.Staged (appliedSlot old stage I n) where
  ext := by rw [← h.ext]; unfold appliedSlot; split_ifs <;> rfl
  map := by rw [← h.map]; unfold appliedSlot; split_ifs <;> rfl
  reg off ho := by
    obtain ⟨lo, hi⟩ := ho n hn
    rw [← h.reg off ho]
    unfold appliedSlot
    split_ifs
    · exact Image.reg_setReg_ne _ _ lo
    all_goals exact (Image.reg_setReg_ne _ _ hi).trans (Image.reg_setReg_ne _ _ lo)

theorem appliedImage_staged (old stage : Image) : stage.Staged (appliedImage old stage) := by
  rw [appliedImage_eq]
  have slots (l : List Nat) (hl : ∀ n ∈ l, n < 64) (I : Image) (h : stage.Staged I) : stage.Staged (l.foldl (appliedSlot old stage) I) := by
    induction l generalizing I with
    | nil => exact h
    | cons n l ih =>
      obtain ⟨hn, hl⟩ := List.forall_mem_cons.mp hl
      exact ih hl _ (appliedSlot_staged hn h)
  exact slots _ (fun n => List.mem_range.mp) _ ⟨rfl, rfl, fun _ _ => rfl⟩

/-! ### The instant -/

/-- No PASS stands after an instant. -/
theorem instant_unchecked (s : State) (p : Bool) : (instant s p).commit.checked = false := by
  unfold instant
  refine (settle_commit _).unchecked ?_
  dsimp only
  split <;> rfl

/-- What an instant does, of an image and an epoch (R97, R99). -/
structure Applied (stage : Image) (epoch : Word) (t : State) : Prop where
  epoch : t.epoch = epoch + 1
  live : stage.Staged t.live
  stage : t.stage = t.live
  checked : t.commit.checked = false

theorem instant_applied (s : State) (p : Bool) : Applied s.stage s.epoch (instant s p) where
  epoch := instant_epoch s p
  live := by rw [instant_live]; exact appliedImage_staged ..
  stage := by rw [instant_stage, instant_live]
  checked := instant_unchecked s p

/-- With an empty coalescer an APPLY has nothing to merge. -/
theorem applyMerge_nil {m : Mach} (h : m.tally.coal = []) (old new : Image) : applyMerge old new m = (true, m) := by
  simp [applyMerge, mergeWhere, h]

/-- With none arming there is no pair to arm. -/
theorem pairArm_other {s : State} (h : s.commit.op ≠ .arming) : pairArm s = s := if_pos h

theorem exec_applyInstant {s : State} (hl : s.latch = false) : exec .applyInstant s = .next (applyInstant s) := by
  change (if s.latch then Host.Outcome.next s else .next (applyInstant s)) = _
  simp [hl]

theorem exec_pairedFrameF {s : State} (hl : s.latch = false) : exec .pairedFrameF s = .next (pairedFrame s) := by
  change (if s.latch then Host.Outcome.next s else .next (pairedFrame s)) = _
  simp [hl]

/-- An APPLY in progress with nothing to merge reaches its instant. -/
theorem applyInstant_reaches {s : State} (hq : Quiet s) (hc : s.m.tally.coal = []) (ho : s.commit.op = .apply) :
    applyInstant s = instant s false := by
  have arm : pairArm s = s := pairArm_other (by simp [ho])
  simp [applyInstant, arm, ho, applyMerge_nil hc, settle_quiet _ hq]

/-- The pair as its frame comes: one more frame passed, and what the exchange had said is done with. -/
def Yoke.framed (y : Yoke) : Yoke := { y with pairSeq := (y.pairSeq + 1) % 2 ^ 32, doubt := false, phase := 3, goAcked := false, peerArm := none }

/-- A part that has exchanged GO and GO_ACK, with nothing to merge, reaches its instant. -/
theorem pairedFrame_reaches {s : State} (hq : Quiet s) (hc : s.m.tally.coal = []) (ho : s.commit.op = .armed) (hg : s.m.yoke.goAcked = true) :
    pairedFrame s = instant { s with m := { s.m with yoke := s.m.yoke.framed } } true := by
  simp [pairedFrame, ho, hg, applyMerge_nil hc, settle_quiet _ hq, Yoke.framed]

/-- An armed part without GO and GO_ACK does not apply. -/
theorem pairedFrame_aborts {s : State} (ho : s.commit.op = .armed) (hg : s.m.yoke.goAcked = false) : pairedFrame s = pairAbort s := by
  simp [pairedFrame, ho, hg]

/-- An APPLY that may reach its instant does. -/
theorem exec_applied {s : State} (hq : Quiet s) (hl : s.latch = false) (hc : s.m.tally.coal = []) {c : Instr}
    (h : (c = .applyInstant ∧ s.commit.op = .apply) ∨ (c = .pairedFrameF ∧ s.commit.op = .armed ∧ s.m.yoke.goAcked = true)) :
    ∃ t, exec c s = .next t ∧ Applied s.stage s.epoch t := by
  obtain ⟨rfl, ho⟩ | ⟨rfl, ho, hg⟩ := h
  · have next := exec_applyInstant hl
    rw [applyInstant_reaches hq hc ho] at next
    exact ⟨_, next, instant_applied s false⟩
  · have next := exec_pairedFrameF hl
    rw [pairedFrame_reaches hq hc ho hg] at next
    have applied := instant_applied { s with m := { s.m with yoke := s.m.yoke.framed } } true
    exact ⟨_, next, applied⟩

end Sys2Proof.Machine

namespace Sys2Proof

open Machine

/-- Settles O14: an APPLY with nothing to merge reaches its instant; an armed part without GO and GO_ACK aborts. -/
theorem instantMakesStageLive : Obligations.InstantMakesStageLive := by
  intro s hq hl hc
  refine ⟨fun c h => ?instant, fun ho hg => ?aborts⟩
  case instant =>
    obtain ⟨t, next, epoch, ⟨ext, map, reg⟩, stage, checked⟩ := exec_applied hq hl hc h
    exact ⟨t, next, epoch, ext, map, reg, stage, checked⟩
  case aborts =>
    obtain ⟨stage, live, epoch⟩ := pairAbort_images s
    have ended := pairAbort_armed ho
    exact ⟨_, (exec_pairedFrameF hl).trans (congrArg Host.Outcome.next (pairedFrame_aborts ho hg)), congrArg Commit.op ended,
      congrArg Commit.code ended, live, stage, epoch⟩

end Sys2Proof
end

section
/-! PROOFS. What comes back from memory, what is raised and a class A detection leave the channel units' images and the power controller's
state alone (R142, R187, R458-R466): one lemma for each operation that settling a step goes through. -/

namespace Sys2Proof.Machine

/-! ### The channel units and the state of the power controller -/

/-- The channel units without the decodes in flight, and the power controller's state. -/
def Mach.store (m : Mach) : Chn × PwrSt := ({ m.chn with decodes := [] }, m.pwr.st)

theorem Counted.store {m t : Mach} (h : Counted m t) : t.store = m.store :=
  (congrArg (fun m : Mach => ({ m.chn with decodes := [] }, m.pwr.st)) h.rest :)

theorem Recorded.store {m t : Mach} (h : Recorded m t) : t.store = m.store :=
  (congrArg (fun m : Mach => ({ m.chn with decodes := [] }, m.pwr.st)) h.rest :)

section
variable (m : Mach)

@[simp ↓] theorem store_home (x : Home) : ({ m with home := x } : Mach).store = m.store := rfl
@[simp ↓] theorem store_undo (b : Bool) : ({ m with pwr := { m.pwr with undo := b } } : Mach).store = m.store := rfl
@[simp ↓] theorem store_decodes (x : List Decode) : ({ m with chn := { m.chn with decodes := x } } : Mach).store = m.store := rfl
@[simp] theorem store_setReg (o : Nat) (v : Word) : (m.setReg o v).store = m.store := rfl
@[simp] theorem store_setHead (h : Nat) (x : Head) : (m.setHead h x).store = m.store := rfl
@[simp] theorem store_evt (o : Nat) (v : Word) : (m.evt o v).store = m.store := rfl
@[simp] theorem store_evb (o b : Nat) : (m.evb o b).store = m.store := rfl
@[simp] theorem store_bumpBy (o n : Nat) : (m.bumpBy o n).store = m.store := rfl
@[simp] theorem store_bump (o : Nat) : (m.bump o).store = m.store := rfl

@[simp ↓] theorem store_fresh (x : Nat) : ({ m with fresh := x } : Mach).store = m.store := rfl
@[simp ↓] theorem store_outbox (x : List Out) : ({ m with outbox := x } : Mach).store = m.store := rfl
@[simp ↓] theorem store_raised (x : List Occ) : ({ m with raised := x } : Mach).store = m.store := rfl
@[simp ↓] theorem store_led (x : Ledger) : ({ m with led := x } : Mach).store = m.store := rfl
@[simp ↓] theorem store_media (x : Media) : ({ m with media := x } : Mach).store = m.store := rfl
@[simp ↓] theorem store_mcs (x : Mcs) : ({ m with mcs := x } : Mach).store = m.store := rfl
@[simp ↓] theorem store_scb (x : Scb) : ({ m with scb := x } : Mach).store = m.store := rfl
@[simp ↓] theorem store_bwg (x : Bwg) : ({ m with bwg := x } : Mach).store = m.store := rfl
@[simp ↓] theorem store_yoke (x : Yoke) : ({ m with yoke := x } : Mach).store = m.store := rfl
@[simp ↓] theorem store_dqu (x : Dqu) : ({ m with dqu := x } : Mach).store = m.store := rfl
@[simp ↓] theorem store_tally (x : Tally) : ({ m with tally := x } : Mach).store = m.store := rfl
@[simp ↓] theorem store_tst (x : Tst) : ({ m with tst := x } : Mach).store = m.store := rfl
@[simp ↓] theorem store_flt (x : Flt) : ({ m with flt := x } : Mach).store = m.store := rfl
@[simp] theorem store_tick : m.tick.store = m.store := rfl
@[simp] theorem store_send (x : Out) : (m.send x).store = m.store := rfl
@[simp] theorem store_raiseOcc (o : Occ) : (m.raiseOcc o).store = m.store := rfl
@[simp] theorem store_raise (src unit : Nat) : (m.raise src unit).store = m.store := rfl
@[simp] theorem store_raiseD (src unit d : Nat) : (m.raiseD src unit d).store = m.store := rfl
@[simp] theorem store_raiseA (src unit k a : Nat) : (m.raiseA src unit k a).store = m.store := rfl
@[simp] theorem store_raiseRs (src : Nat) (a : MAddr) (d : Option Nat) (syn : Word) : (m.raiseRs src a d syn).store = m.store := rfl
@[simp] theorem store_raiseSram (src unit l : Nat) : (m.raiseSram src unit l).store = m.store := rfl
@[simp] theorem store_setSub (k : Nat) (s : Sub) : (m.setSub k s).store = m.store := rfl
@[simp] theorem store_charge (k n : Nat) : (m.charge k n).store = m.store := rfl
@[simp] theorem store_lcPut (l : Nat) (c : CLine) : (m.lcPut l c).store = m.store := rfl
@[simp] theorem store_markUnit (u : Nat) : (m.markUnit u).store = m.store := rfl
@[simp] theorem store_poisonLater (l : Nat) : (m.poisonLater l).store = m.store := rfl
@[simp] theorem store_irq (f v : Nat) : (m.irq f v).store = m.store := (counted_irq m f v).store
@[simp] theorem store_pmuEvent (c i n : Nat) : (m.pmuEvent c i n).store = m.store := (counted_pmuEvent m c i n).store
@[simp] theorem store_partCnt (p k n : Nat) : (m.partCnt p k n).store = m.store := (counted_partCnt m p k n).store
@[simp] theorem store_slotCycle (k i : Nat) : (m.slotCycle k i).store = m.store := (counted_slotCycle m k i).store
@[simp] theorem store_upkeep (k n : Nat) : (m.upkeep k n).store = m.store := (counted_upkeep m k n).store
@[simp] theorem store_cxlEvent (h l : Nat) (b : List Byte) : (m.cxlEvent h l b).store = m.store := (recorded_cxlEvent m h l b).store

end

@[simp] theorem store_ite (c : Prop) [Decidable c] (a b : Mach) : (if c then a else b).store = if c then a.store else b.store := apply_ite ..

@[simp] theorem store_ite_snd {α : Type} (c : Prop) [Decidable c] (a b : α × Mach) :
    (if c then a else b).2.store = if c then a.2.store else b.2.store := apply_ite (fun x : α × Mach => x.2.store) ..

@[simp] theorem store_foldl {α : Type} {f : Mach → α → Mach} (hf : ∀ m a, (f m a).store = m.store) (l : List α) (m : Mach) :
    (l.foldl f m).store = m.store := by
  induction l generalizing m with
  | nil => rfl
  | cons a l ih => rw [List.foldl_cons, ih, hf]

/-! ### The controllers -/

@[simp] theorem store_subOut (m : Mach) (k : Nat) : (m.subOut k).store = m.store := by
  simp [Mach.subOut]

@[simp] theorem store_chanOut (m : Mach) (ch : Nat) : (m.chanOut ch).store = m.store := by
  simp [Mach.chanOut]

@[simp] theorem store_reach (m : Mach) (k : Nat) : (m.reach k).store = m.store := by
  unfold Mach.reach
  split <;> simp

@[simp] theorem store_sendRead (m : Mach) (q : QEnt) : ((m.sendRead q).2).store = m.store := by
  unfold Mach.sendRead
  dsimp only
  split <;> simp

@[simp] theorem store_chargeNow (m : Mach) (mst n : Nat) : (m.chargeNow mst n).store = m.store := by
  simp [Mach.chargeNow]

@[simp] theorem store_fetchLine (m : Mach) (j mst : Nat) (tag : Tag) : (m.fetchLine j mst tag).store = m.store := by
  unfold Mach.fetchLine
  dsimp only
  repeat' split
  all_goals simp

@[simp] theorem store_putEnt (m : Mach) (page : Nat) (e : LEnt) (ch : Bool) : (m.putEnt page e ch).store = m.store := by
  unfold Mach.putEnt
  split <;> rfl

@[simp] theorem store_poolEmpty (m : Mach) : (m.poolEmpty).store = m.store := by
  simp [Mach.poolEmpty]

@[simp] theorem store_retiredAccess (m : Mach) (h page : Nat) : (m.retiredAccess h page).store = m.store := by
  simp [Mach.retiredAccess]

@[simp] theorem store_queueMove (m : Mach) (page : Nat) (kind : MoveKind) (cls : Nat) (pin : Bool) :
    (m.queueMove page kind cls pin).store = m.store := by
  unfold Mach.queueMove
  split <;> simp

@[simp] theorem store_noteDirty (L : Image) (m : Mach) (mst : Nat) (tag : Tag) (page : Nat) : (noteDirty L m mst tag page).store = m.store := by
  unfold noteDirty
  dsimp only
  repeat' split
  all_goals simp

@[simp] theorem store_drain (m : Mach) (k : Nat) : (m.drain k).store = m.store := by
  simp [Mach.drain]

@[simp] theorem store_fabricPull (n k : Nat) (e : Entered) (m : Mach) : ((Mach.fabricPull n k e m).2).store = m.store := by
  induction n generalizing e m with
  | zero => rfl
  | succ n ih =>
    unfold Mach.fabricPull
    dsimp only
    repeat' split
    all_goals simp [ih]

@[simp] theorem store_tagReq (m : Mach) (p : Purpose) (f : Req → Req) : (m.tagReq p f).store = m.store := by
  unfold Mach.tagReq
  split <;> rfl

@[simp] theorem store_panicTags (m : Mach) (k : Nat) : (m.panicTags k).store = m.store := by
  simp [Mach.panicTags]

@[simp] theorem store_chanEvent (m : Mach) (b : Bool) (c k n : Nat) : (m.chanEvent b c k n).store = m.store := by
  simp [Mach.chanEvent]

@[simp] theorem store_raaAct (m : Mach) (k : Nat) (a : MAddr) (b : Bool) : (m.raaAct k a b).store = m.store := by
  simp [Mach.raaAct]

@[simp] theorem store_issueReq (m : Mach) (k : Nat) (q : QEnt) : (m.issueReq k q).store = m.store := by
  simp [Mach.issueReq]

@[simp] theorem store_issueAstray (m : Mach) (k : Nat) (q : QEnt) (v : Nat) : (m.issueAstray k q v).store = m.store := by
  simp [Mach.issueAstray]

@[simp] theorem store_issue (m : Mach) (k : Nat) (c : Cand) : (m.issue k c).store = m.store := by
  unfold Mach.issue
  dsimp only
  repeat' split
  all_goals simp

@[simp] theorem store_idleSlot (m : Mach) (k : Nat) (w : SlotWhy) : (m.idleSlot k w).store = m.store := by
  cases w <;> simp [Mach.idleSlot]

@[simp] theorem store_mcCycle (L : Image) (m : Mach) (k : Nat) (b : List Nat) (h : List (Nat × Nat)) (w : SlotWhy) (a : Option Nat) :
    (mcCycle L m k b h w a).store = m.store := by
  unfold mcCycle
  dsimp only
  repeat' split
  all_goals simp

@[simp] theorem store_runCycle (L : Image) (m : Mach) (k : Nat) : (runCycle L m k).store = m.store := by
  simp [runCycle]

@[simp] theorem store_runUntil (L : Image) (k : Nat) (d : Sub → Bool) (n : Nat) (m : Mach) : (runUntil L k d n m).store = m.store := by
  induction n generalizing m with
  | zero => rfl
  | succ n ih => simp [runUntil, ih]

@[simp] theorem store_awaitRead (L : Image) (m : Mach) (k : Nat) (q : QEnt) : ((awaitRead L m k q).2).store = m.store := by
  unfold awaitRead
  dsimp only
  split <;> simp

@[simp] theorem store_sendWrite (m : Mach) (q : QEnt) : ((m.sendWrite q).2).store = m.store := by
  simp [Mach.sendWrite]

@[simp] theorem store_correctBack (m : Mach) (q : QEnt) (j : Judged) : (m.correctBack q j).store = m.store := by
  simp [Mach.correctBack]

/-! ### Errors of DRAM -/

@[simp] theorem store_alertCe (m : Mach) : (m.alertCe).store = m.store := by
  simp [Mach.alertCe]

@[simp] theorem store_history (m : Mach) (a : MAddr) (j : Judged) : (m.history a j).store = m.store := by
  unfold Mach.history
  dsimp only
  split_ifs <;> simp

@[simp] theorem store_devsCounted (m : Mach) (t : Tbl Nat) : (m.devsCounted t).store = m.store := store_scb ..

@[simp] theorem store_ceTold (m : Mach) (a : MAddr) (j : Judged) : (m.ceTold a j).store = m.store := by
  unfold Mach.ceTold
  split <;> simp

@[simp] theorem store_countCe (m : Mach) (a : MAddr) (j : Judged) : (m.countCe a j).store = m.store := by
  obtain ⟨t, eq⟩ := countCe_eq m a j
  simp [eq]

@[simp] theorem store_account (m : Mach) (a : MAddr) (src : Nat) (d : Option Nat) (j : Judged) : (m.account a src d j).store = m.store := by
  have judged : (match j.v with
      | .uncorrectable =>
        if src = noSrc then (m.bump oCntUe).evb oScbEvt 1
        else (((m.bump oCntUe).evb oScbEvt 1).raiseRs src a d (((m.bump oCntUe).evb oScbEvt 1).ueSyn j)).tick
      | .misdirected => ((m.bump oCntMisdir).evb oScbEvt 2).raiseRs 98 a none j.syn
      | _ => m).store = m.store := by
    split <;> simp
  refine (apply_ite Mach.store _ _ _).trans ?_
  rw [store_countCe]
  split <;> exact judged

@[simp] theorem store_readEnt (L : Image) (m : Mach) (q : QEnt) (c flat : Bool) (src : Nat) (dpa : Option Nat) (errs : SymErr) :
    ((readEnt L m q c flat src dpa errs).2).store = m.store := by
  unfold readEnt
  dsimp only
  repeat' split
  all_goals simp

@[simp] theorem store_readFor (L : Image) (m : Mach) (p : Purpose) (f l : Nat) (c flat : Bool) (src : Nat) (dpa : Option Nat) (errs : SymErr) :
    ((readFor L m p f l c flat src dpa errs).2).store = m.store := by
  simp [readFor]

@[simp] theorem store_readNow (L : Image) (m : Mach) (f l : Nat) (c flat : Bool) (src : Nat) (dpa : Option Nat) (errs : SymErr) :
    ((readNow L m f l c flat src dpa errs).2).store = m.store := by
  simp [readNow]

@[simp] theorem store_writeNow (m : Mach) (f l : Nat) (cw : Codeword) : (m.writeNow f l cw).store = m.store := by
  simp [Mach.writeNow]

@[simp] theorem store_poisonFrame (L : Image) (m : Mach) (line f : Nat) : (poisonFrame L m line f).store = m.store := by
  simp [poisonFrame]

/-! ### The ledger -/

@[simp] theorem store_ledWrite (m : Mach) (k l : Nat) (d : Line) : (m.ledWrite k l d).store = m.store := by
  simp [Mach.ledWrite]

@[simp] theorem store_ledWriteLine (m : Mach) (j : Nat) (es : List LEnt) : (m.ledWriteLine j es).store = m.store := by
  simp [Mach.ledWriteLine]

theorem store_ledRoom {m t : Mach} {j : Nat} (h : m.ledRoom j = some t) : t.store = m.store := by
  unfold Mach.ledRoom at h
  dsimp only at h
  repeat' split at h
  all_goals cases h
  all_goals simp

@[simp] theorem store_ledReadFor (L : Image) (m : Mach) (mst : Nat) (p : Purpose) (k l : Nat) (es : Bool) (e0 e1 : SymErr) :
    ((ledReadFor L m mst p k l es e0 e1).2.2).store = m.store := by
  unfold ledReadFor
  dsimp only
  repeat' split
  all_goals simp

@[simp] theorem store_lostEvent (m : Mach) (j : Nat) (syn : Word) : (m.lostEvent j syn).store = m.store := by
  simp [Mach.lostEvent, store_setReg]

@[simp] theorem store_loseLine (L : Image) (m : Mach) (j : Nat) (syn : Word) : ((loseLine L m j syn).2).store = m.store := by
  have both (m : Mach) (l : Ledger) (x : Nat) : ({ m with led := l, fresh := x } : Mach).store = m.store := rfl
  unfold loseLine
  exact (both ..).trans ((store_lostEvent ..).trans ((store_bumpBy ..).trans ((store_chargeNow ..).trans (store_ledWriteLine ..))))

@[simp] theorem store_heatPromote (L : Image) (m : Mach) (page : Nat) (e : LEnt) : (heatPromote L m page e).store = m.store := by
  simp [heatPromote]

@[simp] theorem store_addHeat (L : Image) (m : Mach) (page : Nat) : (addHeat L m page).store = m.store := by
  unfold addHeat
  split <;> simp

@[simp] theorem store_ledCaught (L : Image) (m : Mach) (j : Nat) : (m.ledCaught L j).store = m.store := by
  simp [Mach.ledCaught]

@[simp] theorem store_fetchedEnts (L : Image) (m : Mach) (j : Nat) (syn : Word) (d : Option Line) :
    (fetchedEnts L m j syn d).2.store = m.store := by
  cases d with
  | none => exact store_loseLine ..
  | some d => rfl

theorem store_ledInstall {L : Image} {m t : Mach} {j : Nat} {e0 e1 : SymErr} (h : ledInstall L m j e0 e1 = some t) : t.store = m.store := by
  unfold ledInstall at h
  split at h
  · cases h
    exact store_led ..
  · split at h
    · cases h
    · next u hu =>
      have read := (store_ledReadFor L u mDesc (.ledger j) (lineSpot j).1 (lineSpot j).2 true e0 e1).trans (store_ledRoom hu)
      obtain ⟨d, syn, r, eq⟩ : ∃ d syn r, ledReadFor L u mDesc (.ledger j) (lineSpot j).1 (lineSpot j).2 true e0 e1 = (d, syn, r) :=
        ⟨_, _, _, rfl⟩
      rw [eq] at read
      simp only [eq] at h
      have installed : some (((fetchedEnts L r j syn d).2.ledPut j
          { ents := (fetchedEnts L r j syn d).1, use := (fetchedEnts L r j syn d).2.home.clock }).ledCaught L j) = some t := by
        rw [← h]
        cases d <;> rfl
      cases installed
      exact (store_ledCaught ..).trans ((store_led ..).trans ((store_fetchedEnts ..).trans read))

@[simp] theorem store_ledTake (L : Image) (m : Mach) (page : Nat) : ((ledTake L m page).2).store = m.store := by
  unfold ledTake
  repeat' split
  · rfl
  · exact store_ledInstall ‹_›
  · rfl

@[simp] theorem store_ledGet (L : Image) (m : Mach) (mst page : Nat) : ((ledGet L m mst page).2).store = m.store := by
  simp [ledGet]

@[simp] theorem store_poisonInstall (m : Mach) (line : Nat) : (poisonInstall m line).store = m.store := by
  simp [poisonInstall]

@[simp] theorem store_poisonHere (L : Image) (m : Mach) (h line : Nat) : (poisonHere L m h line).store = m.store := by
  have frame (m : Mach) (f : Nat) : (poisonFrame L m line f).store = m.store := store_poisonFrame ..
  have got (m : Mach) : (ledGet L m (lineMaster L h line) (line / 64)).2.store = m.store := store_ledGet ..
  unfold poisonHere
  split
  · exact (store_noteDirty ..).trans (store_lcPut ..)
  · rfl
  · dsimp only
    split
    · exact frame _ _
    · split
      · next e t ht =>
        have ht : t.store = m.store := (congrArg (fun p => p.2.store) ht).symm.trans (got _)
        split
        · split
          · exact (store_putEnt ..).trans ((frame _ _).trans ht)
          · exact (frame _ _).trans ht
        · split
          · exact ht
          · exact (store_poisonInstall ..).trans ht
      · next t ht => exact (congrArg (fun p => p.2.store) ht).symm.trans (got _)

/-! ### The yoke -/

@[simp] theorem store_ykSend (m : Mach) (vc : Nat) (o : Out) : (m.ykSend vc o).store = m.store := by
  simp [Mach.ykSend]

@[simp] theorem store_ykFlit (m : Mach) (vc : Nat) (o : Out) : (m.ykFlit vc o).store = m.store := by
  simp [Mach.ykFlit]

@[simp] theorem store_sendRec (m : Mach) (vc kind line head cls : Nat) (p : Bool) (mv : BitVec 2) (d : Option Line) :
    ((m.sendRec vc kind line head cls p mv d).2).store = m.store := by
  simp [Mach.sendRec]

@[simp] theorem store_mirrorChange (L : Image) (m : Mach) (kind line head cls : Nat) (p : Bool) (mv : BitVec 2) (d : Option Line) :
    ((mirrorChange L m kind line head cls p mv d).2).store = m.store := by
  unfold mirrorChange
  split
  · rfl
  · split <;> simp

@[simp] theorem store_poisonLine (L : Image) (m : Mach) (h line : Nat) : (poisonLine L m h line).store = m.store := by
  simp [poisonLine]

/-! ### Snoops -/

@[simp] theorem store_sfPut (m : Mach) (line : Nat) (e : SfEnt) : (m.sfPut line e).store = m.store := by
  simp [Mach.sfPut]

@[simp] theorem store_sfClear (m : Mach) (h line : Nat) : (m.sfClear h line).store = m.store := by
  unfold Mach.sfClear
  split <;> simp

@[simp] theorem store_snoopsDone (m : Mach) (line : Nat) : (m.snoopsDone line).store = m.store := by
  simp [Mach.snoopsDone]

@[simp] theorem store_snoopFail (L : Image) (m : Mach) (h line : Nat) : (snoopFail L m h line).store = m.store := by
  simp [snoopFail]

@[simp] theorem store_deadSnoop (L : Image) (m : Mach) (h line : Nat) : (deadSnoop L m h line).store = m.store := by
  simp [deadSnoop]

@[simp] theorem store_snoop (m : Mach) (h line kind : Nat) : (m.snoop h line kind).store = m.store := by
  simp [Mach.snoop]

@[simp] theorem store_snoopAll (L : Image) (m : Mach) (line : Nat) (need : List (Nat × Nat)) :
    (snoopAll L m line need).2.2.store = m.store := by
  unfold snoopAll
  dsimp only
  split_ifs <;> simp

@[simp] theorem store_sfEvict (L : Image) (m : Mach) (line : Nat) : (sfEvict L m line).store = m.store := by
  unfold sfEvict
  dsimp only
  split <;> simp

@[simp] theorem store_sfSpace (L : Image) (m : Mach) (r : Req) : (sfSpace L m r).2.store = m.store := by
  simp [sfSpace]

/-! ### Requests -/

@[simp] theorem store_setReq (m : Mach) (r : Req) : (m.setReq r).store = m.store := store_home ..

@[simp] theorem store_sfFailed (L : Image) (m : Mach) (r : Req) : (sfFailed L m r).store = m.store := by
  simp [sfFailed]

@[simp] theorem store_refund (m : Mach) (k n : Nat) : (m.refund k n).store = m.store := store_bwg ..

@[simp] theorem store_countCharge (m : Mach) (r : Req) (n : Nat) : (m.countCharge r n).store = m.store := by
  simp [Mach.countCharge]

@[simp] theorem store_settleCharge (m : Mach) (r : Req) (free : Bool) : (m.settleCharge r free).store = m.store := by
  obtain h | h | h := settleCharge_cases m r free <;> rw [h]
  · exact store_refund ..
  · exact store_countCharge ..

@[simp] theorem store_freeReq (m : Mach) (r : Req) : (m.freeReq r).store = m.store := store_home ..

@[simp ↓] theorem store_pmu (m : Mach) (x : Pmu) : ({ m with pmu := x } : Mach).store = m.store := rfl

@[simp] theorem store_sampleWrite (m : Mach) (bytes : List Byte) : (m.sampleWrite bytes).store = m.store := by
  simp [Mach.sampleWrite]

@[simp] theorem store_sampleDone (m : Mach) (r : Req) (p : Bool) : (m.sampleDone r p).store = m.store := by
  simp [Mach.sampleDone]

@[simp] theorem store_noteEnd (m : Mach) (r : Req) (p : Bool) : (m.noteEnd r p).store = m.store := by
  simp [Mach.noteEnd]

@[simp] theorem store_endReq (m : Mach) (r : Req) (p : Bool) : (m.endReq r p).store = m.store := by
  simp [Mach.endReq]

/-! ### Lines of the line cache -/

@[simp] theorem store_lcDrop (m : Mach) (line : Nat) : (m.lcDrop line).store = m.store := store_home ..

@[simp] theorem store_lcError (L : Image) (m : Mach) (h line : Nat) (err : SramErr) : (lcError L m h line err).store = m.store := by
  unfold lcError
  split <;> simp

@[simp] theorem store_coalDrop (m : Mach) (line : Nat) : (m.coalDrop line).store = m.store := store_tally ..

@[simp] theorem store_sendLine (L : Image) (m : Mach) (f line : Nat) (c : CLine) (tag : Tag) : (sendLine L m f line c tag).2.store = m.store := by
  simp [sendLine]

@[simp] theorem store_through (m : Mach) (page : Nat) : (m.through page).store = m.store := by
  unfold Mach.through
  split <;> simp

@[simp] theorem store_noteClean (m : Mach) (page : Nat) : (m.noteClean page).store = m.store := by
  unfold Mach.noteClean
  split <;> simp

@[simp] theorem store_wroteBack (m : Mach) (line : Nat) : (m.wroteBack line).store = m.store := by
  unfold Mach.wroteBack
  dsimp only
  split <;> simp

theorem store_writeBack {L : Image} {m t : Mach} {line : Nat} {tag : Tag} (h : writeBack L m line tag = some t) : t.store = m.store := by
  unfold writeBack at h
  dsimp only at h
  repeat' split at h
  all_goals cases h
  all_goals simp

@[simp] theorem store_evictDirty (L : Image) (m : Mach) (mst : Nat) (tag : Tag) (line : Nat) (ways : List (Nat × CLine)) :
    (evictDirty L m mst tag line ways).2.store = m.store := by
  unfold evictDirty
  dsimp only
  repeat' split
  all_goals simp
  exact store_writeBack ‹_›

@[simp] theorem store_makeWay (L : Image) (m : Mach) (mst : Nat) (tag : Tag) (line : Nat) : (makeWay L m mst tag line).2.store = m.store := by
  unfold makeWay
  dsimp only
  repeat' split
  all_goals simp

@[simp] theorem store_supersede (m : Mach) (line : Nat) : (m.supersede line).store = m.store := rfl

@[simp] theorem store_install (L : Image) (m : Mach) (mst : Nat) (tag : Tag) (line : Nat) (c : CLine) :
    (install L m mst tag line c).2.store = m.store := by
  simp [install]

@[simp] theorem store_installDirty (L : Image) (m : Mach) (mst : Nat) (tag : Tag) (line : Nat) (data : Line) (p : Bool) (mv : BitVec 2) :
    (installDirty L m mst tag line data p mv).2.store = m.store := by
  simp [installDirty]

@[simp] theorem store_setStall (m : Mach) (line : Nat) : (m.setStall line).store = m.store := by
  simp [Mach.setStall]

@[simp] theorem store_mergeWith (L : Image) (m : Mach) (q : Req) (d : Line) (p free : Bool) : (mergeWith L m q d p free).2.store = m.store := by
  unfold mergeWith
  dsimp only
  split <;> simp

/-! ### Answers -/

@[simp] theorem store_holdWrite (m : Mach) (r : Req) (why : Merged) : (m.holdWrite r why).store = m.store := by
  unfold Mach.holdWrite
  split <;> simp

@[simp] theorem store_copyLine (m : Mach) (line : Nat) (d : Line) (p : Bool) (mv : BitVec 2) : (m.copyLine line d p mv).store = m.store := by
  simp [Mach.copyLine]

@[simp] theorem store_agentDone (m : Mach) (r : Req) (data : Line) (p : Bool) (mv : BitVec 2) (ack : Option (Nat × Nat)) :
    (m.agentDone r data p mv ack).store = m.store := by
  simp [Mach.agentDone]

@[simp] theorem store_readAnswer (L : Image) (m : Mach) (r : Req) (mv : BitVec 2) : (readAnswer L m r mv).2.store = m.store := by
  unfold readAnswer
  dsimp only
  repeat' split
  all_goals simp

@[simp] theorem store_sendAnswer (m : Mach) (r : Req) (d : Line) (p : Bool) (mv : BitVec 2) (ans : Option Meta) :
    (m.sendAnswer r d p mv ans).store = m.store := by
  unfold Mach.sendAnswer
  split <;> simp

@[simp] theorem store_deliver (L : Image) (m : Mach) (r : Req) (d : Line) (p : Bool) (mv : BitVec 2) : (deliver L m r d p mv).store = m.store := by
  simp [deliver_eq]

@[simp] theorem store_sfWrite (m : Mach) (r : Req) : (m.sfWrite r).store = m.store := by
  unfold Mach.sfWrite
  repeat' split
  all_goals simp

@[simp] theorem store_endWrite (m : Mach) (r : Req) (old : BitVec 512) (p : Bool) : (m.endWrite r old p).store = m.store := by
  unfold Mach.endWrite
  dsimp only
  repeat' split
  all_goals simp

@[simp] theorem store_finishWrite (L : Image) (m : Mach) (r : Req) (d : Line) (p : Bool) (mv : BitVec 2) (old : BitVec 512) (oldP : Bool) :
    (finishWrite L m r d p mv old oldP).store = m.store := by
  unfold finishWrite
  dsimp only
  repeat' split
  all_goals simp

@[simp] theorem store_withData (L : Image) (m : Mach) (r : Req) (d : Line) (p : Bool) (mv : BitVec 2) (free : Bool) :
    (withData L m r d p mv free).store = m.store := by
  unfold withData
  dsimp only
  repeat' split
  all_goals simp

@[simp] theorem store_installClean (L : Image) (m : Mach) (f : Fill) : (installClean L m f).2.store = m.store := by
  simp [installClean]

@[simp] theorem store_fillLine (L : Image) (m : Mach) (f : Fill) : (fillLine L m f).store = m.store := by
  simp [fillLine]

@[simp] theorem store_judgedFor (L : Image) (m : Mach) (r : Req) (j : Judged) : (judgedFor L m r j).store = m.store := by
  simp [judgedFor]

/-! ### The way below -/

@[simp] theorem store_readFrame (L : Image) (m : Mach) (r : Req) (f : Nat) : (readFrame L m r f).store = m.store := by
  unfold readFrame
  dsimp only
  split <;> simp

@[simp] theorem store_sendAhead (L : Image) (m : Mach) (q : QEnt) (c : Bool) : (sendAhead L m q c).store = m.store := by
  have sent := store_sendRead m q
  unfold sendAhead
  dsimp only
  generalize m.sendRead q = x at sent ⊢
  obtain ⟨fate, t⟩ := x
  split
  · next e => cases e; exact (store_setSub ..).trans sent
  · next e => cases e; exact sent

@[simp] theorem store_startDecode (L : Image) (m : Mach) (r : Req) (page : Nat) (e : LEnt) (w : Nat) :
    (startDecode L m r page e w).store = m.store := by
  simp [startDecode]

@[simp] theorem store_below (L : Image) (m : Mach) (r : Req) : (below L m r).store = m.store := by
  unfold below
  dsimp only
  repeat' split
  all_goals simp

@[simp] theorem store_sfTouch (m : Mach) (line : Nat) : (m.sfTouch line).store = m.store := by
  unfold Mach.sfTouch
  split <;> simp

@[simp] theorem store_serve (L : Image) (m : Mach) (r : Req) : (serve L m r).store = m.store := by
  unfold serve
  dsimp only
  repeat' split
  all_goals simp

@[simp] theorem store_mergeFirst (L : Image) (m : Mach) (r : Req) : (mergeFirst L m r).store = m.store := by
  unfold mergeFirst
  split <;> simp

/-! ### Turns -/

theorem store_ite_of {c : Prop} [Decidable c] {a b : Mach} {p : Chn × PwrSt} (ha : a.store = p) (hb : b.store = p) :
    (if c then a else b).store = p := by
  rw [store_ite, ha, hb, ite_self]

@[simp] theorem store_turn (L : Image) (m : Mach) (r : Req) : (turn L m r).store = m.store := by
  have space (m : Mach) : (sfSpace L m r).2.store = m.store := store_sfSpace ..
  unfold turn
  extract_lets own db x head u v y merges need z w k
  have hu : u.store = m.store := by
    unfold u
    split
    · exact (store_raise ..).trans ((store_evb ..).trans (store_setHead ..))
    · rfl
  have hw : w.store = m.store := (store_snoopAll ..).trans hu
  have hv : v.store = m.store := (store_settleCharge ..).trans ((store_evb ..).trans hu)
  have serves {t : Mach} (ht : t.store = m.store) : (serve L (t.sfTouch r.line) r).store = m.store := by
    rw [store_serve, store_sfTouch, ht]
  refine store_ite_of (store_ite_of ?_ (space m)) (store_ite_of ?_ (store_ite_of (serves hu) (store_ite_of
    (store_ite_of ?_ hw) (store_ite_of ?_ (store_ite_of (store_ite_of (serves ?_) ?_) (serves hw))))))
  · exact (store_sfFailed ..).trans (space m)
  · rw [store_endReq]
    unfold y
    split
    · rw [hv]
    · split <;> exact hv
  · rw [store_setReq, hw]
  · rw [store_mergeFirst, hw]
  · exact (space w).trans hw
  · exact (space w).trans hw

@[simp] theorem store_filled (m : Mach) : m.filled.store = m.store := store_home ..

@[simp] theorem store_retryFills (L : Image) (m : Mach) : (retryFills L m).store = m.store := by
  simp [retryFills]

@[simp] theorem store_pumpPass (L : Image) (m : Mach) : (pumpPass L m).store = m.store := by
  unfold pumpPass
  refine (store_foldl (fun m id => ?_) _ _).trans (by simp)
  repeat' split
  all_goals simp

theorem store_pump (L : Image) (n : Nat) (m : Mach) : (pump L n m).store = m.store := by
  induction n generalizing m with
  | zero => rfl
  | succ n ih =>
    unfold pump
    dsimp only
    split
    · rfl
    · rw [ih, store_pumpPass]

@[simp] theorem store_pumpAll (L : Image) (m : Mach) : (m.pumpAll L).store = m.store := store_pump ..

/-! ### What comes back from memory -/

@[simp] theorem store_handOver (L : Image) (m : Mach) (q : QEnt) (j : Judged) : (handOver L m q j).store = m.store := by
  unfold handOver
  repeat' split
  all_goals simp

@[simp] theorem store_answer (L : Image) (m : Mach) (k : Nat) (q : QEnt) (j : Judged) : (answer L m k q j).store = m.store := by
  simp [answer]

@[simp] theorem store_entered (m : Mach) (q : QEnt) : (m.entered q).store = m.store := by
  unfold Mach.entered
  split <;> simp

@[simp] theorem store_takeEntered (L : Image) (m : Mach) (k : Nat) (e : Entered) : (takeEntered L m k e).store = m.store :=
  (store_foldl (fun _ _ => store_answer ..) _ _).trans (store_foldl store_entered _ _)

@[simp] theorem store_takeNews (L : Image) (n : Nat) (m : Mach) : (takeNews L n m).store = m.store := by
  induction n generalizing m with
  | zero => rfl
  | succ n ih =>
    unfold takeNews
    split
    · rfl
    · refine (ih _).trans ((store_pumpAll ..).trans (store_foldl (fun m k => ?_) _ _))
      rw [store_takeEntered, store_setSub]

/-! ### What an access undoes -/

@[simp] theorem store_exitSr (m : Mach) (k : Nat) : (m.exitSr k).store = m.store := by
  simp [Mach.exitSr]

@[simp] theorem store_exitSrAll (m : Mach) : m.exitSrAll.store = m.store := store_foldl store_exitSr _ _

@[simp] theorem store_freeMarks (L : Image) (m : Mach) : (freeMarks L m).store = m.store := by
  simp [freeMarks]

@[simp] theorem store_giveFrame (L : Image) (m : Mach) (f : Nat) : (giveFrame L m f).store = m.store := by
  simp [giveFrame]

@[simp] theorem store_deepBack (L : Image) (m : Mach) : (deepBack L m).store = m.store := store_foldl (store_giveFrame L) _ _

/-! ### What is raised -/

@[simp] theorem store_vote (m : Mach) (u : Upset) : (vote m u).store = m.store := by
  simp [vote]

@[simp] theorem store_voteStruck (m : Mach) : (voteStruck m).store = m.store := (store_foldl store_vote _ _).trans (store_scb ..)

@[simp] theorem store_firstA (m : Mach) (src : Nat) (inj : Bool) : (m.firstA src inj).store = m.store := by
  simp [Mach.firstA]

@[simp] theorem store_record (L : Image) (m : Mach) (o : Occ) (inj real : Bool) : (record L m o inj real).store = m.store :=
  (recorded_record L m o inj real).store

@[simp] theorem store_wokenByA (m : Mach) : m.wokenByA.store = m.store := by
  unfold Mach.wokenByA
  split <;> rfl

end Sys2Proof.Machine
end

section
/-! PROOFS. Settling a step keeps the channel units but their decodes in flight, and a part that is ACTIVE (R464, R465, R483). -/

namespace Sys2Proof.Machine

/-! ### The safe state -/

@[simp] theorem store_safeAnswer (m : Mach) (r : Req) : (m.safeAnswer r).store = m.store := by
  unfold Mach.safeAnswer Mach.refuse
  split
  · rfl
  · split <;> rfl

@[simp] theorem store_safeHome (m : Mach) : (safeHome m).store = m.store := store_foldl store_safeAnswer _ _

@[simp] theorem store_giveCredit (m : Mach) (h : Nat) (k : ReqKind) : (m.giveCredit h k).store = m.store := by
  unfold Mach.giveCredit
  split <;> rfl

@[simp] theorem store_safeHead (m : Mach) (h : Nat) : (safeHead m h).store = m.store := by
  simp [safeHead]

@[simp] theorem store_safeViral (m : Mach) (h : Nat) : (safeViral m h).store = m.store := by
  simp [safeViral]

@[simp] theorem store_drainQueues (L : Image) (m : Mach) (k : Nat) : (drainQueues L m k).store = m.store := store_runUntil ..

@[simp] theorem store_writeCanaries (m : Mach) (ch sub : Nat) : (writeCanaries m ch sub).store = m.store :=
  store_foldl (fun _ _ => store_sendWrite ..) _ _

@[simp] theorem store_payDebt (m : Mach) (k : Nat) : (m.payDebt k).store = m.store := by
  simp [Mach.payDebt]

@[simp] theorem store_drainWrites (L : Image) (m : Mach) (k : Nat) : (drainWrites L m k).store = m.store := by
  simp [drainWrites]

@[simp] theorem store_enterSr (L : Image) (m : Mach) (k : Nat) (calm : Bool) : (enterSr L m k calm).store = m.store := by
  simp [enterSr]

@[simp] theorem store_enterSrAll (L : Image) (m : Mach) (calm : Bool) : (enterSrAll L m calm).store = m.store :=
  store_foldl (fun _ _ => (store_enterSr ..).trans (store_enterSr ..)) _ _

@[simp] theorem store_safeSub (L : Image) (m : Mach) (k : Nat) : (safeSub L m k).store = m.store := by
  simp [safeSub]

/-! ### What is kept -/

/-- The channel units but their decodes are as they were, and a part that was ACTIVE is ACTIVE. -/
structure StoreKept (m t : Mach) : Prop where
  chn : t.store.1 = m.store.1
  active : m.pwr.st = .active → t.pwr.st = .active

namespace StoreKept
variable {m t u : Mach}

theorem refl (m : Mach) : StoreKept m m := ⟨rfl, id⟩

theorem trans (h : StoreKept m t) (k : StoreKept t u) : StoreKept m u := ⟨k.chn.trans h.chn, fun a => k.active (h.active a)⟩

theorem of_store (h : t.store = m.store) : StoreKept m t := by
  obtain ⟨chn, st⟩ := Prod.mk.inj h
  exact ⟨chn, st.trans⟩

theorem images (h : StoreKept m t) : t.chn.images = m.chn.images := (congrArg Chn.images h.chn :)

theorem copying (h : StoreKept m t) : t.chn.copying = m.chn.copying := (congrArg Chn.copying h.chn :)

end StoreKept

/-! ### The end of a step -/

theorem storeKept_undoEntry (L : Image) (m : Mach) : StoreKept m (undoEntry L m) := by
  unfold undoEntry
  split
  · exact .refl m
  · extract_lets m1 m2 pwr scb m3
    have h1 : m1.store = m.store := store_foldl (fun m k => by rw [store_ite, store_reach, ite_self]) _ _
    have h2 : m2.store = m1.store := store_exitSrAll m1
    clear_value m2
    have h3 : StoreKept m2 m3 := ⟨rfl, fun _ => rfl⟩
    exact ((StoreKept.of_store (h2.trans h1)).trans h3).trans (.of_store ((store_bump ..).trans (store_deepBack ..)))

theorem storeKept_wrapUp (L : Image) (m : Mach) : StoreKept m (wrapUp L m) := by
  have news : StoreKept m (takeNews L newsRounds m) := .of_store (store_takeNews ..)
  unfold wrapUp
  generalize takeNews L newsRounds m = t at news
  dsimp only
  split
  · exact news.trans ((StoreKept.of_store (store_undo t false)).trans (storeKept_undoEntry ..))
  · exact news

theorem storeKept_safeMach (L : Image) (m : Mach) : StoreKept m (safeMach L m) := by
  unfold safeMach
  extract_lets m1 m2 m3 yoke m4 m5 scb tally pwr tst m6 r flt
  have h1 : m1.store = m.store := store_wokenByA m
  have h2 : m2.store = m1.store := by
    unfold m2
    rw [store_safeHome, store_foldl store_safeHead]
  have h3 : m3.store = m2.store := by
    unfold m3
    rw [store_foldl store_safeViral]
  clear_value m3
  have h4 : m4.store = m3.store := store_ykFlit ..
  have h5 : m5.store = m4.store := by
    unfold m5
    rw [store_enterSrAll, store_foldl (store_safeSub L)]
  clear_value m5
  have woken : StoreKept m m6 := ⟨(congrArg Prod.fst (h5.trans (h4.trans (h3.trans (h2.trans h1)))) :), fun _ => rfl⟩
  clear_value m6
  split
  · exact woken.trans (.of_store (store_flt ..))
  · exact woken

theorem storeKept_take (s : State) (o : Occ) (inj real : Bool) : StoreKept s.m (s.take o inj real).m := by
  have logged : StoreKept s.m (record s.live (s.m.firstA o.src inj) o inj real) := .of_store ((store_record ..).trans (store_firstA ..))
  unfold State.take
  split
  · dsimp only
    generalize record s.live (s.m.firstA o.src inj) o inj real = t at logged ⊢
    split
    · exact logged
    · have safe := storeKept_safeMach s.live (deepBack s.live t)
      generalize safeMach s.live (deepBack s.live t) = u at safe ⊢
      exact (logged.trans (.of_store (store_deepBack s.live t))).trans safe
  · exact .of_store (store_record s.live s.m o inj real)

theorem storeKept_takes (l : List Occ) {m : Mach} {s : State} (h : StoreKept m s.m) : StoreKept m (l.foldl (fun s o => s.take o false true) s).m := by
  induction l generalizing s with
  | nil => exact h
  | cons o l ih => exact ih (h.trans (storeKept_take s o false true))

theorem storeKept_drainRaised {m : Mach} {s : State} (h : StoreKept m s.m) : StoreKept m s.drainRaised.m := by
  unfold State.drainRaised
  exact storeKept_takes _ (h.trans (.of_store (store_raised s.m [])))

/-- Settling a step keeps what is stored. -/
theorem storeKept_settle (s : State) : StoreKept s.m (settle s).m := by
  have wrapped : StoreKept s.m (wrapUp s.live (voteStruck s.m)) := (StoreKept.of_store (store_voteStruck s.m)).trans (storeKept_wrapUp ..)
  generalize eq : wrapUp s.live (voteStruck s.m) = t at wrapped
  unfold settle
  rw [eq]
  exact storeKept_drainRaised (storeKept_drainRaised wrapped)

/-! ### Save slots and pieces of work -/

@[simp] theorem store_savePut (m : Mach) (n : Nat) (bytes : List Byte) : (m.savePut n bytes).store = m.store := by
  simp [Mach.savePut]

@[simp] theorem store_agentClear (m : Mach) (who : Nat) : (m.agentClear who).store = m.store := by
  obtain ⟨home, locked, e⟩ := agentClear_eq m who
  rw [e]
  rfl

end Sys2Proof.Machine
end

section
/-! PROOFS. An APPLY judged and begun (R94-R100, R375), the copy of a culture's image (R142, R187, R240), and the statement
ApplyKeyAndCultureCopies: O13. -/

namespace Sys2Proof.Machine

/-! ### An APPLY judged -/

theorem applyJudge_badKey {key : BitVec 24} (h : key ≠ applyKey) (s : State) (pass : Bool) (go : State → State) :
    applyJudge s key pass go = { s with commit := { s.commit with code := 3#8 } } := if_pos h

theorem applyJudge_notChecked {pass : Bool} (h : pass = false) (s : State) (go : State → State) :
    applyJudge s applyKey pass go = { s with commit := { s.commit with code := 4#8 } } := by
  simp [applyJudge, h]

theorem applyJudge_passed {pass : Bool} (h : pass = true) (s : State) (go : State → State) : applyJudge s applyKey pass go = go s := by
  simp [applyJudge, h]

/-- The beginning of an APPLY leaves nothing to settle. -/
theorem quiet_applyBegin {s : State} (hq : Quiet s) (op : StageOp) : Quiet (applyBegin s op) := hq

/-- An unpaired APPLY with nothing to merge has begun, and no more. -/
theorem applyGo_nil {s : State} (hq : Quiet s) (hc : s.m.tally.coal = []) : applyGo s = applyBegin s .apply := by
  have merge : (applyMerge (applyBegin s .apply).live (applyBegin s .apply).stage (applyBegin s .apply).m).2 = (applyBegin s .apply).m :=
    mergeWhere_nil (show (applyBegin s .apply).m.tally.coal = [] from hc) ..
  unfold applyGo
  dsimp only
  rw [merge]
  exact settle_quiet _ (quiet_applyBegin hq _)

/-! ### A paired APPLY armed -/

/-- A flit sent, or left waiting, raises nothing, and the partner's ARM stands. -/
theorem ykFlit_keeps (m : Mach) (vc : Nat) (o : Out) : (m.ykFlit vc o).raised = m.raised ∧ (m.ykFlit vc o).scb = m.scb ∧
    (m.ykFlit vc o).pwr = m.pwr ∧ (m.ykFlit vc o).mcs = m.mcs ∧ (m.ykFlit vc o).yoke.peerArm = m.yoke.peerArm := by
  have sent (m : Mach) : (m.pmuEvent 0x601 0 1).raised = m.raised ∧ (m.pmuEvent 0x601 0 1).scb = m.scb ∧
      (m.pmuEvent 0x601 0 1).pwr = m.pwr ∧ (m.pmuEvent 0x601 0 1).mcs = m.mcs ∧ (m.pmuEvent 0x601 0 1).yoke.peerArm = m.yoke.peerArm := by
    have counted := counted_pmuEvent m 0x601 0 1
    exact ⟨counted.raised, counted.scb, counted.pwr, counted.mcs, (congrArg (fun m : Mach => m.yoke.peerArm) counted.rest :)⟩
  unfold Mach.ykFlit
  dsimp only
  split
  · exact ⟨rfl, rfl, rfl, rfl, rfl⟩
  · split
    · exact sent _
    · exact ⟨rfl, rfl, rfl, rfl, rfl⟩

/-- The machinery of a part that arms: what it has said of the exchange begins anew. -/
def Mach.arming (m : Mach) : Mach := { m with yoke := { m.yoke with phase := 1, goAcked := false } }

/-- A paired APPLY with nothing to merge and no ARM of the partner arms, and no more. -/
theorem pairArm_arms {s : State} (hq : Quiet s) (ho : s.commit.op = .arming) (hc : s.m.tally.coal = []) (hp : s.m.yoke.peerArm = none) :
    pairArm s = { s with m := s.m.arming.ykMsg 2 6 [(digest s.stage).toNat], commit := { s.commit with op := .armed } } := by
  obtain ⟨raised, scb, pwr, mcs, peer⟩ := ykFlit_keeps s.m.arming 2 (.yokeMsg 2 6 [(digest s.stage).toNat])
  have quiet : Quiet { s with m := s.m.arming.ykMsg 2 6 [(digest s.stage).toNat] } := quiet_of_kept hq raised scb (congrArg Pwr.undo pwr) mcs
  have still := settle_quiet _ quiet
  have alone : (s.m.arming.ykMsg 2 6 [(digest s.stage).toNat]).yoke.peerArm = none := peer.trans hp
  unfold pairArm
  rw [if_neg (not_not.mpr ho), applyMerge_nil hc]
  change (if (settle { s with m := s.m.arming.ykMsg 2 6 [(digest s.stage).toNat] }).commit.op = .arming then
    pairMatch { settle { s with m := s.m.arming.ykMsg 2 6 [(digest s.stage).toNat] } with
      commit := { (settle { s with m := s.m.arming.ykMsg 2 6 [(digest s.stage).toNat] }).commit with op := .armed } } else _) = _
  rw [still, if_pos ho]
  simp only [pairMatch, alone]

/-- A paired APPLY over a link that is up arms. -/
theorem pairedGo_arms {s : State} (hq : Quiet s) (hu : s.m.yoke.up = true) (hc : s.m.tally.coal = []) (hp : s.m.yoke.peerArm = none) :
    ∃ m, pairedGo s = { s with m, commit := { s.commit with op := .armed, lost := false } } := by
  refine ⟨_, (if_neg (by simp [hu])).trans (pairArm_arms (s := applyBegin s .arming) (quiet_applyBegin hq _) rfl hc hp)⟩

theorem pairedGo_down {s : State} (h : s.m.yoke.up = false) : pairedGo s = { s with commit := { s.commit with code := 0x30#8 } } := by
  simp [pairedGo, h]

/-! ### The copy of a culture's image -/

/-- What the copy of a slot's image does to the machinery, for what was read of it. -/
def Mach.copied (m : Mach) (n : Nat) (b : Option (List Byte)) : Mach :=
  let m : Mach := { m with chn := { m.chn with copying := m.chn.copying.filter (· != n) } }
  match b.filter Yelrin.imgOk with
  | none => m
  | some img =>
    let m : Mach := { m with chn := { m.chn with images := m.chn.images.insert n img } }
    if m.led.formatted then m.savePut n (saveBytes img (m.chn.loadCnt.get 0 n)) else m

theorem copied_copying (m : Mach) (n : Nat) (b : Option (List Byte)) : (m.copied n b).chn.copying = m.chn.copying.filter (· != n) := by
  unfold Mach.copied
  dsimp only
  split
  · rfl
  · split
    · exact (StoreKept.of_store (store_savePut ..)).copying
    · rfl

/-- A slot whose image is not good keeps what it held. -/
theorem copied_bad {b : Option (List Byte)} (h : b.filter Yelrin.imgOk = none) (m : Mach) (n : Nat) :
    (m.copied n b).chn.images = m.chn.images := by
  simp [Mach.copied, h]

/-- A slot whose image is good holds it. -/
theorem copied_good {b : Option (List Byte)} {img : List Byte} (h : b.filter Yelrin.imgOk = some img) (m : Mach) (n : Nat) :
    (m.copied n b).chn.images = m.chn.images.insert n img := by
  unfold Mach.copied
  rw [h]
  dsimp only
  split
  · exact (StoreKept.of_store (store_savePut ..)).images
  · rfl

/-- An APPLY that waits for copies ends once none is left. -/
def State.copyEnd (s : State) : State :=
  match s.commit.op with
  | .copy code => if s.m.chn.copying.isEmpty then { s with commit := s.commit.applied code } else s
  | _ => s

theorem copyEnd_mach (s : State) : s.copyEnd.m = s.m := by
  unfold State.copyEnd
  split
  · split <;> rfl
  · rfl

/-- With no copy left, an APPLY that waited for them has ended. -/
theorem copyEnd_ends {s : State} {c : Commit} {code : Byte} (h : c.Stands s.commit) (hc : c.op = .copy code) (hn : s.m.chn.copying = []) :
    s.copyEnd.commit.op = .idle ∧ s.copyEnd.commit.code = code := by
  obtain e | e := h.of_copy hc
  · simp [State.copyEnd, e, hc, hn, Commit.applied]
  · simp [State.copyEnd, e, Commit.applied]

/-- CULTURE_COPY_DONE once the image's lines have been read. -/
theorem cultureCopied_read {s : State} {n : Nat} {b : Option (List Byte)} (hc : s.m.chn.copying.contains n = true)
    (hr : readImage s.m (imageAgent whoCopy) 0 (cultAddr s.live n) = .ok b s.m) :
    cultureCopied s n = (settle { s with m := (s.m.agentClear whoCopy).copied n b }).copyEnd := by
  have read : runWork s.live whoCopy (fun m => readImage m (imageAgent whoCopy) 0 (cultAddr s.live n)) askRounds s.m =
      (some b, s.m.agentClear whoCopy) :=
    runWork_ok (f := fun m => readImage m (imageAgent whoCopy) 0 (cultAddr s.live n)) hr s.live whoCopy 1023
  unfold cultureCopied
  rw [hc, read]
  rfl

theorem exec_cultureCopyDone {s : State} (hl : s.latch = false) (slot : Fin 64) :
    exec (.cultureCopyDone slot) s = .next (cultureCopied s slot) := by
  change (if s.latch then Host.Outcome.next s else .next (cultureCopied s slot)) = _
  simp [hl]

end Sys2Proof.Machine

namespace Sys2Proof

open Machine

/-- Settles O13: an APPLY by what its key, its PASS and the link say; a copy by whether the image is good. -/
theorem applyKeyAndCultureCopies : Obligations.ApplyKeyAndCultureCopies := by
  refine ⟨fun key s hq hi hl => ?apply, fun slot s hl hc b hr => ?copy⟩
  case apply =>
    simp only [exec_apply, exec_pairedApply, exec_discard, stageCtl_idle hi hl]
    refine ⟨fun hk => ?key, fun hn => ?unchecked, fun hp hc => ?unpaired, fun hp hpp hu => ?down, fun hp hpp hu hc ha => ?paired, rfl⟩
    case key => exact ⟨by rw [applyJudge_badKey hk], by rw [applyJudge_badKey hk]⟩
    case unchecked => exact ⟨by rw [applyJudge_notChecked hn], by rw [applyJudge_notChecked (by simp [hn])]⟩
    case unpaired =>
      rw [applyJudge_passed hp, applyGo_nil hq hc]
      rfl
    case down => rw [applyJudge_passed (by simp [hp, hpp]), pairedGo_down hu]
    case paired =>
      obtain ⟨m, arms⟩ := pairedGo_arms hq hu hc ha
      rw [applyJudge_passed (by simp [hp, hpp]), arms]
      exact ⟨_, rfl, rfl, rfl, rfl, rfl⟩
  case copy =>
    have kept := storeKept_settle { s with m := (s.m.agentClear whoCopy).copied slot b }
    have cleared : StoreKept s.m (s.m.agentClear whoCopy) := .of_store (store_agentClear ..)
    have fixed := fixed_cultureCopied s slot
    have done := cultureCopied_read hc hr
    have commit := settle_commit { s with m := (s.m.agentClear whoCopy).copied slot b }
    generalize settle { s with m := (s.m.agentClear whoCopy).copied slot b } = u at kept done commit
    rw [done] at fixed
    have images : u.copyEnd.m.chn.images = ((s.m.agentClear whoCopy).copied slot b).chn.images := (copyEnd_mach u).symm ▸ kept.images
    have copying : u.copyEnd.m.chn.copying = s.m.chn.copying.filter (· != slot.val) := by
      rw [copyEnd_mach, kept.copying, copied_copying, cleared.copying]
    refine ⟨_, (exec_cultureCopyDone hl slot).trans (congrArg Host.Outcome.next done), fun img hb hok => ?good, fun hbad => ?bad, ?copying,
      fixed_live fixed, fixed_epoch fixed, fun code ho hn => copyEnd_ends commit ho (copyEnd_mach u ▸ hn)⟩
    case good =>
      rw [images, copied_good (by rw [hb, Option.filter_some, if_pos hok])]
      exact Tbl.find?_insert_self ..
    case bad => rw [images, copied_bad hbad, cleared.images]
    case copying => rw [copying]; simp

end Sys2Proof
end

section
/-! PROOFS. The starts of the part (R92, R447, R466, R488, R489), and the statement ColdStartBeginsAnew: O34. -/

namespace Sys2Proof.Machine

/-! ### A cold start -/

/-- A part that has started anew: empty images, epoch 0, the pending life cycle now current, no CHECK or APPLY in progress. -/
structure State.Anew (lc : Nat) (t : State) : Prop where
  live : t.live = {}
  stage : t.stage = {}
  epoch : t.epoch = 0#32
  lcCur : t.lcCur = lc
  lcPend : t.lcPend = lc
  op : t.commit.op = .idle

/-- A state as reset, whatever its machinery, its queue and its latch. -/
theorem settle_anew (pending : List Instr) (latch : Bool) (lc : Nat) (m : Mach) :
    (settle { pending, latch, lcCur := lc, lcPend := lc, m }).Anew lc where
  live := settle_live _
  stage := settle_stage _
  epoch := settle_epoch _
  lcCur := settle_lcCur _
  lcPend := settle_lcPend _
  op := congrArg Commit.op ((settle_commit { pending, latch, lcCur := lc, lcPend := lc, m }).of_idle rfl)

theorem coldStart_anew (s : State) (env : ColdEnv) (aon : Bool) (last : Nat) : (coldStart s env aon last).Anew s.lcPend :=
  settle_anew s.pending (aon && s.latch) s.lcPend (coldMach s.m env aon last s.lcCur s.lcPend)

/-- A start from the always-on domain keeps the latch. -/
theorem coldStart_latched {s : State} (h : s.latch = true) (env : ColdEnv) (last : Nat) : (coldStart s env true last).latch = true :=
  settle_latched _ h

theorem pairLost_lcPend (s : State) : (pairLost s).lcPend = s.lcPend := by
  unfold pairLost
  split <;> rfl

theorem warmStage_lcPend (s : State) : (warmStage s).lcPend = s.lcPend := pairLost_lcPend s

/-- A warm reset keeps PENDING. -/
theorem warmStart_lcPend (s : State) (kind : Nat) (d : DropEnv) : (warmStart s kind d).lcPend = s.lcPend := by
  unfold warmStart
  split
  · rfl
  · rw [warmStage_lcPend, settle_lcPend]

theorem coldReset_eq (s : State) (env : ColdEnv) : coldReset s env =
    coldStart (if s.latch then s else warmStart s 2 { partialWrites := 0, partialRecords := 0, skid := [] }) env true 1 := rfl

theorem coldReset_anew (s : State) (env : ColdEnv) : (coldReset s env).Anew s.lcPend := by
  have pend : (if s.latch then s else warmStart s 2 { partialWrites := 0, partialRecords := 0, skid := [] }).lcPend = s.lcPend := by
    split
    · rfl
    · exact warmStart_lcPend ..
  rw [coldReset_eq, ← pend]
  exact coldStart_anew ..

theorem coldReset_latched {s : State} (h : s.latch = true) (env : ColdEnv) : (coldReset s env).latch = true := by
  rw [coldReset_eq, if_pos h]
  exact coldStart_latched h ..

/-! ### The way out of DEEP -/

@[simp] theorem store_service (m : Mach) (h : Nat) : (m.service h).store = m.store := store_setHead ..

theorem storeKept_memReady (m : Mach) : StoreKept m (memReady m) := by
  have ready : StoreKept m { m with pwr := { m.pwr with memReady := true } } := ⟨rfl, id⟩
  exact ready.trans (.of_store (store_foldl (fun m h => by rw [store_ite, store_service, ite_self]) _ _))

theorem store_yokeGo (m : Mach) : m.yokeGo.store = m.store := by
  unfold Mach.yokeGo
  split <;> rfl

/-- What was put away is back, and every head that was linked and every ring has fallen. -/
def deepFall (L : Image) (m : Mach) : Mach :=
  let m := (List.range 8).foldl (fun m h => if (m.head h).st.linked
    then linkLost L m h .down { partialWrites := 0, partialRecords := 0, skid := [] } else m) (deepBack L m)
  (m.dqu.rings.map (·.1)).foldl (ringFall L) m

/-- The part is ACTIVE, its sweep begins again and its scrubber runs. -/
def Mach.woken (m : Mach) : Mach :=
  let m : Mach := { m with pwr := { m.pwr with st := .active }, led := { m.led with sweep := 0 }, scb := { m.scb with paused := false } }
  (m.setReg oWakeCause (put m.pwr.cause.toNat 0)).yokeGo

theorem woken_active (m : Mach) : m.woken.pwr.st = .active := (StoreKept.of_store (store_yokeGo _)).active rfl

/-- What leaves DEEP settles with memory ready, where it can be. -/
def deepReady (latch : Bool) (m : Mach) : Mach := if m.canReady && !latch then memReady m else m

theorem deepReady_active {m : Mach} (h : m.pwr.st = .active) (latch : Bool) : (deepReady latch m).pwr.st = .active := by
  unfold deepReady
  split
  · exact (storeKept_memReady m).active h
  · exact h

/-- The sealed area as the exit reads it. -/
def State.unsealed (s : State) (ok : Bool) : Bool × Mach := if ok then sealIntact s.live s.m.wakeDram else (false, s.m)

theorem unsealed_lost {s : State} {ok : Bool} (h : ok = false ∨ (sealIntact s.live s.m.wakeDram).1 = false) :
    ∃ m, s.unsealed ok = (false, m) := by
  refine ⟨(s.unsealed ok).2, Prod.ext ?_ rfl⟩
  unfold State.unsealed
  obtain rfl | h := h
  · rfl
  · split
    · exact h
    · rfl

/-- A part on its way out of DEEP whose sealed area reads as it was sealed. -/
theorem deepExit_intact {s : State} {ok : Bool} {m : Mach} (hst : s.m.pwr.st = .waking) (hd : s.m.pwr.toDeep = true)
    (hs : s.unsealed ok = (true, m)) :
    deepExit s ok = settle { s with stage := s.live, commit := { s.commit with checked := false, pairedPass := false },
                                    m := deepReady s.latch (deepFall s.live m).woken } := by
  unfold State.unsealed at hs
  unfold deepExit
  rw [if_neg (by simp [hst, hd])]
  extract_lets L
  rw [show s.live = L from rfl] at hs
  rw [hs]
  dsimp only [L]
  refine (if_pos rfl).trans ?_
  unfold deepReady Mach.woken deepFall
  dsimp only

/-- One whose sealed area does not starts anew. -/
theorem deepExit_lost {s : State} {ok : Bool} {m : Mach} (hst : s.m.pwr.st = .waking) (hd : s.m.pwr.toDeep = true)
    (hs : s.unsealed ok = (false, m)) :
    deepExit s ok = settle { coldStart s (sameEnv m) true 4 with m := (coldStart s (sameEnv m) true 4).m.raise 190 0 } := by
  unfold State.unsealed at hs
  unfold deepExit
  rw [if_neg (by simp [hst, hd])]
  extract_lets L
  rw [show s.live = L from rfl] at hs
  rw [hs]
  dsimp only [L]
  rw [if_neg (by decide)]

/-! ### The commands -/

theorem exec_powerOnReset (env : ColdEnv) (s : State) : exec (.powerOnReset env) s = .next (coldStart s env false 0) := rfl

theorem exec_cold {s : State} (hb : s.m.pwr.pbusy = false) (hd : s.m.pwr.inDeep = false) (env : ColdEnv) :
    exec (.cold rstKey env) s = .next (coldReset s env) := by
  change Host.Outcome.next (if rstKey = rstKey ∧ !s.m.pwr.pbusy ∧ !s.m.pwr.inDeep then coldReset s env else s) = _
  simp [hb, hd]

theorem exec_deepExitDone (ok : Bool) (s : State) : exec (.deepExitDone ok) s = .next (deepExit s ok) := rfl

end Sys2Proof.Machine

namespace Sys2Proof

open Machine

/-- Settles O34: a start makes everything anew; a part on its way out of DEEP by whether its sealed area is intact. -/
theorem coldStartBeginsAnew : Obligations.ColdStartBeginsAnew := by
  intro env s hq
  refine ⟨?power, fun hb hd => ?cold, fun hst hd => ⟨fun hs => ?intact, fun ok hf => ?lost⟩⟩
  case power =>
    have new := coldStart_anew s env false 0
    exact ⟨_, exec_powerOnReset env s, new.live, new.stage.trans new.live.symm, new.epoch, new.lcCur, new.lcPend, new.op⟩
  case cold =>
    have new := coldReset_anew s env
    exact ⟨_, exec_cold hb hd env, new.live, new.stage.trans new.live.symm, new.epoch, new.lcCur, fun hl => coldReset_latched hl env⟩
  case intact =>
    have good : s.unsealed true = (true, (sealIntact s.live s.m.wakeDram).2) := Prod.ext hs rfl
    exact ⟨_, (exec_deepExitDone ..).trans (congrArg Host.Outcome.next (deepExit_intact hst hd good)), settle_live _, settle_epoch _,
      settle_stage _, (storeKept_settle _).active (deepReady_active (woken_active _) _)⟩
  case lost =>
    obtain ⟨m, hs⟩ := unsealed_lost hf
    have new := coldStart_anew s (sameEnv m) true 4
    exact ⟨_, (exec_deepExitDone ..).trans (congrArg Host.Outcome.next (deepExit_lost hst hd hs)), (settle_live _).trans new.live,
      (settle_epoch _).trans new.epoch⟩

end Sys2Proof
end

section
/-! PROOFS. What the memory controllers and their commands leave alone (R270-R296, R318-R327): the ledger, the churns' work, the jobs, the tally
unit, the strainer, host memory, and the home but for the tags of its requests. -/

namespace Sys2Proof.Machine

/-! ### The machine above the controllers -/

/-- The machine without what the controllers and the counting change. -/
def Mach.upper (m : Mach) : Mach :=
  { m with fresh := 0, regs := [], outbox := [], raised := [], mbox := [], msix := {}, pmu := {}, flt := {}, media := {}, mcs := {}, bwg := {},
           scb := { m.scb with chist := [], sticky := [], devCnt := [], lastCe := [] }, pwr := { m.pwr with undo := false },
           tst := { m.tst with stopped := [] }, chn := { m.chn with decodes := [] },
           home := { m.home with trk := m.home.trk.map (fun _ => {}) } }

section
variable {m t : Mach}

theorem Counted.upper (h : Counted m t) : t.upper = m.upper := (congrArg Mach.upper h.rest :)

theorem Recorded.upper (h : Recorded m t) : t.upper = m.upper := (congrArg Mach.upper h.rest :)

theorem led_of_upper (h : t.upper = m.upper) : t.led = m.led := (congrArg Mach.led h :)

theorem dqu_of_upper (h : t.upper = m.upper) : t.dqu = m.dqu := (congrArg Mach.dqu h :)

theorem hostMem_of_upper (h : t.upper = m.upper) : t.hostMem = m.hostMem := (congrArg Mach.hostMem h :)

theorem strn_of_upper (h : t.upper = m.upper) : t.strn = m.strn := (congrArg Mach.strn h :)

theorem tally_of_upper (h : t.upper = m.upper) : t.tally = m.tally := (congrArg Mach.tally h :)

theorem pop_of_upper (h : t.upper = m.upper) : t.pop = m.pop := (congrArg Mach.pop h :)

theorem run_of_upper (h : t.upper = m.upper) : t.chn.run = m.chn.run := (congrArg (fun m : Mach => m.chn.run) h :)

theorem images_of_upper (h : t.upper = m.upper) : t.chn.images = m.chn.images := (congrArg (fun m : Mach => m.chn.images) h :)

theorem lc_of_upper (h : t.upper = m.upper) : t.home.lc = m.home.lc := (congrArg (fun m : Mach => m.home.lc) h :)

theorem fills_of_upper (h : t.upper = m.upper) : t.home.fills = m.home.fills := (congrArg (fun m : Mach => m.home.fills) h :)

/-- No request stands at the home where none stood. -/
theorem trk_of_upper (h : t.upper = m.upper) (hm : m.home.trk = []) : t.home.trk = [] := by
  have e : t.home.trk.map (fun _ => ({} : Req)) = m.home.trk.map (fun _ => {}) := (congrArg (fun m : Mach => m.home.trk) h :)
  rw [hm] at e
  exact List.map_eq_nil_iff.mp e

end

section
variable (m : Mach)

@[simp ↓] theorem upper_undo (b : Bool) : ({ m with pwr := { m.pwr with undo := b } } : Mach).upper = m.upper := rfl
@[simp ↓] theorem upper_decodes (x : List Decode) : ({ m with chn := { m.chn with decodes := x } } : Mach).upper = m.upper := rfl
@[simp ↓] theorem upper_stopped (x : List Nat) : ({ m with tst := { m.tst with stopped := x } } : Mach).upper = m.upper := rfl
@[simp ↓] theorem upper_chist (x : List (Nat × Nat × Nat)) : ({ m with scb := { m.scb with chist := x } } : Mach).upper = m.upper := rfl
@[simp ↓] theorem upper_sticky (x : List (Nat × Nat)) : ({ m with scb := { m.scb with sticky := x } } : Mach).upper = m.upper := rfl
@[simp ↓] theorem upper_devCnt (x : Tbl Nat) : ({ m with scb := { m.scb with devCnt := x } } : Mach).upper = m.upper := rfl
@[simp ↓] theorem upper_lastCe (x : Tbl Nat) : ({ m with scb := { m.scb with lastCe := x } } : Mach).upper = m.upper := rfl
@[simp ↓] theorem upper_media (x : Media) : ({ m with media := x } : Mach).upper = m.upper := rfl
@[simp ↓] theorem upper_mcs (x : Mcs) : ({ m with mcs := x } : Mach).upper = m.upper := rfl
@[simp] theorem upper_setReg (o : Nat) (v : Word) : (m.setReg o v).upper = m.upper := rfl
@[simp] theorem upper_evt (o : Nat) (v : Word) : (m.evt o v).upper = m.upper := rfl
@[simp] theorem upper_evb (o b : Nat) : (m.evb o b).upper = m.upper := rfl
@[simp] theorem upper_bumpBy (o n : Nat) : (m.bumpBy o n).upper = m.upper := rfl
@[simp] theorem upper_bump (o : Nat) : (m.bump o).upper = m.upper := rfl
@[simp] theorem upper_tick : m.tick.upper = m.upper := rfl
@[simp] theorem upper_raiseOcc (o : Occ) : (m.raiseOcc o).upper = m.upper := rfl
@[simp] theorem upper_raise (src unit : Nat) : (m.raise src unit).upper = m.upper := rfl
@[simp] theorem upper_raiseA (src unit k a : Nat) : (m.raiseA src unit k a).upper = m.upper := rfl
@[simp] theorem upper_raiseRs (src : Nat) (a : MAddr) (d : Option Nat) (syn : Word) : (m.raiseRs src a d syn).upper = m.upper := rfl
@[simp] theorem upper_setSub (k : Nat) (s : Sub) : (m.setSub k s).upper = m.upper := rfl
@[simp] theorem upper_charge (k n : Nat) : (m.charge k n).upper = m.upper := rfl
@[simp] theorem upper_pmuEvent (c i n : Nat) : (m.pmuEvent c i n).upper = m.upper := (counted_pmuEvent m c i n).upper
@[simp] theorem upper_slotCycle (k i : Nat) : (m.slotCycle k i).upper = m.upper := (counted_slotCycle m k i).upper
@[simp] theorem upper_upkeep (k n : Nat) : (m.upkeep k n).upper = m.upper := (counted_upkeep m k n).upper
@[simp] theorem upper_cxlEvent (h l : Nat) (b : List Byte) : (m.cxlEvent h l b).upper = m.upper := (recorded_cxlEvent m h l b).upper

end

@[simp] theorem upper_ite (c : Prop) [Decidable c] (a b : Mach) : (if c then a else b).upper = if c then a.upper else b.upper := apply_ite ..

@[simp] theorem upper_ite_snd {α : Type} (c : Prop) [Decidable c] (a b : α × Mach) :
    (if c then a else b).2.upper = if c then a.2.upper else b.2.upper := apply_ite (fun x : α × Mach => x.2.upper) ..

@[simp] theorem upper_foldl {α : Type} {f : Mach → α → Mach} (hf : ∀ m a, (f m a).upper = m.upper) (l : List α) (m : Mach) :
    (l.foldl f m).upper = m.upper := by
  induction l generalizing m with
  | nil => rfl
  | cons a l ih => rw [List.foldl_cons, ih, hf]

/-- Work in many steps that carries a value along. -/
theorem upper_foldl_snd {α β : Type} {f : β × Mach → α → β × Mach} (hf : ∀ x a, (f x a).2.upper = x.2.upper) (l : List α) (x : β × Mach) :
    (l.foldl f x).2.upper = x.2.upper := by
  induction l generalizing x with
  | nil => rfl
  | cons a l ih => rw [List.foldl_cons, ih, hf]

/-! ### The queues and the scheduler -/

@[simp] theorem upper_subOut (m : Mach) (k : Nat) : (m.subOut k).upper = m.upper := by
  simp [Mach.subOut]

@[simp] theorem upper_chanOut (m : Mach) (ch : Nat) : (m.chanOut ch).upper = m.upper := by
  simp [Mach.chanOut]

@[simp] theorem upper_reach (m : Mach) (k : Nat) : (m.reach k).upper = m.upper := by
  unfold Mach.reach
  split <;> simp

@[simp] theorem upper_sendRead (m : Mach) (q : QEnt) : (m.sendRead q).2.upper = m.upper := by
  unfold Mach.sendRead
  dsimp only
  split <;> simp

@[simp] theorem upper_drain (m : Mach) (k : Nat) : (m.drain k).upper = m.upper := by
  simp [Mach.drain]

@[simp] theorem upper_sendWrite (m : Mach) (q : QEnt) : (m.sendWrite q).2.upper = m.upper := by
  simp [Mach.sendWrite]

@[simp] theorem upper_writeNow (m : Mach) (f l : Nat) (cw : Codeword) : (m.writeNow f l cw).upper = m.upper := by
  simp [Mach.writeNow]

@[simp] theorem upper_chargeNow (m : Mach) (mst n : Nat) : (m.chargeNow mst n).upper = m.upper := by
  simp [Mach.chargeNow]

@[simp] theorem upper_fabricPull (n k : Nat) (e : Entered) (m : Mach) : (Mach.fabricPull n k e m).2.upper = m.upper := by
  induction n generalizing e m with
  | zero => rfl
  | succ n ih =>
    unfold Mach.fabricPull
    dsimp only
    repeat' split
    all_goals simp [ih]

/-- A tag changes at most what a request carries. -/
theorem upper_tagged (m : Mach) (p : Req → Bool) (f : Req → Req) : (Mach.tagReq.go m f p).upper = m.upper := by
  have same : (m.home.trk.map (fun r => if p r then f r else r)).map (fun _ => ({} : Req)) = m.home.trk.map (fun _ => {}) := by
    simp [List.map_map, Function.comp_def]
  unfold Mach.upper Mach.tagReq.go
  simp only [same]

@[simp] theorem upper_tagReq (m : Mach) (p : Purpose) (f : Req → Req) : (m.tagReq p f).upper = m.upper := by
  unfold Mach.tagReq
  split
  · exact upper_tagged ..
  · exact upper_tagged ..
  · exact (upper_decodes ..).trans (upper_tagged ..)
  · rfl

@[simp] theorem upper_panicTags (m : Mach) (k : Nat) : (m.panicTags k).upper = m.upper := by
  simp [Mach.panicTags]

@[simp] theorem upper_chanEvent (m : Mach) (b : Bool) (c k n : Nat) : (m.chanEvent b c k n).upper = m.upper := by
  simp [Mach.chanEvent]

@[simp] theorem upper_raaAct (m : Mach) (k : Nat) (a : MAddr) (b : Bool) : (m.raaAct k a b).upper = m.upper := by
  simp [Mach.raaAct]

@[simp] theorem upper_issueReq (m : Mach) (k : Nat) (q : QEnt) : (m.issueReq k q).upper = m.upper := by
  simp [Mach.issueReq]

@[simp] theorem upper_issueAstray (m : Mach) (k : Nat) (q : QEnt) (v : Nat) : (m.issueAstray k q v).upper = m.upper := by
  simp [Mach.issueAstray]

@[simp] theorem upper_issue (m : Mach) (k : Nat) (c : Cand) : (m.issue k c).upper = m.upper := by
  unfold Mach.issue
  dsimp only
  repeat' split
  all_goals simp

@[simp] theorem upper_idleSlot (m : Mach) (k : Nat) (w : SlotWhy) : (m.idleSlot k w).upper = m.upper := by
  cases w <;> simp [Mach.idleSlot]

@[simp] theorem upper_mcCycle (L : Image) (m : Mach) (k : Nat) (b : List Nat) (h : List (Nat × Nat)) (w : SlotWhy) (a : Option Nat) :
    (mcCycle L m k b h w a).upper = m.upper := by
  unfold mcCycle
  dsimp only
  repeat' split
  all_goals simp

@[simp] theorem upper_runCycle (L : Image) (m : Mach) (k : Nat) : (runCycle L m k).upper = m.upper := by
  simp [runCycle]

@[simp] theorem upper_runUntil (L : Image) (k : Nat) (d : Sub → Bool) (n : Nat) (m : Mach) : (runUntil L k d n m).upper = m.upper := by
  induction n generalizing m with
  | zero => rfl
  | succ n ih => simp [runUntil, ih]

@[simp] theorem upper_awaitRead (L : Image) (m : Mach) (k : Nat) (q : QEnt) : (awaitRead L m k q).2.upper = m.upper := by
  unfold awaitRead
  dsimp only
  split <;> simp

@[simp] theorem upper_correctBack (m : Mach) (q : QEnt) (j : Judged) : (m.correctBack q j).upper = m.upper := by
  simp [Mach.correctBack]

/-! ### A line read and judged -/

@[simp] theorem upper_alertCe (m : Mach) : m.alertCe.upper = m.upper := by
  simp [Mach.alertCe]

@[simp] theorem upper_history (m : Mach) (a : MAddr) (j : Judged) : (m.history a j).upper = m.upper := by
  unfold Mach.history
  dsimp only
  split_ifs <;> simp

@[simp] theorem upper_devsCounted (m : Mach) (t : Tbl Nat) : (m.devsCounted t).upper = m.upper := rfl

@[simp] theorem upper_ceTold (m : Mach) (a : MAddr) (j : Judged) : (m.ceTold a j).upper = m.upper := by
  unfold Mach.ceTold
  split
  · split <;> simp
  · simp

@[simp] theorem upper_countCe (m : Mach) (a : MAddr) (j : Judged) : (m.countCe a j).upper = m.upper := by
  obtain ⟨t, eq⟩ := countCe_eq m a j
  simp [eq]

@[simp] theorem upper_account (m : Mach) (a : MAddr) (src : Nat) (d : Option Nat) (j : Judged) : (m.account a src d j).upper = m.upper := by
  have judged : (match j.v with
      | .uncorrectable =>
        if src = noSrc then (m.bump oCntUe).evb oScbEvt 1
        else (((m.bump oCntUe).evb oScbEvt 1).raiseRs src a d (((m.bump oCntUe).evb oScbEvt 1).ueSyn j)).tick
      | .misdirected => ((m.bump oCntMisdir).evb oScbEvt 2).raiseRs 98 a none j.syn
      | _ => m).upper = m.upper := by
    split <;> simp
  refine (apply_ite Mach.upper _ _ _).trans ?_
  rw [upper_countCe]
  split <;> exact judged

@[simp] theorem upper_readEnt (L : Image) (m : Mach) (q : QEnt) (c flat : Bool) (src : Nat) (dpa : Option Nat) (errs : SymErr) :
    (readEnt L m q c flat src dpa errs).2.upper = m.upper := by
  unfold readEnt
  dsimp only
  repeat' split
  all_goals simp

@[simp] theorem upper_readFor (L : Image) (m : Mach) (p : Purpose) (f l : Nat) (c flat : Bool) (src : Nat) (dpa : Option Nat) (errs : SymErr) :
    (readFor L m p f l c flat src dpa errs).2.upper = m.upper := upper_readEnt ..

@[simp] theorem upper_readNow (L : Image) (m : Mach) (f l : Nat) (c flat : Bool) (src : Nat) (dpa : Option Nat) (errs : SymErr) :
    (readNow L m f l c flat src dpa errs).2.upper = m.upper := upper_readFor ..

/-! ### Lines of the ledger region -/

@[simp] theorem upper_ledWrite (m : Mach) (k l : Nat) (d : Line) : (m.ledWrite k l d).upper = m.upper := by
  simp [Mach.ledWrite]

@[simp] theorem upper_ledWriteLine (m : Mach) (j : Nat) (es : List LEnt) : (m.ledWriteLine j es).upper = m.upper := upper_ledWrite ..

@[simp] theorem upper_hdrPut (m : Mach) (i : Nat) (bytes : List Byte) : (m.hdrPut i bytes).upper = m.upper :=
  upper_foldl (fun _ _ => upper_ledWrite ..) _ _

end Sys2Proof.Machine
end

section
/-! PROOFS. The format and the recount (R137-R142), and the statement FormatBuildsTheLedger: O45. -/

namespace Sys2Proof.Machine

/-! ### Runs of frames and lines of pages -/

@[simp] theorem upper_dropWrites (m : Mach) (start len : Nat) : (m.dropWrites start len).upper = m.upper := rfl

theorem upper_writeCw (m : Mach) (f l : Nat) (cw : Codeword) : (m.writeCw f l cw).upper = m.upper := rfl

theorem upper_storeLine (m : Mach) (f l : Nat) (d : Line) (w p : Bool) (mv : BitVec 2) (x c : Bool) :
    (m.storeLine f l d w p mv x c).upper = m.upper := upper_writeCw ..

@[simp] theorem upper_paint (m : Mach) (start len : Nat) (w c : Bool) : (m.paint start len w c).upper = m.upper :=
  upper_foldl (fun _ _ => upper_storeLine ..) _ _

@[simp] theorem upper_writtenRun (L : Image) (m : Mach) (start len : Nat) : (writtenRun L m start len).upper = m.upper := by
  refine upper_foldl (fun m ch => upper_foldl (fun m r => ?_) _ m) _ m
  extract_lets
  split
  · rfl
  · refine upper_foldl (fun m k => ?_) _ m
    simp

@[simp] theorem upper_clearFrames (L : Image) (m : Mach) (start len : Nat) (w : Bool) : (clearFrames L m start len w).upper = m.upper := by
  simp [clearFrames]

@[simp] theorem upper_clearWrites (m : Mach) (f : Nat) (w : Bool) : (m.clearWrites f w).upper = m.upper :=
  upper_foldl (fun _ _ => upper_writeNow ..) _ _

@[simp] theorem upper_writePageLine (L : Image) (m : Mach) (f line : Nat) (d : Line) (w p : Bool) (mv : BitVec 2) :
    (writePageLine L m f line d w p mv).upper = m.upper := upper_writeNow ..

/-! ### The counters that a format clears -/

/-- The counters that a format clears, as they read. -/
def Mach.fmtCounts (m : Mach) : List Word := fmtCounters.map m.reg

section
variable (m : Mach)

theorem fmtCounts_setReg {o : Nat} (v : Word) (h : o ∉ fmtCounters) : (m.setReg o v).fmtCounts = m.fmtCounts :=
  List.map_congr_left fun _ hx => Mach.reg_setReg_ne m v fun e => h (e ▸ hx)

theorem fmtCounters_below : ∀ o ∈ fmtCounters, 0x300600 ≤ o ∧ o < 0x600000 := by decide

theorem mc_not_fmtCounters {o : Nat} (h : 0x600000 ≤ o) : o ∉ fmtCounters := fun hm => by
  have below := fmtCounters_below o hm
  omega

theorem Counted.fmtCounts {m t : Mach} (h : Counted m t) : t.fmtCounts = m.fmtCounts :=
  List.map_congr_left fun o ho => h.reg o (by have below := fmtCounters_below o ho; omega)

@[simp ↓] theorem fmtCounts_undo (b : Bool) : ({ m with pwr := { m.pwr with undo := b } } : Mach).fmtCounts = m.fmtCounts := rfl
@[simp ↓] theorem fmtCounts_stopped (l : List Nat) : ({ m with tst := { m.tst with stopped := l } } : Mach).fmtCounts = m.fmtCounts := rfl
@[simp ↓] theorem fmtCounts_mcs (x : Mcs) : ({ m with mcs := x } : Mach).fmtCounts = m.fmtCounts := rfl
@[simp] theorem fmtCounts_setSub (k : Nat) (s : Sub) : (m.setSub k s).fmtCounts = m.fmtCounts := rfl

@[simp] theorem fmtCounts_evb_oMcEvt (c b : Nat) : (m.evb (oMcEvt c) b).fmtCounts = m.fmtCounts :=
  fmtCounts_setReg m _ (mc_not_fmtCounters (by unfold oMcEvt oMc; omega))

@[simp] theorem fmtCounts_bump_oMcCnt (c k : Nat) : (m.bump (oMcCnt c k)).fmtCounts = m.fmtCounts :=
  fmtCounts_setReg m _ (mc_not_fmtCounters (by unfold oMcCnt oMc; omega))

@[simp] theorem fmtCounts_evb_oLdgEvt (b : Nat) : (m.evb oLdgEvt b).fmtCounts = m.fmtCounts := fmtCounts_setReg m _ (by decide)

@[simp] theorem fmtCounts_subOut (k : Nat) : (m.subOut k).fmtCounts = m.fmtCounts := by
  simp [Mach.subOut, (counted_upkeep _ _ _).fmtCounts]

@[simp] theorem fmtCounts_reach (k : Nat) : (m.reach k).fmtCounts = m.fmtCounts := by
  unfold Mach.reach
  dsimp only
  repeat' split
  all_goals simp [Mach.chanOut]

@[simp] theorem fmtCounts_sendWrite (q : QEnt) : (m.sendWrite q).2.fmtCounts = m.fmtCounts := by
  unfold Mach.sendWrite
  dsimp only
  repeat' split
  all_goals simp [Mach.drain]

@[simp] theorem fmtCounts_ledWrite (k l : Nat) (d : Line) : (m.ledWrite k l d).fmtCounts = m.fmtCounts := by
  unfold Mach.ledWrite
  generalize m.copies k = cs
  induction cs generalizing m with
  | nil => rfl
  | cons c cs ih => exact (ih _).trans (fmtCounts_sendWrite ..)

@[simp] theorem fmtCounts_hdrPut (i : Nat) (b : List Byte) : (m.hdrPut i b).fmtCounts = m.fmtCounts := by
  unfold Mach.hdrPut
  generalize List.range ((b.length + 63) / 64) = ts
  induction ts generalizing m with
  | nil => rfl
  | cons t ts ih => exact (ih _).trans (fmtCounts_ledWrite ..)

@[simp] theorem fmtCounts_freeMarks (L : Image) : (freeMarks L m).fmtCounts = m.fmtCounts := by
  unfold freeMarks
  dsimp only
  split
  · exact fmtCounts_evb_oLdgEvt _ 1
  · rfl

end

/-- Counters set to zero read zero. -/
theorem reg_zeroed (l : List Nat) (m : Mach) {o : Nat} (h : o ∈ l ∨ m.reg o = 0#32) : (l.foldl (fun m o => m.setReg o 0#32) m).reg o = 0#32 := by
  induction l generalizing m with
  | nil => exact h.resolve_left List.not_mem_nil
  | cons x l ih =>
    refine ih _ ?_
    by_cases e : o = x
    · exact .inr (e ▸ Mach.reg_setReg_self ..)
    · exact h.imp (fun hm => (List.mem_cons.mp hm).resolve_left e) fun hz => (Mach.reg_setReg_ne m _ e).trans hz

/-! ### The marks of the free lists (R154, R165) -/

/-- The marks change nothing of the ledger but whether the lists ran low. -/
theorem freeMarks_upper (L : Image) (m : Mach) : ∃ low d, (freeMarks L m).upper = ({ m with led := { m.led with lowSeen := low, draining := d } } : Mach).upper := by
  unfold freeMarks
  dsimp only
  split
  · exact ⟨_, _, (upper_raise ..).trans (upper_evb ..)⟩
  · exact ⟨_, _, rfl⟩

/-! ### What is held outside full queues (R216) -/

/-- Work that enters its queue changes what waits, and whom it is to pre-empt. -/
theorem chnEnter_eq (m : Mach) (k : Nat) : ∃ wait queues preempt, m.chnEnter k = { m with chn := { m.chn with wait, queues, preempt } } := by
  have want (t : Mach) (w : Running) : ∃ preempt, t.wantChurn w = { t with chn := { t.chn with preempt } } := by
    unfold Mach.wantChurn
    dsimp only
    repeat' split
    all_goals exact ⟨_, rfl⟩
  unfold Mach.chnEnter
  split
  · next p _ =>
    split
    · obtain ⟨preempt, e⟩ := want (({ m with chn := { m.chn with wait := m.chn.wait.erase p } } : Mach).setChq k (m.queueIn p.2 (m.chq k))) p.2
      rw [e]
      exact ⟨_, _, _, rfl⟩
    · exact ⟨_, _, _, rfl⟩
  · exact ⟨_, _, _, rfl⟩

theorem chnRefill_eq (m : Mach) : ∃ wait queues preempt, m.chnRefill = { m with chn := { m.chn with wait, queues, preempt } } := by
  unfold Mach.chnRefill
  generalize m.chn.wait.map (·.1) = ks
  induction ks generalizing m with
  | nil => exact ⟨_, _, _, rfl⟩
  | cons k ks ih =>
    obtain ⟨w, q, p, e⟩ := chnEnter_eq m k
    obtain ⟨w', q', p', e'⟩ := ih (m.chnEnter k)
    exact ⟨w', q', p', by rw [List.foldl_cons, e', e]⟩

/-! ### The start of a format (R140, R141) -/

/-- A format starts with its settings, with nothing in the line cache, in the coalescer and among the moves. -/
theorem fmtStart_spec (L : Image) (m : Mach) (extents cellar : Nat) (dup auto : Bool) :
    ∃ t : Mach, (fmtStart L m extents cellar dup auto) = { t with led :=
        { t.led with fmtBusy := true, fmtAuto := auto, fmtResult := 0, formatted := false, extents, dup, cellarUnits := cellar } } ∧
      t.led.moves = [] ∧ t.home.lc = [] ∧ t.tally.coal = [] ∧ t.tally.inq = [] := by
  have emptied : ∃ t : Mach, t.led.moves = [] ∧ t.home.lc = [] ∧ t.tally.coal = [] ∧ t.tally.inq = [] ∧ (fmtEmpty L m).dropLedWork = t :=
    ⟨_, rfl, rfl, rfl, rfl, rfl⟩
  obtain ⟨t, moves, lc, coal, inq, e⟩ := emptied
  have kept : (if t.led.formatted then t.hdrPut 0 (List.replicate 64 0#8) else t).upper = t.upper := by simp
  refine ⟨if t.led.formatted then t.hdrPut 0 (List.replicate 64 0#8) else t, by simp only [fmtStart, e], ?_, ?_, ?_, ?_⟩
  · rw [led_of_upper kept, moves]
  · rw [lc_of_upper kept, lc]
  · rw [tally_of_upper kept, coal]
  · rw [tally_of_upper kept, inq]

/-- Memory is not ready, and the mirror is not trusted. -/
def unready (m : Mach) : Mach := { m with pwr := { m.pwr with memReady := false }, yoke := { m.yoke with trust := false } }

/-! ### Bulk work on its churn (R213, R302) -/

theorem grant_leave {m : Mach} {a : Agent} {seq n : Nat} (h : Leave m a.who seq n) (L : Image) : grant L m a seq n = (true, m) := by
  refine if_pos ?_
  rw [Bool.or_eq_true, decide_eq_true_iff]
  exact h

/-- The ledger's own work on a churn that is not lent, with the regulator's leave, is done, and its churn is free again. -/
theorem bulkWork_own {m : Mach} {w : Running} {who n c : Nat} (h : OwnWork m w who n c) (L : Image) (f : Mach → Mach) :
    bulkWork L m w who n f = (f (m.freeChurn c)).agentClear who := by
  obtain ⟨run, lent, leave⟩ := h
  obtain ⟨p, on, rfl⟩ := Option.map_eq_some_iff.mp run
  have paced' : paced L m (moveAgent who) n (fun m => f (m.freeChurn p.1)) = (f (m.freeChurn p.1)).agentClear who := by
    rw [paced, grant_leave leave]
    rfl
  simp [bulkWork, on, lent, paced']

/-! ### Commands that settle nothing -/

/-- A command whose work leaves nothing to settle ends with that work. -/
theorem work_eq {s : State} {f : Mach → Mach} {m : Mach} (h : s.latch = false) (e : f s.m = m) (hq : Quiet { s with m }) :
    s.work f = .next { s with m } := by
  rw [work_open h, e, settle_quiet _ hq]

/-! ### The end of a format (R140) -/

/-- The ledger that a format leaves: formatted, with no counts and nothing in quarantine. -/
theorem fmtDone_spec (L : Image) {m : Mach} (h : m.led.fmtBusy = true) :
    (fmtDone L m).led.fmtBusy = false ∧ (fmtDone L m).led.formatted = true ∧ (fmtDone L m).led.fmtResult = 1 ∧
      (fmtDone L m).led.fseq = (m.led.fseq + 1) % 2 ^ 32 ∧ (fmtDone L m).led.quarFrames = [] ∧ (fmtDone L m).led.quarCellar = [] ∧
      (fmtDone L m).led.counts = [] ∧ (fmtDone L m).chn.images = [] ∧ ∀ o ∈ fmtCounters, (fmtDone L m).reg o = 0#32 := by
  have built : ∃ (t : Mach) (l : Ledger), t.upper = m.upper ∧ (l.fmtBusy = false ∧ l.formatted = true ∧ l.fmtResult = 1 ∧
      l.fseq = (t.led.fseq + 1) % 2 ^ 32 ∧ l.quarFrames = [] ∧ l.quarCellar = [] ∧ l.counts = []) ∧
      fmtDone L m = (freeMarks L (fmtCounters.foldl (fun m o => m.setReg o 0#32)
        { t with led := l, chn := { t.chn with images := [], copying := [] } })).writeFormatRecord.evb oLdgEvt 8 := by
    refine ⟨clearFrames L (clearFrames L m m.ledBase (fmtRuns L m).1 true) (hotBase L) (fmtRuns L m).2 false, ?ledger, by simp, ?fields, ?whole⟩
    case whole =>
      unfold fmtDone
      rw [h]
      rfl
    case fields => exact ⟨rfl, rfl, rfl, rfl, rfl, rfl, rfl⟩
  obtain ⟨t, l, kept, ⟨busy, formatted, result, fseq, frames, cellar, counts⟩, e⟩ := built
  generalize zeroed : fmtCounters.foldl (fun m o => m.setReg o 0#32) ({ t with led := l, chn := { t.chn with images := [], copying := [] } } : Mach)
    = u at e
  obtain ⟨low, d, marked⟩ := freeMarks_upper L u
  have ended : (fmtDone L m).upper = ({ u with led := { u.led with lowSeen := low, draining := d } } : Mach).upper := by
    rw [e, ← marked]
    simp [Mach.writeFormatRecord]
  have led := led_of_upper ended
  have counters : (fmtDone L m).fmtCounts = u.fmtCounts := by
    rw [e]
    simp [Mach.writeFormatRecord]
  subst zeroed
  refine ⟨?_, ?_, ?_, ?_, ?_, ?_, ?_, images_of_upper ended, fun o ho => ?_⟩
  · rw [led]; exact busy
  · rw [led]; exact formatted
  · rw [led]; exact result
  · rw [led, ← led_of_upper kept]; exact fseq
  · rw [led]; exact frames
  · rw [led]; exact cellar
  · rw [led]; exact counts
  · exact (List.map_eq_map_iff.mp counters o ho).trans (reg_zeroed _ _ (.inl ho))

/-! ### The recount (R142) -/

/-- The counts of a list of entries, by culture. -/
def tallied (t : Tbl Nat) (es : List LEnt) : Tbl Nat := es.foldl (fun (t : Tbl Nat) e => t.set 0 e.cult (t.get 0 e.cult + 1)) t

theorem get_tallied (es : List LEnt) (t : Tbl Nat) (k : Nat) : (tallied t es).get 0 k = t.get 0 k + (es.filter (fun e => e.cult == k)).length := by
  induction es generalizing t with
  | nil => rfl
  | cons e es ih =>
    refine (ih _).trans ?_
    by_cases h : e.cult = k
    · simp [h, Nat.add_assoc, Nat.add_comm 1]
    · simp [h, Tbl.get_set_ne _ _ _ (Ne.symm h)]

/-- The Cellar entries of a ledger line that is cached. -/
def Mach.cellarEnts (m : Mach) (j : Nat) : List LEnt := (((m.led.lines.find? j).map (·.ents)).getD []).filter (fun e => decide (1 ≤ e.k))

/-- A recount whose lines are all cached reads none, and counts their Cellar entries. -/
theorem recountDone_cached (L : Image) {m : Mach} (hr : m.led.recount = true) (hc : ∀ p ∈ m.knownPages, (m.led.lines.find? (p / 4)).isSome = true) :
    recountDone L m = { m with led := { m.led with
      counts := tallied [] ((m.knownPages.map (· / 4)).eraseDups.flatMap m.cellarEnts), recount := false } } := by
  have cached : ∀ j ∈ (m.knownPages.map (· / 4)).eraseDups, (m.led.lines.find? j).isSome = true := fun j hj => by
    obtain ⟨p, hp, rfl⟩ := List.mem_map.mp (List.mem_eraseDups.mp hj)
    exact hc p hp
  have walk : ∀ (js : List Nat) (t : Tbl Nat), (∀ j ∈ js, (m.led.lines.find? j).isSome = true) →
      js.foldl (fun (acc : Tbl Nat × Mach) j =>
        let p := lineSpot j
        let x := match acc.2.led.lines.find? j with
          | some l => (l.ents, acc.2)
          | none => let d := ledRead L acc.2 p.1 p.2 true [] []; ((d.1.map lineEnts).getD [], d.2)
        (tallied acc.1 (x.1.filter (fun e => decide (1 ≤ e.k))), x.2)) (t, m) = (tallied t (js.flatMap m.cellarEnts), m) := by
    intro js
    induction js with
    | nil => exact fun _ _ => rfl
    | cons j js ih =>
      intro t hjs
      obtain ⟨l, hl⟩ := Option.isSome_iff_exists.mp (hjs j (List.mem_cons_self ..))
      have line : m.cellarEnts j = l.ents.filter (fun e => decide (1 ≤ e.k)) := by simp [Mach.cellarEnts, hl]
      rw [List.flatMap_cons, tallied, List.foldl_append, List.foldl_cons]
      simp only [hl]
      rw [ih _ fun i hi => hjs i (List.mem_cons_of_mem _ hi), line]
      rfl
  unfold recountDone
  rw [hr]
  exact (congrArg (fun r : Tbl Nat × Mach => ({ r.2 with led := { r.2.led with counts := r.1, recount := false } } : Mach)) (walk _ [] cached) :)

end Sys2Proof.Machine

namespace Sys2Proof
open Machine

/-- FORMAT answers by its key, the partitions and its settings (R137, R139, R141). -/
theorem exec_format {s : State} (h : s.latch = false) (key : BitVec 24) :
    exec (.format key) s = .next (settle { s with m := formatCmd s.live s.m key.toNat }) := work_open h _

theorem exec_formatDone {s : State} (h : s.latch = false) : exec .formatDone s = .next (settle { s with m := formatStep s.live s.m }) := work_open h _

theorem exec_recountWalkDone {s : State} (h : s.latch = false) :
    exec .recountWalkDone s = .next (settle { s with m := recountStep s.live s.m }) := work_open h _

/-- Settles O45: FORMAT's refusals change the result alone; the end of a format builds its ledger from nothing, and the recount's walk reads
no line that is cached. -/
theorem formatBuildsTheLedger : Obligations.FormatBuildsTheLedger := by
  intro key s quiet latch
  refine ⟨fun idle => ⟨fun wrong => ?_, fun right parts => ?_, fun right parts => ⟨fun misfit => ?_, fun fits => ?_⟩⟩, fun c busy own => ?_,
    fun c on ready own cached => ?_⟩
  · exact work_eq latch (if_pos (.inl wrong)) quiet
  · exact work_eq latch (by simp [formatCmd, right, idle, parts]) (quiet_of_kept quiet rfl rfl rfl rfl)
  · exact work_eq latch (by simp [formatCmd, right, idle, parts, misfit]) (quiet_of_kept quiet rfl rfl rfl rfl)
  · obtain ⟨t, start, moves, lc, coal, inq⟩ := fmtStart_spec s.live s.m (s.m.rfld oFmtDpa 17 0) (s.m.rfld oFmtCellar 14 0) (s.m.rbit oFmtDpa 31) false
    obtain ⟨wait, queues, preempt, refill⟩ := chnRefill_eq
      (fmtStart s.live s.m (s.m.rfld oFmtDpa 17 0) (s.m.rfld oFmtCellar 14 0) (s.m.rbit oFmtDpa 31) false)
    have cmd : formatCmd s.live s.m key.toNat = unready
        (fmtStart s.live s.m (s.m.rfld oFmtDpa 17 0) (s.m.rfld oFmtCellar 14 0) (s.m.rbit oFmtDpa 31) false).chnRefill := by
      simp [formatCmd, right, idle, parts, fits, unready]
    refine ⟨_, exec_format latch key, ?_⟩
    rw [cmd, refill, start]
    exact ⟨rfl, rfl, rfl, rfl, rfl, lc, coal, inq, moves, rfl, rfl⟩
  · refine ⟨_, exec_formatDone latch, ?_⟩
    have step : formatStep s.live s.m = (fmtDone s.live (s.m.freeChurn c)).agentClear whoFormat := by
      rw [formatStep, if_pos busy, bulkWork_own own]
    obtain ⟨home, locked, clear⟩ := agentClear_eq (fmtDone s.live (s.m.freeChurn c)) whoFormat
    rw [step, clear]
    exact fmtDone_spec s.live (m := s.m.freeChurn c) busy
  · refine ⟨_, exec_recountWalkDone latch, ?_⟩
    have step : recountStep s.live s.m = (recountDone s.live (s.m.freeChurn c)).agentClear whoRecount := by
      rw [recountStep, on, ready, Bool.and_self, if_pos rfl, bulkWork_own own]
    obtain ⟨home, locked, clear⟩ := agentClear_eq (recountDone s.live (s.m.freeChurn c)) whoRecount
    rw [step, clear, recountDone_cached s.live (m := s.m.freeChurn c) on cached]
    refine ⟨rfl, fun k => ?_⟩
    refine (get_tallied _ _ k).trans ?_
    rw [show Tbl.get ([] : Tbl Nat) 0 k = 0 from rfl, Nat.zero_add, List.filter_flatMap, List.filter_flatMap]
    simp only [Mach.cellarEnts, List.filter_filter, Bool.and_comm]
    rfl

end Sys2Proof
end

section
/-! PROOFS. What the ledger's operations change (R146-R155, R168): entries, frames, moves and freed media. -/

namespace Sys2Proof.Machine

/-! ### Entries -/

/-- A cached entry stands in its ledger line. -/
theorem ent?_eq_some {m : Mach} {page : Nat} {e : LEnt} (h : m.ent? page = some e) :
    ∃ l, m.led.lines.find? (page / 4) = some l ∧ l.ents[page % 4]? = some e := Option.bind_eq_some_iff.mp h

theorem ent?_of_line {m : Mach} {page : Nat} {l : LLine} (h : m.led.lines.find? (page / 4) = some l) : m.ent? page = l.ents[page % 4]? := by
  simp [Mach.ent?, h]

theorem putEnt_eq (m : Mach) (page : Nat) (e : LEnt) (changed : Bool) :
    ∃ lines nonUnw, m.putEnt page e changed = { m with led := { m.led with lines, nonUnw } } := by
  unfold Mach.putEnt
  split <;> exact ⟨_, _, rfl⟩

@[simp] theorem ent?_putEnt {m : Mach} {page : Nat} {e0 : LEnt} (h : m.ent? page = some e0) (e : LEnt) (changed : Bool) :
    (m.putEnt page e changed).ent? page = some e := by
  obtain ⟨l, hl, he⟩ := ent?_eq_some h
  have inside := (List.getElem?_eq_some_iff.mp he).1
  refine (ent?_of_line (l := { l with ents := l.ents.set (page % 4) e, changed := l.changed || changed }) ?_).trans ?_
  · simp [Mach.putEnt, hl, Tbl.find?_insert_self]
  · exact List.getElem?_set_self inside

/-- A ledger line written through stays cached as it is. -/
theorem through_upper (m : Mach) (page : Nat) : ∃ lines, (m.through page).upper = ({ m with led := { m.led with lines } } : Mach).upper := by
  unfold Mach.through
  split
  · exact ⟨_, (upper_chargeNow ..).trans (upper_ledWriteLine ..)⟩
  · exact ⟨m.led.lines, rfl⟩

@[simp] theorem ent?_through (m : Mach) (page p : Nat) : (m.through page).ent? p = m.ent? p := by
  unfold Mach.through
  split
  · next l hl =>
    have lined (t : Mach) (ht : t.led.lines = m.led.lines.insert (page / 4) { l with changed := false }) : t.ent? p = m.ent? p := by
      unfold Mach.ent?
      rw [ht]
      by_cases e : p / 4 = page / 4
      · rw [e, Tbl.find?_insert_self, hl]
        rfl
      · rw [Tbl.find?_insert_ne _ _ e]
    exact lined _ (congrArg Ledger.lines (led_of_upper ((upper_chargeNow ..).trans (upper_ledWriteLine ..))))
  · rfl

/-- A flip changes the page's entry alone. -/
theorem flip_upper (m : Mach) (page : Nat) (e : LEnt) :
    ∃ lines nonUnw, (m.flip page e).upper = ({ m with led := { m.led with lines, nonUnw } } : Mach).upper := by
  obtain ⟨lines, nonUnw, put⟩ := putEnt_eq m page { e with gen := (e.gen + 1) % 512 } false
  obtain ⟨lines', thr⟩ := through_upper (m.putEnt page { e with gen := (e.gen + 1) % 512 } false) page
  exact ⟨lines', nonUnw, by rw [Mach.flip, thr, put]⟩

theorem ent?_flip {m : Mach} {page : Nat} {e0 : LEnt} (h : m.ent? page = some e0) (e : LEnt) :
    (m.flip page e).ent? page = some { e with gen := (e.gen + 1) % 512 } := (ent?_through ..).trans (ent?_putEnt h ..)

/-- An entry that is cached is fetched for nobody. -/
theorem ledTake_cached {m : Mach} {page : Nat} {e : LEnt} (h : m.ent? page = some e) (L : Image) : ledTake L m page = (some e, m) := by
  simp [ledTake, h]

theorem ledGet_cached {m : Mach} {page : Nat} {e : LEnt} (h : m.ent? page = some e) (L : Image) (mst : Nat) : ledGet L m mst page = (some e, m) := by
  simp [ledGet, h, ledTake_cached h]

/-! ### Frames -/

theorem poolEmpty_upper (m : Mach) : ∃ seen, m.poolEmpty.upper = ({ m with led := { m.led with emptySeen := seen } } : Mach).upper := by
  unfold Mach.poolEmpty
  split
  · exact ⟨m.led.emptySeen, rfl⟩
  · exact ⟨true, (upper_raise ..).trans (upper_evb ..)⟩

/-- The first frame of the pool is taken; what else changes are the marks of the lists. -/
theorem takeFrame_some (L : Image) {m : Mach} {f : Nat} {rest : List Iv} (h : ivTake m.led.pool = some (f, rest)) :
    ∃ t low d seen, takeFrame L m = some (f, t) ∧
      t.upper = ({ m with led := { m.led with pool := rest, lowSeen := low, draining := d, emptySeen := seen } } : Mach).upper := by
  obtain ⟨low, d, marked⟩ := freeMarks_upper L { m with led := { m.led with pool := rest } }
  have taken : takeFrame L m = some (f, if ivLen rest = 0 then (freeMarks L { m with led := { m.led with pool := rest } }).poolEmpty
      else freeMarks L { m with led := { m.led with pool := rest } }) := by simp [takeFrame, h]
  by_cases last : ivLen rest = 0
  · obtain ⟨seen, empty⟩ := poolEmpty_upper (freeMarks L { m with led := { m.led with pool := rest } })
    refine ⟨_, low, d, seen, taken, ?_⟩
    rw [if_pos last, empty]
    exact congrArg (fun m : Mach => ({ m with led := { m.led with emptySeen := seen } } : Mach)) marked
  · refine ⟨_, low, d, m.led.emptySeen, taken, ?_⟩
    rw [if_neg last, marked]

theorem takeFrame_none (L : Image) {m : Mach} (h : ivTake m.led.pool = none) : takeFrame L m = none := by
  simp [takeFrame, h]

/-- A frame given back changes the lists, and their marks, alone. -/
theorem giveFrame_upper (L : Image) (m : Mach) (f : Nat) : ∃ uncleared low d away,
    (giveFrame L m f).upper = ({ m with led := { m.led with uncleared, lowSeen := low, draining := d, away } } : Mach).upper ∧
      (m.frameCh f = 1 → uncleared = ivAdd m.led.uncleared f 1) ∧ (m.frameCh f ≠ 1 → uncleared = m.led.uncleared) := by
  by_cases live : m.frameCh f = 1
  · obtain ⟨low, d, marked⟩ := freeMarks_upper L { m with led := { m.led with uncleared := ivAdd m.led.uncleared f 1 } }
    refine ⟨ivAdd m.led.uncleared f 1, low, d, m.led.away, ?_, fun _ => rfl, fun h => absurd live h⟩
    rw [giveFrame, if_pos live, marked]
  · exact ⟨m.led.uncleared, m.led.lowSeen, m.led.draining, ivAdd m.led.away f 1, by rw [giveFrame, if_neg live], fun h => absurd h live,
      fun _ => rfl⟩

/-- Units put on their list change the lists of units alone. -/
theorem putUnits_eq (l : Ledger) (u k : Nat) : ∃ fresh klists, l.putUnits u k = { l with fresh, klists } := by
  unfold Ledger.putUnits
  dsimp only
  split_ifs
  · exact ⟨l.fresh, l.klists, rfl⟩
  · exact ⟨_, _, rfl⟩
  · exact ⟨l.fresh, _, rfl⟩

/-- Likewise units taken. -/
theorem takeUnits_some {l l' : Ledger} {k u : Nat} (h : l.takeUnits k = some (u, l')) : ∃ fresh klists, l' = { l with fresh, klists } := by
  unfold Ledger.takeUnits at h
  dsimp only at h
  split at h
  · split at h
    · simp only [Option.some.injEq, Prod.mk.injEq] at h
      obtain ⟨-, rfl⟩ := h
      split
      · exact putUnits_eq ..
      · exact putUnits_eq ..
    · cases h
  · split at h
    · simp only [Option.some.injEq, Prod.mk.injEq] at h
      obtain ⟨-, rfl⟩ := h
      exact putUnits_eq ..
    · cases h

/-- Cellar units given back change their lists alone; those of a channel that is not LIVE stay off them. -/
theorem giveUnits_eq (m : Mach) (u k : Nat) : ∃ fresh klists awayUnits,
    giveUnits m u k = { m with led := { m.led with fresh, klists, awayUnits } } ∧
      (m.frameCh (m.cellBase + u / 16) ≠ 1 → fresh = m.led.fresh ∧ klists = m.led.klists) := by
  by_cases live : m.frameCh (m.cellBase + u / 16) = 1
  · obtain ⟨fresh, klists, e⟩ := putUnits_eq m.led u k
    exact ⟨fresh, klists, m.led.awayUnits, by rw [giveUnits, if_pos live, e], fun h => absurd live h⟩
  · exact ⟨m.led.fresh, m.led.klists, ivAdd m.led.awayUnits u k, by rw [giveUnits, if_neg live], fun _ => ⟨rfl, rfl⟩⟩

/-! ### Moves, and culture counts -/

theorem queueMove_eq (m : Mach) (page : Nat) (kind : MoveKind) (cls : Nat) (pin : Bool) :
    ∃ moves, m.queueMove page kind cls pin = { m with led := { m.led with moves } } := by
  unfold Mach.queueMove Ledger.setMove
  split
  · split_ifs
    all_goals exact ⟨_, rfl⟩
  · exact ⟨_, rfl⟩

/-- A culture's count changes the counts, and the record of them, alone. -/
theorem countBy_upper (m : Mach) (c : Nat) (d : Int) :
    ∃ counts open', (m.countBy c d).upper = ({ m with led := { m.led with counts, cntOpen := open' } } : Mach).upper := by
  have written : ∃ open', (if m.led.cntOpen then m else m.writeCounts false).upper = ({ m with led := { m.led with cntOpen := open' } } : Mach).upper := by
    split
    · exact ⟨m.led.cntOpen, rfl⟩
    · exact ⟨true, congrArg (fun m : Mach => ({ m with led := { m.led with cntOpen := true } } : Mach)) (upper_hdrPut ..)⟩
  obtain ⟨open', e⟩ := written
  refine ⟨m.led.counts.set 0 c ((Int.ofNat (m.led.counts.get 0 c) + d).toNat), open', ?_⟩
  exact (congrArg (fun t : Mach => ({ t with led := { t.led with
    counts := t.led.counts.set 0 c ((Int.ofNat (t.led.counts.get 0 c) + d).toNat) } } : Mach)) e :)

end Sys2Proof.Machine
end

section
/-! PROOFS. Frames and quarantine (R151-R154, R164, R165, R173, R174, R213, R336), and the statement FramesAndQuarantine: O46. -/

namespace Sys2Proof.Machine

/-! ### The newest write of a line (R270, R271) -/

/-- The newest write of a line that stands at a subchannel. -/
def Sub.newest (s : Sub) (q : QEnt) : Option Codeword := match (s.fabric.filter (fun w => w.wr && w.same q)).getLast? with
  | some w => some w.cw
  | none => (s.queued q).map (·.cw)

theorem unwrittenQ_eq (m : Mach) (q : QEnt) : m.unwrittenQ q = (m.sub (m.qSub q)).newest q := rfl

theorem newest_of_same {a b : Sub} (h : SameQueues a b) (q : QEnt) : b.newest q = a.newest q := by
  unfold Sub.newest Sub.queued
  rw [h.wq, h.fabric]

theorem same_trans {a b c : QEnt} (h : b.same c = true) : a.same b = a.same c := by
  simp only [QEnt.same, Bool.and_eq_true, beq_iff_eq] at h
  simp [QEnt.same, h]

/-- A queued write once another has come: the data of its own line are replaced. -/
def QEnt.replaced (q w : QEnt) : QEnt := if w.same q then { w with cw := q.cw } else w

theorem replaced_same (q w r : QEnt) : (q.replaced w).same r = w.same r := by
  unfold QEnt.replaced
  split <;> rfl

theorem wq_putWrite_replaced {s : Sub} {q : QEnt} (h : (s.queued q).isSome = true) : (s.putWrite q).wq = s.wq.map q.replaced :=
  congrArg Sub.wq (if_pos h)

theorem find?_replaced (q r : QEnt) (l : List QEnt) :
    (l.map q.replaced).find? (fun w => w.same r) = (l.find? (fun w => w.same r)).map q.replaced := by
  have kept : (fun w : QEnt => w.same r) ∘ q.replaced = fun w => w.same r := funext fun w => replaced_same q w r
  rw [List.find?_map, kept]

/-- A write that enters an empty fabric's queue is the newest of its line. -/
theorem newest_putWrite {s : Sub} {q r : QEnt} (hf : s.fabric = []) (hr : q.same r = true) : (s.putWrite q).newest r = some q.cw := by
  have keyed : ∀ w : QEnt, w.same r = w.same q := fun w => (same_trans hr).symm
  have queue : ((s.putWrite q).wq.find? (fun w => w.same q)).map (·.cw) = some q.cw := by
    by_cases h : (s.queued q).isSome = true
    · obtain ⟨w, hw⟩ := Option.isSome_iff_exists.mp h
      have found : s.wq.find? (fun w => w.same q) = some w := hw
      have mine : w.same q = true := List.find?_some (p := fun w : QEnt => w.same q) found
      rw [wq_putWrite_replaced h, find?_replaced, found, Option.map_some, Option.map_some, QEnt.replaced, if_pos mine]
    · have wq : (s.putWrite q).wq = s.wq ++ [q] := congrArg Sub.wq (if_neg h)
      have none : s.wq.find? (fun w => w.same q) = none := Option.not_isSome_iff_eq_none.mp h
      have self : q.same q = true := by simp [QEnt.same]
      rw [wq, List.find?_append, none]
      simp [self]
  unfold Sub.newest Sub.queued
  rw [(putWrite_keeps s q).1, hf]
  simp only [keyed]
  exact queue

/-- A write that enters a queue leaves the newest write of every other line. -/
theorem newest_putWrite_ne {s : Sub} {q r : QEnt} (hr : q.same r = false) : (s.putWrite q).newest r = s.newest r := by
  have queue : (s.putWrite q).queued r = s.queued r := by
    by_cases h : (s.queued q).isSome = true
    · unfold Sub.queued
      rw [wq_putWrite_replaced h, find?_replaced]
      cases found : s.wq.find? (fun w => w.same r) with
      | none => rfl
      | some w =>
        have mine : w.same r = true := List.find?_some (p := fun w : QEnt => w.same r) found
        have other : ¬ w.same q = true := fun h => by
          rw [← same_trans mine] at hr
          simp only [QEnt.same, Bool.and_eq_true, beq_iff_eq] at h
          simp [QEnt.same, h] at hr
        rw [Option.map_some, QEnt.replaced, if_neg other]
    · have wq : (s.putWrite q).wq = s.wq ++ [q] := congrArg Sub.wq (if_neg h)
      unfold Sub.queued
      rw [wq, List.find?_append]
      simp [hr]
  unfold Sub.newest
  rw [(putWrite_keeps s q).1, queue]

/-- A subchannel after a write has come: the write in its queue, or last in its fabric. -/
theorem sub_sendWrite (m : Mach) (q : QEnt) (k : Nat) : ∃ s id, SameQueues (m.sub k) s ∧
    (k = m.qSub q → s.fabric = [] ∧ SameQueues (s.putWrite (q.numbered id)) ((m.sendWrite q).2.sub k) ∨
      SameQueues { s with fabric := s.fabric ++ [q.numbered id] } ((m.sendWrite q).2.sub k)) ∧
    (k ≠ m.qSub q → SameQueues s ((m.sendWrite q).2.sub k)) := by
  obtain ⟨t, id, kept, e⟩ := sendWrite_eq m q
  refine ⟨t.sub k, id, kept.subs k, fun at' => ?_, fun away => ?_⟩
  · rw [e, ← at']
    split
    · next room =>
      refine .inl ⟨List.isEmpty_iff.mp (Bool.and_eq_true _ _ ▸ room).1, ?_⟩
      have drained := (kept_drain (t.setSub k ((t.sub k).putWrite (q.numbered id))) k).subs k
      rwa [sub_setSub_self] at drained
    · exact .inr (by rw [sub_setSub_self]; exact ⟨rfl, rfl, rfl⟩)
  · rw [e]
    split
    · have drained := (kept_drain (t.setSub (m.qSub q) ((t.sub (m.qSub q)).putWrite (q.numbered id))) (m.qSub q)).subs k
      rwa [sub_setSub_ne _ _ away] at drained
    · rw [sub_setSub_ne _ _ away]
      exact ⟨rfl, rfl, rfl⟩

theorem qSub_of_pop {m t : Mach} (h : t.pop = m.pop) (q : QEnt) : t.qSub q = m.qSub q := by
  unfold Mach.qSub Mach.qAddr
  rw [h]

theorem unwritten_congr {m t : Mach} (hm : t.mcs = m.mcs) (hp : t.pop = m.pop) (f l : Nat) : t.unwritten f l = m.unwritten f l := by
  unfold Mach.unwritten
  rw [unwrittenQ_eq, unwrittenQ_eq, qSub_of_pop hp, Mach.sub, hm]
  rfl

/-- A write is the newest of its line. -/
theorem unwritten_writeNow (m : Mach) (f l : Nat) (cw : Codeword) : (m.writeNow f l cw).unwritten f l = some cw := by
  obtain ⟨s, id, -, here, -⟩ := sub_sendWrite m { id := 0, frame := f, ln := l, cw } (m.qSub { id := 0, frame := f, ln := l })
  unfold Mach.unwritten Mach.writeNow
  rw [unwrittenQ_eq, qSub_of_pop (pop_of_upper (upper_sendWrite ..))]
  rcases here rfl with ⟨empty, sent⟩ | sent
  · exact (newest_of_same sent _).trans (newest_putWrite empty (by simp [QEnt.same, QEnt.numbered]))
  · rw [newest_of_same sent]
    simp [Sub.newest, QEnt.numbered, QEnt.same]

/-- A write leaves the newest write of every other line. -/
theorem unwritten_writeNow_ne (m : Mach) {f l f' l' : Nat} (cw : Codeword) (h : ¬ (f = f' ∧ l = l')) :
    (m.writeNow f l cw).unwritten f' l' = m.unwritten f' l' := by
  have other : ∀ id, (QEnt.numbered { id := 0, frame := f, ln := l, cw } id).same { id := 0, frame := f', ln := l' } = false := fun id => by
    simpa [QEnt.same, QEnt.numbered] using h
  obtain ⟨s, id, same, here, away⟩ := sub_sendWrite m { id := 0, frame := f, ln := l, cw } (m.qSub { id := 0, frame := f', ln := l' })
  unfold Mach.unwritten Mach.writeNow
  rw [unwrittenQ_eq, unwrittenQ_eq, qSub_of_pop (pop_of_upper (upper_sendWrite ..)), ← newest_of_same same]
  by_cases at' : m.qSub { id := 0, frame := f', ln := l' } = m.qSub { id := 0, frame := f, ln := l, cw }
  · rcases here at' with ⟨-, sent⟩ | sent
    · exact (newest_of_same sent _).trans (newest_putWrite_ne (other id))
    · rw [newest_of_same sent]
      simp [Sub.newest, List.filter_append, other id, Sub.queued]
  · exact newest_of_same (away at') _

/-- The writes of a clearing are the newest of their lines. -/
theorem unwritten_clearWrites (m : Mach) (f : Nat) (w : Bool) {l : Nat} (hl : l < 64) :
    (m.clearWrites f w).unwritten f l = some (m.formCw f l 0#512 w false 0#2 false false) := by
  have walk : ∀ (ls : List Nat) (t : Mach), t.pop = m.pop → (l ∈ ls ∨ t.unwritten f l = some (m.formCw f l 0#512 w false 0#2 false false)) →
      (ls.foldl (fun m l => m.writeNow f l (m.formCw f l 0#512 w false 0#2 false false)) t).unwritten f l =
        some (m.formCw f l 0#512 w false 0#2 false false) := by
    intro ls
    induction ls with
    | nil => exact fun _ _ h => h.resolve_left List.not_mem_nil
    | cons x ls ih =>
      intro t pop h
      refine ih _ ((pop_of_upper (upper_writeNow ..)).trans pop) ?_
      by_cases e : x = l
      · subst e
        refine .inr ((unwritten_writeNow ..).trans ?_)
        simp only [Mach.formCw, pop]
      · refine h.imp (fun mem => (List.mem_cons.mp mem).resolve_left (Ne.symm e)) fun at' => ?_
        rw [unwritten_writeNow_ne _ _ (fun h => e h.2), at']
  exact walk _ m rfl (.inl (List.mem_range.mpr hl))

/-! ### FRAME_ALLOCATE, MEDIA_SETTLED, FRAME_CLEAR and SWEEP_VISIT -/

section
variable {L : Image} {m : Mach} {page : Nat} {e : LEnt}

theorem contains_filter_ne (l : List Nat) (x : Nat) : (l.filter (· != x)).contains x = false := by
  simp

/-- A waiting page becomes Hot in the first frame of the pool (R151, R154). -/
theorem frameAllocate_spec (want : m.led.wantFrame.contains page = true) (he : m.ent? page = some e) (unwritten : e.st = 0) {f : Nat} {rest : List Iv}
    (pool : ivTake m.led.pool = some (f, rest)) :
    (frameAllocate L m page).ent? page = some { e with st := 1, ma := f, k := 0, gen := (e.gen + 1) % 512 } ∧
      (frameAllocate L m page).led.pool = rest ∧ (frameAllocate L m page).led.wantFrame.contains page = false := by
  obtain ⟨t, low, d, seen, taken, upper⟩ := takeFrame_some L pool
  have cached : ({ t with led := { t.led with wantFrame := t.led.wantFrame.filter (· != page) } } : Mach).ent? page = some e :=
    (ent?_of_led (led_of_upper upper) page).trans he
  have alloc : frameAllocate L m page = ({ t with led := { t.led with wantFrame := t.led.wantFrame.filter (· != page) } } : Mach).flip page
      { e with st := 1, ma := f, k := 0 } := by
    simp [frameAllocate, he, unwritten, taken, List.contains_iff_mem.mp want]
  obtain ⟨lines, nonUnw, flipped⟩ := flip_upper ({ t with led := { t.led with wantFrame := t.led.wantFrame.filter (· != page) } } : Mach) page
    { e with st := 1, ma := f, k := 0 }
  have led := led_of_upper flipped
  rw [alloc]
  refine ⟨ent?_flip cached _, ?_, ?_⟩
  · rw [led]
    exact congrArg Ledger.pool (led_of_upper upper)
  · rw [led]
    exact contains_filter_ne ..

/-- With an empty pool the page waits on. -/
theorem allocateFrame_empty (want : m.led.wantFrame.contains page = true) (he : m.ent? page = some e) (unwritten : e.st = 0)
    (pool : ivTake m.led.pool = none) : allocateFrame L m page = m.poolEmpty.pumpAll L := by
  obtain ⟨seen, upper⟩ := poolEmpty_upper m
  have cached : m.poolEmpty.ent? page = some e := (ent?_of_led (led_of_upper upper) page).trans he
  have waits : frameAllocate L m page = m.poolEmpty := by
    simp [frameAllocate, he, unwritten, takeFrame_none L pool, List.contains_iff_mem.mp want]
  have unsent : sendHeld L m.poolEmpty page = m.poolEmpty := by simp [sendHeld, cached, unwritten]
  rw [allocateFrame, waits, unsent]

/-- The media of one freed piece go back to the lists. -/
def releaseMedia (L : Image) (m : Mach) (f : Freed) : Mach :=
  let m := match f.frame with
    | some x => giveFrame L m x
    | none => m
  match f.cellar with
  | some (ma, k) => giveUnits m ma k
  | none => m

theorem freed_releaseMedia (L : Image) (m : Mach) (f : Freed) : (releaseMedia L m f).led.freed = m.led.freed := by
  have frame : ∀ x, (giveFrame L m x).led.freed = m.led.freed := fun x => by
    obtain ⟨_, _, _, _, upper, -⟩ := giveFrame_upper L m x
    rw [led_of_upper upper]
  have cellar : ∀ (t : Mach) u k, (giveUnits t u k).led.freed = t.led.freed := fun t u k => by
    obtain ⟨_, _, _, e, -⟩ := giveUnits_eq t u k
    rw [e]
  unfold releaseMedia
  dsimp only
  repeat' split
  all_goals simp [frame, cellar]

/-- Freed media leave their list once no request that could read them is tracked (R151). -/
theorem settleFreed_freed (L : Image) (m : Mach) :
    (settleFreed L m).led.freed = m.led.freed.filter (fun f => f.waits.any (m.home.trk.map (·.id)).contains) := by
  have walk : ∀ (l : List Freed) (t : Mach), (l.foldl (releaseMedia L) t).led.freed = t.led.freed := by
    intro l
    induction l with
    | nil => exact fun _ => rfl
    | cons f l ih => exact fun t => (ih _).trans (freed_releaseMedia L t f)
  exact walk _ _

/-- The one freed frame, of a LIVE channel, goes to the uncleared list. -/
theorem settleFreed_frame (L : Image) {x : Freed} {f : Nat} (only : m.led.freed = [x]) (frame : x.frame = some f) (cellar : x.cellar = none)
    (unread : x.waits.any (m.home.trk.map (·.id)).contains = false) (live : m.frameCh f = 1) :
    (settleFreed L m).led.uncleared = ivAdd m.led.uncleared f 1 := by
  have settled : settleFreed L m = giveFrame L { m with led := { m.led with freed := [] } } f := by
    simp only [settleFreed, only, List.filter_cons, unread, Bool.not_false, if_true, List.filter_nil, Bool.false_eq_true, if_false, List.foldl_cons,
      List.foldl_nil, frame, cellar]
  obtain ⟨uncleared, _, _, _, upper, added, -⟩ := giveFrame_upper L { m with led := { m.led with freed := [] } } f
  rw [settled, led_of_upper upper]
  exact added live

/-- A cleared frame goes into the pool, its lines written with zeros (R153). -/
theorem clearFrame_spec {f : Nat} {rest : List Iv} (h : ivTake m.led.uncleared = some (f, rest)) :
    m.clearFrame.led.uncleared = rest ∧ m.clearFrame.led.pool = ivAdd m.led.pool f 1 ∧
      ∀ l, l < 64 → m.clearFrame.unwritten f l = some (m.formCw f l 0#512 false false 0#2 false false) := by
  have cleared : m.clearFrame = { m.clearWrites f false with led := { (m.clearWrites f false).led with
      uncleared := rest, pool := ivAdd (m.clearWrites f false).led.pool f 1, emptySeen := false } } := by
    simp [Mach.clearFrame, h]
  have written : ∀ l, l < 64 → (m.clearWrites f false).unwritten f l = _ := fun l hl => unwritten_clearWrites m f false hl
  have led := led_of_upper (upper_clearWrites m f false)
  generalize m.clearWrites f false = t at cleared written led
  rw [cleared]
  exact ⟨rfl, congrArg (fun l : Ledger => ivAdd l.pool f 1) led, fun l hl => (unwritten_congr (m := t) rfl rfl f l).trans (written l hl)⟩

/-- What a visit of the sweep leaves of an entry with media: HEAT shifted right, CS perhaps set (R165). -/
theorem sweepVisit_spec (en : skimEn L = true) (formatted : m.led.formatted = true) (extents : m.led.extents ≠ 0) (at' : m.led.sweep = page)
    (flat : flatPage L page = false) (he : m.ent? page = some e) (written : e.st ≠ 0) (unretired : e.st ≠ 5) :
    ∃ cs, (sweepVisit L m).led.sweep = (page + 1) % (m.led.extents * 65536) ∧
      (sweepVisit L m).ent? page = some { e with heat := e.heat >>> decayShift L, cs } ∧ (e.cs = true → cs = true) := by
  have queued : ∀ (t : Mach) (c : Prop) [Decidable c] (k : MoveKind), ∃ moves,
      (if c then t.queueMove page k 3 false else t) = { t with led := { t.led with moves } } := fun t c _ k => by
    split
    · exact queueMove_eq t page k 3 false
    · exact ⟨t.led.moves, rfl⟩
  have visit : ∃ (u : Mach) (cs : Bool) (moves : List Move), sweepVisit L m = ({ u with led := { u.led with moves } } : Mach).through page ∧
      u = ({ m with led := { m.led with sweep := (page + 1) % (m.led.extents * 65536) } } : Mach).putEnt page
        { e with heat := e.heat >>> decayShift L, cs } true ∧ (e.cs = true → cs = true) := by
    have next : ({ m with led := { m.led with sweep := (page + 1) % (m.led.extents * 65536) } } : Mach).ent? page = some e := he
    unfold sweepVisit
    rw [if_neg (by simp [en, formatted, extents])]
    simp only [at', flat, Bool.false_eq_true, if_false, ledTake_cached he, written, unretired, or_self]
    generalize hu : Mach.putEnt _ page _ true = u
    obtain ⟨moves, demote⟩ := queued u (e.st = 1 ∧ demotable L u page { e with heat := e.heat >>> decayShift L, cs := e.cs ||
      (e.st == 2 && (activeCult L page).isSome && activeCult L page != some e.cult) } = true) .demote
    rw [demote]
    obtain ⟨moves', promote⟩ := queued ({ u with led := { u.led with moves } }) (e.st = 2 ∧ eTier (L.extent (page / 65536)) = 1) .promote
    rw [promote]
    exact ⟨u, _, moves', rfl, hu.symm, fun h => by simp [h]⟩
  obtain ⟨u, cs, moves, visited, put, keeps⟩ := visit
  obtain ⟨lines, thr⟩ := through_upper ({ u with led := { u.led with moves } } : Mach) page
  obtain ⟨lines', nonUnw, put'⟩ := putEnt_eq ({ m with led := { m.led with sweep := (page + 1) % (m.led.extents * 65536) } } : Mach) page
    { e with heat := e.heat >>> decayShift L, cs } true
  refine ⟨cs, ?_, ?_, keeps⟩
  · rw [visited, led_of_upper thr, put, put']
  · rw [visited, ent?_through, put]
    exact ent?_putEnt (m := { m with led := { m.led with sweep := (page + 1) % (m.led.extents * 65536) } }) he _ _

end

/-! ### RETIRE (R173, R174) -/

/-- The machine without the answers of a piece of work. -/
def Mach.unanswered (m : Mach) (who : Nat) : Mach := { m with home := { m.home with done := m.home.done.filter (fun d => d.who != who) } }

/-- No request stands at the home, on its way to it or in the queues of the part's agents, and no line waits for a way. -/
structure Mach.Still (m : Mach) : Prop where
  intq : m.home.intq = []
  fab : m.home.fab = []
  trk : m.home.trk = []
  fills : m.home.fills = []

/-- With nothing at the home the end of work changes its answers alone. -/
theorem agentClear_still {m : Mach} (still : m.Still) (who : Nat) : m.agentClear who = m.unanswered who := by
  simp [Mach.agentClear, Mach.unanswered, Mach.requests, still.intq, still.fab, still.trk]

theorem still_of_calm {m : Mach} (calm : Calm m) : m.Still := by
  obtain ⟨intq, fab, trk, fills, -⟩ := calm
  exact ⟨intq, fab, trk, fills⟩

/-- The page that RETIRE is given. -/
def Mach.retireArg (m : Mach) : Nat := if m.led.cmdBusy then m.led.cmdArg else m.ldgArg

/-- The argument of the command under way is kept. -/
def Mach.arged (m : Mach) (page : Nat) : Mach := { m with led := { m.led with cmdArg := page } }

section
variable {L : Image} {m : Mach} {page : Nat} {e : LEnt}

/-- A piece of work that asks nothing ends in the first of its rounds. -/
theorem runWork_pos {α : Type} {f : Mach → Attempt α} {m m' : Mach} {a : α} (h : f m = .ok a m') (L : Image) (who : Nat) {n : Nat} (hn : 0 < n) :
    runWork L who f n m = (some a, m'.agentClear who) := by
  obtain ⟨k, rfl⟩ := Nat.exists_eq_succ_of_ne_zero (Nat.ne_of_gt hn)
  exact runWork_ok h L who k

/-- RETIRE of a page that is retired at once ends done. -/
theorem retireCmd_ok (arg : page = m.retireArg) (inside : page < m.led.extents * 65536) (flat : flatPage L page = false)
    (he : m.ent? page = some e) {t : Mach} (done : retirePage L ledgerAgent page (m.arged page) = .ok true t) :
    retireCmd L m = ((t.agentClear whoLedger).pumpAll L).ldgEnd 1 := by
  subst arg
  have cached : ledGet L (m.arged m.retireArg) mDesc m.retireArg = (some e, m.arged m.retireArg) := ledGet_cached (m := m.arged m.retireArg) he L mDesc
  have reached : ¬ (m.led.extents * 65536 ≤ m.retireArg ∨ flatPage L m.retireArg = true) := by
    rw [flat]
    simpa using inside
  have ended := runWork_pos done L whoLedger (n := askRounds) (by decide)
  rw [← show (ledGet L (m.arged m.retireArg) mDesc m.retireArg).2 = m.arged m.retireArg by rw [cached]] at ended
  refine (if_neg reached).trans ?_
  generalize hw : runWork _ _ _ _ _ = w
  obtain rfl : w = (some true, t.agentClear whoLedger) := hw.symm.trans ended
  rfl

/-- An Unwritten or a Retired page stays as it is. -/
theorem retireCmd_none (arg : page = m.retireArg) (inside : page < m.led.extents * 65536) (flat : flatPage L page = false)
    (he : m.ent? page = some e) (hst : e.st = 0 ∨ e.st = 5) (calm : Calm m) : retireCmd L m = ((m.arged page).unanswered whoLedger).ldgEnd 1 := by
  have stays : retirePage L ledgerAgent page (m.arged page) = .ok true (m.arged page) := by
    have cached : (m.arged page).ent? page = some e := he
    have still : e.st ≠ 3 := by omega
    simp [retirePage, cached, still, hst]
  have cleared := agentClear_still (m := m.arged page) (still_of_calm calm) whoLedger
  obtain ⟨intq, fab, trk, fills, -⟩ := calm
  rw [retireCmd_ok arg inside flat he stays, cleared, pumpAll_idle (m := (m.arged page).unanswered whoLedger) trk fills]

/-- The machine when a Hot page's lines are dropped and its frame is in quarantine. -/
def Mach.emptied (m : Mach) (page : Nat) (e : LEnt) : Mach :=
  { m.dropPage page with led := { (m.dropPage page).led with quarFrames := m.led.quarFrames ++ [e.ma] } }

/-- A Hot page whose lines are all taken leaves its frame in quarantine (R174). -/
theorem retirePage_taken {a : Agent} (he : m.ent? page = some e) (hot : e.st = 1) (media : e.k = 0) (still : m.led.moveOf page = none)
    (taken : takeAll m a page = none) : retirePage L a page m = .ok true ((m.emptied page e).flip page (e.bare 5)) := by
  have kept : stopMove L (m.dropPage page) page = m.dropPage page := by
    have none : (m.dropPage page).led.moveOf page = none := still
    simp [stopMove, none]
  simp only [retirePage, he, hot, taken, kept, quarEntry, media, Mach.unpinned]
  rfl

/-- The requests that take a page's lines are let go with the work. -/
theorem trk_agentClear {who : Nat} (mine : ∀ r ∈ m.home.trk, r.ofWho who = true ∧ r.kind = .take)
    (some : m.requests.any (fun r => r.ofWho who && r.kind == .take) = true) : (m.agentClear who).home.trk = [] := by
  have cleared : m.agentClear who = ({ m with home := { m.home with done := m.home.done.filter (fun d => d.who != who) } } : Mach).untake who := if_pos some
  rw [cleared]
  refine List.filter_eq_nil_iff.mpr fun r hr => ?_
  obtain ⟨own, take⟩ := mine r hr
  simp [own, take]

theorem fills_agentClear (m : Mach) (who : Nat) : (m.agentClear who).home.fills = m.home.fills := by
  unfold Mach.agentClear
  dsimp only
  split <;> rfl

/-- A flip's write through does not touch the home. -/
theorem home_flip (m : Mach) (page : Nat) (e : LEnt) : (m.flip page e).home = m.home := by
  have written : ∀ (cs : List Nat) (k l : Nat) (d : Line) (t : Mach), (cs.foldl (fun m c =>
      let f := m.ledFrame c k
      m.writeNow f l (m.formCw f l d true false 0#2 false false)) t).home = t.home := fun cs k l d => by
    induction cs with
    | nil => exact fun _ => rfl
    | cons c cs ih => exact fun t => (ih _).trans (flightKept_sendWrite ..).home
  have put : (m.putEnt page { e with gen := (e.gen + 1) % 512 } false).home = m.home := by
    obtain ⟨_, _, put⟩ := putEnt_eq m page { e with gen := (e.gen + 1) % 512 } false
    rw [put]
  rw [← put, Mach.flip]
  unfold Mach.through
  split
  · exact (kept_chargeNow ..).home.trans (written ..)
  · rfl

/-- A page whose lines are all taken has requests that took them. -/
theorem taking_of_taken {a : Agent} (taken : takeAll m a page = none) : m.requests.any (fun r => r.ofWho a.who && r.kind == .take) = true := by
  unfold takeAll at taken
  dsimp only at taken
  split at taken
  · next all =>
    have first := List.all_eq_true.mp all (64 * page) (List.mem_map.mpr ⟨0, List.mem_range.mpr (by decide), rfl⟩)
    obtain ⟨r, hr, -⟩ := List.any_eq_true.mp first
    obtain ⟨mem, own⟩ := List.mem_filter.mp hr
    exact List.any_eq_true.mpr ⟨r, mem, own⟩
  · cases taken

end

/-! ### The releases (R174) -/

section
variable (L : Image) {m : Mach}

theorem releaseFrame_done (idle : m.led.cmdBusy = false) (held : m.led.quarFrames.contains m.ldgArg = true) :
    (releaseFrame L m).led.quarFrames = m.led.quarFrames.erase m.ldgArg ∧ (releaseFrame L m).led.cmdResult = 1 ∧
      (m.frameCh m.ldgArg = 1 → (releaseFrame L m).led.uncleared = ivAdd m.led.uncleared m.ldgArg 1) ∧
      (m.frameCh m.ldgArg ≠ 1 → (releaseFrame L m).led.uncleared = m.led.uncleared) := by
  have released : releaseFrame L m = (giveFrame L { m with led := { m.led with quarFrames := m.led.quarFrames.erase m.ldgArg } } m.ldgArg).ldgEnd 1 := by
    simp only [releaseFrame, idle, held, Bool.false_eq_true, if_false, if_true]
  obtain ⟨uncleared, _, _, _, upper, live, away⟩ :=
    giveFrame_upper L { m with led := { m.led with quarFrames := m.led.quarFrames.erase m.ldgArg } } m.ldgArg
  have led := led_of_upper upper
  rw [released]
  refine ⟨?_, rfl, fun h => ?_, fun h => ?_⟩
  · rw [Mach.ldgEnd, led]
  · rw [Mach.ldgEnd, led]
    exact live h
  · rw [Mach.ldgEnd, led]
    exact away h

/-- Cellar units given back in many pieces of one frame. -/
theorem giveUnits_pieces (l : List (Nat × Nat)) (m : Mach) : ∃ fresh klists awayUnits,
    l.foldl (fun m p => giveUnits m p.1 p.2) m = { m with led := { m.led with fresh, klists, awayUnits } } ∧
      ∀ cf, (∀ p ∈ l, p.1 / 16 = cf) → m.frameCh (m.cellBase + cf) ≠ 1 → fresh = m.led.fresh ∧ klists = m.led.klists := by
  induction l generalizing m with
  | nil => exact ⟨_, _, _, rfl, fun _ _ _ => ⟨rfl, rfl⟩⟩
  | cons p l ih =>
    obtain ⟨fresh, klists, awayUnits, e, off⟩ := giveUnits_eq m p.1 p.2
    obtain ⟨fresh', klists', awayUnits', e', off'⟩ := ih (giveUnits m p.1 p.2)
    refine ⟨fresh', klists', awayUnits', by rw [List.foldl_cons, e', e], fun cf here away => ?_⟩
    obtain ⟨f1, k1⟩ := off (by rwa [here p (List.mem_cons_self ..)])
    obtain ⟨f2, k2⟩ := off' cf (fun q hq => here q (List.mem_cons_of_mem _ hq)) (by rw [e]; exact away)
    rw [e] at f2 k2
    exact ⟨f2.trans f1, k2.trans k1⟩

theorem releaseCellar_done (idle : m.led.cmdBusy = false) (held : m.led.quarCellar.any (fun p => p.1 / 16 == m.ldgArg) = true) :
    ∃ fresh klists awayUnits, releaseCellar m = { m with led := { m.led with
        cmdBusy := false, cmdResult := 1, quarCellar := m.led.quarCellar.filter (fun p => p.1 / 16 != m.ldgArg), fresh, klists, awayUnits } } ∧
      (m.frameCh (m.cellBase + m.ldgArg) ≠ 1 → fresh = m.led.fresh ∧ klists = m.led.klists) := by
  obtain ⟨fresh, klists, awayUnits, e, off⟩ := giveUnits_pieces (m.led.quarCellar.filter (fun p => p.1 / 16 == m.ldgArg))
    { m with led := { m.led with quarCellar := m.led.quarCellar.filter (fun p => p.1 / 16 != m.ldgArg) } }
  have some : (m.led.quarCellar.filter (fun p => p.1 / 16 == m.ldgArg)).isEmpty = false := by
    obtain ⟨p, hp, mine⟩ := List.any_eq_true.mp held
    exact List.isEmpty_eq_false_iff.mpr (List.ne_nil_of_mem (List.mem_filter.mpr ⟨hp, mine⟩))
  refine ⟨fresh, klists, awayUnits, ?_, fun away => off m.ldgArg (fun p hp => ?_) away⟩
  · refine (if_neg (by simp [idle])).trans ((if_neg (by simp [some])).trans ?_)
    exact congrArg (fun m : Mach => m.ldgEnd 1) e
  · exact beq_iff_eq.mp (List.mem_filter.mp hp).2

end

end Sys2Proof.Machine

namespace Sys2Proof
open Machine

section
variable {s : State} (h : s.latch = false)
include h

theorem exec_frameAllocate (page : Nat) : exec (.frameAllocate page) s = .next (settle { s with m := allocateFrame s.live s.m page }) := work_open h _

theorem exec_mediaSettled : exec .mediaSettled s = .next (settle { s with m := settleFreed s.live s.m }) := work_open h _

theorem exec_frameClear : exec .frameClear s = .next (settle { s with m := frameClear s.live s.m }) := work_open h _

theorem exec_sweepVisit : exec .sweepVisit s = .next (settle { s with m := sweepStep s.live s.m }) := work_open h _

theorem exec_retire : exec .retire s = .next (settle { s with m := retireCmd s.live s.m }) := work_open h _

theorem exec_releaseFrame : exec .releaseFrame s = .next (settle { s with m := releaseFrame s.live s.m }) := work_open h _

end

/-- FRAME_CLEAR on its churn, with the regulator's leave: the first uncleared frame goes into the pool. -/
theorem frameClear_settles {s : State} (latch : s.latch = false) {f c : Nat} {rest : List Iv} (rate : s.m.rfld oClrCtl 15 0 ≠ 0)
    (running : s.m.scb.paused = false) (first : ivTake s.m.led.uncleared = some (f, rest)) (own : OwnWork s.m (.clear f) whoClear 64 c) :
    ∃ m : Mach, exec .frameClear s = .next (settle { s with m }) ∧ m.led.uncleared = rest ∧ m.led.pool = ivAdd s.m.led.pool f 1 ∧
      ∀ l, l < 64 → m.unwritten f l = some (s.m.formCw f l 0#512 false false 0#2 false false) := by
  refine ⟨_, exec_frameClear latch, ?_⟩
  have step : frameClear s.live s.m = ((s.m.freeChurn c).clearFrame).agentClear whoClear := by
    simp only [frameClear, first, rate, running, Bool.false_eq_true, or_self, if_false]
    exact bulkWork_own own ..
  obtain ⟨home, locked, clear⟩ := agentClear_eq (s.m.freeChurn c).clearFrame whoClear
  obtain ⟨uncleared, pool, zeros⟩ := clearFrame_spec (m := s.m.freeChurn c) first
  rw [step, clear]
  exact ⟨uncleared, pool, fun l hl => (unwritten_congr (m := (s.m.freeChurn c).clearFrame) rfl rfl f l).trans (zeros l hl)⟩

theorem sweepVisit_settles {s : State} (latch : s.latch = false) {page c : Nat} {e : LEnt} (own : OwnWork s.m (.sweep page) whoSweep 0 c)
    (en : skimEn s.live = true) (running : s.m.scb.paused = false) (ready : s.m.pwr.memReady = true) (formatted : s.m.led.formatted = true)
    (extents : s.m.led.extents ≠ 0) (at' : s.m.led.sweep = page) (flat : flatPage s.live page = false) (he : s.m.ent? page = some e)
    (written : e.st ≠ 0) (unretired : e.st ≠ 5) :
    ∃ m : Mach, ∃ cs, exec .sweepVisit s = .next (settle { s with m }) ∧ m.led.sweep = (page + 1) % (s.m.led.extents * 65536) ∧
      m.ent? page = some { e with heat := e.heat >>> decayShift s.live, cs } ∧ (e.cs = true → cs = true) := by
  have step : sweepStep s.live s.m = (sweepVisit s.live (s.m.freeChurn c)).agentClear whoSweep := by
    have unread : sweepReads s.live s.m = false := by simp [sweepReads, at', he]
    simp only [sweepStep, en, running, ready, formatted, extents, unread, at', Bool.not_true, Bool.false_eq_true, or_self, if_false]
    exact bulkWork_own own ..
  obtain ⟨home, locked, clear⟩ := agentClear_eq (sweepVisit s.live (s.m.freeChurn c)) whoSweep
  obtain ⟨cs, sweep, ent, keeps⟩ := sweepVisit_spec (m := s.m.freeChurn c) (L := s.live) en formatted extents at' flat he written unretired
  refine ⟨_, cs, exec_sweepVisit latch, ?_⟩
  rw [step, clear]
  exact ⟨sweep, ent, keeps⟩

/-- RETIRE of a Hot page whose lines it has taken. -/
theorem retire_settles {s : State} (latch : s.latch = false) {page : Nat} {e : LEnt} (arg : page = s.m.retireArg)
    (inside : page < s.m.led.extents * 65536) (flat : flatPage s.live page = false) (he : s.m.ent? page = some e) (hot : e.st = 1) (media : e.k = 0)
    (still : s.m.led.moveOf page = none) (taken : takeAll s.m ledgerAgent page = none) (fills : s.m.home.fills = [])
    (mine : ∀ r ∈ s.m.home.trk, r.ofWho whoLedger = true ∧ r.kind = .take) :
    ∃ m : Mach, exec .retire s = .next (settle { s with m }) ∧ m.led.cmdBusy = false ∧ m.led.cmdResult = 1 ∧
      m.led.quarFrames = s.m.led.quarFrames ++ [e.ma] ∧
      ∃ e', m.ent? page = some e' ∧ e'.st = 5 ∧ e'.ma = 0 ∧ e'.dic = false ∧ e'.gen = (e.gen + 1) % 512 := by
  refine ⟨_, exec_retire latch, ?_⟩
  have done := retirePage_taken (L := s.live) (m := s.m.arged page) (a := ledgerAgent) he hot media still taken
  rw [retireCmd_ok arg inside flat he done]
  have ent : ((s.m.arged page).emptied page e).ent? page = some e := he
  have frames : ((s.m.arged page).emptied page e).led.quarFrames = s.m.led.quarFrames ++ [e.ma] := rfl
  have trk : ((s.m.arged page).emptied page e).home.trk = s.m.home.trk := rfl
  have asked : ((s.m.arged page).emptied page e).requests = s.m.requests := rfl
  have unfilled : ((s.m.arged page).emptied page e).home.fills = [] := by simp [Mach.emptied, Mach.arged, Mach.dropPage, fills]
  generalize (s.m.arged page).emptied page e = q at ent frames trk asked unfilled ⊢
  obtain ⟨lines, nonUnw, flipped⟩ := flip_upper q page (e.bare 5)
  have home := home_flip q page (e.bare 5)
  have let' : ((q.flip page (e.bare 5)).agentClear whoLedger).home.trk = [] := by
    refine trk_agentClear (by rwa [home, trk]) ?_
    have taking := taking_of_taken taken
    rw [← asked] at taking
    unfold Mach.requests at taking ⊢
    rwa [home]
  rw [pumpAll_idle let' (by rw [fills_agentClear, home, unfilled])]
  obtain ⟨home', locked, clear⟩ := agentClear_eq (q.flip page (e.bare 5)) whoLedger
  rw [clear]
  refine ⟨rfl, rfl, ?_, _, ent?_flip ent _, rfl, rfl, rfl, rfl⟩
  exact (congrArg Ledger.quarFrames (led_of_upper flipped)).trans frames

/-- Settles O46: each command's clause is its ledger operation's lemma; what settles nothing ends as it stands. -/
theorem framesAndQuarantine : Obligations.FramesAndQuarantine := by
  refine ⟨fun page e s quiet latch => ⟨fun want he unwritten => ⟨fun f rest pool => ?_, fun pool => ?_⟩, ?_, fun f rest c rate running some own => ?_,
    fun c own en running ready formatted extents at' flat he written unretired => ?_⟩,
    fun e s quiet latch => ⟨fun page arg bad => ?_, fun page arg inside flat he => ⟨fun hst calm => ?_, fun hot media still taken calm mine => ?_⟩,
      fun busy i hi => ?_, fun idle held => ?_, fun idle unheld => ?_, fun idle held => ?_, fun idle unheld => ?_⟩⟩
  · exact ⟨exec_frameAllocate latch page, frameAllocate_spec want he unwritten pool⟩
  · rw [exec_frameAllocate latch, allocateFrame_empty want he unwritten pool]
  · exact ⟨_, exec_mediaSettled latch, settleFreed_freed .., fun x f only frame cellar unread live => settleFreed_frame _ only frame cellar unread live⟩
  · exact frameClear_settles latch rate running some own
  · exact sweepVisit_settles latch own en running ready formatted extents at' flat he written unretired
  · refine work_eq latch ?_ (quiet_of_kept quiet rfl rfl rfl rfl)
    subst arg
    exact if_pos bad
  · exact ⟨_, work_eq latch (retireCmd_none arg inside flat he hst calm) (quiet_of_kept quiet rfl rfl rfl rfl), rfl, rfl, rfl, rfl⟩
  · exact retire_settles latch arg inside flat he hot media still taken calm.2.2.2.1 mine
  · simp only [List.mem_cons, List.not_mem_nil, or_false] at hi
    rcases hi with rfl | rfl
    · exact work_eq latch (if_pos busy) quiet
    · exact work_eq latch (if_pos busy) quiet
  · exact ⟨_, exec_releaseFrame latch, releaseFrame_done _ idle held⟩
  · exact work_eq latch (by simp only [releaseFrame, idle, unheld, Bool.false_eq_true, if_false]) (quiet_of_kept quiet rfl rfl rfl rfl)
  · obtain ⟨fresh, klists, awayUnits, e, off⟩ := releaseCellar_done idle held
    exact ⟨_, work_eq latch e (quiet_of_kept quiet rfl rfl rfl rfl), rfl, rfl, off⟩
  · have none : (s.m.led.quarCellar.filter (fun p => p.1 / 16 == s.m.ldgArg)).isEmpty = true := by
      rw [List.isEmpty_iff, List.filter_eq_nil_iff]
      exact fun p hp => by simpa using List.any_eq_false.mp unheld p hp
    exact work_eq latch (by simp only [releaseCellar, idle, none, Bool.false_eq_true, if_false, if_true]) (quiet_of_kept quiet rfl rfl rfl rfl)

end Sys2Proof
end

section
/-! PROOFS. The moves of pages (R29, R146, R151, R156-R163, R168, R337), and the statement MovesStartAndFlip: O47. -/

namespace Sys2Proof.Machine

/-! ### The list of moves -/

/-- A page's move once it has been changed. -/
theorem moveOf_setMove {l : Ledger} {v : Move} (h : (l.moveOf v.page).isSome = true) : (l.setMove v).moveOf v.page = some v := by
  obtain ⟨x, hx⟩ := Option.isSome_iff_exists.mp h
  have kept : (fun x : Move => x.page == v.page) ∘ (fun x => if x.page == v.page then v else x) = fun x => x.page == v.page := by
    funext x
    by_cases e : x.page = v.page <;> simp [e]
  have found : l.moves.find? (fun x => x.page == v.page) = some x := hx
  have same : (x.page == v.page) = true := List.find?_some (p := fun x : Move => x.page == v.page) found
  unfold Ledger.moveOf Ledger.setMove
  rw [List.find?_map, kept, found, Option.map_some, if_pos same]

theorem moveOf_isSome {l : Ledger} {v : Move} (h : v ∈ l.moves) : (l.moveOf v.page).isSome = true := by
  unfold Ledger.moveOf
  exact List.find?_isSome.mpr ⟨v, h, by simp⟩

theorem find?_filter_ne (l : List Move) (page : Nat) : (l.filter (fun v => v.page != page)).find? (fun v => v.page == page) = none := by
  rw [List.find?_eq_none]
  exact fun v hv => by simpa using (List.mem_filter.mp hv).2

theorem moveOf_endMove (m : Mach) (page : Nat) : (m.endMove page).led.moveOf page = none := find?_filter_ne ..

/-- A waiting move is one that has not started. -/
theorem mem_waitingMoves {l : Ledger} {v : Move} (h : v ∈ l.waitingMoves) : v ∈ l.moves := by
  unfold Ledger.waitingMoves at h
  obtain ⟨c, -, hc⟩ := List.mem_flatMap.mp h
  simp only [List.mem_append, List.mem_filter] at hc
  rcases hc with hc | hc
  · exact hc.1.1.1
  · exact hc.1.1.1

/-! ### MOVE_START (R168) -/

section
variable {L : Image} {m : Mach} {v : Move} {e : LEnt}

/-- The first waiting move starts. -/
theorem startFirst_started {more : List Move} (he : m.ent? v.page = some e) (h : ((startMove L m v e).led.moveOf v.page).any (fun x => !x.started) = false) :
    startFirst L (v :: more) m = startMove L m v e := by
  simp only [startFirst, ledGet_cached he]
  exact if_neg (by simp [h])

/-- The only waiting move is tried, and no other. -/
theorem startFirst_only (he : m.ent? v.page = some e) : startFirst L [v] m = startMove L m v e := by
  simp only [startFirst, ledGet_cached he, ite_self]

theorem moveStart_eq (room : (m.led.moves.filter (fun x => x.started)).length < moveSlots L) : moveStart L m = startFirst L m.led.waitingMoves m :=
  if_neg (by omega)

/-- The machine when a page's move has started: the move as given, the entry Moving. -/
def Mach.moving (t : Mach) (v : Move) (page : Nat) (e : LEnt) : Mach := ({ t with led := t.led.setMove v } : Mach).putEnt page { e with st := 3 } false

theorem moving_spec {t : Mach} (mine : v ∈ t.led.moves) (he : t.ent? v.page = some e) {v' : Move} (page : v'.page = v.page) :
    (t.moving v' v.page e).ent? v.page = some { e with st := 3 } ∧ (t.moving v' v.page e).led.pool = t.led.pool ∧
      (t.moving v' v.page e).led.moveOf v.page = some v' := by
  have cached : ({ t with led := t.led.setMove v' } : Mach).ent? v.page = some e := he
  have move : (t.led.setMove v').moveOf v.page = some v' := page ▸ moveOf_setMove (page ▸ moveOf_isSome mine)
  obtain ⟨lines, nonUnw, put⟩ := putEnt_eq { t with led := t.led.setMove v' } v.page { e with st := 3 } false
  refine ⟨ent?_putEnt cached .., ?_, ?_⟩
  · rw [Mach.moving, put]
    rfl
  · rw [Mach.moving, put]
    exact move

/-- A move that starts with the first frame of the pool. -/
theorem moving_framed (L : Image) (mine : v ∈ m.led.moves) (he : m.ent? v.page = some e) {f : Nat} {rest : List Iv}
    (pool : ivTake m.led.pool = some (f, rest)) : ∃ t, takeFrame L m = some (f, t) ∧ ∀ v' : Move, v'.page = v.page →
      (t.moving v' v.page e).ent? v.page = some { e with st := 3 } ∧ (t.moving v' v.page e).led.pool = rest ∧
        (t.moving v' v.page e).led.moveOf v.page = some v' := by
  obtain ⟨t, low, d, seen, taken, upper⟩ := takeFrame_some L pool
  have led := led_of_upper upper
  refine ⟨t, taken, fun v' page => ?_⟩
  have spec := moving_spec (t := t) (by rw [led]; exact mine) ((ent?_of_led led v.page).trans he) page
  rwa [show t.led.pool = rest by rw [led]] at spec

theorem poolEmpty_keeps (m : Mach) (page : Nat) : m.poolEmpty.led.moves = m.led.moves ∧ m.poolEmpty.ent? page = m.ent? page := by
  obtain ⟨seen, upper⟩ := poolEmpty_upper m
  exact ⟨by rw [led_of_upper upper], ent?_of_led (led_of_upper upper) page⟩

/-- A fresh promotion of a Cellar page takes the first frame of the pool (R156). -/
theorem startPromotion_some (mine : v ∈ m.led.moves) (he : m.ent? v.page = some e) (kind : v.kind = .promote) (fresh : v.resumed = false)
    (cellar : e.st = 2) {f : Nat} {rest : List Iv} (pool : ivTake m.led.pool = some (f, rest)) :
    (startMove L m v e).ent? v.page = some { e with st := 3 } ∧ (startMove L m v e).led.pool = rest ∧
      (startMove L m v e).led.moveOf v.page = some { v with started := true, dst := some f, gen := e.gen } := by
  obtain ⟨t, taken, spec⟩ := moving_framed L mine he pool
  have start : startMove L m v e = t.moving { v with started := true, dst := some f, gen := e.gen } v.page e := by
    simp [startMove, kind, startPromotion, fresh, cellar, taken, Mach.moving]
  rw [start]
  exact spec _ rfl

/-- A relocation of a Hot or Pinned page takes the first frame of the pool (R337). -/
theorem startRelocation_some (mine : v ∈ m.led.moves) (he : m.ent? v.page = some e) (kind : v.kind = .relocate) (hot : e.st = 1 ∨ e.st = 4)
    {f : Nat} {rest : List Iv} (pool : ivTake m.led.pool = some (f, rest)) :
    (startMove L m v e).ent? v.page = some { e with st := 3 } ∧ (startMove L m v e).led.pool = rest ∧
      (startMove L m v e).led.moveOf v.page = some { v with started := true, gen := e.gen, dst := some f, pin := decide (e.st = 4) } := by
  obtain ⟨t, taken, spec⟩ := moving_framed L mine he pool
  have other : e.st ≠ 2 := by omega
  have start : startMove L m v e = t.moving { v with started := true, gen := e.gen, dst := some f, pin := decide (e.st = 4) } v.page e := by
    simp [startMove, kind, startRelocation, other, hot, taken, Mach.moving]
  rw [start]
  exact spec _ rfl

/-- A demotion of a clean Hot page starts (R160). -/
theorem startDemotion_clean (mine : v ∈ m.led.moves) (he : m.ent? v.page = some e) (kind : v.kind = .demote) (hot : e.st = 1)
    (still : (activeCult L v.page).any m.chn.copying.contains = false) (clean : e.dic = false) :
    (startMove L m v e).ent? v.page = some { e with st := 3 } ∧
      (startMove L m v e).led.moveOf v.page = some { v with started := true, gen := e.gen, cult := activeCult L v.page } := by
  obtain ⟨ent, -, move⟩ := moving_spec mine he (v' := { v with started := true, gen := e.gen, cult := activeCult L v.page }) rfl
  have start : startMove L m v e = m.moving { v with started := true, gen := e.gen, cult := activeCult L v.page } v.page e := by
    simp [startMove, kind, startDemotion, hot, still, clean, Mach.moving]
  rw [start]
  exact ⟨ent, move⟩

/-- A move that is dropped leaves its page's entry. -/
theorem dropMove_spec (L : Image) (mine : v ∈ m.led.moves) :
    (dropMove L m v.page).led.lines = m.led.lines ∧ (dropMove L m v.page).led.moveOf v.page = none := by
  obtain ⟨x, hx⟩ := Option.isSome_iff_exists.mp (moveOf_isSome mine)
  have without : ∀ f, (giveFrame L { m with led := { m.led with moves := m.led.moves.filter (fun x => x.page != v.page) } } f).led.lines = m.led.lines ∧
      (giveFrame L { m with led := { m.led with moves := m.led.moves.filter (fun x => x.page != v.page) } } f).led.moveOf v.page = none := fun f => by
    obtain ⟨_, _, _, _, upper, -⟩ := giveFrame_upper L { m with led := { m.led with moves := m.led.moves.filter (fun x => x.page != v.page) } } f
    rw [led_of_upper upper]
    exact ⟨rfl, find?_filter_ne ..⟩
  unfold dropMove
  rw [hx]
  dsimp only
  split
  · exact without _
  · exact ⟨rfl, find?_filter_ne ..⟩

/-- A demotion of a page with a dirty line is dropped. -/
theorem startDemotion_dirty (mine : v ∈ m.led.moves) (he : m.ent? v.page = some e) (kind : v.kind = .demote) (hot : e.st = 1)
    (still : (activeCult L v.page).any m.chn.copying.contains = false) (dirty : e.dic = true) :
    (startMove L m v e).ent? v.page = some e ∧ (startMove L m v e).led.moveOf v.page = none ∧
      (startMove L m v e).led.ended.find? v.page = some 3 := by
  obtain ⟨lines, none⟩ := dropMove_spec L mine
  have start : startMove L m v e = { dropMove L m v.page with led := { (dropMove L m v.page).led with
      ended := (dropMove L m v.page).led.ended.insert v.page 3 } } := by
    simp only [startMove, kind, startDemotion, hot, still, dirty, Bool.false_eq_true, if_false, if_true, ne_eq, not_true_eq_false]
  rw [start]
  refine ⟨?_, none, Tbl.find?_insert_self ..⟩
  rw [← he, Mach.ent?, Mach.ent?]
  exact congrArg (fun l : Tbl LLine => (l.find? (v.page / 4)).bind (fun l => l.ents[v.page % 4]?)) lines

/-- A move that wants a frame waits while the pool is empty. -/
theorem startMove_waits (pool : ivTake m.led.pool = none) (kind : v.kind = .promote ∧ v.resumed = false ∧ e.st = 2 ∨ v.kind = .relocate ∧ (e.st = 1 ∨ e.st = 4)) :
    startMove L m v e = m.poolEmpty := by
  rcases kind with ⟨kind, fresh, cellar⟩ | ⟨kind, hot⟩
  · simp [startMove, kind, startPromotion, fresh, cellar, takeFrame_none L pool]
  · have other : e.st ≠ 2 := by omega
    simp only [startMove, kind, startRelocation, other, hot, takeFrame_none L pool, if_false, if_true]

end

/-! ### The work of a move's end -/

@[simp] theorem upper_readCell (L : Image) (m : Mach) (page : Nat) (e : LEnt) (w : Option Nat) (i : Nat) : (readCell L m page e w i).2.upper = m.upper :=
  upper_readFor ..

@[simp] theorem upper_readCells (L : Image) (m : Mach) (page : Nat) (e : LEnt) (w : Option Nat) (first n : Nat) :
    (readCells L m page e w first n).2.upper = m.upper := by
  refine upper_foldl_snd (fun acc t => ?_) _ _
  exact upper_readCell ..

@[simp] theorem upper_writeWedge (L : Image) (m : Mach) (page f : Nat) (x : Nat × Option (List Byte)) : (writeWedge L m page f x).upper = m.upper := by
  refine upper_foldl (fun m i => ?_) _ m
  split <;> exact upper_writePageLine ..

@[simp] theorem upper_writeExtent (L : Image) (m : Mach) (page ma : Nat) (bytes : List Byte) : (writeExtent L m page ma bytes).upper = m.upper :=
  upper_foldl (fun _ _ => upper_writeNow ..) _ _

@[simp] theorem upper_relocateLine (L : Image) (m : Mach) (page : Nat) (c : Bool) (f l f' l' : Nat) :
    (relocateLine L m page c f l f' l').2.upper = m.upper := by
  unfold relocateLine
  dsimp only
  split <;> simp

/-- What a relocation copies. -/
theorem upper_relocateLines (L : Image) (page : Nat) (c : Bool) (spots : List ((Nat × Nat) × (Nat × Nat))) (x : Bool × Mach) :
    (spots.foldl (fun (acc : Bool × Mach) s =>
      let q := relocateLine L acc.2 page c s.1.1 s.1.2 s.2.1 s.2.2
      (acc.1 || q.1, q.2)) x).2.upper = x.2.upper := by
  refine upper_foldl_snd (fun acc s => ?_) _ _
  exact upper_relocateLine ..

@[simp] theorem upper_wedgeFail (m : Mach) (page cult : Nat) : (m.wedgeFail page cult).upper = m.upper := by
  simp [Mach.wedgeFail]

/-- `t` is `m` with a page's entry as given, after work that leaves the churns' work alone. -/
structure PageAt (m t : Mach) (page : Nat) (e : LEnt) : Prop where
  run : t.chn.run = m.chn.run
  ent : t.ent? page = some e

namespace PageAt
variable {m t u : Mach} {page : Nat} {e : LEnt}

theorem of_upper (h : PageAt m t page e) (up : u.upper = t.upper) : PageAt m u page e :=
  ⟨(run_of_upper up).trans h.run, (ent?_of_led (led_of_upper up) page).trans h.ent⟩

/-- Work that touches no cached line, and not the churns. -/
theorem of_lines (h : PageAt m t page e) (chn : u.chn = t.chn) (lines : u.led.lines = t.led.lines) : PageAt m u page e := by
  refine ⟨chn ▸ h.run, h.ent ▸ ?_⟩
  unfold Mach.ent?
  rw [lines]

theorem ite {c : Prop} [Decidable c] (ht : PageAt m t page e) (hu : PageAt m u page e) : PageAt m (if c then t else u) page e := by
  split
  · exact ht
  · exact hu

/-- The count of the pinned pages, perhaps changed. -/
theorem counted (h : PageAt m t page e) (c : Prop) [Decidable c] (n : Nat) :
    PageAt m (if c then { t with led := { t.led with pinned := n } } else t) page e := .ite (h.of_lines rfl rfl) h

theorem putEnt (h : PageAt m t page e) (e' : LEnt) (changed : Bool) : PageAt m (t.putEnt page e' changed) page e' := by
  obtain ⟨lines, nonUnw, put⟩ := putEnt_eq t page e' changed
  exact ⟨put ▸ h.run, ent?_putEnt h.ent ..⟩

theorem through (h : PageAt m t page e) (p : Nat) : PageAt m (t.through p) page e := by
  obtain ⟨lines, thr⟩ := through_upper t p
  exact ⟨(run_of_upper thr).trans h.run, (ent?_through ..).trans h.ent⟩

theorem flip (h : PageAt m t page e) (e' : LEnt) : PageAt m (t.flip page e') page { e' with gen := (e'.gen + 1) % 512 } :=
  (h.putEnt ..).through page

theorem countBy (h : PageAt m t page e) (c : Nat) (d : Int) : PageAt m (t.countBy c d) page e := by
  obtain ⟨counts, open', upper⟩ := countBy_upper t c d
  exact of_upper (t := { t with led := { t.led with counts, cntOpen := open' } }) (h.of_lines rfl rfl) upper

end PageAt

/-- Likewise, and the page's move has left the list. -/
structure MoveOver (m t : Mach) (page : Nat) (e : LEnt) : Prop extends PageAt m t page e where
  move : t.led.moveOf page = none

namespace MoveOver
variable {m t u : Mach} {page : Nat} {e : LEnt}

theorem of_endMove (h : PageAt m t page e) : MoveOver m (t.endMove page) page e :=
  ⟨h.of_lines rfl rfl, moveOf_endMove ..⟩

theorem of_upper (h : MoveOver m t page e) (up : u.upper = t.upper) : MoveOver m u page e :=
  ⟨h.toPageAt.of_upper up, by rw [led_of_upper up]; exact h.move⟩

theorem through (h : MoveOver m t page e) (p : Nat) : MoveOver m (t.through p) page e := by
  obtain ⟨lines, thr⟩ := through_upper t p
  refine ⟨h.toPageAt.through p, ?_⟩
  rw [led_of_upper thr]
  exact h.move

/-- A demotion that ends in Hot. -/
theorem demoteHot {v : Move} (h : PageAt m t v.page e) (e' : LEnt) (code : Nat) :
    MoveOver m (t.demoteHot v e' code) v.page { e' with st := 1 } ∧ (t.demoteHot v e' code).led.ended.find? v.page = some code := by
  have ended := of_endMove (h.putEnt { e' with st := 1 } true)
  exact ⟨⟨ended.toPageAt.of_lines rfl rfl, ended.move⟩, Tbl.find?_insert_self ..⟩

end MoveOver

theorem pageAt_self {m : Mach} {page : Nat} {e : LEnt} (he : m.ent? page = some e) : PageAt m m page e := ⟨rfl, he⟩

section
variable {L : Image} {m : Mach} {v : Move} {e : LEnt} {page : Nat}

/-- A promotion that a write has stopped before its last wedge goes back among the waiting moves (R158). -/
theorem promotionEnd_cut (move : m.led.moveOf v.page = some v) (cut : v.cutShort = true) (f : Nat) :
    (promotionEnd L m v f e).chn.run = m.chn.run ∧ (promotionEnd L m v f e).led.moveOf v.page =
      some { v with started := false, resumed := true, cls := 2, done := v.done + 1, stop := false, got := [] } := by
  have written : ((m.promoOut v e).foldl (fun m x => writeWedge L m v.page f x) m).upper = m.upper :=
    upper_foldl (fun _ _ => upper_writeWedge ..) _ _
  have requeued (t : Mach) (run : t.chn.run = m.chn.run) (moves : t.led.moves = m.led.moves) (v' : Move) (page : v'.page = v.page) :
      (({ t with led := t.led.setMove v' } : Mach).bump oCntLdgAbort).chn.run = m.chn.run ∧
        (({ t with led := t.led.setMove v' } : Mach).bump oCntLdgAbort).led.moveOf v.page = some v' := by
    have same : t.led.moveOf v.page = some v := (congrArg (List.find? (fun x : Move => x.page == v.page)) moves).trans move
    exact ⟨run, page ▸ moveOf_setMove (by rw [page, same]; rfl)⟩
  unfold promotionEnd
  dsimp only
  rw [if_pos cut]
  generalize (m.promoOut v e).foldl (fun m x => writeWedge L m v.page f x) m = w at written
  have moves : w.led.moves = m.led.moves := by rw [led_of_upper written]
  refine requeued _ ?_ ?_ _ rfl
  · split
    · obtain ⟨lines, nonUnw, put⟩ := putEnt_eq w v.page { e with pp := true } true
      rw [put]
      exact (run_of_upper written :)
    · exact run_of_upper written
  · split
    · obtain ⟨lines, nonUnw, put⟩ := putEnt_eq w v.page { e with pp := true } true
      rw [put]
      exact moves
    · exact moves

/-- A promotion ends in its new frame, Hot or Pinned (R156). -/
theorem promotionEnd_flip (he : m.ent? v.page = some e) (whole : v.cutShort = false) (f : Nat) :
    ∃ pp, MoveOver m (promotionEnd L m v f e) v.page { e with
      st := if v.pin then 4 else 1, ma := f, k := 0, cult := 0, cs := false, woff := [0, 0, 0, 0, 0, 0, 0], pp, gen := (e.gen + 1) % 512 } := by
  have written : ((m.promoOut v e).foldl (fun m x => writeWedge L m v.page f x) m).upper = m.upper :=
    upper_foldl (fun _ _ => upper_writeWedge ..) _ _
  unfold promotionEnd
  dsimp only
  rw [if_neg (by simp [whole])]
  generalize (m.promoOut v e).foldl (fun m x => writeWedge L m v.page f x) m = w at written
  have at' : PageAt m w v.page e := (pageAt_self he).of_upper written
  have told : PageAt m (if m.promoCrcBad v e then (w.evb oLdgEvt 6).raiseA 38 e.cult 1 (v.page * 4096)
      else if (List.range 8).all (fun i => (w.promoWedge v e i).isSome) then w else w.wedgeFail v.page e.cult) v.page e :=
    .ite (at'.of_upper ((upper_raiseA ..).trans (upper_evb ..))) (.ite at' (at'.of_upper (upper_wedgeFail ..)))
  generalize (if m.promoCrcBad v e then (w.evb oLdgEvt 6).raiseA 38 e.cult 1 (v.page * 4096)
    else if (List.range 8).all (fun i => (w.promoWedge v e i).isSome) then w else w.wedgeFail v.page e.cult) = a at told ⊢
  have freed : PageAt m (a.freeUnitsLater v.page e.ma e.k) v.page e := told.of_lines rfl rfl
  have flipped := (freed.countBy e.cult (-1)).flip
    { e with st := if v.pin then 4 else 1, ma := f, k := 0, cult := 0, cs := false, woff := [0, 0, 0, 0, 0, 0, 0],
             pp := e.pp || (m.promoCrcBad v e || (m.promoOut v e).any (fun p => p.2.isNone)) }
  refine ⟨e.pp || (m.promoCrcBad v e || (m.promoOut v e).any (fun p => p.2.isNone)), MoveOver.of_upper ?gone ((upper_pmuEvent ..).trans (upper_bump ..))⟩
  case gone =>
    exact .of_endMove ((flipped.counted (v.pin = true) _).of_lines rfl rfl)

/-- A demotion ends in Hot with its place unchanged, or in the cellar with GEN one higher (R160-R163). -/
theorem demotionEnd_spec (he : m.ent? v.page = some e) : ∃ e', MoveOver m (demotionEnd L m v e) v.page e' ∧
    ((e'.st = 1 ∧ e'.ma = e.ma ∧ e'.k = e.k ∧ e'.gen = e.gen) ∨ (e'.st = 2 ∧ e'.gen = (e.gen + 1) % 512)) ∧
    (v.stop = true → e' = { e with st := 1 } ∧ (demotionEnd L m v e).led.ended.find? v.page = some 3) := by
  have at' := pageAt_self he
  unfold demotionEnd
  split
  · obtain ⟨over', code⟩ := MoveOver.demoteHot at' e 3
    exact ⟨_, over'.of_upper (upper_bump ..), .inl ⟨rfl, rfl, rfl, rfl⟩, fun _ => ⟨rfl, code⟩⟩
  · next goes =>
    split
    · exact ⟨_, ((MoveOver.demoteHot at' _ 1).1.through v.page).of_upper (upper_bump ..), .inl ⟨rfl, rfl, rfl, rfl⟩, fun h => absurd h goes⟩
    · next k woff body _ =>
      split
      · exact ⟨_, ((MoveOver.demoteHot at' _ 1).1.through v.page).of_upper ((upper_raiseA ..).trans ((upper_evb ..).trans (upper_bump ..))),
          .inl ⟨rfl, rfl, rfl, rfl⟩, fun h => absurd h goes⟩
      · next u l taken =>
        obtain ⟨fresh, klists, rfl⟩ := takeUnits_some taken
        have took : PageAt m { m with led := { m.led with fresh, klists } } v.page e := at'.of_lines rfl rfl
        have wrote := took.of_upper (upper_writeExtent L { m with led := { m.led with fresh, klists } } v.page u body)
        dsimp only
        generalize writeExtent L _ v.page u body = w at wrote ⊢
        have freed : PageAt m (w.freeLater v.page e.ma) v.page e := wrote.of_lines rfl rfl
        have flipped := (freed.countBy (v.cult.getD 0) 1).flip
          { e with st := 2, ma := u, k, cult := v.cult.getD 0, cs := false, woff, pp := false }
        refine ⟨{ e with st := 2, ma := u, k, cult := v.cult.getD 0, cs := false, woff, pp := false, gen := (e.gen + 1) % 512 }, MoveOver.of_upper ?gone ((upper_pmuEvent ..).trans (upper_bump ..)), .inr ⟨rfl, rfl⟩,
          fun h => absurd h goes⟩
        case gone =>
          exact .of_endMove (flipped.of_lines rfl rfl)

/-- A relocation ends in its new place (R337); a Cellar page written meanwhile is queued for promotion (R29). -/
theorem relocationEnd_spec (he : m.ent? v.page = some e) (dst : Nat) : ∃ pp, PageAt m (relocationEnd L m v dst e) v.page
      { e with st := if 1 ≤ e.k then 2 else if v.pin then 4 else 1, ma := dst, pp, gen := (e.gen + 1) % 512 } ∧
    (e.k = 0 ∨ e.dic = false → (relocationEnd L m v dst e).led.moveOf v.page = none) ∧
    (1 ≤ e.k → e.dic = true → ∃ x : Move, (relocationEnd L m v dst e).led.moveOf v.page = some x ∧ x.kind = .promote ∧ x.started = false) := by
  unfold relocationEnd
  dsimp only
  generalize (if 1 ≤ e.k then _ else _ : List ((Nat × Nat) × (Nat × Nat))) = spots
  have copied := upper_relocateLines L v.page (decide (1 ≤ e.k)) spots (false, m)
  dsimp only at copied
  generalize List.foldl _ (false, m) spots = r at copied ⊢
  have at' : PageAt m r.2 v.page e := (pageAt_self he).of_upper copied
  have freed : PageAt m (if 1 ≤ e.k then r.2.freeUnitsLater v.page e.ma e.k else r.2.freeLater v.page e.ma) v.page e := .ite (at'.of_lines rfl rfl) (at'.of_lines rfl rfl)
  generalize (if 1 ≤ e.k then r.2.freeUnitsLater v.page e.ma e.k else r.2.freeLater v.page e.ma) = t at freed ⊢
  have ended := MoveOver.of_endMove
    (freed.flip { e with st := if 1 ≤ e.k then 2 else if v.pin then 4 else 1, ma := dst, pp := e.pp || r.1 })
  generalize (t.flip v.page { e with st := if 1 ≤ e.k then 2 else if v.pin then 4 else 1, ma := dst, pp := e.pp || r.1 }).endMove v.page = u at ended ⊢
  obtain ⟨moves, queued⟩ := queueMove_eq u v.page .promote 2 false
  have added : (u.queueMove v.page .promote 2 false).led.moveOf v.page = some { page := v.page, kind := .promote, cls := 2, pin := false } := by
    have none : u.led.moves.find? (fun x => x.page == v.page) = none := ended.move
    simp [Mach.queueMove, Ledger.moveOf, none]
  refine ⟨e.pp || r.1, .ite (queued ▸ ended.toPageAt.of_lines rfl rfl) ended.toPageAt, fun stays => ?_, fun cellar dirty => ?_⟩
  · rw [if_neg (by rcases stays with h | h <;> simp [h])]
    exact ended.move
  · rw [if_pos ⟨cellar, dirty⟩]
    exact ⟨_, added, rfl, rfl⟩

/-- A move that is undone has left the list. -/
theorem undoMove_gone (L : Image) (m : Mach) (page : Nat) : (undoMove L m page).led.moveOf page = none := by
  have given : ∀ (t : Mach) d, (giveFrame L t d).led.moves = t.led.moves := fun t d => by
    obtain ⟨_, _, _, _, upper, -⟩ := giveFrame_upper L t d
    rw [led_of_upper upper]
  have back : ∀ (t : Mach) u k, (giveUnits t u k).led.moves = t.led.moves := fun t u k => by
    obtain ⟨_, _, _, e, -⟩ := giveUnits_eq t u k
    rw [e]
  unfold undoMove
  split
  · next h => exact h
  · dsimp only
    generalize (match m.ent? page with
      | some e => if e.st = 3 then m.putEnt page { e with st := (m.storedEnt page e).st } false else m
      | none => m) = t
    split
    · exact moveOf_endMove ..
    · split
      · exact (congrArg (List.find? (fun x : Move => x.page == page)) (given ..)).trans (moveOf_endMove ..)
      · exact (congrArg (List.find? (fun x : Move => x.page == page)) (back ..)).trans (moveOf_endMove ..)

/-! ### A move's churn -/

/-- The end of a move, or of its attempt, frees its churn, and waiting requests go on. -/
theorem moveDone_ended {kind : MoveKind} {c : Nat} (f : Mach → Move → LEnt → Mach) (churn : m.churnOf (.move page) = some c)
    (lent : m.chn.lent.find? c = none) (move : m.led.moveOf page = some v) (he : m.ent? page = some e) (same : v.kind = kind) (started : v.started = true)
    {t : Mach} (ht : t = if e.gen = v.gen then f m v e else undoMove L m page) (ended : (t.led.moveOf page).any (·.started) = false) :
    moveDone L m page kind f = ((t.freeChurn c).ungrant (whoMove page)).pumpAll L := by
  subst ht
  unfold moveDone
  simp only [churn, move, he, same, started, lent, ne_eq, not_true_eq_false, Bool.not_true, Bool.false_eq_true, Option.isSome_none, or_self, if_false]
  exact if_neg (by simpa using ended)

/-- With the lines read and the regulator's leave, a move's piece writes. -/
theorem movePiece_writes (move : m.led.moveOf page = some v) (got : v.got ≠ []) (writes : Mach → Move → Nat) (leave : Leave m (whoMove page) 1 (writes m v))
    (reads : Nat) (read : Mach → Mach) (write : Mach → Move → Mach) : movePiece L page m v reads read writes write = write m v := by
  have held : v.got.isEmpty = false := List.isEmpty_eq_false_iff.mpr got
  unfold movePiece
  simp only [held, Bool.false_eq_true, if_false, move, grant_leave (a := moveAgent (whoMove page)) leave]

/-- A started move of a page on a churn that is not lent, its entry cached. -/
structure MoveRuns (m : Mach) (c : Nat) (v : Move) (e : LEnt) : Prop where
  churn : m.churnOf (.move v.page) = some c
  lent : m.chn.lent.find? c = none
  move : m.led.moveOf v.page = some v
  ent : m.ent? v.page = some e
  started : v.started = true

/-- The machine when a move's churn is free again, before waiting requests go on. -/
def Mach.moveLeft (t : Mach) (c page : Nat) : Mach := (t.freeChurn c).ungrant (whoMove page)

theorem MoveRuns.ended {c : Nat} (h : MoveRuns m c v e) (f : Mach → Move → LEnt → Mach) {t : Mach}
    (ht : (if e.gen = v.gen then f m v e else undoMove L m v.page) = t) (ended : (t.led.moveOf v.page).any (·.started) = false) :
    moveDone L m v.page v.kind f = (t.moveLeft c v.page).pumpAll L :=
  moveDone_ended f h.churn h.lent h.move h.ent rfl h.started ht.symm ended

/-- A move whose page's GEN is no longer its own is undone. -/
theorem MoveRuns.undone {c : Nat} (h : MoveRuns m c v e) (stale : e.gen ≠ v.gen) {kind : MoveKind} (same : v.kind = kind)
    (f : Mach → Move → LEnt → Mach) : moveDone L m v.page kind f = ((undoMove L m v.page).moveLeft c v.page).pumpAll L :=
  same ▸ h.ended f (if_neg stale) (by rw [undoMove_gone]; rfl)

theorem MoveRuns.promoted {c : Nat} (h : MoveRuns m c v e) (fresh : e.gen = v.gen) (kind : v.kind = .promote) {f : Nat} (dst : v.dst = some f)
    (got : v.got ≠ []) (leave : Leave m (whoMove v.page) 1 (8 * (m.promoOut v e).length))
    (ended : ((promotionEnd L m v f e).led.moveOf v.page).any (·.started) = false) :
    promoteDone L m v.page = ((promotionEnd L m v f e).moveLeft c v.page).pumpAll L := by
  unfold promoteDone
  rw [← kind]
  refine h.ended _ ?_ ended
  rw [if_pos fresh]
  simp only [dst]
  exact movePiece_writes h.move got (fun m v => 8 * (m.promoOut v e).length) leave _ _ _

theorem MoveRuns.demoted {c : Nat} (h : MoveRuns m c v e) (fresh : e.gen = v.gen) (kind : v.kind = .demote)
    (ready : v.stop = true ∨ (v.got ≠ [] ∧ Leave m (whoMove v.page) 1 (4 * ((m.demoExtent v).map (·.1)).getD 0)))
    (ended : ((demotionEnd L m v e).led.moveOf v.page).any (·.started) = false) :
    demoteDone L m v.page = ((demotionEnd L m v e).moveLeft c v.page).pumpAll L := by
  unfold demoteDone
  rw [← kind]
  refine h.ended _ ?_ ended
  rw [if_pos fresh]
  by_cases stop : v.stop = true
  · rw [if_pos stop]
  · obtain ⟨got, leave⟩ := ready.resolve_left stop
    rw [if_neg stop]
    exact movePiece_writes h.move got (fun m v => 4 * ((m.demoExtent v).map (·.1)).getD 0) leave _ _ _

theorem MoveRuns.relocated {c : Nat} (h : MoveRuns m c v e) (fresh : e.gen = v.gen) (kind : v.kind = .relocate) {d : Nat} (dst : v.dst = some d)
    (leave : Leave m (whoMove v.page) 0 (if 1 ≤ e.k then 8 * e.k else 128))
    (ended : ((relocationEnd L m v d e).led.moveOf v.page).any (·.started) = false) :
    relocateDone L m v.page = ((relocationEnd L m v d e).moveLeft c v.page).pumpAll L := by
  unfold relocateDone
  rw [← kind]
  refine h.ended _ ?_ ended
  rw [if_pos fresh]
  simp only [dst, grant_leave (a := moveAgent (whoMove v.page)) leave]

end

end Sys2Proof.Machine

namespace Sys2Proof
open Machine

section
variable {s : State} (h : s.latch = false) (page : Nat) (errs : List (Nat × SymErr))
include h

theorem exec_moveStart : exec .moveStart s = .next (settle { s with m := moveStart s.live s.m }) := work_open h _

theorem exec_promotionDone {t : Mach} (e : promoteDone s.live { s.m with errs } page = t) :
    exec (.promotionDone page errs) s = .next (settle { s with m := { t with errs := [] } }) := e ▸ work_open h _

theorem exec_demotionDone {t : Mach} (e : demoteDone s.live { s.m with errs } page = t) :
    exec (.demotionDone page errs) s = .next (settle { s with m := { t with errs := [] } }) := e ▸ work_open h _

theorem exec_relocationDone {t : Mach} (e : relocateDone s.live { s.m with errs } page = t) :
    exec (.relocationDone page errs) s = .next (settle { s with m := { t with errs := [] } }) := e ▸ work_open h _

end

/-- MOVE_START tries the first waiting move (R168). -/
theorem moveStart_settles {v : Move} {more : List Move} {e : LEnt} {s : State} (latch : s.latch = false)
    (room : (s.m.led.moves.filter (fun x => x.started)).length < moveSlots s.live) (waiting : s.m.led.waitingMoves = v :: more)
    (he : s.m.ent? v.page = some e) :
    ∃ m : Mach, exec .moveStart s = .next (settle { s with m }) ∧
      (v.kind = .promote → v.resumed = false → e.st = 2 →
        (∀ f rest, ivTake s.m.led.pool = some (f, rest) → m.ent? v.page = some { e with st := 3 } ∧ m.led.pool = rest ∧
          m.led.moveOf v.page = some { v with started := true, dst := some f, gen := e.gen }) ∧
        (ivTake s.m.led.pool = none → more = [] → m.led.moves = s.m.led.moves ∧ m.ent? v.page = some e)) ∧
      (v.kind = .relocate → e.st = 1 ∨ e.st = 4 →
        (∀ f rest, ivTake s.m.led.pool = some (f, rest) → m.ent? v.page = some { e with st := 3 } ∧ m.led.pool = rest ∧
          m.led.moveOf v.page = some { v with started := true, gen := e.gen, dst := some f, pin := decide (e.st = 4) }) ∧
        (ivTake s.m.led.pool = none → more = [] → m.led.moves = s.m.led.moves ∧ m.ent? v.page = some e)) ∧
      (v.kind = .demote → e.st = 1 → (activeCult s.live v.page).any s.m.chn.copying.contains = false →
        (e.dic = false → m.ent? v.page = some { e with st := 3 } ∧
          m.led.moveOf v.page = some { v with started := true, gen := e.gen, cult := activeCult s.live v.page }) ∧
        (e.dic = true → m.ent? v.page = some e ∧ m.led.moveOf v.page = none ∧ m.led.ended.find? v.page = some 3)) := by
  have mine : v ∈ s.m.led.moves := mem_waitingMoves (waiting ▸ List.mem_cons_self ..)
  have first : moveStart s.live s.m = startFirst s.live (v :: more) s.m := by rw [moveStart_eq room, waiting]
  have starts : ∀ {o : Option Move}, (startMove s.live s.m v e).led.moveOf v.page = o → o.any (fun x => !x.started) = false →
      moveStart s.live s.m = startMove s.live s.m v e := fun same off => first.trans (startFirst_started he (same ▸ off))
  have waits : more = [] → startMove s.live s.m v e = s.m.poolEmpty →
      (moveStart s.live s.m).led.moves = s.m.led.moves ∧ (moveStart s.live s.m).ent? v.page = some e := fun only empty => by
    obtain ⟨moves, ent⟩ := poolEmpty_keeps s.m v.page
    rw [first, only, startFirst_only he, empty]
    exact ⟨moves, ent.trans he⟩
  refine ⟨_, exec_moveStart latch, fun kind fresh cellar => ⟨fun f rest pool => ?_, fun pool only => ?_⟩, fun kind hot => ⟨fun f rest pool => ?_,
    fun pool only => ?_⟩, fun kind hot still => ⟨fun clean => ?_, fun dirty => ?_⟩⟩
  · have spec := startPromotion_some (L := s.live) mine he kind fresh cellar pool
    rwa [starts spec.2.2 rfl]
  · exact waits only (startMove_waits pool (.inl ⟨kind, fresh, cellar⟩))
  · have spec := startRelocation_some (L := s.live) mine he kind hot pool
    rwa [starts spec.2.2 rfl]
  · exact waits only (startMove_waits pool (.inr ⟨kind, hot⟩))
  · have spec := startDemotion_clean (L := s.live) mine he kind hot still clean
    rwa [starts spec.2 rfl]
  · have spec := startDemotion_dirty (L := s.live) mine he kind hot still dirty
    rwa [starts spec.2.1 rfl]

/-- Settles O47: the first waiting move is tried on its entry; a move's end is its operation's lemma, on the machine that meets the errors. -/
theorem movesStartAndFlip : Obligations.MovesStartAndFlip := by
  refine ⟨fun v more e s _ latch room waiting he => moveStart_settles latch room waiting he, fun c v e errs s _ latch churn lent move he started =>
    ⟨fun stale i which => ?_, fun fresh => ⟨fun f kind dst got leave cut => ?_, fun f kind dst got leave whole => ?_, fun kind ready => ?_,
      fun d kind dst leave => ?_⟩⟩⟩
  all_goals have runs : MoveRuns { s.m with errs } c v e := ⟨churn, lent, move, he, started⟩
  · rcases which with ⟨kind, rfl⟩ | ⟨kind, rfl⟩ | ⟨kind, rfl⟩
    · exact exec_promotionDone latch v.page errs (runs.undone stale kind _)
    · exact exec_demotionDone latch v.page errs (runs.undone stale kind _)
    · exact exec_relocationDone latch v.page errs (runs.undone stale kind _)
  · obtain ⟨run, requeued⟩ := promotionEnd_cut (L := s.live) (e := e) runs.move cut f
    exact ⟨_, exec_promotionDone latch v.page errs (runs.promoted fresh kind dst got leave (by rw [requeued]; rfl)),
      congrArg (Tbl.erase · c) run, requeued⟩
  · obtain ⟨pp, gone⟩ := promotionEnd_flip (L := s.live) runs.ent whole f
    exact ⟨_, _, exec_promotionDone latch v.page errs (runs.promoted fresh kind dst got leave (by rw [gone.move]; rfl)), gone.move,
      congrArg (Tbl.erase · c) gone.run, gone.ent, rfl, rfl, rfl, rfl⟩
  · obtain ⟨e', gone, place, stopped⟩ := demotionEnd_spec (L := s.live) runs.ent
    exact ⟨_, e', exec_demotionDone latch v.page errs (runs.demoted fresh kind ready (by rw [gone.move]; rfl)), gone.move,
      congrArg (Tbl.erase · c) gone.run, gone.ent, place, stopped⟩
  · obtain ⟨pp, at', clean, dirty⟩ := relocationEnd_spec (L := s.live) runs.ent d
    have off : ((relocationEnd s.live { s.m with errs } v d e).led.moveOf v.page).any (·.started) = false := by
      by_cases h : e.k = 0 ∨ e.dic = false
      · rw [clean h]
        rfl
      · obtain ⟨x, hx, -, off⟩ := dirty (by omega) (by simpa using fun h' => h (.inr h'))
        rw [hx]
        exact off
    refine ⟨_, _, exec_relocationDone latch v.page errs (runs.relocated fresh kind dst leave off), clean, fun cellar written => ?_,
      congrArg (Tbl.erase · c) at'.run, at'.ent, rfl, rfl, rfl, rfl⟩
    obtain ⟨x, hx, promote, off⟩ := dirty cellar written
    refine (congrArg (Option.any _) hx).trans ?_
    simp [promote, off]

end Sys2Proof
end

section
/-! PROOFS. What settling a step leaves alone while nothing stands at the home (R458, R464, R465, R483): the jobs, host memory and the strainer,
and the ledger cache too where nothing has entered a controller. -/

namespace Sys2Proof.Machine

/-! ### What lies on the desk -/

/-- The jobs, host memory, the strainer and the home's table; with `lines` the ledger cache too. -/
def Mach.desk (lines : Bool) (m : Mach) : Dqu × Tbl Memory × Strainer × List Unit × List Fill × Tbl LLine :=
  (m.dqu, m.hostMem, m.strn, m.home.trk.map (fun _ => ()), m.home.fills, if lines then m.led.lines else [])

section
variable {b : Bool} {m t : Mach}

theorem desk_of_upper (h : t.upper = m.upper) : t.desk b = m.desk b := by
  have trk : (t.home.trk.map (fun _ => ({} : Req))).map (fun _ => ()) = (m.home.trk.map (fun _ => ({} : Req))).map (fun _ => ()) :=
    (congrArg (fun m : Mach => m.home.trk.map (fun _ => ())) h :)
  simp only [List.map_map, Function.comp_def] at trk
  unfold Mach.desk
  rw [dqu_of_upper h, hostMem_of_upper h, strn_of_upper h, trk, fills_of_upper h, led_of_upper h]

theorem dqu_of_desk (h : t.desk b = m.desk b) : t.dqu = m.dqu := congrArg Prod.fst h

theorem hostMem_of_desk (h : t.desk b = m.desk b) : t.hostMem = m.hostMem := congrArg (fun x => x.2.1) h

theorem strn_of_desk (h : t.desk b = m.desk b) : t.strn = m.strn := congrArg (fun x => x.2.2.1) h

theorem fills_of_desk (h : t.desk b = m.desk b) : t.home.fills = m.home.fills := congrArg (fun x => x.2.2.2.2.1) h

theorem lines_of_desk (h : t.desk true = m.desk true) : t.led.lines = m.led.lines := congrArg (fun x => x.2.2.2.2.2) h

theorem trk_of_desk (h : t.desk b = m.desk b) (hm : m.home.trk = []) : t.home.trk = [] := by
  have e : t.home.trk.map (fun _ => ()) = m.home.trk.map (fun _ => ()) := congrArg (fun x => x.2.2.2.1) h
  rw [hm] at e
  exact List.map_eq_nil_iff.mp e

end

section
variable (b : Bool)

@[simp] theorem desk_ite (c : Prop) [Decidable c] (m t : Mach) : (if c then m else t).desk b = if c then m.desk b else t.desk b := apply_ite ..

theorem desk_foldl {α : Type} {f : Mach → α → Mach} (hf : ∀ m a, (f m a).desk b = m.desk b) (l : List α) (m : Mach) :
    (l.foldl f m).desk b = m.desk b := by
  induction l generalizing m with
  | nil => rfl
  | cons a l ih => rw [List.foldl_cons, ih, hf]

variable (m : Mach)

@[simp] theorem desk_setReg (o : Nat) (v : Word) : (m.setReg o v).desk b = m.desk b := rfl
@[simp] theorem desk_send (o : Out) : (m.send o).desk b = m.desk b := rfl
@[simp] theorem desk_setHead (h : Nat) (x : Head) : (m.setHead h x).desk b = m.desk b := rfl
@[simp] theorem desk_vote (u : Upset) : (vote m u).desk b = m.desk b := by
  simp only [vote, desk_ite]
  split_ifs <;> rfl

@[simp] theorem desk_voteStruck : (voteStruck m).desk b = m.desk b := desk_foldl b (fun t u => desk_vote b t u) _ _

/-! ### The controllers enter and leave self-refresh -/

@[simp] theorem upper_exitSr (k : Nat) : (m.exitSr k).upper = m.upper := by
  simp [Mach.exitSr]

@[simp] theorem upper_exitSrAll : m.exitSrAll.upper = m.upper := upper_foldl upper_exitSr _ _

@[simp] theorem upper_writeSpot (p : Purpose) (a : MAddr) (cw : Codeword) : (m.writeSpot p a cw).upper = m.upper := upper_sendWrite ..

@[simp] theorem upper_writeCanaries (ch sub : Nat) : (writeCanaries m ch sub).upper = m.upper := upper_foldl (fun _ _ => upper_writeSpot ..) _ _

@[simp] theorem upper_drainWrites (L : Image) (k : Nat) : (drainWrites L m k).upper = m.upper :=
  upper_foldl (fun _ _ => by simp) _ _

@[simp] theorem upper_drainQueues (L : Image) (k : Nat) : (drainQueues L m k).upper = m.upper := upper_runUntil ..

@[simp] theorem upper_payDebt (k : Nat) : (m.payDebt k).upper = m.upper :=
  upper_foldl (fun _ _ => upper_foldl (fun _ _ => by simp) _ _) _ _

@[simp] theorem upper_enterSr (L : Image) (k : Nat) (calm : Bool) : (enterSr L m k calm).upper = m.upper := by
  simp [enterSr]

@[simp] theorem upper_enterSrAll (L : Image) (calm : Bool) : (enterSrAll L m calm).upper = m.upper :=
  upper_foldl (fun _ _ => by simp) _ _

@[simp] theorem upper_safeSub (L : Image) (k : Nat) : (safeSub L m k).upper = m.upper := by
  simp [safeSub]

/-! ### An entry undone -/

@[simp] theorem desk_giveFrame (L : Image) (f : Nat) : (giveFrame L m f).desk b = m.desk b := by
  obtain ⟨_, _, _, _, given, -⟩ := giveFrame_upper L m f
  exact (desk_of_upper given).trans rfl

@[simp] theorem desk_deepBack (L : Image) : (deepBack L m).desk b = m.desk b := desk_foldl b (fun t f => desk_giveFrame b t L f) _ _

@[simp] theorem desk_undoEntry (L : Image) : (undoEntry L m).desk b = m.desk b := by
  unfold undoEntry
  split
  · rfl
  · extract_lets m1 m2 pwr scb m3
    have reached : m1.upper = m.upper := upper_foldl (fun t k => by rw [upper_ite, upper_reach, ite_self]) _ _
    have out : m2.desk b = m.desk b := desk_of_upper ((upper_exitSrAll m1).trans reached)
    clear_value m2
    have active : m3.desk b = m2.desk b := rfl
    exact (desk_deepBack b m3 L).trans (active.trans out)

/-! ### The safe state -/

@[simp] theorem desk_wokenByA : m.wokenByA.desk b = m.desk b := by
  unfold Mach.wokenByA
  split <;> rfl

@[simp] theorem desk_safeAnswer (r : Req) : (m.safeAnswer r).desk b = m.desk b := by
  unfold Mach.safeAnswer Mach.refuse
  split
  · rfl
  · split <;> rfl

@[simp] theorem desk_giveCredit (h : Nat) (k : ReqKind) : (m.giveCredit h k).desk b = m.desk b := by
  simp [Mach.giveCredit]

@[simp] theorem desk_safeHead (h : Nat) : (safeHead m h).desk b = m.desk b := by
  have credits (l : List Req) (t : Mach) : (l.foldl (fun m r => if r.quiet then m else m.giveCredit h r.kind) t).desk b = t.desk b :=
    desk_foldl b (fun t r => by simp) l t
  have answers (l : List Req) (t : Mach) : (l.foldl Mach.safeAnswer t).desk b = t.desk b := desk_foldl b (fun t r => desk_safeAnswer b t r) l t
  simp [safeHead, credits, answers]

@[simp] theorem desk_safeViral (h : Nat) : (safeViral m h).desk b = m.desk b := by
  simp [safeViral]

/-- An empty home stays empty. -/
theorem desk_safeHome {m : Mach} (trk : m.home.trk = []) (fills : m.home.fills = []) : (safeHome m).desk b = m.desk b := by
  refine (desk_foldl b (fun t r => desk_safeAnswer b t r) _ _).trans ?_
  simp [Mach.desk, trk, fills]

@[simp] theorem desk_ykFlit (vc : Nat) (o : Out) : (m.ykFlit vc o).desk b = m.desk b := by
  unfold Mach.ykFlit
  dsimp only
  split_ifs
  · rfl
  · exact (desk_of_upper (upper_pmuEvent ..)).trans rfl
  · rfl

/-- Entering the safe state with nothing at the home. -/
theorem desk_safeMach (L : Image) {m : Mach} (trk : m.home.trk = []) (fills : m.home.fills = []) : (safeMach L m).desk b = m.desk b := by
  unfold safeMach
  extract_lets m1 m2 m3 yoke m4 m5 scb tally pwr tst m6 r flt
  have heads : ((List.range 8).foldl safeHead m1).desk b = m.desk b :=
    (desk_foldl b (fun t h => desk_safeHead b t h) _ _).trans (desk_wokenByA b m)
  have home : m2.desk b = m.desk b := (desk_safeHome b (trk_of_desk heads trk) ((fills_of_desk heads).trans fills)).trans heads
  have viral : m3.desk b = m.desk b := (desk_foldl b (fun t h => desk_safeViral b t h) _ _).trans home
  clear_value m3
  have told : m4.desk b = m.desk b := (desk_ykFlit b _ _ _).trans viral
  clear_value m4
  have drained : (allSubs.foldl (safeSub L) m4).upper = m4.upper := upper_foldl (fun t k => upper_safeSub t L k) _ _
  have asleep : m5.desk b = m.desk b := (desk_of_upper ((upper_enterSrAll _ L false).trans drained)).trans told
  clear_value m5
  have safe : m6.desk b = m.desk b := asleep
  split
  · exact safe
  · exact safe

/-! ### Detections are taken -/

/-- The end of a step keeps the desk while nothing stands at the home. -/
structure DeskKept (m t : Mach) : Prop where
  kept : m.home.trk = [] → m.home.fills = [] → t.desk b = m.desk b

end

namespace DeskKept
variable {b : Bool} {m t u : Mach}

theorem of_desk (h : t.desk b = m.desk b) : DeskKept b m t := ⟨fun _ _ => h⟩

theorem trans (h : DeskKept b m t) (k : DeskKept b t u) : DeskKept b m u :=
  ⟨fun trk fills => have e := h.kept trk fills; (k.kept (trk_of_desk e trk) ((fills_of_desk e).trans fills)).trans e⟩

end DeskKept

section
variable {b : Bool}

theorem deskKept_take (s : State) (o : Occ) (inj real : Bool) : DeskKept b s.m (s.take o inj real).m := by
  have logged : DeskKept b s.m (record s.live (s.m.firstA o.src inj) o inj real) := by
    refine .of_desk ((desk_of_upper (recorded_record ..).upper).trans ?_)
    unfold Mach.firstA
    split <;> rfl
  unfold State.take
  split
  · dsimp only
    generalize record s.live (s.m.firstA o.src inj) o inj real = t at logged ⊢
    split
    · exact logged
    · have back : (deepBack s.live t).desk b = t.desk b := desk_deepBack b t s.live
      generalize deepBack s.live t = u at back ⊢
      have safe : DeskKept b u (safeMach s.live u) := ⟨fun trk fills => desk_safeMach b s.live trk fills⟩
      generalize safeMach s.live u = v at safe ⊢
      exact (logged.trans (.of_desk back)).trans safe
  · exact .of_desk (desk_of_upper (recorded_record s.live s.m o inj real).upper)

theorem deskKept_drainRaised (s : State) : DeskKept b s.m s.drainRaised.m := by
  have takes (l : List Occ) (t : State) (h : DeskKept b s.m t.m) : DeskKept b s.m (l.foldl (fun s o => s.take o false true) t).m := by
    induction l generalizing t with
    | nil => exact h
    | cons o l ih => exact ih _ (h.trans (deskKept_take t o false true))
  exact takes _ _ (.of_desk rfl)

/-- What is left of a step when what entered the controllers has been taken. -/
theorem deskKept_settled {s : State} (h : DeskKept b s.m (takeNews s.live newsRounds (voteStruck s.m))) : DeskKept b s.m (settle s).m := by
  have wrapped : DeskKept b s.m (wrapUp s.live (voteStruck s.m)) := by
    unfold wrapUp
    dsimp only
    split
    · exact h.trans (.of_desk (desk_undoEntry ..))
    · exact h
  generalize eq : wrapUp s.live (voteStruck s.m) = t at wrapped
  unfold settle
  rw [eq]
  exact (wrapped.trans (deskKept_drainRaised { s with m := t })).trans (deskKept_drainRaised _)

/-- Nothing has entered a controller unseen by the home. -/
theorem deskKept_settle_of_news {s : State} (h : s.m.mcs.subs.all (fun p => p.2.news.writes.isEmpty && p.2.news.fwd.isEmpty) = true) :
    DeskKept b s.m (settle s).m := by
  have struck : (voteStruck s.m).mcs = s.m.mcs := by
    have votes (l : List Upset) (t : Mach) : (l.foldl vote t).mcs = t.mcs := by
      induction l generalizing t with
      | nil => rfl
      | cons u l ih =>
        refine (ih _).trans ?_
        unfold vote
        dsimp only
        split_ifs <;> rfl
    exact votes _ _
  refine deskKept_settled ?_
  have none : takeNews s.live newsRounds (voteStruck s.m) = voteStruck s.m := by
    refine if_pos ?_
    rw [struck]
    exact h
  rw [none]
  exact .of_desk (desk_voteStruck ..)

end

/-! ### What entered the controllers -/

theorem desk_putEnt (m : Mach) (page : Nat) (e : LEnt) (changed : Bool) : (m.putEnt page e changed).desk false = m.desk false := by
  obtain ⟨_, _, put⟩ := putEnt_eq m page e changed
  rw [put]
  rfl

theorem desk_through (m : Mach) (page : Nat) : (m.through page).desk false = m.desk false := by
  obtain ⟨_, through⟩ := through_upper m page
  exact (desk_of_upper through).trans rfl

theorem desk_noteClean (m : Mach) (page : Nat) : (m.noteClean page).desk false = m.desk false := by
  unfold Mach.noteClean
  split
  · rw [desk_ite, desk_putEnt, ite_self]
  · rfl

theorem desk_wroteBack (m : Mach) (line : Nat) : (m.wroteBack line).desk false = m.desk false := by
  unfold Mach.wroteBack
  refine (desk_noteClean ..).trans ?_
  split
  · rw [desk_ite, desk_through, desk_putEnt, ite_self]
  · rfl

theorem desk_entered (m : Mach) (q : QEnt) : (m.entered q).desk false = m.desk false := by
  unfold Mach.entered
  split
  · rw [desk_ite, desk_wroteBack]
    split_ifs <;> rfl
  · rfl

theorem deskKept_answer (L : Image) (m : Mach) (k : Nat) (q : QEnt) (j : Judged) : DeskKept false m (answer L m k q j) := by
  unfold answer handOver
  split
  · refine .of_desk ?_
    split <;> rfl
  · refine ⟨fun trk _ => ?_⟩
    rw [trk]
    split <;> rfl

theorem deskKept_takeEntered (L : Image) (m : Mach) (k : Nat) (e : Entered) : DeskKept false m (takeEntered L m k e) := by
  have answers (l : List (QEnt × Codeword)) (t : Mach) (h : DeskKept false m t) :
      DeskKept false m (l.foldl (fun m p => answer L m k p.1 (m.judgeEnt L p.1 (bytesOf p.2 80))) t) := by
    induction l generalizing t with
    | nil => exact h
    | cons p l ih => exact ih _ (h.trans (deskKept_answer ..))
  exact answers _ _ (.of_desk (desk_foldl false desk_entered _ _))

theorem deskKept_takeNews (L : Image) (n : Nat) (m : Mach) : DeskKept false m (takeNews L n m) := by
  have subs (l : List Nat) {m t : Mach} (h : DeskKept false m t) :
      DeskKept false m (l.foldl (fun m k => takeEntered L (m.setSub k { m.sub k with news := {} }) k (m.sub k).news) t) := by
    induction l generalizing t with
    | nil => exact h
    | cons k l ih =>
      refine ih ?_
      have seen : DeskKept false t (t.setSub k { t.sub k with news := {} }) := .of_desk rfl
      exact h.trans (seen.trans (deskKept_takeEntered ..))
  induction n generalizing m with
  | zero => exact .of_desk rfl
  | succ n ih =>
    unfold takeNews
    split
    · exact .of_desk rfl
    · have round := subs allSubs (m := m) (t := m) (.of_desk rfl)
      generalize allSubs.foldl _ m = t at round ⊢
      refine (round.trans ⟨fun trk fills => ?_⟩).trans (ih _)
      rw [pumpAll_idle trk fills]

/-- Settling a step keeps the jobs, host memory and the strainer while nothing stands at the home. -/
theorem deskKept_settle (s : State) : DeskKept false s.m (settle s).m :=
  deskKept_settled ((DeskKept.of_desk (desk_voteStruck ..)).trans (deskKept_takeNews ..))

end Sys2Proof.Machine
end

section
/-! PROOFS. A job's command (R224, R391, R395): it runs the job's pieces, and the piece that ends the job leaves its status and RESULT, with the
job off its churn. -/

namespace Sys2Proof.Machine

/-! ### A job put back -/

section
variable {m : Mach} {id : Nat} {j old : Job}

theorem id_of_job? (h : m.job? id = some j) : j.id = id := by
  simpa using List.find?_some h

theorem job?_setJob (h : m.job? j.id = some old) : (m.setJob j).job? j.id = some j := by
  have same : ((fun x : Job => x.id == j.id) ∘ fun x => if x.id == j.id then j else x) = fun x => x.id == j.id := by
    funext x
    by_cases hx : x.id = j.id <;> simp [hx]
  have found : m.dqu.jobs.find? (fun x => x.id == j.id) = some old := h
  have own := id_of_job? h
  simp only [Mach.job?, Mach.setJob, List.find?_map, same, found]
  simp [own]

end

/-! ### A job ends -/

/-- A job has ended with a status and a RESULT, and no churn runs it. -/
structure Mach.JobEnded (m : Mach) (id st r : Nat) : Prop where
  ended : ∃ j, m.job? id = some j ∧ j.st = .ended st r ∧ j.slot = 0
  off : m.churnOf (.job id) = none

theorem unrunJob_eq (m : Mach) (id : Nat) : ∃ chn, m.unrunJob id = { m with chn } ∧
    chn.run = m.chn.run.filter (fun (p : Nat × Running) => p.2 != .job id) := by
  unfold Mach.unrunJob
  dsimp only
  obtain ⟨_, _, _, filled⟩ := chnRefill_eq { m with
    chn := { m.chn with
      run := m.chn.run.filter (fun (p : Nat × Running) => p.2 != .job id)
      queues := m.chn.queues.map (fun (p : Nat × List Running) => (p.1, p.2.filter (fun w => w != .job id)))
      wait := m.chn.wait.filter (fun p => p.2 != .job id)
      avoid := m.chn.avoid.filter (fun p => p.2 != .job id)
      preempt := m.chn.preempt.filter (fun p => p.2 != id && !((m.chn.run.filter (fun (p : Nat × Running) => !(p.2 != .job id))).map (·.1)).contains p.1) } }
  exact ⟨_, filled, rfl⟩

/-- Empty queues that are emptied stay as they are. -/
theorem emptied_still {m : Mach} (still : m.Still) {intq fab trk : List Req} (hi : intq = []) (hf : fab = []) (ht : trk = []) :
    ({ m with home := { m.home with intq, fab, trk } } : Mach) = m := by
  rw [hi.trans still.intq.symm, hf.trans still.fab.symm, ht.trans still.trk.symm]

/-- Work that is given up with nothing of it at the home or on its way to it. -/
theorem agentForget_still {m : Mach} (still : m.Still) (L : Image) (who : Nat) : agentForget L m who = m.unanswered who := by
  have mine : (m.unanswered who).Still := ⟨still.intq, still.fab, still.trk, still.fills⟩
  unfold agentForget
  rw [agentClear_still still]
  dsimp only
  rw [emptied_still mine (by simp [mine.intq]) (by simp [mine.fab]) (by simp [mine.trk])]
  exact pumpAll_idle mine.trk mine.fills L

/-- What follows the end of a job in its ring: a later descriptor of its context block is to end ABORTED (R397). -/
def Job.failsAfter (j x : Job) : Job :=
  if x.ring == j.ring && decide (j.id < x.id) && x.ctx == j.ctx && x.epoch == j.epoch then { x with ctxFail := true } else x

/-- A job's last state, with the number of its end. -/
def Mach.putEnded (m : Mach) (j : Job) (st r : Nat) : Mach :=
  ({ m with chn := { m.chn with started := m.chn.started + 1, slots := if j.slot = 1 then m.chn.slots - 1 else m.chn.slots } } : Mach).setJob
    { j with st := .ended st r, slot := 0, seq := m.chn.started + 1, held := [], res := [], coder := none, took := [] }

/-- The later descriptors of the job's context block are to end ABORTED. -/
def Mach.jobsFailed (m : Mach) (j : Job) : Mach := { m with dqu := { m.dqu with jobs := m.dqu.jobs.map j.failsAfter } }

section
variable {m : Mach} {id st r : Nat} {j old : Job}

theorem endJob_eq {L : Image} {t : Mach} (job : m.job? id = some j) (going : j.over = false)
    (forgot : agentForget L (m.unrunJob id) (whoJob id) = t) (h5 : st ≠ 5) (h6 : st ≠ 6) (h10 : st ≠ 10) :
    endJob L m id st r = if st ≤ 2 ∨ j.ctx = none then t.putEnded j st r else (t.putEnded j st r).jobsFailed j := by
  subst forgot
  unfold endJob
  rw [job]
  dsimp only
  split
  · next hs => simp [Job.over, hs] at going
  · simp only [h5, h6, h10, false_or, false_and, if_false]
    rfl

theorem job?_putEnded (h : m.job? j.id = some old) (st r : Nat) : ∃ e, (m.putEnded j st r).job? j.id = some e ∧ e.st = .ended st r ∧ e.slot = 0 ∧ e.id = j.id :=
  ⟨_, job?_setJob (m := { m with chn := { m.chn with started := m.chn.started + 1, slots := if j.slot = 1 then m.chn.slots - 1 else m.chn.slots } })
    (j := { j with st := .ended st r, slot := 0, seq := m.chn.started + 1, held := [], res := [], coder := none, took := [] }) h, rfl, rfl, rfl⟩

theorem job?_jobsFailed (h : m.job? j.id = some old) : (m.jobsFailed j).job? j.id = some old := by
  have same : ((fun x : Job => x.id == j.id) ∘ j.failsAfter) = fun x => x.id == j.id := by
    funext x
    simp only [Function.comp_apply, Job.failsAfter]
    split <;> rfl
  have found : m.dqu.jobs.find? (fun x => x.id == j.id) = some old := h
  have own := id_of_job? h
  simp only [Mach.job?, Mach.jobsFailed, List.find?_map, same, found]
  simp [Job.failsAfter, own]

/-- With nothing at the home a job ends, and the rest stays but the churns' work and the job's answers. -/
theorem endJob_still (L : Image) (still : m.Still) (job : m.job? id = some j) (going : j.over = false)
    (h5 : st ≠ 5) (h6 : st ≠ 6) (h10 : st ≠ 10) : (endJob L m id st r).JobEnded id st r ∧
      ∃ chn dqu, endJob L m id st r = { m.unanswered (whoJob id) with chn, dqu } := by
  obtain rfl := id_of_job? job
  obtain ⟨chn, unrun, run⟩ := unrunJob_eq m j.id
  have forgot : agentForget L (m.unrunJob j.id) (whoJob j.id) = ({ m with chn } : Mach).unanswered (whoJob j.id) := by
    rw [unrun]
    exact agentForget_still (m := { m with chn }) ⟨still.intq, still.fab, still.trk, still.fills⟩ L _
  have there : (({ m with chn } : Mach).unanswered (whoJob j.id)).job? j.id = some j := job
  obtain ⟨e, put, ended, slot, own⟩ := job?_putEnded there st r
  have off : List.find? (fun (p : Nat × Running) => p.2 == .job j.id) chn.run = none := by
    rw [run]
    refine List.find?_eq_none.mpr fun p hp => ?_
    simpa using (List.mem_filter.mp hp).2
  have gone (t : Mach) (h : t.chn.run = chn.run) : t.churnOf (.job j.id) = none := by
    rw [Mach.churnOf, h, off]
    rfl
  rw [endJob_eq job going forgot h5 h6 h10]
  split
  · exact ⟨⟨⟨e, put, ended, slot⟩, gone _ rfl⟩, _, _, rfl⟩
  · exact ⟨⟨⟨e, job?_jobsFailed put, ended, slot⟩, gone _ rfl⟩, _, _, rfl⟩

end

/-- A job that has ended has ended when the step is settled. -/
theorem jobEnded_settle {s : State} {id st r : Nat} (h : s.m.JobEnded id st r) (trk : s.m.home.trk = []) (fills : s.m.home.fills = []) :
    (settle s).m.JobEnded id st r := by
  obtain ⟨⟨j, job, ended⟩, off⟩ := h
  have dqu : (settle s).m.dqu = s.m.dqu := dqu_of_desk ((deskKept_settle s).kept trk fills)
  have run : (settle s).m.chn.run = s.m.chn.run := (congrArg Chn.run (storeKept_settle s).chn :)
  refine ⟨⟨j, ?_, ended⟩, ?_⟩
  · rw [Mach.job?, dqu]
    exact job
  · rw [Mach.churnOf, run]
    exact off

/-! ### A command that runs a job -/

section
variable {L : Image} {m : Mach} {id c : Nat} {j : Job}

theorem fuel_pos (j : Job) : 0 < j.fuel := by
  unfold Job.fuel
  omega

/-- A piece after which the job stops is the last that its command runs. -/
theorem runJob_stop {t : Mach} (h : jobPiece L m id = (.stop, t)) (once : Bool) {n : Nat} (hn : 0 < n) : runJob L once n id m = t := by
  obtain ⟨k, rfl⟩ := Nat.exists_eq_succ_of_ne_zero (Nat.ne_of_gt hn)
  unfold runJob
  rw [h]
  exact if_pos (.inl rfl)

/-- A job that is to be stopped at its next checkpoint runs one piece. -/
theorem runJob_check {t : Mach} (h : jobPiece L m id = (.check, t)) {n : Nat} (hn : 0 < n) : runJob L true n id m = t := by
  obtain ⟨k, rfl⟩ := Nat.exists_eq_succ_of_ne_zero (Nat.ne_of_gt hn)
  unfold runJob
  rw [h]
  exact if_pos (.inr ⟨rfl, rfl⟩)

variable (job : m.job? id = some j) (running : j.st = .running c)
include job running

theorem jobPiece_stale (stale : j.stale = true) : jobPiece L m id = (.stop, stopJob L m id 6) := by
  unfold jobPiece
  rw [job]
  dsimp only
  rw [running]
  exact if_pos stale

variable (fresh : j.stale = false) (own : m.chn.lent.find? c = none)
include fresh own

/-- What follows a job's piece, done or not. -/
def workEnd (L : Image) : Option (Piece × Job) × Mach → Ran × Mach
  | (some (p, j), m) => pieceEnd L m p j
  | (none, m) => (.stop, m)

theorem jobPiece_work {w : Option (Piece × Job) × Mach} (h : runWork L (whoJob id) (pieceWork L j) askRounds (jobPrep L j m) = w) :
    jobPiece L m id = workEnd L w := by
  unfold jobPiece
  rw [job]
  dsimp only
  rw [running]
  have going : ¬ j.stale = true := by simp [fresh]
  have kept : ¬ (m.chn.lent.find? c).isSome = true := by simp [own]
  refine (if_neg going).trans ((if_neg kept).trans ?_)
  generalize hw : runWork _ _ _ _ _ = v
  obtain rfl : v = w := hw.symm.trans h
  obtain ⟨_ | ⟨p, j'⟩, m'⟩ := v <;> rfl

end

/-- A piece whose page is none that is denied does its opcode's work. -/
theorem pieceWork_ok {L : Image} {m t : Mach} {j j' : Job} {p : Piece} (denied : m.deniedPage (whoJob j.id) = none)
    (h : pieceOf L { j with asked := 0 } m = .ok p j' t) : pieceWork L j m = .ok (p, j') t := by
  unfold pieceWork
  rw [denied, ite_self, h]

/-- A job runs, by the machinery alone, and nothing stands in its way. -/
structure Mach.OnChurn (m : Mach) (id c : Nat) (j : Job) : Prop where
  job : m.job? id = some j
  running : j.st = .running c
  fresh : j.stale = false
  lent : m.chn.lent.find? c = none
  denied : m.deniedPage (whoJob id) = none

section
variable {L : Image} {m t : Mach} {id c : Nat} {j j' : Job}

theorem over_running (h : j.st = .running c) : j.over = false := by
  unfold Job.over
  rw [h]

theorem job?_agentClear (who : Nat) : (m.agentClear who).job? id = m.job? id := by
  obtain ⟨home, locked, cleared⟩ := agentClear_eq m who
  rw [cleared]
  rfl

section
variable (on : m.OnChurn id c j) (prep : jobPrep L j m = m) {p : Piece} (piece : pieceOf L { j with asked := 0 } m = .ok p j' t)
  (still : (t.agentClear (whoJob id)).Still) (has : (t.job? id).isSome = true) (own : j'.id = id)
include on prep piece still has own

/-- After the piece its job is put back with its new state. -/
theorem jobPiece_done : ∃ u : Mach, u = (t.agentClear (whoJob id)).setJob { j' with asked := 0 } ∧ u.Still ∧ u.job? id = some { j' with asked := 0 } ∧
    u.pumpAll L = u ∧ jobPiece L m id = workEnd L (some (p, j'), t.agentClear (whoJob id)) := by
  subst own
  have work := runWork_pos (pieceWork_ok ((id_of_job? on.job).symm ▸ on.denied) piece) L (whoJob j'.id) (n := askRounds) (by decide)
  rw [← prep] at work
  obtain ⟨old, there⟩ := Option.isSome_iff_exists.mp has
  rw [← job?_agentClear (whoJob j'.id)] at there
  have idle : ((t.agentClear (whoJob j'.id)).setJob { j' with asked := 0 }).Still := ⟨still.intq, still.fab, still.trk, still.fills⟩
  exact ⟨_, rfl, idle, job?_setJob (j := { j' with asked := 0 }) there, pumpAll_idle idle.trk idle.fills L,
    jobPiece_work on.job on.running on.fresh on.lent work⟩

end

/-- A command whose first piece ends its job ends it with the piece's status and RESULT. -/
theorem runJob_ends (on : m.OnChurn id c j) (prep : jobPrep L j m = m) {st r : Nat}
    (piece : pieceOf L { j with asked := 0 } m = .ok (.ended st r) j' t) (still : (t.agentClear (whoJob id)).Still)
    (has : (t.job? id).isSome = true) (own : j'.id = id) (going : j'.st = j.st) (sound : j'.retired = false)
    (h5 : st ≠ 5) (h6 : st ≠ 6) (h10 : st ≠ 10) : (runJob L false j.fuel id m).JobEnded id st (r % 2 ^ 48) ∧
      ∃ chn dqu, runJob L false j.fuel id m = { (t.agentClear (whoJob id)).unanswered (whoJob id) with chn, dqu } := by
  obtain ⟨u, hu, idle, put, pumped, done⟩ := jobPiece_done on prep piece still has own
  have ends : jobPiece L m id = (.stop, endJob L u id st (r % 2 ^ 48)) := by
    have healthy : ¬ (j'.retired = true ∧ st ≤ 2) := by simp [sound]
    refine done.trans (congrArg (Prod.mk Ran.stop) ((if_neg healthy).trans ?_))
    rw [← hu, pumped, own]
  rw [runJob_stop ends false (fuel_pos j)]
  obtain ⟨ended, chn, dqu, rest⟩ := endJob_still L idle put (over_running (c := c) (going.trans on.running)) h5 h6 h10
  exact ⟨ended, chn, dqu, by rw [rest, hu]; rfl⟩

end

/-! ### What a job's last piece leaves -/

/-- The state in which a piece's work has been settled, as far as the piece decides it. -/
structure PieceLeft (s : State) (t : Mach) (x : State) : Prop where
  hostMem : x.m.hostMem = t.hostMem
  strn : x.m.strn = t.strn
  lines : t.mcs.subs.all (fun p => p.2.news.writes.isEmpty && p.2.news.fwd.isEmpty) = true → x.m.led.lines = t.led.lines
  quiet : Quiet { s with m := t } → x.m.tally = t.tally ∧ x.m.led.lines = t.led.lines ∧ x.m.home.lc = t.home.lc

theorem lc_agentClear (m : Mach) (who : Nat) : (m.agentClear who).home.lc = m.home.lc := by
  unfold Mach.agentClear
  dsimp only
  split <;> rfl

theorem pieceLeft_settle {s : State} {t w : Mach} {who : Nat} {chn : Chn} {dqu : Dqu}
    (e : w = { (t.agentClear who).unanswered who with chn, dqu }) (trk : w.home.trk = []) (fills : w.home.fills = []) :
    PieceLeft s t (settle { s with m := w }) := by
  have desk := (deskKept_settle { s with m := w }).kept trk fills
  have lc : w.home.lc = t.home.lc := by
    rw [e]
    exact lc_agentClear t who
  obtain ⟨home, locked, cleared⟩ := agentClear_eq t who
  rw [cleared] at e
  have hostMem : w.hostMem = t.hostMem := by rw [e]; rfl
  have strn : w.strn = t.strn := by rw [e]; rfl
  have mcs : w.mcs = t.mcs := by rw [e]; rfl
  have lines : w.led.lines = t.led.lines := by rw [e]; rfl
  refine ⟨(hostMem_of_desk desk).trans hostMem, (strn_of_desk desk).trans strn, fun news => ?_, fun quiet => ?_⟩
  · rw [← mcs] at news
    exact (lines_of_desk ((deskKept_settle_of_news (s := { s with m := w }) news).kept trk fills)).trans lines
  · have still : Quiet { s with m := w } := quiet_of_kept (s := { s with m := t }) quiet (by rw [e]; rfl) (by rw [e]; rfl) (by rw [e]; rfl) mcs
    rw [settle_quiet _ still]
    exact ⟨by rw [e]; rfl, lines, lc⟩

/-! ### The commands of the operations -/

section
variable {s : State} {id c : Nat} {j : Job}

theorem onChurn_of_jobOn (on : JobOn s id c j) : s.m.OnChurn id c j := by
  obtain ⟨-, -, job, -, running, fresh, -, lent, denied⟩ := on
  exact ⟨job, running, fresh, lent, denied⟩

/-- A command whose machine has ended its job ends it when it is settled. -/
theorem endsJob_settle {i : Instr} {st r : Nat} {w : Mach} {P : State → Prop} (cmd : exec i s = .next (settle { s with m := w }))
    (ended : w.JobEnded id st r) (trk : w.home.trk = []) (fills : w.home.fills = []) (hP : P (settle { s with m := w })) : EndsJob i s id st r P := by
  obtain ⟨⟨e, job, st, -⟩, off⟩ := jobEnded_settle (s := { s with m := w }) ended trk fills
  exact ⟨_, cmd, ⟨e, job, st⟩, off, hP⟩

theorem EndsJob.imp {i : Instr} {st r : Nat} {P Q : State → Prop} (h : EndsJob i s id st r P) (hPQ : ∀ x, P x → Q x) : EndsJob i s id st r Q := by
  obtain ⟨t, cmd, ended, off, hP⟩ := h
  exact ⟨t, cmd, ended, off, hPQ t hP⟩

theorem opExec_runs (latch : s.latch = false) (job : s.m.job? id = some j) {op : Nat} (hop : j.op = op) :
    opExec op id s = .next (settle { s with m := runJob s.live false j.fuel id s.m }) := by
  have run : runOp s.live s.m op id = runJob s.live false j.fuel id s.m := by
    unfold runOp
    rw [job]
    exact if_pos hop
  rw [← run]
  exact work_open latch _

/-- A command whose first piece ends its job. -/
theorem endsJob_of_piece (on : JobOn s id c j) {i : Instr} (cmd : exec i s = .next (settle { s with m := runJob s.live false j.fuel id s.m }))
    (prep : jobPrep s.live j s.m = s.m) {st r : Nat} {j' : Job} {t : Mach} (piece : pieceOf s.live { j with asked := 0 } s.m = .ok (.ended st r) j' t)
    (still : (t.agentClear (whoJob id)).Still) (has : (t.job? id).isSome = true) (own : j'.id = j.id) (going : j'.st = j.st)
    (sound : j'.retired = j.retired) (h5 : st ≠ 5) (h6 : st ≠ 6) (h10 : st ≠ 10) : EndsJob i s id st (r % 2 ^ 48) (PieceLeft s t) := by
  have churn := onChurn_of_jobOn on
  obtain ⟨-, -, job, mine, -, -, retired, -⟩ := on
  obtain ⟨ended, chn, dqu, rest⟩ := runJob_ends churn prep piece still has (own.trans mine) going (sound.trans retired) h5 h6 h10
  generalize runJob s.live false j.fuel id s.m = w at cmd ended rest
  have trk : w.home.trk = [] := by rw [rest]; exact still.trk
  have fills : w.home.fills = [] := by rw [rest]; exact still.fills
  exact endsJob_settle cmd ended trk fills (pieceLeft_settle rest trk fills)

/-- The same with nothing on its way at the home, for a piece that leaves the home and the jobs alone. -/
theorem endsJob_of_calm (runs : JobRuns s id c j) {i : Instr} (cmd : exec i s = .next (settle { s with m := runJob s.live false j.fuel id s.m }))
    (prep : jobPrep s.live j s.m = s.m) {st r : Nat} {j' : Job} {t : Mach} (piece : pieceOf s.live { j with asked := 0 } s.m = .ok (.ended st r) j' t)
    (home : t.home = s.m.home) (dqu : t.dqu = s.m.dqu) (own : j'.id = j.id) (going : j'.st = j.st)
    (sound : j'.retired = j.retired) (h5 : st ≠ 5) (h6 : st ≠ 6) (h10 : st ≠ 10) : EndsJob i s id st (r % 2 ^ 48) (PieceLeft s t) := by
  obtain ⟨on, calm⟩ := runs
  have still : t.Still := by
    obtain ⟨intq, fab, trk, fills⟩ := still_of_calm calm
    exact ⟨home ▸ intq, home ▸ fab, home ▸ trk, home ▸ fills⟩
  refine endsJob_of_piece on cmd prep piece ?_ ?_ own going sound h5 h6 h10
  · rw [agentClear_still still]
    exact ⟨still.intq, still.fab, still.trk, still.fills⟩
  · rw [Mach.job?, dqu]
    exact Option.isSome_iff_exists.mpr ⟨j, on.2.2.1⟩

end

end Sys2Proof.Machine
end

section
/-! PROOFS. The pieces of the data operations (R205-R210, R236-R240, R387-R390) over host memory: none of them waits, and what they write is
what the operation says. -/

namespace Sys2Proof.Machine

/-! ### Host memory as a job reaches it -/

@[simp] theorem good_clean (l : List Byte) : good (clean l) = l := by
  induction l with
  | nil => rfl
  | cons b l ih => exact congrArg (List.cons b) ih

@[simp] theorem map_clean (l : List Byte) : (clean l).map (·.1) = l := by
  simp [clean, Function.comp_def]

@[simp] theorem length_clean (l : List Byte) : (clean l).length = l.length := List.length_map ..

@[simp] theorem length_bytes (bg : Byte) (c : Memory) (k n : Nat) : (Memory.bytes bg c k n).length = n := by
  simp [Memory.bytes]

/-- Bytes written to the host memory that a job's ring reaches. -/
def Mach.hostPut (m : Mach) (L : Image) (j : Job) (addr : Nat) (bs : List Byte) : Mach :=
  m.setHost (hostKey L j.ring) (Memory.putAll hostBg (m.host (hostKey L j.ring)) (addr % 2 ^ 64) bs)

/-- Bytes read from the host memory that a job's ring reaches. -/
def Mach.hostBytes (m : Mach) (L : Image) (j : Job) (addr n : Nat) : List Byte :=
  Memory.bytes hostBg (m.host (hostKey L j.ring)) (addr % 2 ^ 64) n

@[simp] theorem length_hostBytes (m : Mach) (L : Image) (j : Job) (addr n : Nat) : (m.hostBytes L j addr n).length = n := length_bytes ..

@[simp] theorem host_hostPut (m : Mach) (L : Image) (j : Job) (addr : Nat) (bs : List Byte) : (m.hostPut L j addr bs).host (hostKey L j.ring)
    = Memory.putAll hostBg (m.host (hostKey L j.ring)) (addr % 2 ^ 64) bs := Tbl.get_set_self ..

section
variable (L : Image) (m : Mach) (j : Job)

theorem readSpan_host (addr n : Nat) : readSpan L false addr n j m = .ok (clean (m.hostBytes L j addr n)) j m := by
  unfold readSpan
  split
  · next h =>
    subst h
    rfl
  · rfl

variable {dpa : Bool} (host : dpa = false) (addr : Nat)
include host

/-- What follows a read of host memory. -/
theorem readSpan_bind {α : Type} (n : Nat) (f : List (Byte × Bool) → Job → Mach → Acc α) :
    (readSpan L dpa addr n j m).bind f = f (clean (m.hostBytes L j addr n)) j m := by
  rw [host, readSpan_host]
  rfl

/-- What follows a write to host memory. -/
theorem writeSpan_bind {α : Type} (bs : List (Byte × Bool)) (f : Unit → Job → Mach → Acc α) :
    (writeSpan L dpa addr bs j m).bind f = f () j (m.hostPut L j addr (bs.map (·.1))) := by
  rw [host]
  rfl

end

/-! ### COPY, FILL and CHECKSUM -/

section
variable {L : Image} {m : Mach} {j : Job}

/-- Work that goes on with a value at once. -/
theorem Acc.bind_ok {α β : Type} {r : Acc α} {a : α} {j : Job} {m : Mach} (h : r = .ok a j m) (f : α → Job → Mach → Acc β) : r.bind f = f a j m := by
  rw [h]
  rfl

theorem ok_ite {α : Type} (c : Prop) [Decidable c] (a b : α) (j : Job) (m : Mach) :
    (if c then Acc.ok a j m else .ok b j m) = .ok (if c then a else b) j m := by
  split <;> rfl

/-- A job that has gone on by `n` bytes and written as many. -/
def Job.copied (j : Job) (n : Nat) : Job := { j with prog := j.prog + n, wrote := j.wrote + n }

theorem copyPiece_host (src : j.srcDpa = false) (dst : j.dstDpa = false) {n : Nat} (hn : n = min 8192 (j.len - j.prog)) :
    copyPiece L j m = .ok (if j.len ≤ j.prog + n then .ended 0 (j.wrote + n) else .more) (j.copied n)
      (m.hostPut L j (j.dst + j.prog) (m.hostBytes L j (j.src + j.prog) n)) := by
  subst hn
  refine (readSpan_bind L m j src _ _ _).trans ((writeSpan_bind L m j dst _ _ _).trans ?_)
  simp only [dst, good_clean, map_clean, Bool.false_eq_true, if_false, length_clean, length_hostBytes, Nat.lt_irrefl]
  exact ok_ite ..

theorem fillPiece_host (dst : j.dstDpa = false) {n : Nat} (hn : n = min 8192 (j.len - j.prog)) :
    fillPiece L j m = .ok (if j.len ≤ j.prog + n then .ended 0 (j.wrote + n) else .more) (j.copied n)
      (m.hostPut L j (j.dst + j.prog) ((List.range n).map (fun i => (bytesOfNat j.arg0 8).getD ((j.prog + i) % 8) 0#8))) := by
  subst hn
  refine (writeSpan_bind L m j dst _ _ _).trans ?_
  rw [map_clean]
  exact ok_ite ..

/-- The value of a checksum over bytes, by the algorithm and the seed of the descriptor. -/
def Job.checksum (j : Job) (bs : List Byte) : Word :=
  if j.arg0 % 4 = 0 then Codec.crc32c (BitVec.ofNat 32 (j.arg1 % 2 ^ 32)) bs
  else if j.arg0 % 4 = 1 then Codec.crc32 (BitVec.ofNat 32 (j.arg1 % 2 ^ 32)) bs else Codec.adler32 (BitVec.ofNat 32 (j.arg1 % 2 ^ 32)) bs

theorem checksumPiece_host (src : j.srcDpa = false) (first : j.prog = 0) (short : j.len ≤ 8192) :
    checksumPiece L j m = .ok (.ended 0 (j.checksum (m.hostBytes L j (j.src + j.prog) j.len)).toNat)
      { j with prog := j.len, acc := (j.checksum (m.hostBytes L j (j.src + j.prog) j.len)).toNat } m := by
  have all : min 8192 (j.len - j.prog) = j.len := by omega
  refine (readSpan_bind L m j src _ _ _).trans ?_
  rw [all]
  simp only [good_clean, length_hostBytes, Nat.lt_irrefl, if_false, first, if_true, Nat.zero_add]
  exact if_pos (Nat.le_refl j.len)

/-- The check of a culture image (R187). -/
theorem trainPiece_check (check : j.arg0 % 2 = 1) (src : j.srcDpa = false) {bs : List Byte} (hb : bs = m.hostBytes L j j.src 33024) :
    trainPiece L j m = .ok (.ended (if Yelrin.imgOk bs then 0 else 4) 0) j m := by
  rw [hb]
  refine (if_pos check).trans ((readSpan_bind L m j src _ _ _).trans ?_)
  simp only [good_clean, length_hostBytes, Nat.lt_irrefl, if_false]
  split <;> rfl

end

/-! ### COMPRESS of a whole stream -/

/-- What a piece leaves of its job, whatever it has done. -/
structure Job.Kept (j j' : Job) : Prop where
  id : j'.id = j.id
  st : j'.st = j.st
  retired : j'.retired = j.retired

/-- A stream between buffers in host memory, at its first piece, without a context block. -/
structure Job.Begins (j : Job) : Prop where
  src : j.srcDpa = false
  dst : j.dstDpa = false
  prog : j.prog = 0
  wrote : j.wrote = 0
  coder : j.coder = none
  loadCnt : j.loadCnt = none
  aux : j.aux = 0
  start : j.sStart = true

/-- The stream that a COMPRESS without a culture begins. -/
def Job.newEncoding (j : Job) : Ctx :=
  { fmt := j.fmt, dir := false, cult := none, loads := 0, inTot := 0, outTot := 0, chk := (Yelrin.chkInit j.fmt), hist := [], pend := 0, nums := [] }

section
variable {L : Image} {m : Mach} {j : Job}

theorem ctx_none (h : j.aux = 0) : j.ctx = none := by
  simp [Job.ctx, h]

theorem keepCtx_bind {α : Type} (h : j.ctx = none) (c : Ctx) (ended : Bool) (total : Nat) (f : Unit → Job → Mach → Acc α) :
    (keepCtx L c ended total j m).bind f = f () j m := by
  unfold keepCtx
  rw [h]
  rfl

theorem replaced_none (h : j.loadCnt = none) : m.replaced j = false := by
  simp [Mach.replaced, h]

theorem overflow_host (dst : j.dstDpa = false) (out : List Byte) : ∃ bs, overflow L out j m = .ok (.ended 11 0) j (m.hostPut L j (j.dst + j.wrote) bs) :=
  ⟨_, (readSpan_bind L m j dst _ _ _).trans (writeSpan_bind L m j dst _ _ _)⟩

/-- A job that has written `n` bytes more. -/
def Job.put (j : Job) (n : Nat) : Job := { j with wrote := j.wrote + n }

theorem putOut_bind {α : Type} (dst : j.dstDpa = false) (out : List Byte) (f : Unit → Job → Mach → Acc α) :
    (putOut L out j m).bind f = f () (j.put out.length) (m.hostPut L j (j.dst + j.wrote) out) := by
  unfold putOut
  rw [writeSpan_bind L m j dst, map_clean]
  rfl

theorem encBegin_new (b : j.Begins) (plain : j.cultEn = false) : encBegin L j m = .ok (.ok j.newEncoding) j m := by
  unfold encBegin beginStream Job.newEncoding Job.slot?
  simp [b.coder, b.start, plain]

theorem encOf_new (m : Mach) (j : Job) : (encOf m j.newEncoding).pend = [] ∧ (encOf m j.newEncoding).cult = none := ⟨rfl, rfl⟩

/-- A COMPRESS at the end of its input, with its output and the encoder after it. -/
def encodeEnd (L : Image) (c : Ctx) (empty : Bool) (out : List Byte) (e : Yelrin.Enc) (j : Job) (m : Mach) : PieceOut :=
  if j.dlen - j.wrote < out.length then overflow L out j m
  else if j.sEnd ∧ !empty ∧ e.total ≤ e.written then
    (writeSpan L j.dstDpa j.dst (j.freeBytes 0 j.dlen) j m).bind fun _ j m =>
      (keepCtx L (encCtx e c.loads) true e.total j m).bind fun _ j m => .ok (.ended 2 0) j m
  else
    (putOut L out j m).bind fun _ j m =>
      (keepCtx L (encCtx e c.loads) j.sEnd e.total j m).bind fun _ j m =>
        .ok (if empty then .ended 1 0 else .ended 0 j.wrote) j m

/-- A COMPRESS at the end of its input, with the bytes that are left of it. -/
def encodeLast (L : Image) (c : Ctx) (first : Bool) (bs : List Byte) (j : Job) (m : Mach) : PieceOut :=
  let empty := first && j.sEnd && j.len == 0
  let r := (encOf m c).feed m.cultImg bs first j.sEnd
  let out := if empty then Yelrin.emptyForm j.fmt else r.2
  encodeEnd L c empty out (if empty then { r.1 with written := out.length } else r.1) j m

/-- A stream that ends within a block is coded in one piece. -/
theorem compressPiece_whole (b : j.Begins) (plain : j.cultEn = false) (short : j.len ≤ 16384) :
    compressPiece L j m = encodeLast L j.newEncoding true (m.hostBytes L j j.src j.len) { j with loadCnt := none } m := by
  have going : ¬ m.replaced j = true := by simp [replaced_none b.loadCnt]
  have free : ¬ m.copyingSlot j.slot? = true := by simp [Job.slot?, plain, Mach.copyingSlot]
  have all : min (j.len - j.prog) (16384 - (encOf m j.newEncoding).pend.length) = j.len := by
    rw [(encOf_new m j).1, b.prog, List.length_nil]
    omega
  have read : good (clean (m.hostBytes L j (j.src + j.prog) j.len)) = m.hostBytes L j j.src j.len := by
    rw [good_clean, b.prog, Nat.add_zero]
  have first : (j.sStart && j.coder.isNone) = true := by simp [b.start, b.coder]
  have last : ¬ ((m.hostBytes L j j.src j.len).length < j.len ∨ j.prog + j.len < j.len) := by
    rw [b.prog, length_hostBytes]
    omega
  unfold compressPiece
  rw [if_neg going, if_neg free, encBegin_new b plain]
  refine (readSpan_bind (α := Piece) L m { j with loadCnt := none } b.src _ _ _).trans ((if_neg ?_).trans ?_)
  · show ¬ ((good (clean (m.hostBytes L j (j.src + j.prog) (min (j.len - j.prog) (16384 - (encOf m j.newEncoding).pend.length))))).length
      < min (j.len - j.prog) (16384 - (encOf m j.newEncoding).pend.length)
      ∨ j.prog + min (j.len - j.prog) (16384 - (encOf m j.newEncoding).pend.length) < j.len)
    rw [all, read]
    exact last
  · show encodeLast L j.newEncoding (j.sStart && j.coder.isNone) (good (clean (m.hostBytes L j (j.src + j.prog)
      (min (j.len - j.prog) (16384 - (encOf m j.newEncoding).pend.length))))) { j with loadCnt := none } m = _
    rw [all, read, first]

section
variable (b : j.Begins) (c : Ctx) (bs : List Byte)
include b

/-- The empty form of a stream without bytes. -/
theorem encodeLast_empty (ends : j.sEnd = true) (none : j.len = 0) (room : (Yelrin.emptyForm j.fmt).length ≤ j.dlen) :
    ∃ j', j.Kept j' ∧ encodeLast L c true bs j m = .ok (.ended 1 0) j' (m.hostPut L j j.dst (Yelrin.emptyForm j.fmt)) := by
  have fits : ¬ j.dlen - j.wrote < (Yelrin.emptyForm j.fmt).length := by rw [b.wrote]; omega
  refine ⟨j.put (Yelrin.emptyForm j.fmt).length, ⟨rfl, rfl, rfl⟩, ?_⟩
  simp only [encodeLast, encodeEnd, ends, none, beq_self_eq_true, Bool.and_self, if_true, fits, if_false, Bool.not_true, Bool.false_eq_true,
    false_and, and_false, putOut_bind b.dst]
  refine (keepCtx_bind (ctx_none (j := j.put (Yelrin.emptyForm j.fmt).length) b.aux) _ _ _ _).trans ?_
  rw [b.wrote]
  rfl

variable (ends : j.sEnd = true) (some : 0 < j.len) {e : Yelrin.Enc} {out : List Byte} (coded : (encOf m c).feed m.cultImg bs true true = (e, out))
include ends some coded

omit b in
theorem encodeLast_some : encodeLast L c true bs j m = encodeEnd L c false out e j m := by
  have full : (j.len == 0) = false := by simpa using Nat.ne_of_gt some
  simp only [encodeLast, ends, full, Bool.and_false, coded]
  rfl

/-- OVERFLOW where the output does not fit (R205). -/
theorem encodeLast_overflow (room : j.dlen < out.length) :
    ∃ at', encodeLast L c true bs j m = .ok (.ended 11 0) j (m.hostPut L j (j.dst + j.wrote) at') := by
  rw [encodeLast_some c bs ends some coded]
  obtain ⟨mix, mixed⟩ := overflow_host (L := L) (m := m) b.dst out
  have full : j.dlen - j.wrote < out.length := by rw [b.wrote]; omega
  exact ⟨mix, (if_pos full).trans mixed⟩

/-- NO_SHRINK where the output is no shorter than the input (R207). -/
theorem encodeLast_noShrink (room : out.length ≤ j.dlen) (long : e.total ≤ e.written) :
    ∃ at', encodeLast L c true bs j m = .ok (.ended 2 0) j (m.hostPut L j j.dst at') := by
  rw [encodeLast_some c bs ends some coded]
  have fits : ¬ j.dlen - j.wrote < out.length := by rw [b.wrote]; omega
  refine ⟨(j.freeBytes 0 j.dlen).map (·.1), (if_neg fits).trans ((if_pos ⟨ends, rfl, long⟩).trans ?_)⟩
  exact (writeSpan_bind L m j b.dst _ _ _).trans (keepCtx_bind (ctx_none b.aux) _ _ _ _)

/-- The coded form otherwise. -/
theorem encodeLast_coded (room : out.length ≤ j.dlen) (short : e.written < e.total) :
    ∃ j', j.Kept j' ∧ encodeLast L c true bs j m = .ok (.ended 0 out.length) j' (m.hostPut L j j.dst out) := by
  rw [encodeLast_some c bs ends some coded]
  have fits : ¬ j.dlen - j.wrote < out.length := by rw [b.wrote]; omega
  have shrunk : ¬ (j.sEnd = true ∧ (!false) = true ∧ e.total ≤ e.written) := by omega
  refine ⟨j.put out.length, ⟨rfl, rfl, rfl⟩, (if_neg fits).trans ((if_neg shrunk).trans ?_)⟩
  refine (putOut_bind b.dst _ _).trans ((keepCtx_bind (ctx_none (j := j.put out.length) b.aux) _ _ _ _).trans ?_)
  simp only [Job.put, b.wrote, Nat.zero_add]
  rfl

end

/-! ### DECOMPRESS of a whole stream -/

/-- The stream that a DECOMPRESS begins. -/
def Job.newDecoding (j : Job) : Ctx :=
  { fmt := j.fmt, dir := true, cult := none, loads := 0, inTot := 0, outTot := 0, chk := Yelrin.chkInit j.fmt, hist := [], pend := 0,
    nums := ({ fmt := j.fmt, chk := Yelrin.chkInit j.fmt } : Yelrin.Dec).toNats }

theorem decBegin_new (b : j.Begins) : decBegin L j m = .ok (.ok j.newDecoding) j m := by
  unfold decBegin beginStream Job.newDecoding
  simp [b.coder, b.start]

/-- A decoder without input, written down and read again. -/
theorem decOf_new (m : Mach) (j : Job) : decOf m j.newDecoding = { fmt := j.fmt, chk := Yelrin.chkInit j.fmt } := by
  simp [decOf, Job.newDecoding, Mach.dictRev, Yelrin.Dec.ofNats, Yelrin.Dec.toNats]

/-- Decoding from host memory moves the job on in its input and changes nothing else. -/
theorem decLoop_host (src : j.srcDpa = false) {room n : Nat} {d : Yelrin.Dec} {r : Yelrin.End × Yelrin.Dec × Bool} {j' : Job} {m' : Mach}
    (h : decLoop L room n d j m = .ok r j' m') : m' = m ∧ ∃ prog, j' = { j with prog } := by
  induction n generalizing d j with
  | zero =>
    cases h
    exact ⟨rfl, _, rfl⟩
  | succ n ih =>
    unfold decLoop at h
    dsimp only at h
    split at h
    · cases h
      exact ⟨rfl, _, rfl⟩
    · replace h := (readSpan_bind L m j src _ _ _).symm.trans h
      split at h
      · cases h
        exact ⟨rfl, _, rfl⟩
      · obtain ⟨rfl, prog, rfl⟩ := ih (by exact src) h
        exact ⟨rfl, prog, rfl⟩

/-- A whole DECOMPRESS whose stream ends within its room writes its output. -/
theorem decompressPiece_whole (b : j.Begins) {d : Yelrin.Dec} {j' : Job} {m' : Mach}
    (loop : decLoop L (min j.dlen 8192) (j.len + 4) { fmt := j.fmt, chk := Yelrin.chkInit j.fmt } j m = .ok (.finished, d, false) j' m')
    (free : m.copyingSlot d.cult = false) :
    ∃ j', j.Kept j' ∧ decompressPiece L j m = .ok (.ended 0 d.out.length) j' (m.hostPut L j j.dst d.out.reverse) := by
  obtain ⟨rfl, prog, rfl⟩ := decLoop_host b.src loop
  have going : ¬ m'.replaced j = true := by simp [replaced_none b.loadCnt]
  have kept : ¬ m'.copyingSlot d.cult = true := by simp [free]
  have decoded : decLoop L (min (j.dlen - j.wrote) 8192) (j.len + 4) (decOf m' j.newDecoding) j m' = .ok (.finished, d, false) { j with prog } m' := by
    have room : j.dlen - j.wrote = j.dlen := by rw [b.wrote, Nat.sub_zero]
    rw [decOf_new, room]
    exact loop
  unfold decompressPiece
  rw [if_neg going, decBegin_new b]
  let read : Job := { j with prog, loadCnt := d.cult.map (fun s => (s, (d.cult.map m'.loads).getD 0)) }
  refine ⟨read.put d.out.reverse.length, ⟨rfl, rfl, rfl⟩, ?_⟩
  refine (Acc.bind_ok decoded _).trans ((Acc.bind_ok (if_neg (by simp)) _).trans ((if_neg kept).trans ((if_neg (by simp)).trans ?_)))
  refine (putOut_bind (j := read) b.dst _ _).trans ((keepCtx_bind (ctx_none (j := read.put d.out.reverse.length) b.aux) _ _ _ _).trans ?_)
  simp only [Job.put, read, b.wrote, Nat.zero_add, List.length_reverse]
  rfl

end

end Sys2Proof.Machine
end

section
/-! PROOFS. What enters a controller's queues at once is nothing that the home has yet to see (R270). -/

namespace Sys2Proof

namespace Tbl
variable {α : Type}

theorem all_insert {t : Tbl α} {k : Nat} {v : α} {p : Nat × α → Bool} (h : t.all p = true) (hv : p (k, v) = true) : (t.insert k v).all p = true := by
  induction t with
  | nil => simpa [insert] using hv
  | cons q t ih =>
    obtain ⟨i, a⟩ := q
    obtain ⟨first, rest⟩ := Bool.and_eq_true _ _ ▸ List.all_cons ▸ h
    by_cases hi : i = k
    · simpa [insert, hi, hv] using rest
    · by_cases hlt : k < i
      · simpa [insert, hi, hlt, hv] using And.intro first rest
      · simpa [insert, hi, hlt, first] using ih rest

theorem of_find?_all {t : Tbl α} {k : Nat} {v : α} {p : Nat × α → Bool} (h : t.all p = true) (hv : t.find? k = some v) : p (k, v) = true := by
  induction t with
  | nil => cases hv
  | cons q t ih =>
    obtain ⟨i, a⟩ := q
    obtain ⟨first, rest⟩ := Bool.and_eq_true _ _ ▸ List.all_cons ▸ h
    by_cases hi : i = k
    · simp only [find?, hi, if_true, Option.some.injEq] at hv
      rw [← hi, ← hv]
      exact first
    · simp only [find?, hi, if_false] at hv
      exact ih rest hv

end Tbl

namespace Machine

/-- Nothing has entered a controller that the home has not seen. -/
def Mach.Seen (m : Mach) : Prop := m.mcs.subs.all (fun p => p.2.news.writes.isEmpty && p.2.news.fwd.isEmpty) = true

section
variable {m : Mach}

theorem Mach.Seen.of_subs (h : m.Seen) {t : Mach} (e : t.mcs.subs = m.mcs.subs) : t.Seen := by
  unfold Mach.Seen
  rw [e]
  exact h

theorem Mach.Seen.sub (h : m.Seen) (k : Nat) : ((m.sub k).news.writes.isEmpty && (m.sub k).news.fwd.isEmpty) = true := by
  unfold Mach.sub Tbl.get
  cases found : m.mcs.subs.find? k with
  | none => rfl
  | some s => exact Tbl.of_find?_all h found

/-- A subchannel with the same news. -/
theorem Mach.Seen.setSub (h : m.Seen) {k : Nat} {s : Sub} (e : s.news = (m.sub k).news) : (m.setSub k s).Seen :=
  Tbl.all_insert h (by rw [e]; exact h.sub k)

theorem Mach.Seen.counted (h : m.Seen) {t : Mach} (c : Counted m t) : t.Seen := h.of_subs (congrArg Mcs.subs c.mcs)

theorem Mach.Seen.subOut (h : m.Seen) (k : Nat) : (m.subOut k).Seen :=
  (h.setSub (k := k) (s := { m.sub k with sr := .out, debt := [], due := [] }) rfl).counted (counted_upkeep ..)

theorem Mach.Seen.reach (h : m.Seen) (k : Nat) : (m.reach k).Seen := by
  have out : (m.chanOut (k / 2)).Seen := (h.subOut _).subOut _
  unfold Mach.reach
  split
  · exact (h.setSub (k := k) (s := { m.sub k with sr := .out }) rfl).of_subs rfl
  · split
    · dsimp only
      split
      · exact out.of_subs rfl
      · exact out
    · exact h

theorem Mach.Seen.drain (h : m.Seen) (k : Nat) : (m.drain k).Seen := by
  refine h.setSub ?_
  unfold Sub.drainRule
  split
  · rfl
  · split <;> rfl

theorem news_putWrite (s : Sub) (q : QEnt) : (s.putWrite q).news = s.news := by
  unfold Sub.putWrite
  dsimp only
  split <;> rfl

/-- The machine with the next entry of a queue numbered. -/
def Mach.numbered (m : Mach) : Mach := { m with mcs := { m.mcs with nextId := m.mcs.nextId + 1 } }

theorem Mach.Seen.sendWrite (h : m.Seen) (q : QEnt) : (m.sendWrite q).2.Seen := by
  have met : (m.met q).Seen := by
    unfold Mach.met
    split
    · exact h
    · exact h.reach _
  have next : (m.met q).numbered.Seen := met.of_subs rfl
  have sent : ∃ k w, m.sendWrite q = if ((m.met q).numbered.sub k).fabric.isEmpty && ((m.met q).numbered.sub k).writeRoom w
      then (true, ((m.met q).numbered.setSub k (((m.met q).numbered.sub k).putWrite w)).drain k)
      else (false, (m.met q).numbered.setSub k { (m.met q).numbered.sub k with fabric := ((m.met q).numbered.sub k).fabric ++ [w] }) := ⟨_, _, rfl⟩
  obtain ⟨k, w, e⟩ := sent
  rw [e]
  split
  · exact (next.setSub (news_putWrite ..)).drain _
  · exact next.setSub rfl

theorem Mach.Seen.chargeNow (h : m.Seen) (mst n : Nat) : (m.chargeNow mst n).Seen :=
  (h.of_subs (t := m.charge mst n) rfl).counted (counted_pmuEvent ..)

theorem Mach.Seen.foldl {α : Type} {f : Mach → α → Mach} (hf : ∀ m a, m.Seen → (f m a).Seen) (l : List α) (h : m.Seen) : (l.foldl f m).Seen := by
  induction l generalizing m with
  | nil => exact h
  | cons a l ih => exact ih (hf m a h)

theorem Mach.Seen.ledWriteLine (h : m.Seen) (j : Nat) (es : List LEnt) : (m.ledWriteLine j es).Seen :=
  Mach.Seen.foldl (fun _ _ ht => ht.sendWrite _) _ h

theorem Mach.Seen.through (h : m.Seen) (page : Nat) : (m.through page).Seen := by
  unfold Mach.through
  split
  · next l _ =>
    have put : ({ m with led := { m.led with lines := m.led.lines.insert (page / 4) { l with changed := false } } } : Mach).Seen := h.of_subs rfl
    exact (put.ledWriteLine _ _).chargeNow _ _
  · exact h

theorem Mach.Seen.flip (h : m.Seen) (page : Nat) (e : LEnt) : (m.flip page e).Seen := by
  obtain ⟨_, _, put⟩ := putEnt_eq m page { e with gen := (e.gen + 1) % 512 } false
  have entry : (m.putEnt page { e with gen := (e.gen + 1) % 512 } false).Seen := by
    rw [put]
    exact h.of_subs rfl
  exact entry.through page

end

end Machine

end Sys2Proof
end

section
/-! PROOFS. The page commands (R171-R173, R386, R395): what a page answers by the state of its entry, and the last page of a command. -/

namespace Sys2Proof.Machine

/-! ### What a page answers -/

section
variable {L : Image} {m : Mach} {j : Job} {op page : Nat} {e : LEnt}

theorem pageStep_retired (h : op ≠ 0x0C) (st : e.st = 5) : pageStep L m j op page e = (.code 7, j, m) := by
  simp [pageStep, h, st]

theorem pageStep_promote_done (h2 : e.st ≠ 2) (h3 : e.st ≠ 3) (h5 : e.st ≠ 5) : pageStep L m j 0x08 page e = (.code 0, j, m) := by
  simp [pageStep, h2, h3, h5]

/-- A page that has a move queued for it has one afterwards. -/
theorem moveOf_queueMove (m : Mach) (page : Nat) (kind : MoveKind) (cls : Nat) (pin : Bool) :
    ((m.queueMove page kind cls pin).led.moveOf page).isSome = true := by
  unfold Mach.queueMove
  split
  · next v hv =>
    have own : v.page = page := by simpa using List.find?_some hv
    have there : (m.led.moveOf v.page).isSome = true := by rw [own, hv]; rfl
    have put (w : Move) (hw : w.page = v.page) : ((m.led.setMove w).moveOf page).isSome = true := by
      have h := moveOf_setMove (v := w) (hw ▸ there)
      rw [hw, own] at h
      rw [h]
      rfl
    split
    · exact put _ rfl
    · split
      · exact put _ rfl
      · rw [hv]
        rfl
  · simp [Ledger.moveOf, List.find?_append]

theorem pageStep_promote_cellar (st : e.st = 2) : pageStep L m j 0x08 page e = (.wait, j, m.cmdMove j page .promote false) := by
  simp [pageStep, st]

theorem pageStep_demote_pinned (st : e.st = 4) : pageStep L m j 0x09 page e = (.code 8, j, m) := by
  simp [pageStep, st]

theorem pageStep_pin_pinned (st : e.st = 4) : pageStep L m j 0x0A page e = (.code 0, j, m) := by
  simp [pageStep, st]

theorem pageStep_unpin_done (h3 : e.st ≠ 3) (h4 : e.st ≠ 4) (h5 : e.st ≠ 5) : pageStep L m j 0x0B page e = (.code 0, j, m) := by
  simp [pageStep, h3, h4, h5]

/-- The machine with a page's old demotion forgotten. -/
def Mach.moveTold (m : Mach) (page : Nat) : Mach := { m with led := { m.led with ended := m.led.ended.erase page } }

theorem pageStep_demote_done (st : e.st = 0 ∨ e.st = 2) : pageStep L m j 0x09 page e = (.code 0, { j with acc := 0 }, m.moveTold page) := by
  obtain h | h := st <;> simp [pageStep, h, Mach.moveTold]

/-- The demotion that the command queued has been made. -/
theorem pageStep_demote_made (st : e.st = 1) (mine : j.acc = page + 1) (made : m.led.ended.find? page = some 0) :
    pageStep L m j 0x09 page e = (.code 0, { j with acc := 0 }, m.moveTold page) := by
  simp [pageStep, st, demotePage, mine, made, Mach.moveTold]

/-- The machine with the count of Pinned pages changed. -/
def Mach.pinned (m : Mach) (n : Nat) : Mach := { m with led := { m.led with pinned := n } }

/-- A Hot page is pinned within PIN_MAX. -/
theorem pageStep_pin_hot (st : e.st = 1) (none : m.led.moveOf page = none) (room : m.pins + 1 ≤ (L.reg oPinMax).toNat) :
    pageStep L m j 0x0A page e = (.code 0, j, (m.flip page { e with st := 4 }).pinned ((m.flip page { e with st := 4 }).led.pinned + 1)) := by
  have fits : ¬ (L.reg oPinMax).toNat < m.pins + 1 := by omega
  simp [pageStep, st, pinPage, none, fits, Mach.pinned]

theorem pageStep_pin_full (st : e.st = 1) (none : m.led.moveOf page = none) (full : (L.reg oPinMax).toNat < m.pins + 1) :
    pageStep L m j 0x0A page e = (.code 11, j, m) := by
  simp [pageStep, st, pinPage, none, full]

/-- A Pinned page becomes Hot. -/
theorem pageStep_unpin_pinned (st : e.st = 4) :
    pageStep L m j 0x0B page e = (.code 0, j, (m.pinned (m.led.pinned - 1)).flip page { e with st := 1 }) := by
  simp [pageStep, st, Mach.pinned]

theorem pinned_flip (m : Mach) (page : Nat) (e : LEnt) : (m.flip page e).led.pinned = m.led.pinned := by
  obtain ⟨_, _, flipped⟩ := flip_upper m page e
  exact (congrArg (fun m : Mach => m.led.pinned) flipped :)

theorem dqu_flip (m : Mach) (page : Nat) (e : LEnt) : (m.flip page e).dqu = m.dqu := by
  obtain ⟨_, _, flipped⟩ := flip_upper m page e
  exact (congrArg Mach.dqu flipped :)

end

/-! ### The page of a command -/

section
variable {L : Image} {m : Mach} {j : Job} {page : Nat}

theorem pagePiece_denied (hp : page = j.dst / 4096 + j.prog) (denied : dpaOk L m (L.rOwner j.ring) (page / 65536) = false) :
    pagePiece L j m = pageEnd j page 8 m := by
  subst hp
  exact if_pos (.inl (by simp [denied]))

theorem pagePiece_flat (hp : page = j.dst / 4096 + j.prog) (reach : dpaOk L m (L.rOwner j.ring) (page / 65536) = true)
    (made : m.deniedPage (whoJob j.id) = none) (flat : eFlat (L.extent (page / 65536)) = true) : pagePiece L j m = pageEnd j page 9 m := by
  subst hp
  exact (if_neg (by simp [reach, made])).trans (if_pos flat)

/-- A page whose entry is cached answers by it. -/
theorem pagePiece_code (hp : page = j.dst / 4096 + j.prog) (reach : dpaOk L m (L.rOwner j.ring) (page / 65536) = true)
    (made : m.deniedPage (whoJob j.id) = none) (flat : flatPage L page = false) {e : LEnt} (he : m.ent? page = some e) (scrub : j.op ≠ 0x18)
    (shared : j.op = 0x0C → eShared (L.extent (page / 65536)) = false) {st : Nat} {j' : Job} {t : Mach}
    (step : pageStep L m j j.op page e = (.code st, j', t)) : pagePiece L j m = pageEnd j' page st t := by
  subst hp
  refine (if_neg (by simp [reach, made])).trans ((if_neg (by simpa [flatPage] using flat)).trans ((if_neg scrub).trans ((if_neg ?_).trans ?_)))
  · rintro ⟨forget, share, -⟩
    simp [shared forget] at share
  · rw [ledGet_cached he]
    dsimp only
    rw [step]

/-- The last page of a command ends it OK, with no earlier page that failed. -/
theorem pageEnd_last (last : j.len / 4096 = j.prog + 1) (first : j.first = none) : ∃ j', j.Kept j' ∧
    pageEnd j page 0 m = .ok (.ended 0 (if j.op = 0x18 then j.acc % 2 ^ 48 else j.len / 4096)) j' m := by
  have ends : j.len / 4096 ≤ j.prog + 1 := by omega
  refine ⟨{ j with first := none, prog := j.prog + 1 }, ⟨rfl, rfl, rfl⟩, ?_⟩
  unfold pageEnd
  simp only [first, ne_eq, not_true, false_and, if_false]
  exact if_pos ends

/-! ### SCRUB_RANGE -/

/-- The counts of a scrub, kept with those of the pages before. -/
def scrubbed (acc a b : Nat) : Nat := min 0xFFFFFF (acc % 2 ^ 24 + a) + 2 ^ 24 * min 0xFFFFFF (acc / 2 ^ 24 + b)

theorem scrubbed_lt (acc a b : Nat) : scrubbed acc a b < 2 ^ 48 := by
  unfold scrubbed
  omega

/-- A SCRUB_RANGE with a page's counts added. -/
def Job.counted (j : Job) (a b : Nat) : Job := { j with acc := scrubbed j.acc a b }

/-- With the regulator's leave a page is scrubbed at once. -/
theorem scrubRangePage_leave {n : Nat} (hn : n = backingLines L m page (fun _ => true)) (leave : Leave m (whoJob j.id) 0 n) (asked : j.asked = 0)
    {a b : Nat} {t : Mach} (done : countScrub m (fun m => scrubPage L m page (fun _ => true)) = (a, b, t)) :
    ∃ asked, scrubRangePage L j page m = pageEnd (({ j with asked } : Job).counted a b) page 0 t := by
  subst hn
  have act (j : Job) (r : Nat × Nat × Mach) (hr : r = (a, b, t)) : pageEnd (j.counted r.1 r.2.1) page 0 r.2.2 = pageEnd (j.counted a b) page 0 t := by
    rw [hr]
  by_cases none : backingLines L m page (fun _ => true) = 0
  · exact ⟨j.asked, (if_pos none).trans (act j _ done)⟩
  · obtain ⟨d, given⟩ := Option.isSome_iff_exists.mp (leave.resolve_left none)
    have got : m.askAll (scrubAgent (whoJob j.id)) j.asked [(0, .grant (backingLines L m page (fun _ => true)))] = .got [d] := by
      simp [Mach.askAll, asked, scrubAgent, given]
    refine ⟨j.asked + 1, (if_neg none).trans ?_⟩
    unfold askLines
    rw [got]
    exact act { j with asked := j.asked + 1 } _ done

/-! ### FORGET -/

/-- An Unwritten page whose lines are all taken loses them. -/
theorem forgetPage_unwritten {a : Agent} {e : LEnt} (he : m.ent? page = some e) (st : e.st = 0) (still : m.led.moveOf page = none)
    (taken : takeAll m a page = none) : forgetPage L a page m = .ok true ((m.dropPage page).putEnt page { e with dic := false } false) := by
  have kept : stopMove L (m.dropPage page) page = m.dropPage page := by
    have none : (m.dropPage page).led.moveOf page = none := still
    simp [stopMove, none]
  simp [forgetPage, he, st, taken, kept]

/-- No entry of a table that has left it is found. -/
theorem find?_filter_none {α : Type} {p : Nat × α → Bool} {k : Nat} (h : ∀ v, p (k, v) = false) (t : Tbl α) : Tbl.find? (t.filter p) k = none := by
  induction t with
  | nil => rfl
  | cons q t ih =>
    obtain ⟨i, v⟩ := q
    by_cases hp : p (i, v) = true
    · have ne : i ≠ k := fun e => by simp [e, h] at hp
      simp [hp, Tbl.find?, ne, ih]
    · simp [hp, ih]

theorem lcGet_dropPage (m : Mach) (page : Nat) {i : Nat} (hi : i < 64) : (m.dropPage page).lcGet (64 * page + i) = none := by
  have own : (64 * page + i) / 64 = page := by omega
  exact find?_filter_none (fun _ => by simp [own]) _

theorem pageStep_forget {e : LEnt} (he : m.ent? page = some e) (st : e.st = 0) (still : m.led.moveOf page = none)
    (taken : takeAll m (jobAgent L j) page = none) (mirror : eMirror (L.extent (page / 65536)) = false) :
    pageStep L m j 0x0C page e = (.code 0, j, (m.dropPage page).putEnt page { e with dic := false } false) := by
  have alone : mirrorChange L ((m.dropPage page).putEnt page { e with dic := false } false) 3 (64 * page) (L.pHead (L.rOwner j.ring)) 0 false 0#2 none
      = (none, (m.dropPage page).putEnt page { e with dic := false } false) := by
    refine if_pos ?_
    rw [Nat.mul_div_cancel_left _ (by decide), mirror]
    rfl
  unfold pageStep
  rw [if_pos rfl, forgetPage_unwritten he st still taken]
  dsimp only
  rw [alone]
  rfl

end

end Sys2Proof.Machine
end

section
/-! PROOFS. The batches' pieces (R237, R391, R418, R419, R425-R428): the last record, counters or item of a batch, and what the strainer's
work leaves alone. -/

namespace Sys2Proof.Machine

/-! ### The last item of a batch -/

section
variable {L : Image} {m : Mach} {j : Job}

/-- The last item of a batch ends it with the item's status, with no earlier item that failed. -/
theorem itemEnd_last (last : j.prog + 1 = j.len) (first : j.first = none) (st : Nat) : ∃ j', j.Kept j' ∧
    itemEnd j st m = .ok (.ended st (if st = 0 then j.len else j.prog)) j' m := by
  have ends : j.len ≤ j.prog + 1 := by omega
  by_cases ok : st = 0
  · subst ok
    refine ⟨{ j with first := none, prog := j.prog + 1 }, ⟨rfl, rfl, rfl⟩, ?_⟩
    unfold itemEnd
    simp only [first, ne_eq, not_true, false_and, if_false, if_true]
    exact if_pos ends
  · refine ⟨{ j with first := some (st, j.prog), prog := j.prog + 1 }, ⟨rfl, rfl, rfl⟩, ?_⟩
    unfold itemEnd
    simp only [first, ne_eq, ok, not_false_eq_true, true_and, if_true, if_false]
    exact if_pos ends

/-! ### TALLY_BATCH -/

/-- A line has an entry in the coalescer, and nothing else has changed but counters. -/
structure Pooled (m t : Mach) (line : Nat) : Prop where
  coal : (t.tally.coal.find? line).isSome = true
  direct : t.tally.direct = m.tally.direct
  home : t.home = m.home
  dqu : t.dqu = m.dqu
  raised : t.raised = m.raised
  scb : t.scb = m.scb
  pwr : t.pwr = m.pwr
  mcs : t.mcs = m.mcs

theorem Pooled.counted {t u : Mach} {line : Nat} (h : Pooled m t line) (c : Counted t u) : Pooled m u line where
  coal := c.tally ▸ h.coal
  direct := c.tally ▸ h.direct
  home := c.home.trans h.home
  dqu := c.dqu.trans h.dqu
  raised := c.raised.trans h.raised
  scb := c.scb.trans h.scb
  pwr := c.pwr.trans h.pwr
  mcs := c.mcs.trans h.mcs

/-- A record in its line's entry. -/
theorem pooled_coalPut (m : Mach) (r : TRec) : Pooled m (m.coalPut r) r.line := by
  have entered (t : Tbl Coal) (c : Coal) : ((t.insert r.line c).find? r.line).isSome = true := by
    rw [Tbl.find?_insert_self]
    rfl
  unfold Mach.coalPut
  dsimp only
  split
  · exact ⟨entered _ _, rfl, rfl, rfl, rfl, rfl, rfl, rfl⟩
  · have counted (t : Mach) : Counted t ((t.pmuEvent 0x701 0 1).partCnt r.part 10 1) := (counted_pmuEvent ..).trans (counted_partCnt ..)
    refine .counted ?_ (counted _)
    exact ⟨entered _ _, rfl, rfl, rfl, rfl, rfl, rfl, rfl⟩

/-- A record whose line has no entry takes a free one. -/
theorem coalAdd_new (L : Image) {m : Mach} {r : TRec} (trk : m.home.trk = []) (new : m.tally.coal.find? r.line = none)
    (room : m.coalVictim r.line = none) (later : m.tally.direct.contains (r.line / 2 ^ 22) = false) : coalAdd L m r = (true, m.coalPut r) := by
  have free : m.writeStands r.line = false := by simp [Mach.writeStands, trk]
  have waits : ¬ (m.coalPut r).tally.direct.contains (r.line / 2 ^ 22) = true := by
    rw [(pooled_coalPut m r).direct, later]
    decide
  unfold coalAdd
  rw [free, new, room]
  exact congrArg (Prod.mk true) (if_neg waits)

/-- The last record of a TALLY_BATCH enters the coalescer (R418). -/
theorem tallyBatchPiece_last (held : j.held ≠ []) (last : j.prog + 1 = j.len) (first : j.first = none) {b : List Byte} {r : TRec}
    (item : j.item 8 j.prog = (b, false)) (named : tallyRec L 2 (L.rOwner j.ring) (ofBytes 64 b) = some r) (added : coalAdd L m r = (true, m.coalPut r)) :
    ∃ j', j.Kept j' ∧ tallyBatchPiece L j m = .ok (.ended 0 j.len) j' (m.coalPut r) := by
  obtain ⟨j', kept, ended⟩ := itemEnd_last (m := m.coalPut r) last first 0
  refine ⟨j', kept, (if_neg (by simpa using held)).trans ?_⟩
  rw [item]
  refine (if_neg (by simp)).trans ?_
  dsimp only
  rw [named]
  dsimp only
  rw [added]
  exact ended

/-! ### TALLY_READ and STRAIN -/

/-- Items without poison, byte by byte. -/
theorem items_clean {items : List (List Byte × Bool)} (h : items.all (fun x => !x.2) = true) :
    items.flatMap (fun x => x.1.map (fun b => (b, x.2))) = clean (items.flatMap (·.1)) := by
  induction items with
  | nil => rfl
  | cons x items ih =>
    simp only [List.all_cons, Bool.and_eq_true, Bool.not_eq_true'] at h
    obtain ⟨first, rest⟩ := h
    rw [List.flatMap_cons, List.flatMap_cons, ih rest, first, clean, clean, List.map_append]

/-- The last chunk of a TALLY_READ is written (R237, R419). -/
theorem tallyReadPiece_last (held : j.held ≠ []) (dst : j.dstDpa = false) (short : j.len - j.prog ≤ 128) {w : Nat}
    (hw : w = if (tallyTab L (L.rOwner j.ring)).any (·.pair) then 16 else 8) {items : List (List Byte × Bool)}
    (hi : items = (List.range (j.len - j.prog)).map (fun i => j.item w i)) (sound : items.all (fun x => !x.2) = true) :
    ∃ j', j.Kept j' ∧ tallyReadPiece L j m = .ok (.ended 0 j.len) j' (m.hostPut L j (j.dst + w * j.prog) (items.flatMap (·.1))) := by
  have all : min 128 (j.len - j.prog) = j.len - j.prog := by omega
  have ends : j.len ≤ j.prog + (j.len - j.prog) := by omega
  subst hw
  have bytes : ((List.range (j.len - j.prog)).map (fun i => j.item (if (tallyTab L (L.rOwner j.ring)).any (·.pair) then 16 else 8) i)).flatMap
      (fun x => x.1.map (fun b => (b, x.2))) = clean (items.flatMap (·.1)) := by
    rw [← hi, items_clean sound]
  refine ⟨{ j with prog := j.prog + (j.len - j.prog), wrote := j.wrote + (items.flatMap (·.1)).length, held := [], took := [] }, ⟨rfl, rfl, rfl⟩, ?_⟩
  refine (if_neg (by simpa using held)).trans ((writeSpan_bind L m j dst _ _ _).trans ?_)
  simp only [dst, bytes, good_clean, map_clean, Bool.false_eq_true, if_false, length_clean, Nat.lt_irrefl, all]
  exact if_pos ends

/-- The results of a STRAIN whose keys are all looked up are written (R237, R425). -/
theorem strainPiece_write {x : StnTab} (table : j.table L = some x) (held : j.held ≠ []) (dst : j.dstDpa = false) (first : j.first = none)
    (all : j.len ≤ j.res.length / (8 + x.vlen)) :
    ∃ j', j.Kept j' ∧ strainPiece L j m = .ok (.ended 0 j.acc) j' (m.hostPut L j j.dst j.res) := by
  refine ⟨{ j with wrote := j.res.length }, ⟨rfl, rfl, rfl⟩, ?_⟩
  have looked : ¬ (j.res.length / (8 + x.vlen) < j.len ∧ j.first = none) := by omega
  unfold strainPiece
  rw [table]
  refine (if_neg (by simpa using held)).trans ((if_neg looked).trans ((writeSpan_bind L m j dst _ _ _).trans ?_))
  rw [map_clean]
  simp only [first]

end

end Sys2Proof.Machine
end

section
/-! PROOFS. What an item of STRAIN_INSERT or STRAIN_DELETE changes as it completes (R424, R426, R427): the strainer's own state and counters. -/

namespace Sys2Proof.Machine

/-- A machine changed in the strainer's state and in what `Mach.upper` leaves out. -/
def Edited (m t : Mach) : Prop := t.upper = ({ m with strn := t.strn } : Mach).upper

/-- What an operation of the strainer answers at once comes of such a change. -/
def SRes.Edits {α : Type} (m : Mach) : SRes α → Prop
  | .ok _ _ t => Edited m t
  | _ => True

section
variable {α β : Type} {m t u : Mach}

theorem Edited.refl (m : Mach) : Edited m m := rfl

theorem Edited.trans (h : Edited m t) (k : Edited t u) : Edited m u := by
  have e : ({ t with strn := u.strn } : Mach).upper = ({ m with strn := u.strn } : Mach).upper :=
    (congrArg (fun v : Mach => { v with strn := u.strn }) h :)
  exact Eq.trans k e

theorem Edited.of_upper (h : t.upper = m.upper) : Edited m t := by
  have strn : t.strn = m.strn := strn_of_upper h
  unfold Edited
  rw [h, strn]

theorem edits_bind {r : SRes α} {f : α → Nat → Mach → SRes β} (h : r.Edits m) (hf : ∀ a n t, Edited m t → (f a n t).Edits m) : (r.bind f).Edits m := by
  cases r with
  | ok a n t => exact hf a n t h
  | wait new => trivial
  | poison n t => trivial

theorem edits_ite {c : Prop} [Decidable c] {r r' : SRes α} (h : r.Edits m) (h' : r'.Edits m) : (if c then r else r').Edits m := by
  split
  · exact h
  · exact h'

theorem Edited.edit (h : Edited m t) (s : Strainer) : Edited m { t with strn := s } :=
  (congrArg (fun v : Mach => { v with strn := s }) h :)

theorem Edited.pmuEvent (h : Edited m t) (c i n : Nat) : Edited m (t.pmuEvent c i n) := h.trans (.of_upper (upper_pmuEvent t c i n))

theorem edits_ok {v : α} {n : Nat} (h : Edited m t) : (SRes.ok v n t).Edits m := h

variable (L : Image) (a : Agent) (x : StnTab) (h : Edited m t)
include h

/-- A line of a table is read. The definition is opened with the place of the line left open: to compute it takes the kernel too deep. -/
theorem edits_read (off n : Nat) : (stnRead L a x off n t).Edits m := by
  obtain ⟨read, opened⟩ : ∃ f, f = @stnRead := ⟨_, rfl⟩
  rw [← opened]
  delta stnRead at opened
  subst opened
  have counted := h.pmuEvent 0x704 0 1
  beta_reduce
  generalize x.line L off = spot
  generalize t.pmuEvent 0x704 0 1 = u at counted ⊢
  cases spot with
  | none => trivial
  | some l =>
    dsimp only
    split
    · trivial
    · split
      · exact edits_ite trivial (edits_ok counted)
      · trivial

/-- Two lines of a table are read together. -/
theorem edits_read2 (off off' n : Nat) : (stnRead2 L a x off off' n t).Edits m := by
  obtain ⟨read, opened⟩ : ∃ f, f = @stnRead2 := ⟨_, rfl⟩
  rw [← opened]
  delta stnRead2 at opened
  subst opened
  have counted := h.pmuEvent 0x704 0 2
  beta_reduce
  generalize x.line L off = spot
  generalize x.line L off' = spot'
  generalize t.pmuEvent 0x704 0 2 = u at counted ⊢
  cases spot with
  | none => trivial
  | some l =>
    cases spot' with
    | none => trivial
    | some l' =>
      dsimp only
      split
      · trivial
      · split
        · exact edits_ite trivial (edits_ok counted)
        · trivial

/-- A line of a table is written. -/
theorem edits_write (off n : Nat) (d : List Byte) : (stnWrite L a x off d n t).Edits m := by
  obtain ⟨wr, opened⟩ : ∃ f, f = @stnWrite := ⟨_, rfl⟩
  rw [← opened]
  delta stnWrite at opened
  subst opened
  beta_reduce
  generalize x.line L off = spot
  cases spot with
  | none => trivial
  | some l =>
    dsimp only
    split
    · trivial
    · exact edits_ok h

/-! The recursive operations are opened with their accesses left open, for the same reason. -/

theorem edits_compare (key : List Byte) (l : List (Nat × Nat × Nat)) (n : Nat) : (stnCompare L a x key l n t).Edits m := by
  obtain ⟨read, access⟩ : ∃ f, f = @stnRead := ⟨_, rfl⟩
  obtain ⟨op, opened⟩ : ∃ f, f = @stnCompare := ⟨_, rfl⟩
  have reads : ∀ {t}, Edited m t → ∀ off n, (read L a x off n t).Edits m := fun h off n => access ▸ edits_read L a x h off n
  rw [← opened]
  delta stnCompare stnCompare._f at opened
  rw [← access] at opened
  subst opened
  clear access
  induction l generalizing n t with
  | nil => exact h
  | cons c l ih =>
    have seen := reads h (x.entryAt c.2.2) n
    dsimp only [List.brecOn, List.brecOn.go]
    split
    · next got =>
      rw [got] at seen
      exact edits_ite (edits_ite (edits_ok seen) (edits_bind (reads seen _ _) fun _ _ _ => edits_ok)) (ih seen _)
    · trivial
    · trivial

theorem edits_free (live : List (Nat × Nat)) (left i n : Nat) : (stnFree L a x live left i n t).Edits m := by
  obtain ⟨read, access⟩ : ∃ f, f = @stnRead := ⟨_, rfl⟩
  obtain ⟨op, opened⟩ : ∃ f, f = @stnFree := ⟨_, rfl⟩
  have reads : ∀ {t}, Edited m t → ∀ off n, (read L a x off n t).Edits m := fun h off n => access ▸ edits_read L a x h off n
  rw [← opened]
  delta stnFree stnFree._f at opened
  rw [← access] at opened
  subst opened
  clear access
  induction left generalizing i n t with
  | zero => exact h
  | succ left ih =>
    have seen := reads h (x.mapAt + i / 512 * 64) n
    dsimp only [Nat.brecOn, Nat.brecOn.go]
    split
    · next got =>
      rw [got] at seen
      exact edits_ite (ih seen _ _) (edits_ok seen)
    · trivial
    · trivial

theorem edits_kickLayer (front next : List (Nat × List Kick)) (taken : List Nat) (n : Nat) :
    (kickLayer L a x front next taken n t).Edits m := by
  obtain ⟨read, access⟩ : ∃ f, f = @stnRead := ⟨_, rfl⟩
  obtain ⟨op, opened⟩ : ∃ f, f = @kickLayer := ⟨_, rfl⟩
  have reads : ∀ {t}, Edited m t → ∀ off n, (read L a x off n t).Edits m := fun h off n => access ▸ edits_read L a x h off n
  rw [← opened]
  delta kickLayer kickLayer._f at opened
  rw [← access] at opened
  subst opened
  clear access
  induction front generalizing next taken n t with
  | nil => exact h
  | cons c front ih =>
    have seen := reads h (64 * c.1) n
    dsimp only [List.brecOn, List.brecOn.go]
    split
    · next got =>
      rw [got] at seen
      exact edits_ite (edits_ok seen) (ih seen _ _ _)
    · trivial
    · trivial

theorem edits_kickSearch (left : Nat) (front : List (Nat × List Kick)) (taken : List Nat) (n : Nat) :
    (kickSearch L a x left front taken n t).Edits m := by
  obtain ⟨layer, access⟩ : ∃ f, f = @kickLayer := ⟨_, rfl⟩
  obtain ⟨op, opened⟩ : ∃ f, f = @kickSearch := ⟨_, rfl⟩
  have layers : ∀ {t}, Edited m t → ∀ front next taken n, (layer L a x front next taken n t).Edits m :=
    fun h front next taken n => access ▸ edits_kickLayer L a x h front next taken n
  rw [← opened]
  delta kickSearch kickSearch._f at opened
  rw [← access] at opened
  subst opened
  clear access
  induction left generalizing front taken n t with
  | zero => exact edits_bind (layers h front [] taken n) fun _ _ _ => edits_ok
  | succ left ih =>
    have seen := layers h front [] taken n
    dsimp only [Nat.brecOn, Nat.brecOn.go]
    split
    · next got =>
      rw [got] at seen
      exact edits_ok seen
    · next got =>
      rw [got] at seen
      exact ih seen _ _ _
    · trivial
    · trivial

theorem edits_kickRead (l : List Nat) (b : Tbl (List Byte)) (n : Nat) : (kickRead L a x l b n t).Edits m := by
  obtain ⟨read, access⟩ : ∃ f, f = @stnRead := ⟨_, rfl⟩
  obtain ⟨op, opened⟩ : ∃ f, f = @kickRead := ⟨_, rfl⟩
  have reads : ∀ {t}, Edited m t → ∀ off n, (read L a x off n t).Edits m := fun h off n => access ▸ edits_read L a x h off n
  rw [← opened]
  delta kickRead kickRead._f at opened
  rw [← access] at opened
  subst opened
  clear access
  induction l generalizing b n t with
  | nil => exact h
  | cons c l ih =>
    have seen := reads h (64 * c) n
    dsimp only [List.brecOn, List.brecOn.go]
    split
    · next got =>
      rw [got] at seen
      exact ih seen _ _
    · trivial
    · trivial

theorem edits_kickApply (path : List Kick) (b : Tbl (List Byte)) (n : Nat) : (kickApply L a x path b n t).Edits m := by
  obtain ⟨wr, access⟩ : ∃ f, f = @stnWrite := ⟨_, rfl⟩
  obtain ⟨op, opened⟩ : ∃ f, f = @kickApply := ⟨_, rfl⟩
  have writes : ∀ {t}, Edited m t → ∀ off d n, (wr L a x off d n t).Edits m := fun h off d n => access ▸ edits_write L a x h off n d
  rw [← opened]
  delta kickApply kickApply._f at opened
  rw [← access] at opened
  subst opened
  clear access
  induction path generalizing b n t with
  | nil => exact h
  | cons c path ih =>
    dsimp only [List.brecOn, List.brecOn.go]
    split
    · exact ih h _ _
    · have seen := fun off d off' d' => edits_bind (writes h off d n) fun _ n t (k : Edited m t) => writes k off' d' n
      split
      · next got => exact ih (got ▸ seen _ _ _ _ : (SRes.ok _ _ _).Edits m) _ _
      · trivial
      · trivial

theorem edits_putEntry (i n : Nat) (key value : List Byte) : (stnPutEntry L a x i key value n t).Edits m :=
  edits_bind (edits_write L a x h _ _ _) fun _ _ _ k => edits_ite (edits_ok k) (edits_write L a x k _ _ _)

theorem edits_look (key : List Byte) (n : Nat) : (stnLook L a x key n t).Edits m :=
  edits_bind (edits_read2 L a x h _ _ _) fun _ _ _ k => edits_bind (edits_compare L a x k _ _ _) fun _ _ _ => edits_ok

theorem edits_mark (live : List (Nat × Nat)) (i n : Nat) (on : Bool) : (stnMark L a x live i on n t).Edits m :=
  edits_bind (edits_read L a x h _ _) fun _ _ _ k => edits_bind (edits_write L a x k _ _ _) fun _ _ _ k => edits_ok (k.edit _)

end

section
variable {m t : Mach}

theorem edits_full (h : Edited m t) (n : Nat) : (stnIsFull n t).Edits m :=
  edits_ok (h.trans (.of_upper ((upper_bump (t.evb oStnEvt 0) (oStnCnt 4)).trans (upper_evb t oStnEvt 0))))

theorem edits_bump (h : Edited m t) (r : Nat) {α : Type} {v : α} {n : Nat} : (SRes.ok v n (t.bump r)).Edits m :=
  edits_ok (h.trans (.of_upper (upper_bump t r)))

variable (L : Image) (a : Agent) (x : StnTab) (h : Edited m t) (live : List (Nat × Nat)) (key : List Byte)
include h

theorem edits_place (value : List Byte) (path : List Kick) (b : Tbl (List Byte)) (i k s n : Nat) :
    (stnPlace L a x live key value path b i k s n t).Edits m :=
  edits_bind (edits_mark L a x h live i n true) fun _ _ _ h => edits_bind (edits_putEntry L a x h _ _ _ _) fun _ _ _ h =>
    edits_bind (edits_kickApply L a x h _ _ _) fun _ _ _ h => edits_bind (edits_write L a x h _ _ _) fun _ _ _ h => edits_bump h _

/-- The entry that holds a key of the table already is replaced by a new one. -/
theorem edits_replace {off off' off'' n i old : Nat} {value : List Byte} {d : List Byte} :
    ((stnRead L a x off n t).bind fun _ n t => (stnMark L a x live i true n t).bind fun _ n t =>
      (stnPutEntry L a x i key value n t).bind fun _ n t => (stnWrite L a x off' d n t).bind fun _ n t =>
        (stnMark L a x live old false n t).bind fun _ n t => SRes.ok Item.ok n (t.bump off'')).Edits m :=
  edits_bind (edits_read L a x h _ _) fun _ _ _ h => edits_bind (edits_mark L a x h _ _ _ _) fun _ _ _ h =>
    edits_bind (edits_putEntry L a x h _ _ _ _) fun _ _ _ h => edits_bind (edits_write L a x h _ _ _) fun _ _ _ h =>
      edits_bind (edits_mark L a x h _ _ _ _) fun _ _ _ h => edits_bump h _

theorem edits_insert (value : List Byte) (n : Nat) : (stnInsert L a x live key value n t).Edits m := by
  refine edits_bind (edits_look L a x h key n) fun f n t h => edits_bind (edits_free L a x h live _ _ n) fun free n t h => ?_
  cases free with
  | none => exact edits_full h n
  | some i =>
    obtain ⟨⟨d, d'⟩, found⟩ := f
    cases found with
    | some old => exact edits_replace L a x h live key
    | none =>
      dsimp only
      split
      · exact edits_place L a x h live key _ _ _ _ _ _ _
      · exact edits_place L a x h live key _ _ _ _ _ _ _
      · refine edits_bind (edits_kickSearch L a x h _ _ _ n) fun p n t h => ?_
        cases p with
        | none => exact edits_full h n
        | some path => exact edits_bind (edits_kickRead L a x h _ _ _) fun _ _ _ h => edits_place L a x h live key _ _ _ _ _ _ _

theorem edits_delete (n : Nat) : (stnDelete L a x live key n t).Edits m := by
  refine edits_bind (edits_look L a x h key n) fun f n t h => ?_
  obtain ⟨d, found⟩ := f
  cases found with
  | none => exact edits_ok h
  | some old =>
    exact edits_bind (edits_read L a x h _ _) fun _ _ _ h => edits_bind (edits_write L a x h _ _ _) fun _ _ _ h =>
      edits_bind (edits_mark L a x h _ _ _ _) fun _ _ _ h => edits_bump h _

end

end Sys2Proof.Machine
end

section
/-! PROOFS. The last item of STRAIN_INSERT and STRAIN_DELETE (R391, R426, R427), and what the scrub of a page leaves alone (R342, R386). -/

namespace Sys2Proof.Machine

/-! ### What a piece of work leaves standing -/

/-- Nothing has come to stand at the home, and no job is gone. -/
structure Stood (m t : Mach) : Prop where
  still : m.Still → t.Still
  job : ∀ {id}, (m.job? id).isSome = true → (t.job? id).isSome = true

section
variable {m t u : Mach}

theorem still_of_upper (h : t.upper = m.upper) (still : m.Still) : t.Still := by
  have home : ∀ {α : Type} (f : Home → α), f t.upper.home = f m.upper.home := fun f => by rw [h]
  exact ⟨(home Home.intq).trans still.intq, (home Home.fab).trans still.fab, trk_of_upper h still.trk, (fills_of_upper h).trans still.fills⟩

namespace Stood

theorem trans (h : Stood m t) (k : Stood t u) : Stood m u := ⟨fun still => k.still (h.still still), fun has => k.job (h.job has)⟩

theorem of_upper (h : t.upper = m.upper) : Stood m t where
  still := still_of_upper h
  job has := by
    unfold Mach.job?
    rw [dqu_of_upper h]
    exact has

theorem of_edited (h : Edited m t) : Stood m t :=
  .trans (t := { m with strn := t.strn }) ⟨fun still => ⟨still.intq, still.fab, still.trk, still.fills⟩, fun has => has⟩ (.of_upper h)

theorem markSpans (m : Mach) (live : List (Nat × Nat)) : Stood m (m.markSpans live) where
  still h := ⟨h.intq, h.fab, h.trk, h.fills⟩
  job {id} has := by
    have own (y : Job) : ((if live.any (fun l => l.1 == y.id) then { y with spans := true } else y).id == id) = (y.id == id) := by
      split <;> rfl
    unfold Mach.job? at has ⊢
    rw [List.find?_isSome] at has ⊢
    obtain ⟨y, hy, mine⟩ := has
    exact ⟨_, List.mem_map_of_mem hy, (own y).trans mine⟩

end Stood

end

/-! ### The last item of a batch on a strainer table -/

/-- The status that an item of a strainer table gives. -/
def Item.status : Item → Nat
  | .ok => 0
  | .full => 12
  | .missing => 13

theorem Item.status_eq_zero (q : Item) : q.status = 0 ↔ q = .ok := by
  cases q <;> decide

/-- What the end of an item does to the machine: its counters, and marks on the lookups in flight. -/
def Mach.itemNoted (m : Mach) (L : Image) (insert : Bool) (q : Item) (x : StnTab) (who : Nat) (live : List (Nat × Nat)) : Mach :=
  let m := if insert then m else m.keyLooked x.owner
  let m := if insert ∨ q ≠ .ok then m else m.bump (oStnCnt 1)
  if m.displacing L who x then m.markSpans live else m

theorem itemNoted_strn_stood (m : Mach) (L : Image) (insert : Bool) (q : Item) (x : StnTab) (who : Nat) (live : List (Nat × Nat)) :
    (m.itemNoted L insert q x who live).strn = m.strn ∧ Stood m (m.itemNoted L insert q x who live) := by
  unfold Mach.itemNoted
  extract_lets looked counted
  have upper : counted.upper = m.upper := by
    have first : looked.upper = m.upper := by
      simp only [looked, Mach.keyLooked, upper_ite, (counted_partCnt ..).upper, upper_pmuEvent, upper_bump, ite_self]
    simp only [counted, upper_ite, upper_bump, first, ite_self]
  clear_value counted
  have stood := Stood.of_upper upper
  have strn := strn_of_upper upper
  split
  · exact ⟨strn, stood.trans (.markSpans _ _)⟩
  · exact ⟨strn, stood⟩

/-- The writes that a job's extent waits for are noted in the job alone. -/
theorem acks_kept (L : Image) (j : Job) (l : List (Nat × Nat)) : ∃ j', l.foldl (fun j a => j.ack L (some a)) j = j' ∧ j.Kept j' ∧
    j'.prog = j.prog ∧ j'.len = j.len ∧ j'.first = j.first := by
  suffices ∃ acks, l.foldl (fun j a => j.ack L (some a)) j = { j with acks } by
    obtain ⟨acks, e⟩ := this
    exact ⟨_, e, ⟨rfl, rfl, rfl⟩, rfl, rfl, rfl⟩
  induction l generalizing j with
  | nil => exact ⟨j.acks, rfl⟩
  | cons a l ih =>
    obtain ⟨acks, e⟩ := ih (j.ack L (some a))
    refine ⟨acks, e.trans ?_⟩
    unfold Job.ack
    dsimp only
    split <;> rfl

/-- The last item of a batch on a strainer table ends it with the item's status, when no other item of the table is under way. -/
theorem strainEdit_last {L : Image} {m m' : Mach} {j : Job} {x : StnTab} {insert : Bool} (table : j.table L = some x) (held : j.held ≠ [])
    (last : j.prog + 1 = j.len) (first : j.first = none) (alone : editsOf L m x j.id = []) {it : List Byte}
    (item : j.item (if insert then x.klen + x.vlen else x.klen) j.prog = (it, false)) {q : Item} {n : Nat}
    (done : (if insert then stnInsert L (stnAgent L j) x (liveLookups L m x) (it.take x.klen) (it.drop x.klen) j.asked m
      else stnDelete L (stnAgent L j) x (liveLookups L m x) it j.asked m) = .ok q n m') :
    ∃ j', j.Kept j' ∧ strainEdit L insert j m = .ok (.ended q.status (if q = .ok then j.len else j.prog)) j'
      (m'.itemNoted L insert q x (whoJob j.id) (liveLookups L m x)) := by
  obtain ⟨noted, hnoted⟩ : ∃ t, t = m'.itemNoted L insert q x (whoJob j.id) (liveLookups L m x) := ⟨_, rfl⟩
  obtain ⟨j1, acked, kept1, prog, len, clean⟩ := acks_kept L j (noted.itemAcks (whoJob j.id))
  obtain ⟨j', kept, ended⟩ := itemEnd_last (j := j1) (m := noted) (by rw [prog, len, last]) (clean.trans first) q.status
  refine ⟨j', ⟨kept.id.trans kept1.id, kept.st.trans kept1.st, kept.retired.trans kept1.retired⟩, ?_⟩
  simp only [Item.status_eq_zero, prog, len] at ended
  rw [← hnoted]
  clear kept kept1 prog len clean
  obtain ⟨ins, hins⟩ : ∃ f, f = @stnInsert := ⟨_, rfl⟩
  obtain ⟨del, hdel⟩ : ∃ f, f = @stnDelete := ⟨_, rfl⟩
  obtain ⟨op, opened⟩ : ∃ f, f = @strainEdit := ⟨_, rfl⟩
  rw [← opened]
  delta strainEdit at opened
  rw [← hins, ← hdel] at opened done
  subst opened
  clear hins hdel
  beta_reduce
  rw [table]
  refine (if_neg (by simpa using held)).trans ((if_neg (by simp [alone])).trans ?_)
  rw [item]
  refine (if_neg (by simp)).trans ?_
  dsimp only
  rw [done]
  refine Eq.trans ?_ ended
  rw [← acked, hnoted]
  cases q <;> rfl

/-! ### The scrub of a page -/

/-- The machine above the controllers, the ledger aside. -/
def Mach.bench (m : Mach) : Mach := ({ m with led := {} } : Mach).upper

theorem bench_of_upper {m t : Mach} (h : t.upper = m.upper) : t.bench = m.bench := (congrArg (fun m : Mach => { m with led := {} }) h :)

theorem Stood.of_bench {m t : Mach} (h : t.bench = m.bench) : Stood m t := by
  have bare (m : Mach) : Stood m { m with led := {} } := ⟨fun still => ⟨still.intq, still.fab, still.trk, still.fills⟩, fun has => has⟩
  have back : Stood { t with led := {} } t := ⟨fun still => ⟨still.intq, still.fab, still.trk, still.fills⟩, fun has => has⟩
  exact ((bare m).trans (.of_upper h)).trans back

section
variable (L : Image) (m : Mach)

theorem upper_ledReadFor (mst : Nat) (p : Purpose) (k l : Nat) (ents : Bool) (e0 e1 : SymErr) :
    ((ledReadFor L m mst p k l ents e0 e1).2.2).upper = m.upper := by
  unfold ledReadFor
  dsimp only
  repeat' split
  all_goals simp

theorem upper_lostEvent (j : Nat) (syn : Word) : (m.lostEvent j syn).upper = m.upper := rfl

/-- A lost ledger line changes the ledger alone. -/
theorem bench_loseLine (j : Nat) (syn : Word) : (loseLine L m j syn).2.bench = m.bench := by
  have both (m : Mach) (l : Ledger) (x : Nat) : ({ m with led := l, fresh := x } : Mach).bench = m.bench := rfl
  unfold loseLine
  exact (both ..).trans (bench_of_upper ((upper_lostEvent ..).trans ((upper_bumpBy ..).trans ((upper_chargeNow ..).trans (upper_ledWriteLine ..)))))

/-- A line of the ledger region that no copy has: it is written from the ledger cache, or lost. -/
def Mach.ledMended (m : Mach) (L : Image) (ents : Bool) (k l : Nat) (syn : Word) : Mach :=
  if !ents then m
  else match m.led.lines.find? (64 * (k - 1024) + l) with
    | some x => (m.ledWriteLine (64 * (k - 1024) + l) x.ents).chargeNow mScrub (m.copies (lineSpot (64 * (k - 1024) + l)).1).length
    | none => (loseLine L m (64 * (k - 1024) + l) syn).2

theorem bench_ledMended (ents : Bool) (k l : Nat) (syn : Word) : (m.ledMended L ents k l syn).bench = m.bench := by
  unfold Mach.ledMended
  split
  · rfl
  · split
    · exact bench_of_upper ((upper_chargeNow ..).trans (upper_ledWriteLine ..))
    · exact bench_loseLine ..

/-- A line of the ledger region that has been read, its copies repaired, or that no copy has. -/
def ledScrubbed (L : Image) (ents : Bool) (k l : Nat) : Option Line × Word × Mach → Mach
  | (some _, _, m) => m
  | (none, syn, m) => m.ledMended L ents k l syn

variable {m} in
theorem bench_ledScrubbed (ents : Bool) (k l : Nat) {r : Option Line × Word × Mach} (h : r.2.2.upper = m.upper) :
    (ledScrubbed L ents k l r).bench = m.bench := by
  obtain ⟨_ | d, syn, t⟩ := r
  · exact (bench_ledMended ..).trans (bench_of_upper h)
  · exact bench_of_upper h

theorem bench_scrubLedger (f l : Nat) (e e1 : SymErr) : (scrubLedger L m f l e e1).bench = m.bench := by
  unfold scrubLedger
  extract_lets i k c ents j lost a
  split
  · exact bench_ledScrubbed L ents k l (upper_ledReadFor ..)
  · split
    · exact bench_ledScrubbed L ents k l (upper_ledReadFor ..)
    · have first := upper_readNow L m f l false false noSrc none e
      generalize readNow L m f l false false noSrc none e = r at first ⊢
      obtain ⟨v, t⟩ := r
      have second := (upper_readNow L (t.chargeNow mScrub 1) (t.ledFrame 0 k) l false false 97 none e1).trans ((upper_chargeNow ..).trans first)
      dsimp only
      split
      · exact bench_of_upper first
      · generalize readNow L (t.chargeNow mScrub 1) (t.ledFrame 0 k) l false false 97 none e1 = r at second ⊢
        obtain ⟨w, u⟩ := r
        dsimp only
        have raised (t : Mach) (c : Prop) [Decidable c] (src : Nat) (syn : Word) :
            (if c then (t.raiseRs src a none syn).tick else t).upper = t.upper := by
          split <;> rfl
        split
        · refine bench_of_upper ((raised ..).trans ((upper_evb ..).trans ((upper_chargeNow ..).trans ((upper_writeNow ..).trans second))))
        · exact (bench_ledMended ..).trans (bench_of_upper ((upper_tick ..).trans ((raised ..).trans second)))

theorem bench_scrubOne (f l : Nat) (e e1 : SymErr) : (scrubOne L m f l e e1).bench = m.bench := by
  unfold scrubOne
  split
  · exact bench_scrubLedger ..
  · refine bench_of_upper ?_
    simp

theorem bench_scrubs (l : List (Nat × Nat)) : (l.foldl (fun m x => scrubOne L m x.1 x.2 [] []) m).bench = m.bench := by
  induction l generalizing m with
  | nil => rfl
  | cons x l ih => exact (ih _).trans (bench_scrubOne ..)

variable {m}

/-- The scrub of a page whose entry is cached. -/
theorem bench_scrubPage {page : Nat} {e : LEnt} (he : m.ent? page = some e) (inRange : Nat → Bool) :
    (scrubPage L m page inRange).bench = m.bench := by
  unfold scrubPage
  rw [ledGet_cached he]
  split
  · exact bench_scrubs ..
  · exact bench_scrubs ..

/-- A page is scrubbed with its corrections counted. -/
theorem stood_countScrub {page a b : Nat} {e : LEnt} {t : Mach} (he : m.ent? page = some e)
    (done : countScrub m (fun m => scrubPage L m page (fun _ => true)) = (a, b, t)) : Stood m t := by
  have scrubbed : (scrubPage L ((m.setReg oCntCe 0#32).setReg oCntUe 0#32) page (fun _ => true)).bench = m.bench :=
    bench_scrubPage L (m := (m.setReg oCntCe 0#32).setReg oCntUe 0#32) he _
  unfold countScrub at done
  simp only [Prod.mk.injEq] at done
  obtain ⟨-, -, rfl⟩ := done
  generalize scrubPage L _ page _ = u at scrubbed ⊢
  exact (Stood.of_bench scrubbed).trans (.of_upper ((upper_bumpBy ..).trans ((upper_bumpBy ..).trans ((upper_setReg ..).trans (upper_setReg ..)))))

end

end Sys2Proof.Machine
end

section
/-! PROOFS. The commands of the operations (R171, R205, R224, R237, R239, R386-R391, R395, R418): each runs its job until it ends or waits, and
the one that ends it answers its status. -/

namespace Sys2Proof.Machine

/-! ### The commands that run a job -/

/-- The operations whose command runs their job and does nothing else, with the opcodes. -/
def jobCommands (id : Nat) : List (Nat × Instr) :=
  [(0x01, .copy id), (0x02, .fill id), (0x03, .compress id), (0x04, .decompress id), (0x05, .checksum id), (0x08, .promote id), (0x09, .demote id),
    (0x0A, .pin id), (0x0B, .unpin id), (0x0C, .forget id), (0x10, .tallyBatch id), (0x11, .tallyRead id), (0x14, .strain id),
    (0x15, .strainInsert id), (0x16, .strainDelete id)]

theorem exec_jobCommands (id : Nat) (s : State) : ∀ p ∈ jobCommands id, exec p.2 s = opExec p.1 id s := by
  simp only [jobCommands, List.forall_mem_cons]
  exact ⟨rfl, rfl, rfl, rfl, rfl, rfl, rfl, rfl, rfl, rfl, rfl, rfl, rfl, rfl, rfl, by simp⟩

section
variable {s : State} {id c : Nat} {j : Job} (latch : s.latch = false) (job : s.m.job? id = some j)
include latch job

theorem exec_runs {p : Nat × Instr} (hp : p ∈ jobCommands id) (op : j.op = p.1) :
    exec p.2 s = .next (settle { s with m := runJob s.live false j.fuel id s.m }) :=
  (exec_jobCommands id s p hp).trans (opExec_runs latch job op)

theorem exec_checkpoint (op : j.op ≠ 6) : exec (.jobCheckpoint id) s = .next (settle { s with m := runJob s.live true j.fuel id s.m }) := by
  have run : jobCheckpoint s.live s.m id = runJob s.live true j.fuel id s.m := by
    unfold jobCheckpoint
    rw [job]
    exact if_neg (by simp [op])
  rw [← run]
  exact work_open latch _

theorem exec_scrubRange (op : j.op = 0x18) (errs : List (Nat × SymErr)) :
    exec (.scrubRange id errs) s = .next (settle { s with m := s.m.withErrs errs (runJob s.live false j.fuel id) }) := by
  have run : runOp s.live { s.m with errs } 0x18 id = runJob s.live false j.fuel id { s.m with errs } := by
    have there : ({ s.m with errs } : Mach).job? id = some j := job
    unfold runOp
    rw [there]
    exact if_pos op
  have scrubs : s.m.withErrs errs (fun m => runOp s.live m 0x18 id) = s.m.withErrs errs (runJob s.live false j.fuel id) :=
    congrArg (fun m : Mach => { m with errs := [] }) run
  rw [← scrubs]
  exact work_open latch _

variable (running : j.st = .running c)
include running

/-- What follows the work of a CULTURE_TRAIN's command. -/
def trainEnd (s : State) (j2 : Option Job) : Host.Outcome State Fault Refusal :=
  match j2 with
  | some j => match j.st with
    | .ended 0 _ => .next (if true && j.op == 0x06 && j.arg0.testBit 1 then stageImage s j else s)
    | _ => .next s
  | none => .next s

theorem exec_cultureTrain (op : j.op = 0x06) : exec (.cultureTrain id) s =
    trainEnd (settle { s with m := runJob s.live false j.fuel id s.m }) ((runJob s.live false j.fuel id s.m).job? id) := by
  have run : runOp s.live s.m 0x06 id = runJob s.live false j.fuel id s.m := by
    unfold runOp
    rw [job]
    exact if_pos op
  have open' : ¬ s.latch = true := by simp [latch]
  refine (if_neg open').trans ?_
  rw [run]
  generalize runJob s.live false j.fuel id s.m = t
  rw [job]
  simp only [Option.any_some, running, Bool.not_false]
  rfl

end

/-- A CULTURE_TRAIN that has not ended OK, or that does not stage, stages nothing. -/
theorem trainEnd_plain (s : State) {j : Job} (h : j.over = false ∨ j.arg0.testBit 1 = false) : trainEnd s (some j) = .next s := by
  unfold trainEnd
  dsimp only
  split
  · next hs =>
    have unstaged : j.arg0.testBit 1 = false := h.resolve_left (by simp [Job.over, hs])
    simp [unstaged]
  · rfl

/-- One that has ended OK and stages does. -/
theorem trainEnd_stages (s : State) {j : Job} {r : Nat} (st : j.st = .ended 0 r) (op : j.op = 6) (staged : j.arg0.testBit 1 = true) :
    trainEnd s (some j) = .next (stageImage s j) := by
  simp [trainEnd, st, op, staged]

/-- Staging an image leaves the jobs and what the churns run alone. -/
def State.crew (s : State) : Dqu × Tbl Running := (s.m.dqu, s.m.chn.run)

section
variable (s : State) (v : Word)

theorem crew_ite {c : Prop} [Decidable c] {a b s : State} (ha : a.crew = s.crew) (hb : b.crew = s.crew) : (if c then a else b).crew = s.crew := by
  split
  · exact ha
  · exact hb

theorem crew_lostWrite : s.lostWrite.crew = s.crew := by
  have told (m : Mach) (vc ty : Nat) (args : List Nat) : ((m.ykMsg vc ty args).dqu, (m.ykMsg vc ty args).chn.run) = (m.dqu, m.chn.run) :=
    Prod.ext (dqu_of_desk (desk_ykFlit false m vc _)) (congrArg (fun x => x.1.run) (store_ykFlit m vc _) :)
  exact crew_ite (told ..) rfl

theorem crew_stageWrite (f : Image → Image) : (s.stageWrite f).crew = s.crew := crew_ite (crew_lostWrite s) rfl

theorem crew_stagedPut (off : Nat) : (stagedPut s off v).crew = s.crew := by
  have auto (t : State) (o : Nat) : ({ t with m := t.m.ixAuto o } : State).crew = t.crew := by
    unfold State.crew Mach.ixAuto
    dsimp only
    split <;> rfl
  refine crew_ite rfl (crew_ite ?_ (crew_ite ?_ (crew_ite ?_ (crew_ite ?_ (crew_ite rfl (crew_stageWrite ..))))))
  · exact crew_ite (crew_lostWrite s) (crew_ite rfl rfl)
  · exact crew_ite (crew_lostWrite s) (crew_ite rfl ((auto _ _).trans (crew_stageWrite ..)))
  · exact crew_ite (crew_lostWrite s) (crew_ite rfl (crew_stageWrite ..))
  · exact crew_ite (crew_lostWrite s) (crew_ite rfl ((auto _ _).trans (crew_stageWrite ..)))

theorem crew_stageImage (j : Job) : (stageImage s j).crew = s.crew := (crew_stagedPut ..).trans (crew_stagedPut ..)

end

/-! ### What a job's work decides -/

section
variable {L : Image} {m m' : Mach} {id c : Nat} {j : Job} (job : m.job? id = some j) (running : j.st = .running c)
include job running

theorem runJob_stale (stale : j.stale = true) : runJob L false j.fuel id m = stopJob L m id 6 :=
  runJob_stop (jobPiece_stale job running stale) false (fuel_pos j)

variable (fresh : j.stale = false) (lent : m.chn.lent.find? c = none)
include fresh lent

theorem runJob_waits (work : runWork L (whoJob id) (pieceWork L j) askRounds (jobPrep L j m) = (none, m')) : runJob L false j.fuel id m = m' :=
  runJob_stop (jobPiece_work job running fresh lent work) false (fuel_pos j)

/-- The work that ends the job: POISONED when it has touched a Retired page and the status was no worse (R152). -/
theorem runJob_worked {j' : Job} {st r : Nat} (own : j'.id = id)
    (work : runWork L (whoJob id) (pieceWork L j) askRounds (jobPrep L j m) = (some (.ended st r, j'), m')) :
    runJob L false j.fuel id m = if j'.retired = true ∧ st ≤ 2 then endJob L ((m'.setJob { j' with asked := 0 }).pumpAll L) id 7 j'.stopResult
      else endJob L ((m'.setJob { j' with asked := 0 }).pumpAll L) id st (r % 2 ^ 48) := by
  subst own
  exact runJob_stop (jobPiece_work job running fresh lent work) false (fuel_pos j)

end

/-! ### The machine before a piece, and the piece of an operation -/

section
variable {L : Image} {m : Mach} {j : Job}

theorem jobPrep_other (op : ¬ (8 ≤ j.op ∧ j.op ≤ 12)) : jobPrep L j m = m := by
  unfold jobPrep
  exact if_neg (by simp_all)

/-- A page command whose entry is cached fetches nothing. -/
theorem jobPrep_cached {page : Nat} {e : LEnt} (hp : page = j.dst / 4096 + j.prog) (he : m.ent? page = some e) : jobPrep L j m = m := by
  subst hp
  unfold jobPrep
  dsimp only
  split
  · rw [ledGet_cached he]
  · rfl

theorem pieceOf_copy (op : j.op = 0x01) : pieceOf L j m = copyPiece L j m := by simp [pieceOf, op]
theorem pieceOf_fill (op : j.op = 0x02) : pieceOf L j m = fillPiece L j m := by simp [pieceOf, op]
theorem pieceOf_compress (op : j.op = 0x03) : pieceOf L j m = compressPiece L j m := by simp [pieceOf, op]
theorem pieceOf_decompress (op : j.op = 0x04) : pieceOf L j m = decompressPiece L j m := by simp [pieceOf, op]
theorem pieceOf_checksum (op : j.op = 0x05) : pieceOf L j m = checksumPiece L j m := by simp [pieceOf, op]
theorem pieceOf_train (op : j.op = 0x06) : pieceOf L j m = trainPiece L j m := by simp [pieceOf, op]
theorem pieceOf_tallyBatch (op : j.op = 0x10) : pieceOf L j m = tallyBatchPiece L j m := by simp [pieceOf, op]
theorem pieceOf_tallyRead (op : j.op = 0x11) : pieceOf L j m = tallyReadPiece L j m := by simp [pieceOf, op]
theorem pieceOf_strain (op : j.op = 0x14) : pieceOf L j m = strainPiece L j m := by simp [pieceOf, op]
theorem pieceOf_strainInsert (op : j.op = 0x15) : pieceOf L j m = strainEdit L true j m := by simp [pieceOf, op]
theorem pieceOf_strainDelete (op : j.op = 0x16) : pieceOf L j m = strainEdit L false j m := by simp [pieceOf, op]

theorem pieceOf_page (op : (8 ≤ j.op ∧ j.op ≤ 12) ∨ j.op = 0x18) : pieceOf L j m = pagePiece L j m := by
  unfold pieceOf
  split
  case h_12 => rfl
  all_goals omega

end

end Sys2Proof.Machine
end

section
/-! PROOFS. The last pieces of the operations (R171, R172, R205-R210, R224, R237-R240, R386-R391, R418, R419, R425-R427): how each command ends
its job, with what it leaves. -/

namespace Sys2Proof.Machine

theorem PieceLeft.host {s x : State} {t : Mach} (h : PieceLeft s t x) (k : Nat) : x.m.host k = t.host k :=
  congrArg (fun l : Tbl Memory => l.get [] k) h.hostMem

/-- A job as its next piece begins. -/
def Job.unasked (j : Job) : Job := { j with asked := 0 }

namespace Job
variable (j : Job)

@[simp] theorem unasked_id : j.unasked.id = j.id := rfl
@[simp] theorem unasked_src : j.unasked.src = j.src := rfl
@[simp] theorem unasked_dst : j.unasked.dst = j.dst := rfl
@[simp] theorem unasked_len : j.unasked.len = j.len := rfl
@[simp] theorem unasked_arg0 : j.unasked.arg0 = j.arg0 := rfl
@[simp] theorem unasked_acc : j.unasked.acc = j.acc := rfl
@[simp] theorem unasked_res : j.unasked.res = j.res := rfl
@[simp] theorem unasked_prog : j.unasked.prog = j.prog := rfl
@[simp] theorem unasked_wrote : j.unasked.wrote = j.wrote := rfl
@[simp] theorem unasked_checksum (bs : List Byte) : j.unasked.checksum bs = j.checksum bs := rfl
@[simp] theorem unasked_newEncoding : j.unasked.newEncoding = j.newEncoding := rfl
@[simp] theorem hostPut_unasked (m : Mach) (L : Image) (addr : Nat) (bs : List Byte) : m.hostPut L j.unasked addr bs = m.hostPut L j addr bs := rfl
@[simp] theorem hostBytes_unasked (m : Mach) (L : Image) (addr n : Nat) : m.hostBytes L j.unasked addr n = m.hostBytes L j addr n := rfl

/-- A job with its count set: what a page command keeps from page to page. -/
def carrying (acc : Nat) : Job := { j with acc }

@[simp] theorem carrying_len (acc : Nat) : (j.carrying acc).len = j.len := rfl

theorem unasked_begins {j : Job} (b : j.Begins) : j.unasked.Begins := ⟨b.src, b.dst, b.prog, b.wrote, b.coder, b.loadCnt, b.aux, b.start⟩

end Job

section
variable {L : Image} {m : Mach} {j : Job}

theorem copyPiece_last (src : j.srcDpa = false) (dst : j.dstDpa = false) (short : j.len - j.prog ≤ 8192) : ∃ j', j.Kept j' ∧ copyPiece L j m =
    .ok (.ended 0 (j.wrote + (j.len - j.prog))) j' (m.hostPut L j (j.dst + j.prog) (m.hostBytes L j (j.src + j.prog) (j.len - j.prog))) := by
  have all : j.len - j.prog = min 8192 (j.len - j.prog) := by omega
  have ends : j.len ≤ j.prog + (j.len - j.prog) := by omega
  refine ⟨j.copied (j.len - j.prog), ⟨rfl, rfl, rfl⟩, (copyPiece_host src dst all).trans ?_⟩
  rw [if_pos ends]

theorem checksumPiece_kept (src : j.srcDpa = false) (first : j.prog = 0) (short : j.len ≤ 8192) : ∃ j', j.Kept j' ∧ checksumPiece L j m =
    .ok (.ended 0 (j.checksum (m.hostBytes L j (j.src + j.prog) j.len)).toNat) j' m :=
  ⟨{ j with prog := j.len, acc := (j.checksum (m.hostBytes L j (j.src + j.prog) j.len)).toNat }, ⟨rfl, rfl, rfl⟩, checksumPiece_host src first short⟩

theorem compressPiece_begins (b : j.Begins) (plain : j.cultEn = false) (short : j.len ≤ 16384) :
    compressPiece L j m = encodeLast L j.newEncoding true (m.hostBytes L j j.src j.len) j m := by
  have same : { j with loadCnt := none } = j := by rw [← b.loadCnt]
  rw [compressPiece_whole b plain short, same]

theorem fillPiece_last (dst : j.dstDpa = false) (short : j.len - j.prog ≤ 8192) : ∃ j', j.Kept j' ∧ fillPiece L j m =
    .ok (.ended 0 (j.wrote + (j.len - j.prog))) j' (m.hostPut L j (j.dst + j.prog)
      ((List.range (j.len - j.prog)).map (fun i => (bytesOfNat j.arg0 8).getD ((j.prog + i) % 8) 0#8))) := by
  have all : j.len - j.prog = min 8192 (j.len - j.prog) := by omega
  have ends : j.len ≤ j.prog + (j.len - j.prog) := by omega
  refine ⟨j.copied (j.len - j.prog), ⟨rfl, rfl, rfl⟩, (fillPiece_host dst all).trans ?_⟩
  rw [if_pos ends]

end

section
variable {s : State} {id c : Nat} {j : Job} (runs : JobRuns s id c j)
include runs

/-- A last piece that leaves the home and the jobs alone ends its job, and it is settled. -/
theorem endsJob_piece {op : Nat} {i : Instr} (hp : (op, i) ∈ jobCommands id) (hop : j.op = op) (prep : jobPrep s.live j s.m = s.m) {st r : Nat} {t : Mach}
    (piece : ∃ j', j.unasked.Kept j' ∧ pieceOf s.live j.unasked s.m = .ok (.ended st r) j' t) (home : t.home = s.m.home) (dqu : t.dqu = s.m.dqu)
    (h5 : st ≠ 5) (h6 : st ≠ 6) (h10 : st ≠ 10) : EndsJob i s id st (r % 2 ^ 48) (PieceLeft s t) := by
  obtain ⟨-, latch, job, -⟩ := runs.1
  obtain ⟨j', kept, piece⟩ := piece
  exact endsJob_of_calm runs (exec_runs latch job hp hop) prep piece home dqu kept.id kept.st kept.retired h5 h6 h10

/-- A last piece that writes host memory. -/
theorem endsJob_host {op : Nat} {i : Instr} (hp : (op, i) ∈ jobCommands id) (hop : j.op = op) (data : ¬ (8 ≤ op ∧ op ≤ 12)) {st r addr : Nat} {bs : List Byte}
    (piece : ∃ j', j.unasked.Kept j' ∧ pieceOf s.live j.unasked s.m = .ok (.ended st r) j' (s.m.hostPut s.live j addr bs))
    (h5 : st ≠ 5) (h6 : st ≠ 6) (h10 : st ≠ 10) : EndsJob i s id st (r % 2 ^ 48) (fun t =>
      t.m.host (hostKey s.live j.ring) = Memory.putAll hostBg (s.m.host (hostKey s.live j.ring)) (addr % 2 ^ 64) bs) :=
  EndsJob.imp (endsJob_piece runs hp hop (jobPrep_other (hop ▸ data)) piece rfl rfl h5 h6 h10) fun _ left =>
    (left.host _).trans (host_hostPut ..)

/-! ### COPY, FILL and CHECKSUM -/

theorem copy_ends (op : j.op = 0x01) (src : j.srcDpa = false) (dst : j.dstDpa = false) (short : j.len - j.prog ≤ 8192) :
    EndsJob (.copy id) s id 0 ((j.wrote + (j.len - j.prog)) % 2 ^ 48) (fun t => t.m.host (hostKey s.live j.ring) =
      Memory.putAll hostBg (s.m.host (hostKey s.live j.ring)) ((j.dst + j.prog) % 2 ^ 64) (s.m.hostBytes s.live j (j.src + j.prog) (j.len - j.prog))) := by
  obtain ⟨j', kept, piece⟩ := copyPiece_last (L := s.live) (m := s.m) (j := j.unasked) src dst short
  exact endsJob_host runs (by simp [jobCommands]) op (by decide) ⟨j', kept, (pieceOf_copy (j := j.unasked) op).trans (by simpa using piece)⟩
    (by decide) (by decide) (by decide)

theorem fill_ends (op : j.op = 0x02) (dst : j.dstDpa = false) (short : j.len - j.prog ≤ 8192) :
    EndsJob (.fill id) s id 0 ((j.wrote + (j.len - j.prog)) % 2 ^ 48) (fun t => t.m.host (hostKey s.live j.ring) =
      Memory.putAll hostBg (s.m.host (hostKey s.live j.ring)) ((j.dst + j.prog) % 2 ^ 64)
        ((List.range (j.len - j.prog)).map (fun i => (bytesOfNat j.arg0 8).getD ((j.prog + i) % 8) 0#8))) := by
  obtain ⟨j', kept, piece⟩ := fillPiece_last (L := s.live) (m := s.m) (j := j.unasked) dst short
  exact endsJob_host runs (by simp [jobCommands]) op (by decide) ⟨j', kept, (pieceOf_fill (j := j.unasked) op).trans (by simpa using piece)⟩
    (by decide) (by decide) (by decide)

theorem checksum_ends (op : j.op = 0x05) (src : j.srcDpa = false) (first : j.prog = 0) (short : j.len ≤ 8192) :
    EndsJob (.checksum id) s id 0 (j.checksum (s.m.hostBytes s.live j (j.src + j.prog) j.len)).toNat (fun _ => True) := by
  have small : ∀ v : Word, v.toNat % 2 ^ 48 = v.toNat := fun v => Nat.mod_eq_of_lt (by omega)
  obtain ⟨j', kept, piece⟩ := checksumPiece_kept (L := s.live) (m := s.m) (j := j.unasked) src first short
  rw [← small]
  simp only [Job.unasked_src, Job.unasked_prog, Job.unasked_len, Job.hostBytes_unasked, Job.unasked_checksum] at piece
  exact EndsJob.imp (endsJob_piece runs (by simp [jobCommands]) op (jobPrep_other (by omega))
    ⟨j', kept, (pieceOf_checksum (j := j.unasked) op).trans piece⟩ rfl rfl (by decide) (by decide) (by decide)) fun _ _ => trivial

/-! ### COMPRESS and DECOMPRESS -/

section
variable (b : j.Begins)
include b

section
variable (op : j.op = 0x03) (plain : j.cultEn = false)
include op plain

/-- A COMPRESS whose one piece writes to its destination. -/
theorem compress_writes {st r addr : Nat} {form : List Byte} (short : j.len ≤ 16384)
    (coded : ∃ j', j.unasked.Kept j' ∧ encodeLast s.live j.newEncoding true (s.m.hostBytes s.live j j.src j.len) j.unasked s.m =
      .ok (.ended st r) j' (s.m.hostPut s.live j addr form)) (h5 : st ≠ 5) (h6 : st ≠ 6) (h10 : st ≠ 10) :
    EndsJob (.compress id) s id st (r % 2 ^ 48) (fun t => t.m.host (hostKey s.live j.ring) =
      Memory.putAll hostBg (s.m.host (hostKey s.live j.ring)) (addr % 2 ^ 64) form) := by
  obtain ⟨j', kept, coded⟩ := coded
  have piece := compressPiece_begins (L := s.live) (m := s.m) (Job.unasked_begins b) plain short
  simp only [Job.unasked_newEncoding, Job.unasked_src, Job.unasked_len, Job.hostBytes_unasked] at piece
  exact endsJob_host runs (by simp [jobCommands]) op (by decide) ⟨j', kept, (pieceOf_compress (j := j.unasked) op).trans (piece.trans coded)⟩ h5 h6 h10

variable (ends : j.sEnd = true)
include ends

theorem compress_empty (none : j.len = 0) (room : (Yelrin.emptyForm j.fmt).length ≤ j.dlen) :
    EndsJob (.compress id) s id 1 0 (fun t => t.m.host (hostKey s.live j.ring) =
      Memory.putAll hostBg (s.m.host (hostKey s.live j.ring)) (j.dst % 2 ^ 64) (Yelrin.emptyForm j.fmt)) :=
  compress_writes runs b op plain (by omega) (encodeLast_empty (Job.unasked_begins b) j.newEncoding _ ends none room)
    (by decide) (by decide) (by decide)

variable (some : 0 < j.len) (short : j.len ≤ 16384) {e : Yelrin.Enc} {out : List Byte}
  (coded : (encOf s.m j.newEncoding).feed s.m.cultImg (s.m.hostBytes s.live j j.src j.len) true true = (e, out))
include some short coded

theorem compress_overflow (room : j.dlen < out.length) : EndsJob (.compress id) s id 11 0 (fun _ => True) := by
  obtain ⟨_, full⟩ := encodeLast_overflow (L := s.live) (Job.unasked_begins b) j.newEncoding _ ends some coded room
  exact EndsJob.imp (compress_writes runs b op plain short ⟨_, ⟨rfl, rfl, rfl⟩, full⟩ (by decide) (by decide) (by decide)) fun _ _ => trivial

theorem compress_noShrink (room : out.length ≤ j.dlen) (long : e.total ≤ e.written) : EndsJob (.compress id) s id 2 0 (fun _ => True) := by
  obtain ⟨_, full⟩ := encodeLast_noShrink (L := s.live) (Job.unasked_begins b) j.newEncoding _ ends some coded room long
  exact EndsJob.imp (compress_writes runs b op plain short ⟨_, ⟨rfl, rfl, rfl⟩, full⟩ (by decide) (by decide) (by decide)) fun _ _ => trivial

theorem compress_coded (room : out.length ≤ j.dlen) (shrunk : e.written < e.total) :
    EndsJob (.compress id) s id 0 (out.length % 2 ^ 48) (fun t => t.m.host (hostKey s.live j.ring) =
      Memory.putAll hostBg (s.m.host (hostKey s.live j.ring)) (j.dst % 2 ^ 64) out) :=
  compress_writes runs b op plain short (encodeLast_coded (Job.unasked_begins b) j.newEncoding _ ends some coded room shrunk)
    (by decide) (by decide) (by decide)

end

theorem decompress_ends (op : j.op = 0x04) {d : Yelrin.Dec} {j' : Job} {m' : Mach}
    (loop : decLoop s.live (min j.dlen 8192) (j.len + 4) { fmt := j.fmt, chk := Yelrin.chkInit j.fmt } j.unasked s.m = .ok (.finished, d, false) j' m')
    (free : s.m.copyingSlot d.cult = false) : EndsJob (.decompress id) s id 0 (d.out.length % 2 ^ 48) (fun t =>
      t.m.host (hostKey s.live j.ring) = Memory.putAll hostBg (s.m.host (hostKey s.live j.ring)) (j.dst % 2 ^ 64) d.out.reverse) := by
  obtain ⟨j', kept, piece⟩ := decompressPiece_whole (Job.unasked_begins b) loop free
  exact endsJob_host runs (by simp [jobCommands]) op (by decide) ⟨j', kept, (pieceOf_decompress (j := j.unasked) op).trans piece⟩
    (by decide) (by decide) (by decide)

end

/-! ### The check of a culture image -/

/-- CULTURE_TRAIN ends its job with the check's status, whether the image is staged then or not. -/
theorem train_ends (op : j.op = 0x06) (check : j.arg0 % 2 = 1) (src : j.srcDpa = false) {bs : List Byte}
    (hb : bs = s.m.hostBytes s.live j j.src 33024) : EndsJob (.cultureTrain id) s id (if Yelrin.imgOk bs then 0 else 4) 0 (fun _ => True) := by
  obtain ⟨on, calm⟩ := runs
  have churn := onChurn_of_jobOn on
  obtain ⟨-, latch, job, mine, running, -, retired, -⟩ := on
  have piece := trainPiece_check (L := s.live) (m := s.m) (j := j.unasked) check src hb
  generalize hst : (if Yelrin.imgOk bs then 0 else 4) = st at piece ⊢
  have good : st = 0 ∨ st = 4 := by
    rw [← hst]
    split <;> simp
  have still : (s.m.agentClear (whoJob id)).Still := by
    have stands := still_of_calm calm
    rw [agentClear_still stands]
    exact ⟨stands.intq, stands.fab, stands.trk, stands.fills⟩
  have last : pieceOf s.live { j with asked := 0 } s.m = .ok (.ended st 0) j.unasked s.m := (pieceOf_train (j := j.unasked) op).trans piece
  obtain ⟨ended, chn, dqu, rest⟩ := runJob_ends churn (jobPrep_other (by omega)) last still
    (Option.isSome_iff_exists.mpr ⟨j, job⟩) mine rfl retired (by omega) (by omega) (by omega)
  have cmd := exec_cultureTrain latch job running op
  generalize runJob s.live false j.fuel id s.m = w at cmd ended rest
  obtain ⟨⟨e, there, status, -⟩, off⟩ := jobEnded_settle (s := { s with m := w }) ended (by rw [rest]; exact still.trk) (by rw [rest]; exact still.fills)
  generalize settle { s with m := w } = t at cmd there off
  obtain ⟨u, last, crew⟩ : ∃ u, trainEnd t (w.job? id) = .next u ∧ u.crew = t.crew := by
    unfold trainEnd
    split
    · split
      · refine ⟨_, rfl, ?_⟩
        exact crew_ite (crew_stageImage ..) rfl
      · exact ⟨t, rfl, rfl⟩
    · exact ⟨t, rfl, rfl⟩
  have jobs : u.m.dqu = t.m.dqu := congrArg Prod.fst crew
  have churns : u.m.chn.run = t.m.chn.run := congrArg Prod.snd crew
  refine ⟨u, cmd.trans last, ⟨e, ?_, status⟩, ?_, trivial⟩
  · rw [Mach.job?, jobs]
    exact there
  · rw [Mach.churnOf, churns]
    exact off

/-! ### JOB_CHECKPOINT -/

omit runs in
/-- A job at a checkpoint that nothing stops goes on. -/
theorem checkpoint_passed {L : Image} {m : Mach} (job : m.job? id = some j) (running : j.st = .running c) (fresh : j.stale = false)
    (ring : (m.ring j.ring).st = .active) (rec : j.noRec = false) (kept : m.chn.preempt.find? (fun p => p.1 == c) = none) : checkpoint L m id = m := by
  unfold checkpoint
  rw [job]
  dsimp only
  rw [running]
  dsimp only
  rw [if_neg (by simp [fresh]), if_neg (by simp [ring, rec]), kept]

/-- A COPY that is longer than a piece stops at its first checkpoint. -/
theorem copy_checkpoint (op : j.op = 0x01) (src : j.srcDpa = false) (dst : j.dstDpa = false) {n : Nat} (size : n = min 8192 (j.len - j.prog))
    (long : n < j.len - j.prog) (ring : (s.m.ring j.ring).st = .active) (rec : j.noRec = false) (kept : s.m.chn.preempt.find? (fun p => p.1 == c) = none) :
    ∃ t, exec (.jobCheckpoint id) s = .next t ∧ t.m.job? id = some { j with prog := j.prog + n, wrote := j.wrote + n, asked := 0 } ∧
      t.m.host (hostKey s.live j.ring) = Memory.putAll hostBg (s.m.host (hostKey s.live j.ring)) ((j.dst + j.prog) % 2 ^ 64)
        (s.m.hostBytes s.live j (j.src + j.prog) n) := by
  obtain ⟨on, calm⟩ := runs
  have churn := onChurn_of_jobOn on
  obtain ⟨quiet, latch, job, mine, running, fresh, -⟩ := on
  have more : ¬ j.len ≤ j.prog + n := by omega
  have piece := copyPiece_host (L := s.live) (m := s.m) (j := j.unasked) src dst size
  simp only [Job.unasked_src, Job.unasked_dst, Job.unasked_len, Job.unasked_prog, Job.hostPut_unasked, Job.hostBytes_unasked, more, if_false] at piece
  have stands := still_of_calm calm
  obtain ⟨t, ht⟩ : ∃ t, t = s.m.hostPut s.live j (j.dst + j.prog) (s.m.hostBytes s.live j (j.src + j.prog) n) := ⟨_, rfl⟩
  rw [← ht] at piece
  have idle : t.Still := by
    rw [ht]
    exact ⟨stands.intq, stands.fab, stands.trk, stands.fills⟩
  have clear := agentClear_still idle (whoJob id)
  have first : pieceOf s.live { j with asked := 0 } s.m = .ok .more (j.unasked.copied n) t := (pieceOf_copy (j := j.unasked) op).trans piece
  obtain ⟨u, hu, -, there, pumped, done⟩ := jobPiece_done churn (jobPrep_other (by omega)) first
    (clear ▸ ⟨idle.intq, idle.fab, idle.trk, idle.fills⟩) (by rw [ht]; exact Option.isSome_iff_exists.mpr ⟨j, job⟩) mine
  rw [clear, ht] at hu
  have passed : checkpoint s.live u id = u :=
    checkpoint_passed there running fresh (by rw [hu]; exact ring) rec (by rw [hu]; exact kept)
  have stopped : jobPiece s.live s.m id = (.check, u) := by
    refine done.trans (congrArg (Prod.mk Ran.check) ?_)
    show checkpoint s.live (((t.agentClear (whoJob id)).setJob { j.unasked.copied n with asked := 0 }).pumpAll s.live) j.id = u
    rw [clear, ht, ← hu, pumped, mine, passed]
  have cmd := exec_checkpoint latch job (by omega)
  rw [runJob_check stopped (fuel_pos j), settle_quiet _ (quiet_of_kept quiet (by rw [hu]; rfl) (by rw [hu]; rfl) (by rw [hu]; rfl) (by rw [hu]; rfl))] at cmd
  refine ⟨_, cmd, there, ?_⟩
  rw [hu]
  exact host_hostPut ..

end

/-! ### Page commands -/

theorem ent?_of_lines {m t : Mach} (h : t.led.lines = m.led.lines) (page : Nat) : t.ent? page = m.ent? page := by
  unfold Mach.ent?
  rw [h]

section
variable {s : State} {id c : Nat} {j : Job} {page : Nat} {e : LEnt}

/-- The piece of a page command's last page, which its entry answers with OK. -/
theorem pagePiece_ends (last : LastPage s j page e) (on : JobOn s id c j) (range : 8 ≤ j.op ∧ j.op ≤ 12)
    (shared : j.op = 0x0C → eShared (s.live.extent (page / 65536)) = false) {acc : Nat} {t : Mach}
    (step : pageStep s.live s.m j.unasked j.op page e = (.code 0, j.unasked.carrying acc, t)) :
    ∃ j', j.unasked.Kept j' ∧ pieceOf s.live j.unasked s.m = .ok (.ended 0 (j.len / 4096)) j' t := by
  obtain ⟨hp, len, first, reach, flat, he⟩ := last
  obtain ⟨-, -, -, mine, -, -, -, -, denied⟩ := on
  have scrub : j.op ≠ 0x18 := by omega
  obtain ⟨j', kept, ended⟩ := pageEnd_last (m := t) (j := j.unasked.carrying acc) (page := page) len first
  rw [if_neg (show (j.unasked.carrying acc).op ≠ 0x18 from scrub), Job.carrying_len, Job.unasked_len] at ended
  have answered := pagePiece_code (j := j.unasked) hp reach (mine.symm ▸ denied) flat he scrub shared step
  exact ⟨j', ⟨kept.id, kept.st, kept.retired⟩, (pieceOf_page (j := j.unasked) (.inl range)).trans (answered.trans ended)⟩

/-- A page command whose last page its entry answers with OK ends its job, with nothing else on its way. -/
theorem page_ends (runs : JobRuns s id c j) (last : LastPage s j page e) {op : Nat} {i : Instr} (hp : (op, i) ∈ jobCommands id) (hop : j.op = op)
    (range : 8 ≤ op ∧ op < 12) {acc : Nat} {t : Mach} (step : pageStep s.live s.m j.unasked op page e = (.code 0, j.unasked.carrying acc, t))
    (home : t.home = s.m.home) (dqu : t.dqu = s.m.dqu) {e' : LEnt} (seen : t.Seen) (entry : t.ent? page = some e') :
    EndsJob i s id 0 (j.len / 4096 % 2 ^ 48) (fun x => x.m.ent? page = some e') := by
  subst hop
  have piece := pagePiece_ends last runs.1 ⟨range.1, by omega⟩ (fun h => absurd h (by omega)) step
  obtain ⟨hpage, -, -, -, -, he⟩ := last
  exact EndsJob.imp (endsJob_piece runs hp rfl (jobPrep_cached hpage he) piece home dqu (by decide) (by decide) (by decide)) fun x left =>
    (ent?_of_lines (left.lines seen) page).trans entry

theorem entry_of_last (last : LastPage s j page e) : s.m.ent? page = some e := last.2.2.2.2.2

theorem seen_of_runs (runs : JobRuns s id c j) : s.m.Seen := runs.1.1.2.2.2

section
variable (runs : JobRuns s id c j) (last : LastPage s j page e)
include runs last

theorem promote_ends (op : j.op = 0x08) (st : e.st = 0 ∨ e.st = 1 ∨ e.st = 4) :
    EndsJob (.promote id) s id 0 (j.len / 4096 % 2 ^ 48) (fun t => t.m.ent? page = some e) :=
  page_ends runs last (by simp [jobCommands]) op (by decide) (acc := j.acc) (pageStep_promote_done (by omega) (by omega) (by omega)) rfl rfl
    (seen_of_runs runs) (entry_of_last last)

theorem demote_ends (op : j.op = 0x09) (st : e.st = 0 ∨ e.st = 2 ∨ (e.st = 1 ∧ j.acc = page + 1 ∧ s.m.led.ended.find? page = some 0)) :
    EndsJob (.demote id) s id 0 (j.len / 4096 % 2 ^ 48) (fun t => t.m.ent? page = some e) := by
  have step : pageStep s.live s.m j.unasked 0x09 page e = (.code 0, j.unasked.carrying 0, s.m.moveTold page) := by
    obtain st | st | ⟨st, mine, made⟩ := st
    · exact pageStep_demote_done (.inl st)
    · exact pageStep_demote_done (.inr st)
    · exact pageStep_demote_made st mine made
  exact page_ends runs last (by simp [jobCommands]) op (by decide) step rfl rfl ((seen_of_runs runs).of_subs rfl) (entry_of_last last)

theorem pin_ends (op : j.op = 0x0A) (st : e.st = 1) (none : s.m.led.moveOf page = none) (room : s.m.pins + 1 ≤ (s.live.reg oPinMax).toNat) :
    EndsJob (.pin id) s id 0 (j.len / 4096 % 2 ^ 48) (fun t => t.m.ent? page = some { e with st := 4, gen := (e.gen + 1) % 512 }) :=
  page_ends runs last (by simp [jobCommands]) op (by decide) (acc := j.acc) (pageStep_pin_hot st none room) (home_flip ..) (dqu_flip ..)
    (((seen_of_runs runs).flip page { e with st := 4 }).of_subs rfl) (ent?_flip (entry_of_last last) _)

theorem unpin_ends (op : j.op = 0x0B) (st : e.st = 4) :
    EndsJob (.unpin id) s id 0 (j.len / 4096 % 2 ^ 48) (fun t => t.m.ent? page = some { e with st := 1, gen := (e.gen + 1) % 512 }) :=
  page_ends runs last (by simp [jobCommands]) op (by decide) (acc := j.acc) (pageStep_unpin_pinned st) ((home_flip ..).trans rfl)
    ((dqu_flip ..).trans rfl) (((seen_of_runs runs).of_subs (t := s.m.pinned (s.m.led.pinned - 1)) rfl).flip page { e with st := 1 })
    (ent?_flip (m := s.m.pinned (s.m.led.pinned - 1)) (entry_of_last last) _)

/-! ### SCRUB_RANGE -/

omit runs last in
/-- The page of a SCRUB_RANGE that is not Retired is scrubbed. -/
theorem pagePiece_scrub {L : Image} {m : Mach} (hp : page = j.dst / 4096 + j.prog) (reach : dpaOk L m (L.rOwner j.ring) (page / 65536) = true)
    (made : m.deniedPage (whoJob j.id) = none) (flat : flatPage L page = false) (op : j.op = 0x18) (there : retiredNow L m page = false) :
    pagePiece L j m = scrubRangePage L j page m := by
  subst hp
  exact (if_neg (by simp [reach, made])).trans ((if_neg (by simpa [flatPage] using flat)).trans ((if_pos op).trans (if_neg (by simp [there]))))

theorem scrub_ends (op : j.op = 0x18) (there : retiredNow s.live s.m page = false)
    (leave : Leave s.m (whoJob id) 0 (backingLines s.live s.m page (fun _ => true))) {a b : Nat} {t : Mach}
    (done : countScrub { s.m with errs := [] } (fun m => scrubPage s.live m page (fun _ => true)) = (a, b, t)) :
    EndsJob (.scrubRange id) s id 0 (scrubbed j.acc a b) (fun _ => True) := by
  obtain ⟨on, calm⟩ := runs
  obtain ⟨hp, len, first, reach, flat, he⟩ := last
  obtain ⟨job, running, fresh, lent, denied⟩ := onChurn_of_jobOn on
  obtain ⟨-, latch, -, mine, -, -, retired, -⟩ := on
  obtain ⟨q, hq⟩ : ∃ q, q = ({ s.m with errs := [] } : Mach) := ⟨_, rfl⟩
  have churn : q.OnChurn id c j := by
    rw [hq]
    exact ⟨job, running, fresh, lent, denied⟩
  rw [← hq] at done
  have stood : Stood q t := stood_countScrub s.live (e := e) (by rw [hq]; exact he) done
  have let_in : Leave q (whoJob j.unasked.id) 0 (backingLines s.live q page (fun _ => true)) := by
    rw [hq]
    exact mine.symm ▸ leave
  obtain ⟨asked, scrubs⟩ := scrubRangePage_leave (j := j.unasked) rfl let_in rfl done
  have step : pagePiece s.live j.unasked q = scrubRangePage s.live j.unasked page q := by
    rw [hq]
    exact pagePiece_scrub (j := j.unasked) hp reach (mine.symm ▸ denied) flat op there
  obtain ⟨j', kept, ended⟩ := pageEnd_last (m := t) (j := ({ j.unasked with asked } : Job).counted a b) (page := page) len first
  rw [if_pos (show (({ j.unasked with asked } : Job).counted a b).op = 0x18 from op)] at ended
  have piece : pieceOf s.live { j with asked := 0 } q = .ok (.ended 0 (scrubbed j.acc a b % 2 ^ 48)) j' t :=
    (pieceOf_page (j := j.unasked) (.inr op)).trans (step.trans (scrubs.trans ended))
  have idle : t.Still := stood.still (by
    rw [hq]
    have stands := still_of_calm calm
    exact ⟨stands.intq, stands.fab, stands.trk, stands.fills⟩)
  have still : (t.agentClear (whoJob id)).Still := by
    rw [agentClear_still idle]
    exact ⟨idle.intq, idle.fab, idle.trk, idle.fills⟩
  have has : (t.job? id).isSome = true := stood.job (Option.isSome_iff_exists.mpr ⟨j, churn.job⟩)
  obtain ⟨ends, chn, dqu, rest⟩ := runJob_ends churn (jobPrep_other (by omega)) piece still has (kept.id.trans mine) kept.st (kept.retired.trans retired)
    (by decide) (by decide) (by decide)
  have cmd := exec_scrubRange latch job op []
  have count : scrubbed j.acc a b % 2 ^ 48 = scrubbed j.acc a b := Nat.mod_eq_of_lt (scrubbed_lt ..)
  rw [count, count] at ends
  unfold Mach.withErrs at cmd
  rw [← hq] at cmd
  generalize runJob s.live false j.fuel id q = w at cmd ends rest
  exact endsJob_settle cmd ⟨ends.ended, ends.off⟩ (by rw [rest]; exact still.trk) (by rw [rest]; exact still.fills) trivial

end

/-! ### FORGET -/

omit c j in
/-- Work whose requests at the home take lines alone leaves nothing there when it ends. -/
theorem still_agentClear {m : Mach} {who : Nat} (intq : m.home.intq = []) (fab : m.home.fab = []) (fills : m.home.fills = [])
    (mine : ∀ r ∈ m.home.trk, r.ofWho who = true ∧ r.kind = .take) (some : m.requests.any (fun r => r.ofWho who && r.kind == .take) = true) :
    (m.agentClear who).Still := by
  have queues : (m.agentClear who).home.intq = [] ∧ (m.agentClear who).home.fab = [] := by
    unfold Mach.agentClear
    dsimp only
    split
    · simp [Mach.untake, intq, fab]
    · exact ⟨intq, fab⟩
  exact ⟨queues.1, queues.2, trk_agentClear mine some, (fills_agentClear m who).trans fills⟩

theorem forget_ends (on : JobOn s id c j) (calm : Calm { s.m with home := { s.m.home with trk := [] } })
    (mine : ∀ r ∈ s.m.home.trk, r.ofWho (whoJob id) = true ∧ r.kind = .take) (last : LastPage s j page e)
    (taken : takeAll s.m (jobAgent s.live j) page = none) (op : j.op = 0x0C) (st : e.st = 0)
    (shared : eShared (s.live.extent (page / 65536)) = false) (mirror : eMirror (s.live.extent (page / 65536)) = false)
    (still : s.m.led.moveOf page = none) : EndsJob (.forget id) s id 0 (j.len / 4096 % 2 ^ 48) (fun t =>
      t.m.ent? page = some { e with dic := false } ∧ ∀ i, i < 64 → t.m.lcGet (64 * page + i) = none) := by
  have he := entry_of_last last
  have hpage := last.1
  have step := pageStep_forget (L := s.live) (j := j.unasked) he st still taken mirror
  rw [← op] at step
  obtain ⟨j', kept, piece⟩ := pagePiece_ends (acc := j.acc) last on (by omega) (fun _ => shared) step
  have parts := on
  obtain ⟨quiet, latch, job, own, -⟩ := parts
  obtain ⟨intq, fab, -, fills, -⟩ := calm
  obtain ⟨lines, nonUnw, put⟩ := putEnt_eq (s.m.dropPage page) page { e with dic := false } false
  have entry : ((s.m.dropPage page).putEnt page { e with dic := false } false).ent? page = some { e with dic := false } :=
    ent?_putEnt (m := s.m.dropPage page) he _ _
  generalize (s.m.dropPage page).putEnt page { e with dic := false } false = t at piece put entry
  have some : t.requests.any (fun r => r.ofWho (whoJob id) && r.kind == .take) = true := by
    rw [put, ← own]
    exact taking_of_taken taken
  have gone : (s.m.dropPage page).home.fills = [] := by
    have none : s.m.home.fills = [] := fills
    simp [Mach.dropPage, none]
  have clear : (t.agentClear (whoJob id)).Still := still_agentClear (by rw [put]; exact intq) (by rw [put]; exact fab)
    (by rw [put]; exact gone) (by rw [put]; exact mine) some
  have settled : Quiet { s with m := t } := quiet_of_kept quiet (by rw [put]; rfl) (by rw [put]; rfl) (by rw [put]; rfl) (by rw [put]; rfl)
  refine EndsJob.imp (endsJob_of_piece on (exec_runs latch job (p := (0x0C, .forget id)) (by simp [jobCommands]) op) (jobPrep_cached hpage he) piece clear
    (by rw [put]; exact Option.isSome_iff_exists.mpr ⟨j, job⟩) kept.id kept.st kept.retired (by decide) (by decide) (by decide)) fun x left => ?_
  obtain ⟨-, entries, lc⟩ := left.quiet settled
  refine ⟨(ent?_of_lines entries page).trans entry, fun i hi => ?_⟩
  rw [Mach.lcGet, lc, put]
  exact lcGet_dropPage s.m page hi

end

/-! ### Batches -/

section
variable {s : State} {id c : Nat} {j : Job} (runs : JobRuns s id c j) (held : j.held ≠ [])
include runs held

theorem tallyBatch_ends (op : j.op = 0x10) (last : j.prog + 1 = j.len) (first : j.first = none) {b : List Byte} {r : TRec}
    (item : j.item 8 j.prog = (b, false)) (named : tallyRec s.live 2 (s.live.rOwner j.ring) (ofBytes 64 b) = some r)
    (new : s.m.tally.coal.find? r.line = none) (room : s.m.coalVictim r.line = none) (later : s.m.tally.direct.contains (r.line / 2 ^ 22) = false) :
    EndsJob (.tallyBatch id) s id 0 (j.len % 2 ^ 48) (fun t => (t.m.tally.coal.find? r.line).isSome = true) := by
  have pooled := pooled_coalPut s.m r
  obtain ⟨j', kept, piece⟩ := tallyBatchPiece_last (j := j.unasked) held last first item named
    (coalAdd_new s.live runs.2.2.2.1 new room later)
  generalize s.m.coalPut r = t at pooled piece
  have settled : Quiet { s with m := t } := quiet_of_kept runs.1.1 pooled.raised pooled.scb (by rw [pooled.pwr]) pooled.mcs
  refine EndsJob.imp (endsJob_piece runs (by simp [jobCommands]) op (jobPrep_other (by omega))
    ⟨j', kept, (pieceOf_tallyBatch (j := j.unasked) op).trans piece⟩ pooled.home pooled.dqu (by decide) (by decide) (by decide)) fun x left => ?_
  rw [(left.quiet settled).1]
  exact pooled.coal

theorem tallyRead_ends (op : j.op = 0x11) (dst : j.dstDpa = false) (short : j.len - j.prog ≤ 128) {w : Nat}
    (hw : w = if (tallyTab s.live (s.live.rOwner j.ring)).any (·.pair) then 16 else 8) {items : List (List Byte × Bool)}
    (hi : items = (List.range (j.len - j.prog)).map (fun i => j.item w i)) (sound : items.all (fun x => !x.2) = true) :
    EndsJob (.tallyRead id) s id 0 (j.len % 2 ^ 48) (fun t => t.m.host (hostKey s.live j.ring) =
      Memory.putAll hostBg (s.m.host (hostKey s.live j.ring)) ((j.dst + w * j.prog) % 2 ^ 64) (items.flatMap (·.1))) := by
  obtain ⟨j', kept, piece⟩ := tallyReadPiece_last (L := s.live) (m := s.m) (j := j.unasked) held dst short hw hi sound
  exact endsJob_host runs (by simp [jobCommands]) op (by decide) ⟨j', kept, (pieceOf_tallyRead (j := j.unasked) op).trans (by simpa using piece)⟩
    (by decide) (by decide) (by decide)

variable {x : StnTab} (table : j.table s.live = some x)
include table

theorem strain_ends (op : j.op = 0x14) (first : j.first = none) (dst : j.dstDpa = false) (all : j.len ≤ j.res.length / (8 + x.vlen)) :
    EndsJob (.strain id) s id 0 (j.acc % 2 ^ 48) (fun t => t.m.host (hostKey s.live j.ring) =
      Memory.putAll hostBg (s.m.host (hostKey s.live j.ring)) (j.dst % 2 ^ 64) j.res) := by
  obtain ⟨j', kept, piece⟩ := strainPiece_write (L := s.live) (m := s.m) (j := j.unasked) table held dst first all
  exact endsJob_host runs (by simp [jobCommands]) op (by decide) ⟨j', kept, (pieceOf_strain (j := j.unasked) op).trans (by simpa using piece)⟩
    (by decide) (by decide) (by decide)

/-- An item of a strainer table that completes ends its batch, the last one. -/
theorem edit_ends {op : Nat} {i : Instr} (hp : (op, i) ∈ jobCommands id) (hop : j.op = op) (data : ¬ (8 ≤ op ∧ op ≤ 12)) {insert : Bool}
    (named : pieceOf s.live j.unasked s.m = strainEdit s.live insert j.unasked s.m)
    (last : j.prog + 1 = j.len) (first : j.first = none) (alone : editsOf s.live s.m x id = []) {it : List Byte}
    (item : j.item (if insert then x.klen + x.vlen else x.klen) j.prog = (it, false)) {q : Item} {n : Nat} {m' : Mach}
    (done : (if insert then stnInsert s.live (stnAgent s.live j) x (liveLookups s.live s.m x) (it.take x.klen) (it.drop x.klen) 0 s.m
      else stnDelete s.live (stnAgent s.live j) x (liveLookups s.live s.m x) it 0 s.m) = .ok q n m') (edited : Edited s.m m') :
    EndsJob i s id q.status ((if q = .ok then j.len else j.prog) % 2 ^ 48) (fun t => t.m.strn = m'.strn) := by
  obtain ⟨on, calm⟩ := runs
  have parts := on
  obtain ⟨-, latch, job, mine, -⟩ := parts
  subst mine
  obtain ⟨j', kept, piece⟩ := strainEdit_last (j := j.unasked) table held last first alone item done
  rw [Job.unasked_len, Job.unasked_prog, Job.unasked_id] at piece
  obtain ⟨strn, noted⟩ := itemNoted_strn_stood m' s.live insert q x (whoJob j.id) (liveLookups s.live s.m x)
  generalize m'.itemNoted s.live insert q x (whoJob j.id) (liveLookups s.live s.m x) = t at piece strn noted
  have stood : Stood s.m t := (Stood.of_edited edited).trans noted
  have idle := stood.still (still_of_calm calm)
  have clear : (t.agentClear (whoJob j.id)).Still := by
    rw [agentClear_still idle]
    exact ⟨idle.intq, idle.fab, idle.trk, idle.fills⟩
  have status : q.status ≠ 5 ∧ q.status ≠ 6 ∧ q.status ≠ 10 := by
    cases q <;> decide
  obtain ⟨h5, h6, h10⟩ := status
  refine EndsJob.imp (endsJob_of_piece on (exec_runs latch job hp hop) (jobPrep_other (hop ▸ data)) (named.trans piece) clear
    (stood.job (Option.isSome_iff_exists.mpr ⟨j, job⟩)) kept.id kept.st kept.retired h5 h6 h10) fun t left => ?_
  exact left.strn.trans strn

end

end Sys2Proof.Machine
end

section
/-! PROOFS. O54: jobs and page commands (R152, R171, R205, R224, R237, R239, R386-R388, R391, R395, R418). -/

namespace Sys2Proof.Machine

/-- What each command of an operation does, by the work of its job (R152, R224, R395). -/
theorem command_runs {s : State} {id c : Nat} {j : Job} (latch : s.latch = false) (job : s.m.job? id = some j) (running : j.st = .running c)
    (lent : s.m.chn.lent.find? c = none) : ∀ p ∈ jobCommands id, j.op = p.1 →
      exec p.2 s = .next (settle { s with m := runJob s.live false j.fuel id s.m }) ∧
      (j.stale = true → exec p.2 s = .next (settle { s with m := stopJob s.live s.m id 6 })) ∧
      (∀ st r j' m', j.stale = false → j'.id = id →
        runWork s.live (whoJob id) (pieceWork s.live j) askRounds (jobPrep s.live j s.m) = (some (.ended st r, j'), m') →
        (j'.retired = false ∨ 2 < st →
          exec p.2 s = .next (settle { s with m := endJob s.live ((m'.setJob { j' with asked := 0 }).pumpAll s.live) id st (r % 2 ^ 48) })) ∧
        (j'.retired = true → st ≤ 2 →
          exec p.2 s = .next (settle { s with m := endJob s.live ((m'.setJob { j' with asked := 0 }).pumpAll s.live) id 7 j'.stopResult }))) ∧
      (∀ m', j.stale = false → runWork s.live (whoJob id) (pieceWork s.live j) askRounds (jobPrep s.live j s.m) = (none, m') →
        exec p.2 s = .next (settle { s with m := m' })) := by
  intro p hp op
  have runs := exec_runs latch job hp op
  refine ⟨runs, fun stale => ?_, fun st r j' m' fresh own work => ?_, fun m' fresh work => ?_⟩
  · rw [runs, runJob_stale job running stale]
  · rw [runs, runJob_worked job running fresh lent own work]
    refine ⟨fun sound => ?_, fun retired good => ?_⟩
    · rw [if_neg (by rintro ⟨retired, good⟩; simp [retired] at sound; omega)]
    · rw [if_pos ⟨retired, good⟩]
  · rw [runs, runJob_waits job running fresh lent work]

section
variable {s : State} {id c : Nat} {j : Job} (runs : JobRuns s id c j) (held : j.held ≠ []) {x : StnTab} (table : j.table s.live = some x)
include runs held table

theorem strainInsert_ends (op : j.op = 0x15) (last : j.prog + 1 = j.len) (first : j.first = none) (alone : editsOf s.live s.m x id = [])
    {it : List Byte} (item : j.item (x.klen + x.vlen) j.prog = (it, false)) {q : Item} {n : Nat} {m' : Mach}
    (done : stnInsert s.live (stnAgent s.live j) x (liveLookups s.live s.m x) (it.take x.klen) (it.drop x.klen) 0 s.m = .ok q n m') :
    EndsJob (.strainInsert id) s id q.status ((if q = .ok then j.len else j.prog) % 2 ^ 48)
      (fun t => t.m.strn = m'.strn) := by
  have edited := edits_insert s.live (stnAgent s.live j) x (.refl s.m) (liveLookups s.live s.m x) (it.take x.klen) (it.drop x.klen) 0
  rw [done] at edited
  exact edit_ends runs held table (by simp [jobCommands]) op (by decide) (insert := true) (pieceOf_strainInsert (j := j.unasked) op) last first alone
    item ((if_pos rfl).trans done) edited

theorem strainDelete_ends (op : j.op = 0x16) (last : j.prog + 1 = j.len) (first : j.first = none) (alone : editsOf s.live s.m x id = [])
    {it : List Byte} (item : j.item x.klen j.prog = (it, false)) {q : Item} {n : Nat} {m' : Mach}
    (done : stnDelete s.live (stnAgent s.live j) x (liveLookups s.live s.m x) it 0 s.m = .ok q n m') :
    EndsJob (.strainDelete id) s id q.status ((if q = .ok then j.len else j.prog) % 2 ^ 48)
      (fun t => t.m.strn = m'.strn) := by
  have edited := edits_delete s.live (stnAgent s.live j) x (.refl s.m) (liveLookups s.live s.m x) it 0
  rw [done] at edited
  exact edit_ends runs held table (by simp [jobCommands]) op (by decide) (insert := false) (pieceOf_strainDelete (j := j.unasked) op) last first alone
    item ((if_neg (by simp)).trans done) edited

end

end Sys2Proof.Machine

namespace Sys2Proof

open Machine

/-- Settles O54: a command runs its job's pieces; each operation's last piece is followed to its end and through the settling of the step, with
nothing at the home; and a page answers by the state of its entry. -/
theorem jobsAndPageCommands : Obligations.JobsAndPageCommands := by
  unfold Obligations.JobsAndPageCommands
  refine ⟨fun id c j s => ⟨fun quiet latch job own running lent => ⟨?_, ?_, ?_, ?_, ?_⟩, ?_, ?_⟩, fun L m j page e he moving => ⟨?_, ?_, ?_, ?_, ?_, ?_, ?_, ?_⟩⟩
  · exact command_runs latch job running lent
  · intro op j2 there
    have cmd := exec_cultureTrain latch job running op
    rw [there] at cmd
    exact ⟨fun plain => cmd.trans (trainEnd_plain _ plain), fun r st op2 staged => cmd.trans (trainEnd_stages _ st op2 staged)⟩
  · exact exec_scrubRange latch job
  · exact exec_checkpoint latch job
  · intro st r calm h5 h6 h10
    obtain ⟨⟨⟨j2, there, ended, slot⟩, off⟩, -⟩ := endJob_still s.live (still_of_calm calm) job (over_running running) h5 h6 h10 (r := r)
    exact ⟨j2, there, ended, slot, off⟩
  · intro on calm mine page e last taken op st shared mirror still
    exact forget_ends on calm mine last taken op st shared mirror still
  · intro runs k src dst hk hsrc hdst
    subst hk hsrc hdst
    refine ⟨fun op src dst => ⟨copy_ends runs op src dst, fun long ring rec kept => copy_checkpoint runs op src dst (by omega) long ring rec kept⟩,
      fun op dst short => fill_ends runs op dst short, ?_, ?_, ?_, ?_, ?_, ?_, ?_, ?_⟩
    · intro op src first short b seed hb hseed
      subst hb hseed
      exact checksum_ends runs op src first short
    · intro op src dst prog wrote coder loadCnt aux start ends plain
      have b : j.Begins := ⟨src, dst, prog, wrote, coder, loadCnt, aux, start⟩
      rw [prog, Nat.add_zero, Nat.add_zero]
      refine ⟨fun none room => compress_empty runs b op plain ends none room, fun some short e out coded => ⟨?_, ?_, ?_⟩⟩
      · exact fun room => compress_overflow runs b op plain ends some short coded room
      · exact fun room long => compress_noShrink runs b op plain ends some short coded room long
      · exact fun room shrunk => compress_coded runs b op plain ends some short coded room shrunk
    · intro op src dst prog wrote coder loadCnt aux start short d j' m' loop free
      have b : j.Begins := ⟨src, dst, prog, wrote, coder, loadCnt, aux, start⟩
      rw [prog, Nat.add_zero]
      exact decompress_ends runs b op loop free
    · intro op check src
      exact train_ends runs op check src rfl
    · intro page e last
      refine ⟨promote_ends runs last, demote_ends runs last, pin_ends runs last, unpin_ends runs last, ?_⟩
      intro op there leave a b m1 done
      exact scrub_ends runs last op there leave done
    · intro op held last first b r item named new room later
      exact tallyBatch_ends runs held op last first item named new room later
    · intro op held dst short w items hw hi sound
      exact tallyRead_ends runs held op dst short hw hi sound
    · intro x table held
      refine ⟨strain_ends runs held table, fun last first alone it a n m' q ha => ?_⟩
      subst ha
      refine ⟨fun op item done => ?_, fun op item done => ?_⟩
      · have ends := strainInsert_ends runs held table op last first alone item done
        cases q <;> exact ends
      · have ends := strainDelete_ends runs held table op last first alone item done
        cases q <;> exact ends
  · exact fun op forget st => pageStep_retired forget st
  · exact fun h2 h5 => pageStep_promote_done h2 moving h5
  · exact fun st => ⟨_, pageStep_promote_cellar st, moveOf_queueMove ..⟩
  · exact fun st => ⟨pageStep_demote_pinned st, pageStep_pin_pinned st, _, pageStep_unpin_pinned st, ent?_flip (m := m.pinned (m.led.pinned - 1)) he _,
      pinned_flip ..⟩
  · exact fun st => ⟨_, _, pageStep_demote_done st, he⟩
  · exact fun h4 h5 => pageStep_unpin_done moving h4 h5
  · intro st none
    exact ⟨fun room => ⟨_, pageStep_pin_hot st none room, ent?_flip he _, congrArg (· + 1) (pinned_flip ..)⟩, fun full => pageStep_pin_full st none full⟩
  · intro p hp scrub
    exact ⟨pagePiece_denied hp, fun reach made flat => pagePiece_flat hp reach made flat⟩

end Sys2Proof
end
